-- ==== Sys2Proof/Syntax.lean ====
section
/-! DEFINITION. The commands the module takes: one constructor of `Instr` per row of
spec/opcode_table.json, with the operands the rules of spec/ give each row. -/

namespace Sys2Proof

/-- A logical tile, 0 to 47 (R7). -/
abbrev TileId := Fin 48
/-- A stack H00 to H23. -/
abbrev StackId := Fin 24
/-- A host ring pair, 0 to 63 (R366). -/
abbrev RingId := Fin 64

/-- A core: its logical tile and its number within the tile (Table SCP-5). -/
structure CoreId where
  tile : TileId
  core : Fin 16
  deriving DecidableEq, Repr

/-- The requesters that reach the register region (R455): the host, the host through the window of R457 at a block that the window
closes, and firmware. -/
inductive Requester where
  | host | window | firmware
  deriving DecidableEq, Repr

/-- A DMA channel (Table DMA-1). -/
inductive Engine where
  | tile (t : TileId) (ch : Fin 32)
  | die (s : StackId) (ch : Fin 4)
  | host (ch : Fin 64)
  deriving DecidableEq, Repr

/-- A memory device behind a base die: a stack, or package D(2s + k) of stack Hs (R11). -/
inductive MemDev where
  | stack (s : StackId)
  | package (s : StackId) (k : Fin 2)
  deriving DecidableEq, Repr

/-- The three MCTP media (R422). -/
inductive Medium where
  | vdmP0 | vdmP1 | i3c
  deriving DecidableEq, Repr

/-- A link that retries flits: link `dir` of a tile on the mesh, or a Span port (Table LNK-3). -/
inductive Link where
  | mesh (t : TileId) (dir : Fin 4)
  | span (k : Fin 3)
  deriving DecidableEq, Repr

/-- A block that holds a snapshot latch (Table MGT-8). -/
inductive SnapBlock where
  | tile (t : TileId)
  | die (s : StackId)
  | timebase | samovar | link | hostInterface | turnstile
  deriving DecidableEq, Repr

/-- One carousel entry (Table PRG-7). FLAGS bit 0 COLLECTIVE, bit 1 COMMIT, bit 2 NO_LOG. -/
structure PhaseEntry where
  earliest : BitVec 32
  deadline : BitVec 32
  tiles    : BitVec 48
  envelope : BitVec 16
  flags    : BitVec 16
  /-- bytes 18 to 31, reserved -/
  reserved : BitVec 112
  deriving DecidableEq, Repr

/-- A device table entry (R125): [15:0] MODULE, [21:16] TILE, [31:22] reserved. -/
structure MeshEntry where
  module   : BitVec 16
  tile     : BitVec 6
  reserved : BitVec 10
  deriving DecidableEq, Repr

/-- The device an entry names: module index and logical tile. -/
def MeshEntry.device (e : MeshEntry) : Nat × Nat := (e.module.toNat, e.tile.toNat)

/-- A device mesh (R125): axis extents and, by ordinal, the device table. -/
structure Mesh where
  extents : List Nat
  table   : List MeshEntry
  deriving DecidableEq, Repr

/-- The devices of a mesh by ordinal. -/
def Mesh.devices (m : Mesh) : List (Nat × Nat) := m.table.map MeshEntry.device

/-- Pinned weights of the placement section: the record run they come from, in the stack-local
region of a stack, and where the converted weights lie (R275, R331). -/
structure Pinned where
  stack   : StackId
  offset  : Nat
  records : Nat
  tensor  : BitVec 16
  fmt     : BitVec 4
  dest    : Nat
  scale   : Nat
  deriving DecidableEq, Repr

/-- A job image as the module reads it (Table PRG-1). The manual gives the sections and not their
byte form, so the image is an operand of the load. `settings` are the register values that the job
load writes; `tensors`, `formats`, `contexts` and `lists` hold the records byte for byte. -/
structure JobImage where
  readable   : Bool
  order      : BitVec 16
  modRev     : BitVec 8
  digest     : BitVec 32
  stateDigest : BitVec 32
  code       : List (CoreId × List Word)
  preloads   : List (Nat × List Byte)
  scratch    : List (TileId × Nat)
  tiles      : BitVec 48
  settings   : List (Nat × Word)
  period     : BitVec 32
  carousel   : List PhaseEntry
  tensors    : List (List Byte)
  tensorTile : List (Nat × TileId)
  meshes     : List Mesh
  modules    : List (Nat × Nat)
  formats    : List (Nat × List Byte)
  contexts   : List (Nat × List Byte)
  pools      : List (Nat × Nat)
  lists      : List (StackId × List (List Byte))
  pinned     : List Pinned
  widths     : List (Nat × Nat)
  deriving DecidableEq, Repr

/-- One section of a configuration image, as its header describes it (Table HST-10): TYPE, IFACE, SHA-384 and bytes. -/
structure Section where
  type  : Nat
  iface : BitVec 16
  digest : BitVec 384
  body  : List Byte
  deriving DecidableEq, Repr

/-- The bytes of a configuration image: the header of Table HST-10, the parts of the signature block and the rest of it, and the
body. Every field of the header is read from its bytes. -/
structure ConfigImage where
  header  : List Byte
  ecdsaKey : List Byte
  ecdsaSig : List Byte
  lmsKey  : List Byte
  lmsSig  : List Byte
  sigRest : List Byte
  body    : List Byte
  deriving DecidableEq, Repr

/-- A transport packet (Table LNK-7), with its payload and CRC. `count` is the COUNT that travels
in the payload of the first segment. `plane` is 0-15 for Ethernet, 16-18 for Span, 19 for the mesh;
`tile` is the receiving tile, which the mesh of COLL_ID's descriptor names. -/
structure Packet where
  version : BitVec 8
  type    : BitVec 8
  sender  : BitVec 16
  job     : BitVec 32
  collId  : BitVec 32
  step    : BitVec 32
  from_   : BitVec 16
  to_     : BitVec 16
  segment : BitVec 32
  seq     : BitVec 32
  poison  : BitVec 8
  kind    : BitVec 8
  fmt     : BitVec 8
  count   : Option (BitVec 32)
  payload : List Byte
  crc     : BitVec 32
  plane   : Nat
  tile    : TileId
  /-- the packet arrived with an ECN congestion mark (Table LNK-2) -/
  ce      : Bool
  deriving DecidableEq, Repr

/-- One part of a verdict (R321): the counts, or a run of 1,024 norm slots; contributed by a module
to its owner, or summed and sent to every module. -/
inductive VerdictPart where
  | counts (nonfinite withheld : BitVec 64)
  | slots (first : Nat) (vals : List (BitVec 32))
  deriving DecidableEq, Repr

/-- A VERDICT packet: the sender, the step, whether the part is summed, and the part; the plane it arrives on, and whether with an ECN
congestion mark (Table LNK-2). -/
structure VerdictMsg where
  sender : BitVec 16
  job    : BitVec 32
  step   : BitVec 32
  summed : Bool
  part   : VerdictPart
  plane  : Nat
  ce     : Bool
  deriving DecidableEq, Repr

/-- What a Span port meets while it trains (R300, R301, R445): the receive lanes whose signal is sound, those that arrive inverted, the
transmit lane of the peer that reaches each receive lane, and the position and port number the peer sends. -/
structure SpanTraining where
  sound    : BitVec 32
  inverted : BitVec 32
  wiring   : List Nat
  peerPos  : BitVec 2
  peerPort : BitVec 2
  deriving DecidableEq, Repr

/-- A scan of the boundary register over the contacts of SB, HA and HB (R448, IEEE 1149.1): the instruction, the levels at the contacts,
and the bits that are shifted in. -/
inductive BoundaryOp where
  | extest | sample | preload
  deriving DecidableEq, Repr

structure BoundaryScan where
  op : BoundaryOp
  levels : List Bool
  shifted : List Bool
  deriving DecidableEq, Repr

/-- One RDMA request of a peer (R306, R373). -/
inductive RdmaOp where
  | write (addr : Nat) (data : List Byte)
  | read (addr len : Nat)
  | send (data : List Byte)
  deriving DecidableEq, Repr

/-- A request as it arrives: with the congestion mark of Table LNK-2, or without. -/
structure RdmaPacket where
  op : RdmaOp
  ce : Bool
  deriving DecidableEq, Repr

/-- A pulse's arrival: the tile it comes from over the panel mesh, none for one from another module of the board, and the tile that it
reaches. -/
structure PulseWay where
  src  : Option TileId
  tile : TileId
  deriving DecidableEq, Repr

/-- Data of a fill (R344): the header, or one record of 512 bytes in walk order. -/
inductive FillItem where
  | header (list : List Byte) (formats : List Byte) (lossScale : Word)
  | record (data : List Byte)
  deriving DecidableEq, Repr

/-- The commands and events of the module, one constructor per row of spec/opcode_table.json. -/
inductive Instr where
  -- Programs, beats and phases
  | issue (c : CoreId) (queue : BitVec 4) (space : Bool) (offset : BitVec 32)
  | issueQueueRoom (c : CoreId)
  | waitEv (c : CoreId) (ev : BitVec 8) (count : BitVec 16)
  | waitEvGrant (t : TileId) (ev : BitVec 8)
  | pulse (c : CoreId) (ev : BitVec 8) (target : BitVec 2) (pos : BitVec 2) (tile : BitVec 6)
  | pulseArrive (t : PulseWay) (ev : BitVec 8)
  | evWaitLimitExpire (c : CoreId)
  | waitBeat (c : CoreId) (offset : BitVec 32)
  | waitBeatRelease (c : CoreId)
  | phaseBegin (c : CoreId) (phase : BitVec 12)
  | phaseGrant (t : TileId) (phase : BitVec 12)
  | phaseEnd (c : CoreId) (phase : BitVec 12)
  | loop (c : CoreId) (count : BitVec 16) (target : BitVec 15)
  | jump (c : CoreId) (target : BitVec 15)
  | drain (c : CoreId) (mask : BitVec 4)
  | drainRelease (c : CoreId)
  | halt (c : CoreId)
  | completionPulse (c : CoreId) (queue : Fin 4)
  | sync
  | syncArm (r : Requester)
  | beatLoss
  | beatReturn
  | slew (r : Requester) (amount : BitVec 16)
  | slewAdd (amount : BitVec 16) (apply : Word)
  | slewBeat
  | ptpEventMessage (port : Fin 16) (frac : Byte) (offset : BitVec 32)
  | carouselStart (r : Requester)
  | carouselStop (r : Requester)
  | envelopeDeclare (phase : BitVec 12)
  -- Arithmetic
  | nanTrapClear (r : Requester) (c : CoreId)
  | matrixOperation (c : CoreId)
  | weightTileSwap (c : CoreId)
  | convolution (c : CoreId)
  | combine (c : CoreId)
  | maxPooling (c : CoreId)
  | averagePooling (c : CoreId)
  | merge (c : CoreId)
  | precondition (c : CoreId)
  | attention (c : CoreId)
  -- Contexts
  | walkerStart (c : CoreId) (entry : Nat)
  | scuOpen (c : CoreId)
  | scuClose (c : CoreId)
  | scuAppend (c : CoreId)
  | scuTruncate (c : CoreId)
  | scuAdvance (c : CoreId)
  | scuPark (c : CoreId)
  | scuResume (c : CoreId)
  | scuSet (c : CoreId)
  | pageMoveComplete (ctx : BitVec 20)
  | stalledEditApply (t : TileId)
  | quarantineRelease (t : TileId)
  -- DMA
  | transfer (e : Engine)
  | gather (e : Engine)
  | scatter (e : Engine)
  | scatterAdd (e : Engine)
  | windowLoad (e : Engine)
  | compress (e : Engine)
  | expand (e : Engine)
  | scrub (e : Engine)
  | invalidate (c : CoreId)
  | chainNextFetch (e : Engine)
  | firmwareChannelStart (r : Requester) (e : Engine) (head : Word)
  | abortRequest (r : Requester) (e : Engine) (moved : Nat)
  -- Collectives and links
  | reduceScatter (c : CoreId)
  | allGather (c : CoreId)
  | allReduce (c : CoreId)
  | broadcast (c : CoreId)
  | segmentFold (c : CoreId) (segment : Nat)
  | dataPacket (p : Packet)
  | ackPacket (p : Packet)
  | creditPacket (p : Packet)
  | verdictPacket (v : VerdictMsg)
  | retransmitTimeout (peer : BitVec 16) (plane : Nat) (seq : BitVec 32)
  | flitCrcError (l : Link)
  | linkRetrain (l : Link)
  | linkTraining (k : Fin 3) (r : SpanTraining)
  | peerSilent (peer : BitVec 16) (plane : Nat)
  | silentPeerReport (peer : BitVec 16) (plane : Nat)
  | lnkFaultEpoch (r : Requester) (epoch : BitVec 32)
  | rdmaRequest (qpn : BitVec 12) (rkey : BitVec 32) (op : RdmaPacket)
  | arpRequest (port : Option (Fin 16)) (addr : BitVec 128)
  -- The step
  | verdictWarnExpire
  | abandon (r : Requester)
  | infuserWalkComplete
  | ckptArm (r : Requester) (step : BitVec 32)
  | captureRecordCopy (s : StackId)
  | ckptRelease (r : Requester)
  | holdReq (r : Requester)
  | go (r : Requester)
  | haltJob (r : Requester)
  | spareSiteSwap (band : Fin 4) (pos : Fin 13)
  | fillStart (r : Requester) (s : StackId)
  | fillStop (r : Requester) (s : StackId)
  | fillData (s : StackId) (item : FillItem)
  | sourceLost (s : StackId)
  | fieldBypassRequest (r : Requester) (c : CoreId) (a : Fin 4) (mask : Word)
  -- Memory
  | thermalReading (s : StackId) (stack pkg0 pkg1 : Byte)
  | haltLimitExpire (d : MemDev)
  | maintArm (r : Requester) (d : MemDev) (value : Word)
  | maintenanceWindowOpen (d : MemDev)
  | maintenanceWindowEnd (d : MemDev)
  | maintenanceWindowLimit (d : MemDev)
  | readSpareRows (r : Requester) (d : MemDev) (pc bank : BitVec 6)
  | sppr (r : Requester) (d : MemDev) (pc bank : BitVec 6) (row : BitVec 18)
  | hppr (r : Requester) (d : MemDev) (pc bank : BitVec 6) (row : BitVec 18)
  | retireRange (d : MemDev) (range : BitVec 15) (cause : BitVec 8)
  -- Host rings
  | sqDoorbell (q : RingId) (tail : BitVec 16)
  | cqDoorbell (q : RingId) (head : BitVec 16)
  | ringEnable (q : RingId) (value : Word)
  | commandFetch (q : RingId) (failed : Bool)
  | cqTimerExpire (q : RingId)
  | nop (q : RingId)
  | loadJob (q : RingId) (img : JobImage)
  | resumeLoad (q : RingId) (img : JobImage)
  | copy (q : RingId)
  | qpSet (q : RingId)
  | qpDestroy (q : RingId)
  | mrSet (q : RingId)
  | mrClear (q : RingId)
  | stageImage (q : RingId) (img : List Byte)
  | updateApply (q : RingId)
  | updateDeclareProven (q : RingId)
  | updateRevert (q : RingId)
  | updateDiscard (q : RingId)
  | sectionApply (type : Fin 16)
  | flashImageWriteComplete
  | perst (port : Fin 2)
  | linkWaitExpire (port : Fin 2)
  | modrstAssert
  | modrstRelease (boardPos : BitVec 2) (slotId : BitVec 3)
  | ready (ms : BitVec 32) (failed : List (Nat × Nat))
  -- Attestation
  | getVersion (m : Medium)
  | getCapabilities (m : Medium)
  | negotiateAlgorithms (m : Medium) (p384 sha384 : Bool)
  | getDigests (m : Medium)
  | getCertificate (m : Medium) (slot : Nat)
  | challenge (m : Medium) (nonce : BitVec 256)
  | getMeasurements (m : Medium) (nonce : BitVec 256)
  | hssSignatureRequest (m : Medium)
  | signaturesLeftRequest (m : Medium)
  | bottomTreeBuildComplete
  -- Management
  | setEndpointId (m : Medium) (eid : Byte)
  | getEndpointId (m : Medium)
  | getEndpointUuid (m : Medium)
  | getMctpVersionSupport (m : Medium) (type : Byte)
  | getMessageTypeSupport (m : Medium)
  | getTid (m : Medium)
  | setTid (m : Medium) (tid : Byte)
  | getPldmVersion (m : Medium) (type : Byte)
  | getPldmTypes (m : Medium)
  | getPldmCommands (m : Medium) (type : Byte)
  | getSensorReading (m : Medium) (sensor : Nat)
  | getPdrRepositoryInfo (m : Medium)
  | getPdr (m : Medium) (handle : Nat)
  | setEventReceiver (m : Medium) (eid : Byte)
  | queryDeviceIdentifiers (m : Medium)
  | getFirmwareParameters (m : Medium)
  | requestUpdate (m : Medium)
  | passComponentTable (m : Medium)
  | updateComponent (m : Medium)
  | requestFirmwareDataResponse (m : Medium) (data : List Byte) (last : Bool)
  | activateFirmware (m : Medium) (selfContained : Bool)
  | getStatus (m : Medium)
  | cancelUpdate (m : Medium)
  | subscribe (m : Medium) (eid : Byte) (bits : BitVec 3)
  | readFlashLog (m : Medium) (seq : BitVec 32)
  -- Power
  | inputSample (millivolts : Int) (centiamps : Nat)
  | undervolt
  | overvolt
  | drawWindow (draw ballast : BitVec 16) (freeCycles : Bool)
  | clockStepUp
  | floorHoldLimitExpire
  | forecast
  | parkRequest (r : Requester)
  | readyRequest (r : Requester)
  | unparkComplete
  | throtFall
  | throtRise
  | tileThermalReading (diodes : List Byte)
  | coolantReading (flow inlet outlet : Option (BitVec 16))
  | shutdownMemoryOff
  | shutdownRegulatorsOff
  | standbyReached
  -- Ringmaster, counters and snapshots
  | lockstepMismatch (parity : Bool)
  | watchdogExpire
  | watchdogKick (r : Requester)
  | warmRestartComplete
  | sensorReading (sensor : Nat) (value : Option Int)
  | eventLogAppend
  | flashLogCopy
  | mcWrite (r : Requester) (tile : Option TileId) (n : Fin 128) (value : Word) (added : Nat)
  | snapshotFire (r : Requester)
  | snapLSampled
  | matchArm (r : Requester)
  | beatMatch
  | snapshotLatch
  | latchRelease (r : Requester) (b : SnapBlock)
  | release (r : Requester)
  | snapshotAutoSave
  | seal (r : Requester)
  | halfReadLatch (r : Requester) (reg : Nat)
  | registerWrite (r : Requester) (reg : Nat) (enables : Byte) (value : Word)
  -- Turnstile
  | intake (c : CoreId)
  | intakeDispatch
  -- JTAG, input power and link events
  | extest (scan : BoundaryScan)
  | bypass (tdi : Bool)
  | idcode
  | inputPowerApplied
  | inputPowerLoss
  | ethernetLinkDown (k : Fin 16)
  | ethernetLinkUp (k : Fin 16)
  | pcieLinkDown (port : Fin 2)
  | pcieLinkUp (port : Fin 2)
  | linkRetrainComplete (l : Link) (ok : Bool)
  | snapshotDumpComplete
  deriving DecidableEq, Repr

end Sys2Proof
end

