-- ==== Sys2Proof/Config.lean ====
section
/-! DEFINITION. What the manual leaves to the implementation or does not state: opaque constants, which
no proof can evaluate. Each is named in the assumption log. -/

namespace Sys2Proof

/-- The events of Table MGT-3, class by class. The manual numbers the classes and not the events. -/
inductive EventKind where
  | restart | lost | updateState | watchdog
  | tileStop | nanCapture | integrity | dmaAbort
  | thermalLevel | uncorrectable | repair | retirement | repairExhausted
  | linkRetrain | degraded | miswire | silentPeer
  | capChange | throtEdge | floorShort | coolantDerate | shutdownCause
  | syncSlip | holdoverEntered | holdoverLeft | recordDropped
  | stepSkipped | stepWithheld | lateVerdict
  | thresholdCrossed
  | capture | triggerIgnored
  | counterSaturated
  deriving DecidableEq, Repr

/-- The event's number within its class, which the manual does not give (log entry 7). -/
opaque Config.eventNumber : EventKind → BitVec 12

/-- The event's severity, which the manual does not give (log entry 7). -/
opaque Config.eventSeverity : EventKind → Fin 5

/-- Which of the FP32 values within the bound of Table NUM-10 a special-function lane gives: by function
(0 exp2, 1 reciprocal, 2 rsqrt, 3 log2) and operand code (log entry 10). -/
opaque Config.laneChoice : Nat → Nat → Nat

/-- A fresh value that the manual leaves open, by the model's counter `free` (log entry 6). -/
opaque Config.freeValue : Nat → BitVec 64

/-- The direction of a tile's mesh link by its number, 0 north, 1 east, 2 south, 3 west: the manual names four directions and does
not number a tile's links (log entry 18). -/
opaque Config.meshDirection : Equiv.Perm (Fin 4)

/-- Which of the tile DMA channels 16 to 23 carries a walker's stream, less 16, by core (16 × tile + core) and entry: the manual
gives these channels to the slice's streams and assigns none (log entry 61). -/
opaque Config.streamChannel : Nat → Nat → Fin 8

/-- Spare rows of a bank as delivered: by device (stack s, 24 + package) and pc × 64 + bank (log entry 20). -/
opaque Config.spareRows : Nat → Nat → Fin 16

/-- The manufacturing repairs in the fuses of a device as delivered: pc × 64 + bank, and row (log entry 20). -/
opaque Config.shippedRepairs : Nat → List (Nat × Nat)

/-- The 2 MiB range of offsets that holds a DRAM row: by device, pseudo-channel or channel, bank and row. The manual keeps every row
within one range and gives no place to a row (log entry 20). -/
opaque Config.rowRange : Nat → Nat → Nat → Nat → BitVec 15

/-- SHA-384, which the manual takes from its standard (log entry 21). -/
opaque Config.sha384 : List Byte → BitVec 384

/-- ECDSA P-384 verification: public key, signature, digest (log entry 21). -/
opaque Config.ecdsaVerifies : List Byte → List Byte → BitVec 384 → Bool

/-- LMS verification under RFC 8554: public key, signature, digest (log entry 21). -/
opaque Config.lmsVerifies : List Byte → List Byte → BitVec 384 → Bool

/-- The Alias key's ECDSA signature, by the digests of sections 1 and 2 and the transcript (log entry 21). -/
opaque Config.aliasSign : BitVec 384 → BitVec 384 → BitVec 384 → BitVec 768

/-- The certificate chain of slot 0: Relroth root, DeviceID and Alias, by the digests of sections 1 and 2 (log entry 21). -/
opaque Config.chain : BitVec 384 → BitVec 384 → List Byte

/-- The bytes of the 3,124-byte HSS signature by top leaf, bottom leaf and message (log entry 21). -/
opaque Config.hssSign : Nat → Nat → BitVec 384 → Fin 3124 → Byte

/-- The dynamic address that SETDASA gives to a coolant sensor, by its static address (log entry 103). -/
opaque Config.dynamicAddress : Nat → BitVec 7

/-- The beat of boot stage 3 in which every regulator has reached its voltage (R451, log entry 115). -/
opaque Config.regulatorBeats : Fin 150000000

/-- A word of a snapshot window by block, word and latched contents (log entry 51). -/
opaque Config.snapWord : Nat → Nat → List Nat → BitVec 64

/-- The Device Serial Number, the same at both endpoints (R362, log entry 21). -/
opaque Config.serialNumber : BitVec 64

/-- The endpoint's UUID (log entry 21). -/
opaque Config.uuid : BitVec 128

/-- The digest of a repair map: retired positions, failed and failing tiles, bypass masks and bad pages (log entry 21). -/
opaque Config.repairDigest : List Nat → BitVec 48 → BitVec 48 → List (Nat × Word) → List Word → BitVec 32

/-- A sensor's thresholds (0 warning, 1 critical, 2 fatal) in its unit, by the digests of sections 7 and 8 in force, whose layout
the manual does not give (log entry 23). -/
opaque Config.sensorThreshold : BitVec 384 → BitVec 384 → Nat → Fin 3 → Int

/-- What section 8 of the image, by its digest, writes into PWR_CAP.CAP, PWR_RAMP.RATE, PWR_FLOOR.PCT and HOLD_LIMIT, PWR_THROT.CAP,
PWR_TILE.LIMIT and PWR_COOLANT.FLOW_MIN, the grants it asks for, and whether it asks for a seal; the section's layout is not given (log
entry 23). -/
opaque Config.powerPolicy : BitVec 384 → Fin 7 → BitVec 16
opaque Config.hostGrants : BitVec 384 → BitVec 10
opaque Config.sealAsked : BitVec 384 → Bool

/-- A decoded picture: its size, bit depth, whether each chroma dimension is halved, monochrome, its sample planes
row by row, and whether it is in error (R354, R355, R359). -/
structure Frame where
  width : Nat
  height : Nat
  depth : Nat
  halfX : Bool
  halfY : Bool
  mono : Bool
  y : List Nat
  cb : List Nat
  cr : List Nat
  bad : Bool
  deriving DecidableEq, Repr, Inhabited

/-- A decoded clip: whether every feature it uses is supported, its colour matrix as MATRIX numbers it (0 for absent or
any other), its full-range flag, and its frames in output order. -/
structure Clip where
  supported : Bool
  matrix : Nat
  full : Bool
  frames : List Frame
  deriving DecidableEq, Repr, Inhabited

/-- The decoding of a bitstream under a codec (CODEC of Table VID-5), which the codec standards define and the
manual does not (log entry 19). -/
opaque Config.decodeClip : Nat → List Byte → Clip

end Sys2Proof
end

