-- ==== Sys2Proof/Machine/Regs.lean ====
section
/-! DEFINITION. The register map: every register of Table REG-1's blocks with its fields, access codes
and reset values, from the field tables of spec/, and its offset (R455, R456). A register's key in the
state is its offset from 0x00_3000_0000_0000. -/

namespace Sys2Proof.Machine

/-- Access codes (Table SCP-3). -/
inductive Access where
  | ro | rw | wo | w1c | w1s | rwl
  deriving DecidableEq, Repr

/-- A field: lowest bit, width, access code and reset value. Bits no field covers are reserved (R5). -/
structure FieldRow where
  lo : Nat
  width : Nat
  access : Access
  reset : Nat
  deriving DecidableEq, Repr

/-- A register or a run of them: `count` registers from block offset `off`, `stride` apart. -/
structure RegRow where
  off : Nat
  count : Nat
  stride : Nat
  fields : List FieldRow
  deriving DecidableEq, Repr

/-- The place of a field in its register. -/
structure Fld where
  lo : Nat
  width : Nat
  deriving DecidableEq, Repr

/-- The tile registers, block stride 0x2_0000. -/
def tileRows : List RegRow :=
  [
   -- TL_EV_WDOG, spec/02 Table PRG-4
   ⟨0x400, 1, 8, [⟨0, 16, .rw, 0x1000⟩]⟩,
   -- TL_PFAULT, spec/02 Table PRG-5
   ⟨0x408, 1, 8, [⟨0, 4, .ro, 0⟩, ⟨4, 8, .ro, 0⟩, ⟨12, 4, .ro, 0⟩, ⟨16, 15, .ro, 0⟩, ⟨31, 1, .w1c, 0⟩, ⟨32, 32, .ro, 0⟩]⟩,
   -- TL_IDX_FAULT, spec/06 Table TEN-9
   ⟨0x410, 1, 8, [⟨0, 32, .ro, 0⟩, ⟨32, 5, .ro, 0⟩, ⟨37, 3, .ro, 0⟩, ⟨40, 1, .ro, 0⟩, ⟨41, 1, .w1c, 0⟩]⟩,
   -- TL_IDX_COORD, spec/06 Table TEN-10
   ⟨0x418, 1, 8, [⟨0, 32, .ro, 0⟩]⟩,
   -- TL_IDX_SKIP, spec/06 Table TEN-11
   ⟨0x420, 1, 8, [⟨0, 32, .ro, 0⟩]⟩,
   -- TL_INTEG, spec/10 Table DMA-12
   ⟨0x428, 1, 8, [⟨0, 2, .ro, 0⟩, ⟨2, 1, .w1c, 0⟩, ⟨3, 5, .ro, 0⟩, ⟨8, 4, .ro, 0⟩, ⟨16, 8, .ro, 0⟩, ⟨32, 32, .ro, 0⟩]⟩,
   -- TL_INTEG_ADDR, spec/10 Table DMA-11
   ⟨0x430, 1, 8, [⟨9, 47, .ro, 0⟩]⟩,
   -- TL_PRECOND, spec/11 Table STP-13
   ⟨0x438, 1, 8, [⟨0, 32, .ro, 0⟩, ⟨32, 32, .ro, 0⟩]⟩,
   -- TL_COLL_FAULT, spec/12 Table LNK-13
   ⟨0x440, 1, 8, [⟨0, 32, .ro, 0⟩, ⟨32, 16, .ro, 0⟩, ⟨48, 3, .ro, 0⟩, ⟨51, 1, .w1c, 0⟩]⟩,
   -- SCU_FAULT, spec/08 Table ATT-14
   ⟨0x500, 1, 8, [⟨0, 4, .ro, 0⟩, ⟨4, 4, .ro, 0⟩, ⟨8, 1, .w1c, 0⟩, ⟨32, 32, .ro, 0⟩]⟩,
   -- SCU_FAULT_CTX, spec/08 Table ATT-15
   ⟨0x508, 1, 8, [⟨0, 20, .ro, 0⟩, ⟨32, 32, .ro, 0⟩]⟩,
   -- SCU_QSTAT, spec/08 Table ATT-16
   ⟨0x510, 1, 8, [⟨0, 3, .ro, 0⟩, ⟨3, 1, .ro, 0⟩, ⟨4, 8, .ro, 0⟩, ⟨32, 32, .ro, 0⟩]⟩] ++
  [
   -- SCU_EMPTY_ROWS, spec/08 Table ATT-17
   ⟨0x518, 1, 8, [⟨0, 32, .ro, 0⟩]⟩,
   -- CAD_PART, spec/09 Table MEM-9
   ⟨0x600, 1, 8, [⟨0, 5, .ro, 0⟩]⟩,
   -- CAD_PERR, spec/09 Table MEM-10
   ⟨0x608, 1, 8, [⟨0, 2, .ro, 0⟩, ⟨2, 1, .w1c, 0⟩, ⟨6, 50, .ro, 0⟩, ⟨56, 8, .ro, 0⟩]⟩,
   -- CAD_NC, spec/09 Table MEM-11
   ⟨0x640, 8, 8, [⟨0, 15, .rw, 0⟩, ⟨21, 35, .rw, 0⟩]⟩,
   -- DMA_FLAGS, spec/10 Table DMA-11
   ⟨0x800, 1, 8, [⟨0, 1, .w1c, 0⟩, ⟨1, 1, .w1c, 0⟩, ⟨2, 1, .w1c, 0⟩, ⟨3, 1, .w1c, 0⟩, ⟨4, 1, .w1c, 0⟩]⟩,
   -- DMA_ABORT_BASE, spec/10 Table DMA-11
   ⟨0x808, 1, 8, [⟨9, 47, .rw, 0⟩]⟩,
   -- DMA_IRQ, spec/10 Table DMA-11
   ⟨0x810, 1, 8, [⟨0, 32, .w1c, 0⟩, ⟨32, 1, .w1c, 0⟩]⟩,
   -- DMA_IRQ_EN, spec/10 Table DMA-11
   ⟨0x818, 1, 8, [⟨0, 32, .rw, 0xFFFFFFFF⟩, ⟨32, 1, .rw, 1⟩]⟩,
   -- DMA_CH_STATE, spec/10 Table DMA-13
   ⟨0x900, 32, 0x20, [⟨0, 1, .ro, 0⟩, ⟨1, 1, .ro, 0⟩, ⟨6, 50, .ro, 0⟩]⟩,
   -- DMA_CH_PROGRESS, spec/10 Table DMA-11
   ⟨0x908, 32, 0x20, [⟨0, 40, .ro, 0⟩, ⟨40, 24, .ro, 0⟩]⟩,
   -- DMA_CH_CTL, spec/10 Table DMA-14
   ⟨0x910, 32, 0x20, [⟨0, 1, .wo, 0⟩, ⟨1, 1, .wo, 0⟩, ⟨6, 50, .rw, 0⟩]⟩,
   -- DMA_CH_ABORT, spec/10 Table DMA-11
   ⟨0x918, 32, 0x20, [⟨0, 64, .ro, 0⟩]⟩] ++
  [
   -- TL_MC_SEL, spec/17 Table MGT-10
   ⟨0x1000, 64, 0x10, [⟨0, 12, .rw, 0⟩, ⟨12, 8, .rw, 0xFF⟩, ⟨20, 1, .rw, 0⟩, ⟨21, 1, .rw, 0⟩]⟩,
   -- TL_MC_VAL, spec/17 Table MGT-11
   ⟨0x1008, 64, 0x10, [⟨0, 48, .rw, 0⟩, ⟨48, 1, .w1c, 0⟩]⟩,
   -- TL_SNAP_HDR, spec/17 Table MGT-8
   ⟨0x2000, 1, 8, [⟨0, 1, .w1c, 0⟩, ⟨8, 8, .ro, 0⟩, ⟨16, 48, .ro, 0⟩]⟩]

/-- The core registers. -/
def coreRows : List RegRow :=
  [
   -- CR_NUM_FLAGS, spec/03 Table NUM-9
   ⟨0x300, 1, 8, [⟨0, 1, .w1c, 0⟩, ⟨1, 1, .w1c, 0⟩, ⟨2, 1, .w1c, 0⟩, ⟨3, 1, .w1c, 0⟩, ⟨4, 1, .w1c, 0⟩]⟩,
   -- CR_NAN_CTL, spec/03 Table NUM-14
   ⟨0x308, 1, 8, [⟨0, 2, .rw, 1⟩, ⟨2, 1, .rw, 0⟩]⟩,
   -- CR_NAN_INFO, spec/03 Table NUM-15
   ⟨0x310, 1, 8, [⟨0, 1, .w1c, 0⟩, ⟨1, 2, .ro, 0⟩, ⟨3, 3, .ro, 0⟩, ⟨32, 32, .ro, 0⟩]⟩,
   -- CR_NAN_BEAT, spec/03 Table NUM-13
   ⟨0x318, 1, 8, [⟨0, 64, .ro, 0⟩]⟩,
   -- CR_NAN_OP, spec/03 Table NUM-16
   ⟨0x320, 1, 8, [⟨0, 32, .ro, 0⟩, ⟨32, 4, .ro, 0⟩, ⟨36, 15, .ro, 0⟩]⟩,
   -- CR_NAN_COORD, spec/03 Table NUM-13
   ⟨0x328, 1, 8, [⟨0, 16, .ro, 0⟩, ⟨16, 16, .ro, 0⟩]⟩,
   -- CR_NAN_MORE, spec/03 Table NUM-13
   ⟨0x330, 1, 8, [⟨0, 32, .ro, 0⟩]⟩,
   -- ARR_WIDTH, spec/04 Table ARR-7
   ⟨0x400, 4, 0x40, [⟨0, 7, .ro, 64⟩, ⟨8, 6, .ro, 32⟩, ⟨16, 6, .ro, 32⟩, ⟨24, 1, .ro, 0⟩]⟩,
   -- ARR_BYPASS, spec/04 Table ARR-8
   ⟨0x408, 4, 0x40, [⟨0, 64, .ro, 0⟩]⟩,
   -- ARR_BYPASS_PEND, spec/04 Table ARR-9
   ⟨0x410, 4, 0x40, [⟨0, 64, .w1s, 0⟩]⟩]

/-- The base-die registers. -/
def dieRows : List RegRow :=
  [
   -- HBM_TEMP, spec/09 Table MEM-14
   ⟨0x000, 1, 8, [⟨0, 8, .ro, 0⟩, ⟨8, 2, .ro, 0⟩, ⟨16, 8, .ro, 0⟩, ⟨24, 1, .w1c, 0⟩]⟩,
   -- HBM_THERM_CTL, spec/09 Table MEM-13
   ⟨0x008, 1, 8, [⟨0, 16, .rw, 1000⟩]⟩,
   -- HBM_ERRLOG, spec/09 Table MEM-15
   ⟨0x010, 1, 8, [⟨0, 6, .ro, 0⟩, ⟨6, 6, .ro, 0⟩, ⟨12, 18, .ro, 0⟩, ⟨30, 1, .ro, 0⟩, ⟨32, 1, .w1c, 0⟩, ⟨33, 1, .w1c, 0⟩]⟩,
   -- HBM_REPAIR, spec/09 Table MEM-16
   ⟨0x018, 1, 8, [⟨0, 3, .wo, 0⟩, ⟨4, 6, .rw, 0⟩, ⟨10, 6, .rw, 0⟩, ⟨16, 18, .rw, 0⟩, ⟨34, 2, .ro, 0⟩, ⟨36, 4, .ro, 0⟩]⟩,
   -- HBM_MAINT, spec/09 Table MEM-17
   ⟨0x020, 1, 8, [⟨0, 5, .rw, 0⟩, ⟨5, 2, .rw, 0⟩, ⟨7, 1, .w1s, 0⟩, ⟨8, 1, .w1c, 0⟩, ⟨9, 1, .w1c, 0⟩, ⟨32, 32, .rw, 0⟩]⟩,
   -- DTR_TEMP, spec/09 Table MEM-13
   ⟨0x040, 2, 0x40, [⟨0, 8, .ro, 0⟩, ⟨8, 2, .ro, 0⟩, ⟨16, 8, .ro, 0⟩, ⟨24, 1, .w1c, 0⟩]⟩,
   -- DTR_ERRLOG, spec/09 Table MEM-13
   ⟨0x050, 2, 0x40, [⟨0, 6, .ro, 0⟩, ⟨6, 6, .ro, 0⟩, ⟨12, 18, .ro, 0⟩, ⟨30, 1, .ro, 0⟩, ⟨32, 1, .w1c, 0⟩, ⟨33, 1, .w1c, 0⟩]⟩,
   -- DTR_REPAIR, spec/09 Table MEM-13
   ⟨0x058, 2, 0x40, [⟨0, 3, .wo, 0⟩, ⟨4, 6, .rw, 0⟩, ⟨10, 6, .rw, 0⟩, ⟨16, 18, .rw, 0⟩, ⟨34, 2, .ro, 0⟩, ⟨36, 4, .ro, 0⟩]⟩,
   -- DTR_MAINT, spec/09 Table MEM-13
   ⟨0x060, 2, 0x40, [⟨0, 5, .rw, 0⟩, ⟨5, 2, .rw, 0⟩, ⟨7, 1, .w1s, 0⟩, ⟨8, 1, .w1c, 0⟩, ⟨9, 1, .w1c, 0⟩, ⟨32, 32, .rw, 0⟩]⟩,
   -- INF_ULIST_BASE, spec/11 Table STP-12
   ⟨0x200, 1, 8, [⟨6, 30, .rw, 0⟩]⟩,
   -- INF_ULIST_COUNT, spec/11 Table STP-12
   ⟨0x208, 1, 8, [⟨0, 16, .rw, 0⟩]⟩,
   -- INF_DIE_STATUS, spec/11 Table STP-12
   ⟨0x210, 1, 8, [⟨0, 1, .ro, 0⟩, ⟨1, 1, .w1c, 0⟩]⟩] ++
  [
   -- INF_FROZEN, spec/11 Table STP-12
   ⟨0x218, 1, 8, [⟨0, 48, .ro, 0⟩]⟩,
   -- INF_BAD_LANES, spec/11 Table STP-12
   ⟨0x220, 1, 8, [⟨0, 32, .ro, 0⟩]⟩,
   -- INF_CKPT_STAGE, spec/11 Table STP-12
   ⟨0x228, 1, 8, [⟨9, 47, .rw, 0⟩]⟩,
   -- INF_CKPT_CURSOR, spec/11 Table STP-12
   ⟨0x230, 1, 8, [⟨0, 16, .ro, 0⟩, ⟨16, 32, .ro, 0⟩]⟩,
   -- INF_CKPT_FWD, spec/11 Table STP-12
   ⟨0x238, 1, 8, [⟨0, 32, .ro, 0⟩]⟩,
   -- INF_POISON, spec/13 Table FLT-7
   ⟨0x240, 1, 8, [⟨6, 30, .ro, 0⟩, ⟨36, 1, .w1c, 0⟩, ⟨37, 1, .ro, 0⟩, ⟨40, 24, .ro, 0⟩]⟩,
   -- INF_FILL, spec/13 Table FLT-8
   ⟨0x248, 1, 8, [⟨0, 32, .ro, 0⟩, ⟨32, 1, .ro, 0⟩, ⟨33, 1, .ro, 0⟩, ⟨34, 1, .w1c, 0⟩]⟩,
   -- INF_FILL_CTL, spec/13 Table FLT-9
   ⟨0x250, 1, 8, [⟨0, 32, .rw, 0⟩, ⟨32, 1, .w1s, 0⟩, ⟨33, 1, .w1s, 0⟩]⟩,
   -- DIE_CH_STATE, spec/19 R456
   ⟨0x400, 4, 0x20, [⟨0, 1, .ro, 0⟩, ⟨1, 1, .ro, 0⟩, ⟨6, 50, .ro, 0⟩]⟩,
   -- DIE_CH_PROGRESS, spec/19 R456
   ⟨0x408, 4, 0x20, [⟨0, 40, .ro, 0⟩, ⟨40, 24, .ro, 0⟩]⟩,
   -- DIE_CH_CTL, spec/19 R456
   ⟨0x410, 4, 0x20, [⟨0, 1, .wo, 0⟩, ⟨1, 1, .wo, 0⟩, ⟨6, 50, .rw, 0⟩]⟩,
   -- DIE_CH_ABORT, spec/19 R456
   ⟨0x418, 4, 0x20, [⟨0, 64, .ro, 0⟩]⟩] ++
  [
   -- DIE_SNAP_HDR, spec/17 Table MGT-8
   ⟨0x800, 1, 8, [⟨0, 1, .w1c, 0⟩, ⟨8, 8, .ro, 0⟩, ⟨16, 48, .ro, 0⟩]⟩]

/-- The memory control. -/
def memctlRows : List RegRow :=
  [
   -- HBM_MODE, spec/09 Table MEM-12
   ⟨0x000, 1, 8, [⟨0, 32, .rw, 0xFFFFFFFF⟩]⟩,
   -- HBM_RETIRED, spec/09 Table MEM-12
   ⟨0x008, 1, 8, [⟨0, 32, .ro, 0⟩, ⟨32, 32, .ro, 0⟩]⟩]

/-- The SCU module registers. -/
def scuRows : List RegRow :=
  [
   -- SCU_CTL, spec/08 Table ATT-12
   ⟨0x000, 1, 8, [⟨0, 1, .rw, 0⟩, ⟨4, 4, .rw, 15⟩]⟩,
   -- SCU_TABLE_BASE, spec/08 Table ATT-12
   ⟨0x008, 1, 8, [⟨16, 40, .rw, 0⟩]⟩,
   -- SCU_QUAR_BASE, spec/08 Table ATT-12
   ⟨0x010, 1, 8, [⟨20, 36, .rw, 0⟩]⟩,
   -- SCU_LAYOUT_BASE, spec/08 Table ATT-12
   ⟨0x018, 1, 8, [⟨10, 46, .rw, 0⟩]⟩,
   -- SCU_POOL_BASE, spec/08 Table ATT-12
   ⟨0x100, 16, 0x20, [⟨6, 50, .rw, 0⟩]⟩,
   -- SCU_POOL_CTL, spec/08 Table ATT-13
   ⟨0x108, 16, 0x20, [⟨0, 5, .rw, 0⟩, ⟨8, 1, .rw, 0⟩]⟩,
   -- SCU_POOL_FREE, spec/08 Table ATT-12
   ⟨0x110, 16, 0x20, [⟨0, 32, .ro, 0⟩, ⟨32, 32, .ro, 0xFFFFFFFF⟩]⟩]

/-- The step-controller registers. -/
def stepRows : List RegRow :=
  [
   -- INF_CTL, spec/11 Table STP-10
   ⟨0x000, 1, 8, [⟨0, 1, .rw, 0⟩, ⟨1, 1, .w1s, 0⟩, ⟨2, 1, .rw, 1⟩]⟩,
   -- INF_STATUS, spec/11 Table STP-11
   ⟨0x008, 1, 8, [⟨0, 1, .ro, 0⟩, ⟨1, 1, .w1c, 0⟩, ⟨2, 1, .w1c, 0⟩, ⟨3, 1, .w1c, 0⟩]⟩,
   -- INF_LS_CTL, spec/11 Table STP-9
   ⟨0x010, 1, 8, [⟨0, 8, .rw, 0⟩, ⟨8, 8, .rw, 24⟩, ⟨16, 16, .rw, 0x07D0⟩]⟩,
   -- INF_LS_STATE, spec/11 Table STP-9
   ⟨0x018, 1, 8, [⟨0, 8, .rw, 16⟩, ⟨16, 16, .rw, 0⟩]⟩,
   -- INF_SEED, spec/11 Table STP-9
   ⟨0x020, 1, 8, [⟨0, 64, .rw, 0⟩]⟩,
   -- INF_FSTATE_BASE, spec/11 Table STP-9
   ⟨0x028, 1, 8, [⟨16, 40, .rw, 0⟩]⟩,
   -- INF_NORM_BASE, spec/11 Table STP-9
   ⟨0x030, 1, 8, [⟨6, 50, .rw, 0⟩]⟩,
   -- INF_NORM_CTL, spec/11 Table STP-9
   ⟨0x038, 1, 8, [⟨0, 13, .rw, 0⟩]⟩,
   -- INF_STEP_ADDR, spec/11 Table STP-9
   ⟨0x040, 1, 8, [⟨6, 50, .rw, 0⟩]⟩,
   -- INF_SCHED_BASE, spec/11 Table STP-9
   ⟨0x048, 1, 8, [⟨6, 50, .rw, 0⟩]⟩,
   -- INF_SCHED_LEN, spec/11 Table STP-9
   ⟨0x050, 1, 8, [⟨0, 17, .rw, 0⟩]⟩,
   -- INF_VERDICT_WARN, spec/11 Table STP-9
   ⟨0x058, 1, 8, [⟨0, 32, .rw, 0x000F4240⟩]⟩] ++
  [
   -- INF_LAST, spec/11 Table STP-9
   ⟨0x060, 1, 8, [⟨0, 32, .ro, 0⟩, ⟨32, 2, .ro, 3⟩]⟩,
   -- INF_SKIPPED, spec/11 Table STP-9
   ⟨0x068, 1, 8, [⟨0, 32, .ro, 0⟩, ⟨32, 32, .ro, 0⟩]⟩,
   -- INF_CKPT_CTL, spec/11 Table STP-9
   ⟨0x070, 1, 8, [⟨0, 32, .rw, 0⟩, ⟨32, 1, .w1s, 0⟩, ⟨33, 1, .wo, 0⟩]⟩,
   -- INF_CKPT_STATUS, spec/11 Table STP-9
   ⟨0x078, 1, 8, [⟨0, 32, .ro, 0⟩, ⟨32, 1, .ro, 0⟩, ⟨33, 1, .ro, 0⟩, ⟨34, 1, .w1c, 0⟩]⟩]

/-- The timebase unit registers. -/
def tbuRows : List RegRow :=
  [
   -- TBU_CTL, spec/02 Table PRG-12
   ⟨0x000, 1, 8, [⟨0, 1, .w1s, 0⟩, ⟨1, 1, .rw, 1⟩, ⟨2, 1, .rw, 1⟩, ⟨3, 1, .ro, 1⟩, ⟨4, 4, .rw, 0⟩, ⟨8, 1, .rw, 0⟩, ⟨9, 1, .rw, 1⟩]⟩,
   -- TBU_STATUS, spec/02 Table PRG-13
   ⟨0x008, 1, 8, [⟨0, 1, .ro, 0⟩, ⟨1, 1, .ro, 0⟩, ⟨2, 1, .ro, 0⟩, ⟨3, 1, .w1c, 0⟩, ⟨4, 1, .w1c, 0⟩, ⟨5, 1, .w1c, 0⟩, ⟨6, 1, .ro, 1⟩, ⟨7, 1, .w1c, 0⟩, ⟨16, 16, .ro, 0⟩]⟩,
   -- TBU_BEAT, spec/02 Table PRG-11
   ⟨0x010, 1, 8, [⟨0, 64, .ro, 0⟩]⟩,
   -- TBU_SYNC_VALUE, spec/02 Table PRG-11
   ⟨0x018, 1, 8, [⟨0, 64, .rw, 0⟩]⟩,
   -- TBU_SYNC_PERIOD, spec/02 Table PRG-11
   ⟨0x020, 1, 8, [⟨10, 22, .rw, 0x400⟩]⟩,
   -- TBU_SLEW, spec/02 Table PRG-14
   ⟨0x028, 1, 8, [⟨0, 16, .wo, 0⟩, ⟨16, 1, .ro, 0⟩, ⟨32, 32, .ro, 0⟩]⟩,
   -- TBU_EPOCH_BASE, spec/02 Table PRG-11
   ⟨0x030, 1, 8, [⟨0, 64, .rw, 0⟩]⟩,
   -- TBU_STEP_PERIOD, spec/02 Table PRG-11
   ⟨0x038, 1, 8, [⟨0, 32, .rw, 0⟩]⟩,
   -- TBU_PERIOD_CHANGE, spec/02 Table PRG-11
   ⟨0x040, 1, 8, [⟨0, 32, .rw, 0⟩, ⟨32, 32, .rw, 0⟩]⟩,
   -- TBU_STEP, spec/02 Table PRG-11
   ⟨0x048, 1, 8, [⟨0, 32, .ro, 0⟩]⟩,
   -- TBU_ENV_LEAD, spec/02 Table PRG-11
   ⟨0x050, 1, 8, [⟨0, 24, .rw, 0x2710⟩]⟩,
   -- TBU_PLOG_BASE, spec/02 Table PRG-11
   ⟨0x058, 1, 8, [⟨6, 50, .rw, 0⟩]⟩] ++
  [
   -- TBU_PLOG_CTL, spec/02 Table PRG-15
   ⟨0x060, 1, 8, [⟨0, 5, .rw, 12⟩, ⟨8, 1, .rw, 0⟩]⟩,
   -- TBU_PLOG_WP, spec/02 Table PRG-11
   ⟨0x068, 1, 8, [⟨0, 32, .ro, 0⟩]⟩,
   -- TBU_PLOG_RP, spec/02 Table PRG-11
   ⟨0x070, 1, 8, [⟨0, 32, .rw, 0⟩]⟩,
   -- TBU_PLOG_DROP, spec/02 Table PRG-11
   ⟨0x078, 1, 8, [⟨0, 32, .ro, 0⟩]⟩,
   -- TBU_PTP_OFFSET, spec/02 Table PRG-11
   ⟨0x080, 1, 8, [⟨0, 32, .ro, 0⟩]⟩,
   -- TBU_RESTART, spec/13 Table FLT-6
   ⟨0x088, 1, 8, [⟨0, 32, .rw, 0⟩, ⟨32, 1, .rw, 1⟩, ⟨33, 1, .w1s, 0⟩, ⟨34, 1, .ro, 0⟩, ⟨35, 1, .w1s, 0⟩, ⟨36, 1, .w1s, 0⟩]⟩,
   -- TBU_SNAP_HDR, spec/17 Table MGT-8
   ⟨0x800, 1, 8, [⟨0, 1, .w1c, 0⟩, ⟨8, 8, .ro, 0⟩, ⟨16, 48, .ro, 0⟩]⟩]

/-- The samovar registers. -/
def pwrRows : List RegRow :=
  [
   -- PWR_STATE, spec/16 Table PWR-8
   ⟨0x000, 1, 8, [⟨0, 3, .wo, 0⟩, ⟨4, 3, .ro, 0⟩]⟩,
   -- PWR_STATUS, spec/16 Table PWR-9
   ⟨0x008, 1, 8, [⟨0, 1, .w1c, 0⟩, ⟨1, 1, .ro, 0⟩, ⟨2, 1, .w1c, 0⟩, ⟨3, 1, .ro, 0⟩, ⟨8, 4, .ro, 0⟩]⟩,
   -- PWR_CAP, spec/16 Table PWR-8
   ⟨0x010, 1, 8, [⟨0, 16, .rw, 2000⟩]⟩,
   -- PWR_RAMP, spec/16 Table PWR-8
   ⟨0x018, 1, 8, [⟨0, 16, .rw, 2000⟩]⟩,
   -- PWR_FLOOR, spec/16 Table PWR-8
   ⟨0x020, 1, 8, [⟨0, 8, .rw, 70⟩, ⟨16, 16, .rw, 10000⟩]⟩,
   -- PWR_THROT, spec/16 Table PWR-8
   ⟨0x028, 1, 8, [⟨0, 16, .rw, 1000⟩, ⟨16, 1, .ro, 0⟩]⟩,
   -- PWR_DRAW, spec/16 Table PWR-8
   ⟨0x030, 1, 8, [⟨0, 16, .ro, 0⟩, ⟨16, 16, .ro, 0⟩, ⟨32, 16, .ro, 0⟩, ⟨48, 4, .ro, 0⟩, ⟨52, 3, .ro, 0⟩]⟩,
   -- PWR_COOLANT, spec/16 Table PWR-8
   ⟨0x038, 1, 8, [⟨0, 16, .ro, 0⟩, ⟨16, 8, .ro, 0⟩, ⟨24, 8, .ro, 0⟩, ⟨32, 16, .rw, 170⟩]⟩,
   -- PWR_TILE, spec/16 Table PWR-8
   ⟨0x040, 1, 8, [⟨0, 8, .ro, 0⟩, ⟨8, 6, .ro, 0⟩, ⟨16, 8, .rw, 105⟩]⟩,
   -- PWR_FORECAST, spec/16 Table PWR-8
   ⟨0x080, 8, 8, [⟨0, 64, .ro, 0⟩]⟩,
   -- PWR_SNAP_HDR, spec/17 Table MGT-8
   ⟨0x800, 1, 8, [⟨0, 1, .w1c, 0⟩, ⟨8, 8, .ro, 0⟩, ⟨16, 48, .ro, 0⟩]⟩]

/-- The link block registers. -/
def lnkRows : List RegRow :=
  [
   -- LNK_JOB, spec/12 Table LNK-9
   ⟨0x000, 1, 8, [⟨0, 32, .rw, 0⟩, ⟨32, 16, .rw, 0⟩, ⟨48, 16, .rw, 1⟩]⟩,
   -- LNK_COLL_PORT, spec/12 Table LNK-9
   ⟨0x008, 1, 8, [⟨0, 16, .rw, 0xC0A5⟩]⟩,
   -- LNK_DSCP, spec/12 Table LNK-9
   ⟨0x010, 1, 8, [⟨0, 6, .rw, 46⟩, ⟨8, 6, .rw, 26⟩, ⟨16, 6, .rw, 56⟩, ⟨24, 6, .rw, 48⟩]⟩,
   -- LNK_RTO, spec/12 Table LNK-9
   ⟨0x018, 1, 8, [⟨0, 32, .rw, 0x4E20⟩, ⟨32, 8, .rw, 8⟩]⟩,
   -- LNK_SILENT, spec/12 Table LNK-10
   ⟨0x020, 1, 8, [⟨0, 32, .rw, 0x186A0⟩, ⟨32, 32, .rw, 0xC350⟩]⟩,
   -- LNK_FAULT_EPOCH, spec/12 Table LNK-9
   ⟨0x028, 1, 8, [⟨0, 32, .rw, 0⟩]⟩,
   -- LNK_PEER_BASE, spec/12 Table LNK-9
   ⟨0x030, 1, 8, [⟨8, 48, .rw, 0⟩]⟩,
   -- LNK_REPORTS, spec/12 Table LNK-9
   ⟨0x038, 1, 8, [⟨0, 32, .ro, 0⟩]⟩,
   -- LNK_SPAN_STATUS, spec/12 Table LNK-11
   ⟨0x100, 3, 0x20, [⟨0, 1, .ro, 0⟩, ⟨1, 1, .ro, 0⟩, ⟨2, 1, .ro, 0⟩, ⟨3, 1, .w1c, 0⟩, ⟨4, 2, .ro, 0⟩, ⟨6, 2, .ro, 0⟩, ⟨32, 32, .ro, 0⟩]⟩,
   -- LNK_ETH_STATUS, spec/12 Table LNK-12
   ⟨0x200, 16, 0x20, [⟨0, 1, .ro, 0⟩, ⟨1, 1, .w1c, 0⟩, ⟨16, 16, .ro, 0⟩, ⟨32, 32, .ro, 0⟩]⟩,
   -- LNK_ETH_CFG, spec/12 Table LNK-9
   ⟨0x208, 16, 0x20, [⟨0, 12, .rw, 0⟩, ⟨12, 1, .rw, 0⟩, ⟨16, 48, .rw, 0⟩]⟩,
   -- LNK_ETH_ADDR, spec/12 Table LNK-9
   ⟨0x210, 16, 0x20, [⟨0, 64, .rw, 0⟩]⟩] ++
  [
   -- LNK_SNAP_HDR, spec/17 Table MGT-8
   ⟨0x800, 1, 8, [⟨0, 1, .w1c, 0⟩, ⟨8, 8, .ro, 0⟩, ⟨16, 48, .ro, 0⟩]⟩]

/-- The turnstile registers. -/
def vidRows : List RegRow :=
  [
   -- VID_CTL, spec/14 Table VID-8
   ⟨0x000, 1, 8, [⟨0, 32, .rw, 0xFFFFFFFF⟩, ⟨32, 1, .rw, 0⟩]⟩,
   -- VID_DPB_BASE, spec/14 Table VID-7
   ⟨0x008, 1, 8, [⟨28, 28, .rw, 0⟩]⟩,
   -- VID_BUSY, spec/14 Table VID-7
   ⟨0x010, 1, 8, [⟨0, 32, .ro, 0⟩, ⟨32, 9, .ro, 0⟩]⟩,
   -- VID_ERRORS, spec/14 Table VID-7
   ⟨0x018, 1, 8, [⟨0, 32, .ro, 0⟩, ⟨32, 32, .ro, 0⟩]⟩,
   -- VID_SNAP_HDR, spec/17 Table MGT-8
   ⟨0x800, 1, 8, [⟨0, 1, .w1c, 0⟩, ⟨8, 8, .ro, 0⟩, ⟨16, 48, .ro, 0⟩]⟩]

/-- The host DMA channel registers. -/
def hdmaRows : List RegRow :=
  [
   -- HDMA_CH_STATE, spec/19 R456
   ⟨0x000, 64, 0x20, [⟨0, 1, .ro, 0⟩, ⟨1, 1, .ro, 0⟩, ⟨6, 50, .ro, 0⟩]⟩,
   -- HDMA_CH_PROGRESS, spec/19 R456
   ⟨0x008, 64, 0x20, [⟨0, 40, .ro, 0⟩, ⟨40, 24, .ro, 0⟩]⟩,
   -- HDMA_CH_CTL, spec/19 R456
   ⟨0x010, 64, 0x20, [⟨0, 1, .wo, 0⟩, ⟨1, 1, .wo, 0⟩, ⟨6, 50, .rw, 0⟩]⟩,
   -- HDMA_CH_ABORT, spec/19 R456
   ⟨0x018, 64, 0x20, [⟨0, 64, .ro, 0⟩]⟩]

/-- The management registers. -/
def mgsRows : List RegRow :=
  [
   -- MGS_STATUS, spec/17 Table MGT-9
   ⟨0x000, 1, 8, [⟨0, 1, .ro, 0⟩, ⟨8, 8, .ro, 0⟩, ⟨32, 32, .ro, 0⟩]⟩,
   -- MGS_ALERT, spec/17 Table MGT-12
   ⟨0x008, 1, 8, [⟨0, 1, .w1c, 0⟩, ⟨1, 1, .w1c, 0⟩, ⟨2, 1, .w1c, 0⟩, ⟨3, 1, .w1c, 0⟩, ⟨4, 1, .w1c, 0⟩, ⟨5, 1, .w1c, 0⟩, ⟨6, 1, .w1c, 0⟩, ⟨7, 1, .w1c, 0⟩, ⟨8, 1, .w1c, 0⟩, ⟨9, 1, .w1c, 0⟩]⟩,
   -- MGS_ALERT_EN, spec/17 Table MGT-9
   ⟨0x010, 1, 8, [⟨0, 10, .rw, 0x3FF⟩]⟩,
   -- MGS_WDOG, spec/17 Table MGT-9
   ⟨0x018, 1, 8, [⟨0, 16, .rw, 1000⟩, ⟨16, 1, .wo, 0⟩]⟩,
   -- MGS_LOG_WP, spec/17 Table MGT-9
   ⟨0x020, 1, 8, [⟨0, 32, .ro, 0⟩]⟩,
   -- MGS_NET_CTL, spec/17 Table MGT-9
   ⟨0x040, 1, 8, [⟨0, 16, .rw, 0x1F40⟩, ⟨16, 3, .rw, 0⟩, ⟨19, 1, .rw, 0⟩]⟩,
   -- MGS_NET_COLLECTOR, spec/17 Table MGT-9
   ⟨0x048, 2, 8, [⟨0, 64, .rw, 0⟩]⟩,
   -- MGS_NET_LOCAL, spec/17 Table MGT-9
   ⟨0x058, 2, 8, [⟨0, 64, .rw, 0⟩]⟩,
   -- MGS_MC_CTL, spec/17 Table MGT-9
   ⟨0x080, 1, 8, [⟨0, 1, .rw, 0⟩]⟩,
   -- MGS_SNAP_CTL, spec/17 Table MGT-13
   ⟨0x100, 1, 8, [⟨0, 1, .w1s, 0⟩, ⟨1, 1, .w1s, 0⟩, ⟨2, 1, .rw, 1⟩, ⟨3, 1, .rw, 0⟩, ⟨4, 1, .w1s, 0⟩, ⟨5, 1, .rw, 0⟩]⟩,
   -- MGS_SNAP_CAUSE, spec/17 Table MGT-14
   ⟨0x108, 1, 8, [⟨0, 3, .ro, 0⟩, ⟨3, 1, .ro, 0⟩, ⟨4, 6, .ro, 0⟩, ⟨16, 48, .ro, 0⟩]⟩,
   -- MGS_SNAP_BEAT, spec/17 Table MGT-9
   ⟨0x110, 1, 8, [⟨0, 64, .rw, 0⟩]⟩] ++
  [
   -- MGS_SNAP_DUMP, spec/17 Table MGT-9
   ⟨0x118, 1, 8, [⟨19, 37, .rw, 0⟩]⟩,
   -- MGS_SNAP_IGNORED, spec/17 Table MGT-9
   ⟨0x120, 1, 8, [⟨0, 32, .ro, 0⟩]⟩,
   -- MGS_HOST_WR, spec/19 Table REG-2
   ⟨0x180, 1, 8, [⟨0, 1, .rwl, 1⟩, ⟨1, 1, .rwl, 1⟩, ⟨2, 1, .rwl, 1⟩, ⟨3, 1, .rwl, 1⟩, ⟨4, 1, .rwl, 1⟩, ⟨5, 1, .rwl, 1⟩, ⟨6, 1, .rwl, 1⟩, ⟨7, 1, .rwl, 1⟩, ⟨8, 1, .rwl, 1⟩, ⟨9, 1, .rwl, 1⟩]⟩,
   -- MGS_SEAL, spec/19 Table REG-4
   ⟨0x188, 1, 8, [⟨0, 1, .w1s, 0⟩]⟩,
   -- MGS_HOST_DENIED, spec/19 Table REG-5
   ⟨0x190, 1, 8, [⟨0, 32, .ro, 0⟩, ⟨32, 24, .ro, 0⟩]⟩,
   -- MGS_MC_SEL, spec/17 Table MGT-10
   ⟨0x400, 128, 0x10, [⟨0, 12, .rw, 0⟩, ⟨12, 8, .rw, 0xFF⟩, ⟨20, 1, .rw, 0⟩, ⟨21, 1, .rw, 0⟩]⟩,
   -- MGS_MC_VAL, spec/17 Table MGT-11
   ⟨0x408, 128, 0x10, [⟨0, 48, .rw, 0⟩, ⟨48, 1, .w1c, 0⟩]⟩]

/-- The host interface registers (firmware view; BAR0 offsets 0 to 0x2_80FF). -/
def hifRows : List RegRow :=
  [
   -- HIF_ID, spec/15 Table HST-15
   ⟨0x000, 1, 8, [⟨0, 16, .ro, 0x4836⟩, ⟨16, 8, .ro, 0x02⟩, ⟨24, 8, .ro, 0xB1⟩, ⟨32, 8, .ro, 0xA2⟩]⟩,
   -- HIF_STATUS, spec/15 Table HST-16
   ⟨0x008, 1, 8, [⟨0, 1, .ro, 0⟩, ⟨1, 1, .ro, 0⟩, ⟨2, 1, .ro, 0⟩, ⟨3, 1, .ro, 0⟩, ⟨4, 1, .ro, 0⟩, ⟨5, 1, .ro, 0⟩, ⟨6, 1, .ro, 0⟩, ⟨7, 1, .w1c, 0⟩, ⟨8, 8, .ro, 0⟩, ⟨32, 32, .ro, 0⟩]⟩,
   -- HIF_CTL, spec/15 Table HST-14
   ⟨0x010, 1, 8, [⟨0, 16, .rw, 100⟩]⟩,
   -- HIF_UPD_STAGE, spec/15 Table HST-14
   ⟨0x040, 1, 8, [⟨28, 28, .rw, 0⟩]⟩,
   -- HIF_UPD_CTL, spec/15 Table HST-14
   ⟨0x048, 1, 8, [⟨0, 16, .rw, 0x03E8⟩, ⟨16, 1, .rw, 0⟩]⟩,
   -- HIF_UPD_STATUS, spec/15 Table HST-17
   ⟨0x050, 1, 8, [⟨0, 3, .ro, 0⟩, ⟨3, 1, .ro, 0⟩, ⟨4, 1, .w1c, 0⟩, ⟨8, 16, .ro, 0⟩, ⟨24, 16, .ro, 0⟩]⟩,
   -- HIF_IRQ_ROUTE, spec/15 Table HST-14
   ⟨0x100, 8, 8, [⟨0, 11, .rw, 0⟩, ⟨11, 1, .rw, 0⟩, ⟨12, 1, .rw, 0⟩]⟩,
   -- HIF_SNAP_HDR, spec/17 Table MGT-8
   ⟨0x800, 1, 8, [⟨0, 1, .w1c, 0⟩, ⟨8, 8, .ro, 0⟩, ⟨16, 48, .ro, 0⟩]⟩,
   -- HIF_SQ_BASE, spec/15 Table HST-14
   ⟨0x1000, 64, 0x40, [⟨0, 1, .rw, 0⟩, ⟨6, 48, .rw, 0⟩]⟩,
   -- HIF_SQ_CTL, spec/15 Table HST-18
   ⟨0x1008, 64, 0x40, [⟨0, 5, .rw, 0⟩, ⟨8, 1, .rw, 0⟩, ⟨9, 1, .ro, 0⟩, ⟨16, 16, .ro, 0⟩]⟩,
   -- HIF_CQ_BASE, spec/15 Table HST-14
   ⟨0x1010, 64, 0x40, [⟨0, 1, .rw, 0⟩, ⟨6, 48, .rw, 0⟩]⟩,
   -- HIF_CQ_CTL, spec/15 Table HST-19
   ⟨0x1018, 64, 0x40, [⟨0, 5, .rw, 0⟩, ⟨8, 1, .rw, 0⟩, ⟨9, 1, .ro, 0⟩, ⟨10, 1, .rw, 0⟩, ⟨16, 11, .rw, 0⟩, ⟨32, 16, .ro, 0⟩, ⟨48, 1, .ro, 1⟩]⟩] ++
  [
   -- HIF_CQ_MOD, spec/15 Table HST-14
   ⟨0x1020, 64, 0x40, [⟨0, 8, .rw, 1⟩, ⟨16, 16, .rw, 0⟩]⟩,
   -- HIF_SQ_TAIL, spec/15 Table HST-14
   ⟨0x10000, 64, 0x10, [⟨0, 16, .wo, 0⟩]⟩,
   -- HIF_CQ_HEAD, spec/15 Table HST-14
   ⟨0x10008, 64, 0x10, [⟨0, 16, .wo, 0⟩]⟩,
   -- MSIX_ADDR, spec/15 Table HST-2
   ⟨0x20000, 2048, 0x10, [⟨0, 32, .rw, 0⟩, ⟨32, 32, .rw, 0⟩]⟩,
   -- MSIX_DATA, spec/15 Table HST-2
   ⟨0x20008, 2048, 0x10, [⟨0, 32, .rw, 0⟩, ⟨32, 1, .rw, 1⟩]⟩,
   -- MSIX_PBA, spec/15 Table HST-2
   ⟨0x28000, 32, 8, [⟨0, 64, .ro, 0⟩]⟩]

/-! ### Offsets, by name -/

def TL_EV_WDOG (t : Nat) : Nat := 0x20000 * t + 0x400
def TL_PFAULT (t : Nat) : Nat := 0x20000 * t + 0x408
def TL_IDX_FAULT (t : Nat) : Nat := 0x20000 * t + 0x410
def TL_IDX_COORD (t : Nat) : Nat := 0x20000 * t + 0x418
def TL_IDX_SKIP (t : Nat) : Nat := 0x20000 * t + 0x420
def TL_INTEG (t : Nat) : Nat := 0x20000 * t + 0x428
def TL_INTEG_ADDR (t : Nat) : Nat := 0x20000 * t + 0x430
def TL_PRECOND (t : Nat) : Nat := 0x20000 * t + 0x438
def TL_COLL_FAULT (t : Nat) : Nat := 0x20000 * t + 0x440
def SCU_FAULT (t : Nat) : Nat := 0x20000 * t + 0x500
def SCU_FAULT_CTX (t : Nat) : Nat := 0x20000 * t + 0x508
def SCU_QSTAT (t : Nat) : Nat := 0x20000 * t + 0x510
def SCU_EMPTY_ROWS (t : Nat) : Nat := 0x20000 * t + 0x518
def CAD_PART (t : Nat) : Nat := 0x20000 * t + 0x600
def CAD_PERR (t : Nat) : Nat := 0x20000 * t + 0x608
def CAD_NC (t : Nat) (n : Nat) : Nat := 0x20000 * t + 0x640 + 8 * n
def DMA_FLAGS (t : Nat) : Nat := 0x20000 * t + 0x800
def DMA_ABORT_BASE (t : Nat) : Nat := 0x20000 * t + 0x808
def DMA_IRQ (t : Nat) : Nat := 0x20000 * t + 0x810
def DMA_IRQ_EN (t : Nat) : Nat := 0x20000 * t + 0x818
def DMA_CH_STATE (t : Nat) (n : Nat) : Nat := 0x20000 * t + 0x900 + 0x20 * n
def DMA_CH_PROGRESS (t : Nat) (n : Nat) : Nat := 0x20000 * t + 0x908 + 0x20 * n
def DMA_CH_CTL (t : Nat) (n : Nat) : Nat := 0x20000 * t + 0x910 + 0x20 * n
def DMA_CH_ABORT (t : Nat) (n : Nat) : Nat := 0x20000 * t + 0x918 + 0x20 * n
def TL_MC_SEL (t : Nat) (n : Nat) : Nat := 0x20000 * t + 0x1000 + 0x10 * n
def TL_MC_VAL (t : Nat) (n : Nat) : Nat := 0x20000 * t + 0x1008 + 0x10 * n
def TL_SNAP_HDR (t : Nat) : Nat := 0x20000 * t + 0x2000
def CR_NUM_FLAGS (t : Nat) (c : Nat) : Nat := 0x20000 * t + 0x10000 + 0x1000 * c + 0x300
def CR_NAN_CTL (t : Nat) (c : Nat) : Nat := 0x20000 * t + 0x10000 + 0x1000 * c + 0x308
def CR_NAN_INFO (t : Nat) (c : Nat) : Nat := 0x20000 * t + 0x10000 + 0x1000 * c + 0x310
def CR_NAN_BEAT (t : Nat) (c : Nat) : Nat := 0x20000 * t + 0x10000 + 0x1000 * c + 0x318
def CR_NAN_OP (t : Nat) (c : Nat) : Nat := 0x20000 * t + 0x10000 + 0x1000 * c + 0x320
def CR_NAN_COORD (t : Nat) (c : Nat) : Nat := 0x20000 * t + 0x10000 + 0x1000 * c + 0x328
def CR_NAN_MORE (t : Nat) (c : Nat) : Nat := 0x20000 * t + 0x10000 + 0x1000 * c + 0x330
def ARR_WIDTH (t : Nat) (c : Nat) (n : Nat) : Nat := 0x20000 * t + 0x10000 + 0x1000 * c + 0x400 + 0x40 * n
def ARR_BYPASS (t : Nat) (c : Nat) (n : Nat) : Nat := 0x20000 * t + 0x10000 + 0x1000 * c + 0x408 + 0x40 * n
def ARR_BYPASS_PEND (t : Nat) (c : Nat) (n : Nat) : Nat := 0x20000 * t + 0x10000 + 0x1000 * c + 0x410 + 0x40 * n
def HBM_TEMP (s : Nat) : Nat := 0x800000 + 0x1000 * s
def HBM_THERM_CTL (s : Nat) : Nat := 0x800000 + 0x1000 * s + 0x008
def HBM_ERRLOG (s : Nat) : Nat := 0x800000 + 0x1000 * s + 0x010
def HBM_REPAIR (s : Nat) : Nat := 0x800000 + 0x1000 * s + 0x018
def HBM_MAINT (s : Nat) : Nat := 0x800000 + 0x1000 * s + 0x020
def DTR_TEMP (s : Nat) (n : Nat) : Nat := 0x800000 + 0x1000 * s + 0x040 + 0x40 * n
def DTR_ERRLOG (s : Nat) (n : Nat) : Nat := 0x800000 + 0x1000 * s + 0x050 + 0x40 * n
def DTR_REPAIR (s : Nat) (n : Nat) : Nat := 0x800000 + 0x1000 * s + 0x058 + 0x40 * n
def DTR_MAINT (s : Nat) (n : Nat) : Nat := 0x800000 + 0x1000 * s + 0x060 + 0x40 * n
def INF_ULIST_BASE (s : Nat) : Nat := 0x800000 + 0x1000 * s + 0x200
def INF_ULIST_COUNT (s : Nat) : Nat := 0x800000 + 0x1000 * s + 0x208
def INF_DIE_STATUS (s : Nat) : Nat := 0x800000 + 0x1000 * s + 0x210
def INF_FROZEN (s : Nat) : Nat := 0x800000 + 0x1000 * s + 0x218
def INF_BAD_LANES (s : Nat) : Nat := 0x800000 + 0x1000 * s + 0x220
def INF_CKPT_STAGE (s : Nat) : Nat := 0x800000 + 0x1000 * s + 0x228
def INF_CKPT_CURSOR (s : Nat) : Nat := 0x800000 + 0x1000 * s + 0x230
def INF_CKPT_FWD (s : Nat) : Nat := 0x800000 + 0x1000 * s + 0x238
def INF_POISON (s : Nat) : Nat := 0x800000 + 0x1000 * s + 0x240
def INF_FILL (s : Nat) : Nat := 0x800000 + 0x1000 * s + 0x248
def INF_FILL_CTL (s : Nat) : Nat := 0x800000 + 0x1000 * s + 0x250
def DIE_CH_STATE (s : Nat) (n : Nat) : Nat := 0x800000 + 0x1000 * s + 0x400 + 0x20 * n
def DIE_CH_PROGRESS (s : Nat) (n : Nat) : Nat := 0x800000 + 0x1000 * s + 0x408 + 0x20 * n
def DIE_CH_CTL (s : Nat) (n : Nat) : Nat := 0x800000 + 0x1000 * s + 0x410 + 0x20 * n
def DIE_CH_ABORT (s : Nat) (n : Nat) : Nat := 0x800000 + 0x1000 * s + 0x418 + 0x20 * n
def DIE_SNAP_HDR (s : Nat) : Nat := 0x800000 + 0x1000 * s + 0x800
def HBM_MODE : Nat := 0x900000
def HBM_RETIRED : Nat := 0x900000 + 0x008
def SCU_CTL : Nat := 0x901000
def SCU_TABLE_BASE : Nat := 0x901000 + 0x008
def SCU_QUAR_BASE : Nat := 0x901000 + 0x010
def SCU_LAYOUT_BASE : Nat := 0x901000 + 0x018
def SCU_POOL_BASE (n : Nat) : Nat := 0x901000 + 0x100 + 0x20 * n
def SCU_POOL_CTL (n : Nat) : Nat := 0x901000 + 0x108 + 0x20 * n
def SCU_POOL_FREE (n : Nat) : Nat := 0x901000 + 0x110 + 0x20 * n
def INF_CTL : Nat := 0x902000
def INF_STATUS : Nat := 0x902000 + 0x008
def INF_LS_CTL : Nat := 0x902000 + 0x010
def INF_LS_STATE : Nat := 0x902000 + 0x018
def INF_SEED : Nat := 0x902000 + 0x020
def INF_FSTATE_BASE : Nat := 0x902000 + 0x028
def INF_NORM_BASE : Nat := 0x902000 + 0x030
def INF_NORM_CTL : Nat := 0x902000 + 0x038
def INF_STEP_ADDR : Nat := 0x902000 + 0x040
def INF_SCHED_BASE : Nat := 0x902000 + 0x048
def INF_SCHED_LEN : Nat := 0x902000 + 0x050
def INF_VERDICT_WARN : Nat := 0x902000 + 0x058
def INF_LAST : Nat := 0x902000 + 0x060
def INF_SKIPPED : Nat := 0x902000 + 0x068
def INF_CKPT_CTL : Nat := 0x902000 + 0x070
def INF_CKPT_STATUS : Nat := 0x902000 + 0x078
def TBU_CTL : Nat := 0x903000
def TBU_STATUS : Nat := 0x903000 + 0x008
def TBU_BEAT : Nat := 0x903000 + 0x010
def TBU_SYNC_VALUE : Nat := 0x903000 + 0x018
def TBU_SYNC_PERIOD : Nat := 0x903000 + 0x020
def TBU_SLEW : Nat := 0x903000 + 0x028
def TBU_EPOCH_BASE : Nat := 0x903000 + 0x030
def TBU_STEP_PERIOD : Nat := 0x903000 + 0x038
def TBU_PERIOD_CHANGE : Nat := 0x903000 + 0x040
def TBU_STEP : Nat := 0x903000 + 0x048
def TBU_ENV_LEAD : Nat := 0x903000 + 0x050
def TBU_PLOG_BASE : Nat := 0x903000 + 0x058
def TBU_PLOG_CTL : Nat := 0x903000 + 0x060
def TBU_PLOG_WP : Nat := 0x903000 + 0x068
def TBU_PLOG_RP : Nat := 0x903000 + 0x070
def TBU_PLOG_DROP : Nat := 0x903000 + 0x078
def TBU_PTP_OFFSET : Nat := 0x903000 + 0x080
def TBU_RESTART : Nat := 0x903000 + 0x088
def TBU_SNAP_HDR : Nat := 0x903000 + 0x800
def PWR_STATE : Nat := 0x904000
def PWR_STATUS : Nat := 0x904000 + 0x008
def PWR_CAP : Nat := 0x904000 + 0x010
def PWR_RAMP : Nat := 0x904000 + 0x018
def PWR_FLOOR : Nat := 0x904000 + 0x020
def PWR_THROT : Nat := 0x904000 + 0x028
def PWR_DRAW : Nat := 0x904000 + 0x030
def PWR_COOLANT : Nat := 0x904000 + 0x038
def PWR_TILE : Nat := 0x904000 + 0x040
def PWR_FORECAST (n : Nat) : Nat := 0x904000 + 0x080 + 8 * n
def PWR_SNAP_HDR : Nat := 0x904000 + 0x800
def LNK_JOB : Nat := 0x905000
def LNK_COLL_PORT : Nat := 0x905000 + 0x008
def LNK_DSCP : Nat := 0x905000 + 0x010
def LNK_RTO : Nat := 0x905000 + 0x018
def LNK_SILENT : Nat := 0x905000 + 0x020
def LNK_FAULT_EPOCH : Nat := 0x905000 + 0x028
def LNK_PEER_BASE : Nat := 0x905000 + 0x030
def LNK_REPORTS : Nat := 0x905000 + 0x038
def LNK_SPAN_STATUS (n : Nat) : Nat := 0x905000 + 0x100 + 0x20 * n
def LNK_ETH_STATUS (n : Nat) : Nat := 0x905000 + 0x200 + 0x20 * n
def LNK_ETH_CFG (n : Nat) : Nat := 0x905000 + 0x208 + 0x20 * n
def LNK_ETH_ADDR (n : Nat) : Nat := 0x905000 + 0x210 + 0x20 * n
def LNK_SNAP_HDR : Nat := 0x905000 + 0x800
def VID_CTL : Nat := 0x906000
def VID_DPB_BASE : Nat := 0x906000 + 0x008
def VID_BUSY : Nat := 0x906000 + 0x010
def VID_ERRORS : Nat := 0x906000 + 0x018
def VID_SNAP_HDR : Nat := 0x906000 + 0x800
def HDMA_CH_STATE (n : Nat) : Nat := 0x907000 + 0x20 * n
def HDMA_CH_PROGRESS (n : Nat) : Nat := 0x907000 + 0x008 + 0x20 * n
def HDMA_CH_CTL (n : Nat) : Nat := 0x907000 + 0x010 + 0x20 * n
def HDMA_CH_ABORT (n : Nat) : Nat := 0x907000 + 0x018 + 0x20 * n
def MGS_STATUS : Nat := 0x908000
def MGS_ALERT : Nat := 0x908000 + 0x008
def MGS_ALERT_EN : Nat := 0x908000 + 0x010
def MGS_WDOG : Nat := 0x908000 + 0x018
def MGS_LOG_WP : Nat := 0x908000 + 0x020
def MGS_NET_CTL : Nat := 0x908000 + 0x040
def MGS_NET_COLLECTOR (n : Nat) : Nat := 0x908000 + 0x048 + 8 * n
def MGS_NET_LOCAL (n : Nat) : Nat := 0x908000 + 0x058 + 8 * n
def MGS_MC_CTL : Nat := 0x908000 + 0x080
def MGS_SNAP_CTL : Nat := 0x908000 + 0x100
def MGS_SNAP_CAUSE : Nat := 0x908000 + 0x108
def MGS_SNAP_BEAT : Nat := 0x908000 + 0x110
def MGS_SNAP_DUMP : Nat := 0x908000 + 0x118
def MGS_SNAP_IGNORED : Nat := 0x908000 + 0x120
def MGS_HOST_WR : Nat := 0x908000 + 0x180
def MGS_SEAL : Nat := 0x908000 + 0x188
def MGS_HOST_DENIED : Nat := 0x908000 + 0x190
def MGS_MC_SEL (n : Nat) : Nat := 0x908000 + 0x400 + 0x10 * n
def MGS_MC_VAL (n : Nat) : Nat := 0x908000 + 0x408 + 0x10 * n
def HIF_ID : Nat := 0xA00000
def HIF_STATUS : Nat := 0xA00000 + 0x008
def HIF_CTL : Nat := 0xA00000 + 0x010
def HIF_UPD_STAGE : Nat := 0xA00000 + 0x040
def HIF_UPD_CTL : Nat := 0xA00000 + 0x048
def HIF_UPD_STATUS : Nat := 0xA00000 + 0x050
def HIF_IRQ_ROUTE (n : Nat) : Nat := 0xA00000 + 0x100 + 8 * n
def HIF_SNAP_HDR : Nat := 0xA00000 + 0x800
def HIF_SQ_BASE (n : Nat) : Nat := 0xA00000 + 0x1000 + 0x40 * n
def HIF_SQ_CTL (n : Nat) : Nat := 0xA00000 + 0x1008 + 0x40 * n
def HIF_CQ_BASE (n : Nat) : Nat := 0xA00000 + 0x1010 + 0x40 * n
def HIF_CQ_CTL (n : Nat) : Nat := 0xA00000 + 0x1018 + 0x40 * n
def HIF_CQ_MOD (n : Nat) : Nat := 0xA00000 + 0x1020 + 0x40 * n
def HIF_SQ_TAIL (n : Nat) : Nat := 0xA00000 + 0x10000 + 0x10 * n
def HIF_CQ_HEAD (n : Nat) : Nat := 0xA00000 + 0x10008 + 0x10 * n
def MSIX_ADDR (n : Nat) : Nat := 0xA00000 + 0x20000 + 0x10 * n
def MSIX_DATA (n : Nat) : Nat := 0xA00000 + 0x20008 + 0x10 * n
def MSIX_PBA (n : Nat) : Nat := 0xA00000 + 0x28000 + 8 * n

/-! ### Field places, by name -/

def f_TL_EV_WDOG_LIMIT : Fld := ⟨0, 16⟩
def f_TL_PFAULT_CAUSE : Fld := ⟨0, 4⟩
def f_TL_PFAULT_EV : Fld := ⟨4, 8⟩
def f_TL_PFAULT_CORE : Fld := ⟨12, 4⟩
def f_TL_PFAULT_PC : Fld := ⟨16, 15⟩
def f_TL_PFAULT_VALID : Fld := ⟨31, 1⟩
def f_TL_PFAULT_STEP : Fld := ⟨32, 32⟩
def f_TL_IDX_FAULT_POSITION : Fld := ⟨0, 32⟩
def f_TL_IDX_FAULT_CHANNEL : Fld := ⟨32, 5⟩
def f_TL_IDX_FAULT_DIM : Fld := ⟨37, 3⟩
def f_TL_IDX_FAULT_NEGATIVE : Fld := ⟨40, 1⟩
def f_TL_IDX_FAULT_VALID : Fld := ⟨41, 1⟩
def f_TL_IDX_COORD_COORD : Fld := ⟨0, 32⟩
def f_TL_IDX_SKIP_COUNT : Fld := ⟨0, 32⟩
def f_TL_INTEG_KIND : Fld := ⟨0, 2⟩
def f_TL_INTEG_VALID : Fld := ⟨2, 1⟩
def f_TL_INTEG_UNIT : Fld := ⟨3, 5⟩
def f_TL_INTEG_CORE : Fld := ⟨8, 4⟩
def f_TL_INTEG_COUNT : Fld := ⟨16, 8⟩
def f_TL_INTEG_STEP : Fld := ⟨32, 32⟩
def f_TL_INTEG_ADDR_BLOCK : Fld := ⟨9, 47⟩
def f_TL_PRECOND_SKIPPED : Fld := ⟨0, 32⟩
def f_TL_PRECOND_STEP : Fld := ⟨32, 32⟩
def f_TL_COLL_FAULT_COLL_ID : Fld := ⟨0, 32⟩
def f_TL_COLL_FAULT_FROM : Fld := ⟨32, 16⟩
def f_TL_COLL_FAULT_WHAT : Fld := ⟨48, 3⟩
def f_TL_COLL_FAULT_VALID : Fld := ⟨51, 1⟩
def f_SCU_FAULT_CAUSE : Fld := ⟨0, 4⟩
def f_SCU_FAULT_CORE : Fld := ⟨4, 4⟩
def f_SCU_FAULT_VALID : Fld := ⟨8, 1⟩
def f_SCU_FAULT_ENTRY : Fld := ⟨32, 32⟩
def f_SCU_FAULT_CTX_CONTEXT : Fld := ⟨0, 20⟩
def f_SCU_FAULT_CTX_GENERATION : Fld := ⟨32, 32⟩
def f_SCU_QSTAT_CURRENT : Fld := ⟨0, 3⟩
def f_SCU_QSTAT_STALLED : Fld := ⟨3, 1⟩
def f_SCU_QSTAT_OCCUPIED : Fld := ⟨4, 8⟩
def f_SCU_QSTAT_ITEMS : Fld := ⟨32, 32⟩
def f_SCU_EMPTY_ROWS_COUNT : Fld := ⟨0, 32⟩
def f_CAD_PART_SCRATCH_STEPS : Fld := ⟨0, 5⟩
def f_CAD_PERR_KIND : Fld := ⟨0, 2⟩
def f_CAD_PERR_VALID : Fld := ⟨2, 1⟩
def f_CAD_PERR_ADDR : Fld := ⟨6, 50⟩
def f_CAD_PERR_COUNT : Fld := ⟨56, 8⟩
def f_CAD_NC_SIZE : Fld := ⟨0, 15⟩
def f_CAD_NC_BASE : Fld := ⟨21, 35⟩
def f_DMA_FLAGS_OVF : Fld := ⟨0, 1⟩
def f_DMA_FLAGS_UNF : Fld := ⟨1, 1⟩
def f_DMA_FLAGS_INV : Fld := ⟨2, 1⟩
def f_DMA_FLAGS_NANIN : Fld := ⟨3, 1⟩
def f_DMA_FLAGS_SCALE_LOW : Fld := ⟨4, 1⟩
def f_DMA_ABORT_BASE_BASE : Fld := ⟨9, 47⟩
def f_DMA_IRQ_ABORTED : Fld := ⟨0, 32⟩
def f_DMA_IRQ_INTEGRITY : Fld := ⟨32, 1⟩
def f_DMA_IRQ_EN_EN : Fld := ⟨0, 32⟩
def f_DMA_IRQ_EN_INTEGRITY : Fld := ⟨32, 1⟩
def f_DMA_CH_STATE_BUSY : Fld := ⟨0, 1⟩
def f_DMA_CH_STATE_HALTED : Fld := ⟨1, 1⟩
def f_DMA_CH_STATE_DESC : Fld := ⟨6, 50⟩
def f_DMA_CH_PROGRESS_BYTES : Fld := ⟨0, 40⟩
def f_DMA_CH_PROGRESS_DONE : Fld := ⟨40, 24⟩
def f_DMA_CH_CTL_ABORT : Fld := ⟨0, 1⟩
def f_DMA_CH_CTL_START : Fld := ⟨1, 1⟩
def f_DMA_CH_CTL_HEAD : Fld := ⟨6, 50⟩
def f_DMA_CH_ABORT_RECORD : Fld := ⟨0, 64⟩
def f_TL_MC_SEL_SOURCE : Fld := ⟨0, 12⟩
def f_TL_MC_SEL_UNIT : Fld := ⟨12, 8⟩
def f_TL_MC_SEL_ENABLE : Fld := ⟨20, 1⟩
def f_TL_MC_SEL_EVENT_ON_OVF : Fld := ⟨21, 1⟩
def f_TL_MC_VAL_COUNT : Fld := ⟨0, 48⟩
def f_TL_MC_VAL_OVF : Fld := ⟨48, 1⟩
def f_TL_SNAP_HDR_FULL : Fld := ⟨0, 1⟩
def f_TL_SNAP_HDR_IGNORED : Fld := ⟨8, 8⟩
def f_TL_SNAP_HDR_BEAT : Fld := ⟨16, 48⟩
def f_CR_NUM_FLAGS_OVF : Fld := ⟨0, 1⟩
def f_CR_NUM_FLAGS_UNF : Fld := ⟨1, 1⟩
def f_CR_NUM_FLAGS_INV : Fld := ⟨2, 1⟩
def f_CR_NUM_FLAGS_NANIN : Fld := ⟨3, 1⟩
def f_CR_NUM_FLAGS_SCALE_LOW : Fld := ⟨4, 1⟩
def f_CR_NAN_CTL_MODE : Fld := ⟨0, 2⟩
def f_CR_NAN_CTL_SNAP : Fld := ⟨2, 1⟩
def f_CR_NAN_INFO_VALID : Fld := ⟨0, 1⟩
def f_CR_NAN_INFO_ORIGIN : Fld := ⟨1, 2⟩
def f_CR_NAN_INFO_UNIT : Fld := ⟨3, 3⟩
def f_CR_NAN_INFO_STEP : Fld := ⟨32, 32⟩
def f_CR_NAN_BEAT_BEAT : Fld := ⟨0, 64⟩
def f_CR_NAN_OP_OP_INDEX : Fld := ⟨0, 32⟩
def f_CR_NAN_OP_QUEUE : Fld := ⟨32, 4⟩
def f_CR_NAN_OP_PC : Fld := ⟨36, 15⟩
def f_CR_NAN_COORD_ROW : Fld := ⟨0, 16⟩
def f_CR_NAN_COORD_COL : Fld := ⟨16, 16⟩
def f_CR_NAN_MORE_COUNT : Fld := ⟨0, 32⟩
def f_ARR_WIDTH_WIDTH : Fld := ⟨0, 7⟩
def f_ARR_WIDTH_LEFT_WIDTH : Fld := ⟨8, 6⟩
def f_ARR_WIDTH_RIGHT_WIDTH : Fld := ⟨16, 6⟩
def f_ARR_WIDTH_PENDING : Fld := ⟨24, 1⟩
def f_ARR_BYPASS_MASK : Fld := ⟨0, 64⟩
def f_ARR_BYPASS_PEND_MASK : Fld := ⟨0, 64⟩
def f_HBM_TEMP_TEMP : Fld := ⟨0, 8⟩
def f_HBM_TEMP_LEVEL : Fld := ⟨8, 2⟩
def f_HBM_TEMP_PEAK : Fld := ⟨16, 8⟩
def f_HBM_TEMP_FAULT : Fld := ⟨24, 1⟩
def f_HBM_THERM_CTL_HALT_LIMIT : Fld := ⟨0, 16⟩
def f_HBM_ERRLOG_PC : Fld := ⟨0, 6⟩
def f_HBM_ERRLOG_BANK : Fld := ⟨6, 6⟩
def f_HBM_ERRLOG_ROW : Fld := ⟨12, 18⟩
def f_HBM_ERRLOG_REPAIRED : Fld := ⟨30, 1⟩
def f_HBM_ERRLOG_VALID : Fld := ⟨32, 1⟩
def f_HBM_ERRLOG_OVERFLOW : Fld := ⟨33, 1⟩
def f_HBM_REPAIR_OP : Fld := ⟨0, 3⟩
def f_HBM_REPAIR_PC : Fld := ⟨4, 6⟩
def f_HBM_REPAIR_BANK : Fld := ⟨10, 6⟩
def f_HBM_REPAIR_ROW : Fld := ⟨16, 18⟩
def f_HBM_REPAIR_STATUS : Fld := ⟨34, 2⟩
def f_HBM_REPAIR_SPARE : Fld := ⟨36, 4⟩
def f_HBM_MAINT_CHANNEL : Fld := ⟨0, 5⟩
def f_HBM_MAINT_KIND : Fld := ⟨5, 2⟩
def f_HBM_MAINT_ARM : Fld := ⟨7, 1⟩
def f_HBM_MAINT_DONE : Fld := ⟨8, 1⟩
def f_HBM_MAINT_INCOMPLETE : Fld := ⟨9, 1⟩
def f_HBM_MAINT_START : Fld := ⟨32, 32⟩
def f_DTR_TEMP_TEMP : Fld := ⟨0, 8⟩
def f_DTR_TEMP_LEVEL : Fld := ⟨8, 2⟩
def f_DTR_TEMP_PEAK : Fld := ⟨16, 8⟩
def f_DTR_TEMP_FAULT : Fld := ⟨24, 1⟩
def f_DTR_ERRLOG_PC : Fld := ⟨0, 6⟩
def f_DTR_ERRLOG_BANK : Fld := ⟨6, 6⟩
def f_DTR_ERRLOG_ROW : Fld := ⟨12, 18⟩
def f_DTR_ERRLOG_REPAIRED : Fld := ⟨30, 1⟩
def f_DTR_ERRLOG_VALID : Fld := ⟨32, 1⟩
def f_DTR_ERRLOG_OVERFLOW : Fld := ⟨33, 1⟩
def f_DTR_REPAIR_OP : Fld := ⟨0, 3⟩
def f_DTR_REPAIR_PC : Fld := ⟨4, 6⟩
def f_DTR_REPAIR_BANK : Fld := ⟨10, 6⟩
def f_DTR_REPAIR_ROW : Fld := ⟨16, 18⟩
def f_DTR_REPAIR_STATUS : Fld := ⟨34, 2⟩
def f_DTR_REPAIR_SPARE : Fld := ⟨36, 4⟩
def f_DTR_MAINT_CHANNEL : Fld := ⟨0, 5⟩
def f_DTR_MAINT_KIND : Fld := ⟨5, 2⟩
def f_DTR_MAINT_ARM : Fld := ⟨7, 1⟩
def f_DTR_MAINT_DONE : Fld := ⟨8, 1⟩
def f_DTR_MAINT_INCOMPLETE : Fld := ⟨9, 1⟩
def f_DTR_MAINT_START : Fld := ⟨32, 32⟩
def f_INF_ULIST_BASE_BASE : Fld := ⟨6, 30⟩
def f_INF_ULIST_COUNT_COUNT : Fld := ⟨0, 16⟩
def f_INF_DIE_STATUS_BUSY : Fld := ⟨0, 1⟩
def f_INF_DIE_STATUS_BAD_LANE : Fld := ⟨1, 1⟩
def f_INF_FROZEN_COUNT : Fld := ⟨0, 48⟩
def f_INF_BAD_LANES_COUNT : Fld := ⟨0, 32⟩
def f_INF_CKPT_STAGE_BASE : Fld := ⟨9, 47⟩
def f_INF_CKPT_CURSOR_ENTRY : Fld := ⟨0, 16⟩
def f_INF_CKPT_CURSOR_RECORD : Fld := ⟨16, 32⟩
def f_INF_CKPT_FWD_COUNT : Fld := ⟨0, 32⟩
def f_INF_POISON_OFFSET : Fld := ⟨6, 30⟩
def f_INF_POISON_VALID : Fld := ⟨36, 1⟩
def f_INF_POISON_ENTRY : Fld := ⟨37, 1⟩
def f_INF_POISON_COUNT : Fld := ⟨40, 24⟩
def f_INF_FILL_CONFIRMED : Fld := ⟨0, 32⟩
def f_INF_FILL_ACTIVE : Fld := ⟨32, 1⟩
def f_INF_FILL_HEADER_DONE : Fld := ⟨33, 1⟩
def f_INF_FILL_SOURCE_LOST : Fld := ⟨34, 1⟩
def f_INF_FILL_CTL_FROM : Fld := ⟨0, 32⟩
def f_INF_FILL_CTL_START : Fld := ⟨32, 1⟩
def f_INF_FILL_CTL_STOP : Fld := ⟨33, 1⟩
def f_DIE_CH_STATE_BUSY : Fld := ⟨0, 1⟩
def f_DIE_CH_STATE_HALTED : Fld := ⟨1, 1⟩
def f_DIE_CH_STATE_DESC : Fld := ⟨6, 50⟩
def f_DIE_CH_PROGRESS_BYTES : Fld := ⟨0, 40⟩
def f_DIE_CH_PROGRESS_DONE : Fld := ⟨40, 24⟩
def f_DIE_CH_CTL_ABORT : Fld := ⟨0, 1⟩
def f_DIE_CH_CTL_START : Fld := ⟨1, 1⟩
def f_DIE_CH_CTL_HEAD : Fld := ⟨6, 50⟩
def f_DIE_CH_ABORT_RECORD : Fld := ⟨0, 64⟩
def f_DIE_SNAP_HDR_FULL : Fld := ⟨0, 1⟩
def f_DIE_SNAP_HDR_IGNORED : Fld := ⟨8, 8⟩
def f_DIE_SNAP_HDR_BEAT : Fld := ⟨16, 48⟩
def f_HBM_MODE_INTERLEAVE : Fld := ⟨0, 32⟩
def f_HBM_RETIRED_HBM : Fld := ⟨0, 32⟩
def f_HBM_RETIRED_DTR : Fld := ⟨32, 32⟩
def f_SCU_CTL_ENABLE : Fld := ⟨0, 1⟩
def f_SCU_CTL_TABLE_POOL : Fld := ⟨4, 4⟩
def f_SCU_TABLE_BASE_BASE : Fld := ⟨16, 40⟩
def f_SCU_QUAR_BASE_BASE : Fld := ⟨20, 36⟩
def f_SCU_LAYOUT_BASE_BASE : Fld := ⟨10, 46⟩
def f_SCU_POOL_BASE_BASE : Fld := ⟨6, 50⟩
def f_SCU_POOL_CTL_LOG2_ENTRIES : Fld := ⟨0, 5⟩
def f_SCU_POOL_CTL_ENABLE : Fld := ⟨8, 1⟩
def f_SCU_POOL_FREE_FREE : Fld := ⟨0, 32⟩
def f_SCU_POOL_FREE_LOW : Fld := ⟨32, 32⟩
def f_INF_CTL_WITHHOLD : Fld := ⟨0, 1⟩
def f_INF_CTL_ABANDON : Fld := ⟨1, 1⟩
def f_INF_CTL_IRQ_EN : Fld := ⟨2, 1⟩
def f_INF_STATUS_VERDICT_WAIT : Fld := ⟨0, 1⟩
def f_INF_STATUS_VERDICT_LATE : Fld := ⟨1, 1⟩
def f_INF_STATUS_LS_FLOOR : Fld := ⟨2, 1⟩
def f_INF_STATUS_LS_CEIL : Fld := ⟨3, 1⟩
def f_INF_LS_CTL_MIN_EXP : Fld := ⟨0, 8⟩
def f_INF_LS_CTL_MAX_EXP : Fld := ⟨8, 8⟩
def f_INF_LS_CTL_CLEAN_RUN : Fld := ⟨16, 16⟩
def f_INF_LS_STATE_EXP : Fld := ⟨0, 8⟩
def f_INF_LS_STATE_CLEAN : Fld := ⟨16, 16⟩
def f_INF_SEED_SEED : Fld := ⟨0, 64⟩
def f_INF_FSTATE_BASE_BASE : Fld := ⟨16, 40⟩
def f_INF_NORM_BASE_BASE : Fld := ⟨6, 50⟩
def f_INF_NORM_CTL_SLOTS : Fld := ⟨0, 13⟩
def f_INF_STEP_ADDR_ADDR : Fld := ⟨6, 50⟩
def f_INF_SCHED_BASE_BASE : Fld := ⟨6, 50⟩
def f_INF_SCHED_LEN_LEN : Fld := ⟨0, 17⟩
def f_INF_VERDICT_WARN_BEATS : Fld := ⟨0, 32⟩
def f_INF_LAST_STEP : Fld := ⟨0, 32⟩
def f_INF_LAST_OUTCOME : Fld := ⟨32, 2⟩
def f_INF_SKIPPED_SKIPPED : Fld := ⟨0, 32⟩
def f_INF_SKIPPED_WITHHELD : Fld := ⟨32, 32⟩
def f_INF_CKPT_CTL_ARM_STEP : Fld := ⟨0, 32⟩
def f_INF_CKPT_CTL_ARM : Fld := ⟨32, 1⟩
def f_INF_CKPT_CTL_RELEASE : Fld := ⟨33, 1⟩
def f_INF_CKPT_STATUS_STEP : Fld := ⟨0, 32⟩
def f_INF_CKPT_STATUS_ACTIVE : Fld := ⟨32, 1⟩
def f_INF_CKPT_STATUS_COMPLETE : Fld := ⟨33, 1⟩
def f_INF_CKPT_STATUS_CANCELLED : Fld := ⟨34, 1⟩
def f_TBU_CTL_SYNC_ARM : Fld := ⟨0, 1⟩
def f_TBU_CTL_HOLDOVER_EN : Fld := ⟨1, 1⟩
def f_TBU_CTL_RELOCK_AT_SYNC : Fld := ⟨2, 1⟩
def f_TBU_CTL_PTP_LEADER : Fld := ⟨3, 1⟩
def f_TBU_CTL_PTP_PORT : Fld := ⟨4, 4⟩
def f_TBU_CTL_CAROUSEL_RUN : Fld := ⟨8, 1⟩
def f_TBU_CTL_SLEW_FROM_SPAN : Fld := ⟨9, 1⟩
def f_TBU_STATUS_BEAT_OK : Fld := ⟨0, 1⟩
def f_TBU_STATUS_HOLDOVER : Fld := ⟨1, 1⟩
def f_TBU_STATUS_SYNC_SEEN : Fld := ⟨2, 1⟩
def f_TBU_STATUS_SYNC_SLIP : Fld := ⟨3, 1⟩
def f_TBU_STATUS_SLEW_SPREAD : Fld := ⟨4, 1⟩
def f_TBU_STATUS_PLOG_DROP : Fld := ⟨5, 1⟩
def f_TBU_STATUS_CAROUSEL_IDLE : Fld := ⟨6, 1⟩
def f_TBU_STATUS_PERIOD_ERR : Fld := ⟨7, 1⟩
def f_TBU_STATUS_SLIP_COUNT : Fld := ⟨16, 16⟩
def f_TBU_BEAT_BEAT : Fld := ⟨0, 64⟩
def f_TBU_SYNC_VALUE_VALUE : Fld := ⟨0, 64⟩
def f_TBU_SYNC_PERIOD_PERIOD : Fld := ⟨10, 22⟩
def f_TBU_SLEW_AMOUNT : Fld := ⟨0, 16⟩
def f_TBU_SLEW_PENDING : Fld := ⟨16, 1⟩
def f_TBU_SLEW_REMAIN : Fld := ⟨32, 32⟩
def f_TBU_EPOCH_BASE_BASE : Fld := ⟨0, 64⟩
def f_TBU_STEP_PERIOD_PERIOD : Fld := ⟨0, 32⟩
def f_TBU_PERIOD_CHANGE_NEW_PERIOD : Fld := ⟨0, 32⟩
def f_TBU_PERIOD_CHANGE_FROM_STEP : Fld := ⟨32, 32⟩
def f_TBU_STEP_STEP : Fld := ⟨0, 32⟩
def f_TBU_ENV_LEAD_LEAD : Fld := ⟨0, 24⟩
def f_TBU_PLOG_BASE_BASE : Fld := ⟨6, 50⟩
def f_TBU_PLOG_CTL_LOG2_ENTRIES : Fld := ⟨0, 5⟩
def f_TBU_PLOG_CTL_ENABLE : Fld := ⟨8, 1⟩
def f_TBU_PLOG_WP_WP : Fld := ⟨0, 32⟩
def f_TBU_PLOG_RP_RP : Fld := ⟨0, 32⟩
def f_TBU_PLOG_DROP_COUNT : Fld := ⟨0, 32⟩
def f_TBU_PTP_OFFSET_OFFSET : Fld := ⟨0, 32⟩
def f_TBU_RESTART_STEP : Fld := ⟨0, 32⟩
def f_TBU_RESTART_HOLD_ON_WITHHELD : Fld := ⟨32, 1⟩
def f_TBU_RESTART_HOLD_REQ : Fld := ⟨33, 1⟩
def f_TBU_RESTART_HELD : Fld := ⟨34, 1⟩
def f_TBU_RESTART_GO : Fld := ⟨35, 1⟩
def f_TBU_RESTART_HALT_JOB : Fld := ⟨36, 1⟩
def f_TBU_SNAP_HDR_FULL : Fld := ⟨0, 1⟩
def f_TBU_SNAP_HDR_IGNORED : Fld := ⟨8, 8⟩
def f_TBU_SNAP_HDR_BEAT : Fld := ⟨16, 48⟩
def f_PWR_STATE_REQ : Fld := ⟨0, 3⟩
def f_PWR_STATE_STATE : Fld := ⟨4, 3⟩
def f_PWR_STATUS_FLOOR_SHORT : Fld := ⟨0, 1⟩
def f_PWR_STATUS_COOLANT_DERATE : Fld := ⟨1, 1⟩
def f_PWR_STATUS_PARK_REFUSED : Fld := ⟨2, 1⟩
def f_PWR_STATUS_TILE_STEP : Fld := ⟨3, 1⟩
def f_PWR_STATUS_SHUTDOWN_CAUSE : Fld := ⟨8, 4⟩
def f_PWR_CAP_CAP : Fld := ⟨0, 16⟩
def f_PWR_RAMP_RATE : Fld := ⟨0, 16⟩
def f_PWR_FLOOR_PCT : Fld := ⟨0, 8⟩
def f_PWR_FLOOR_HOLD_LIMIT : Fld := ⟨16, 16⟩
def f_PWR_THROT_CAP : Fld := ⟨0, 16⟩
def f_PWR_THROT_ASSERTED : Fld := ⟨16, 1⟩
def f_PWR_DRAW_NOW : Fld := ⟨0, 16⟩
def f_PWR_DRAW_BALLAST : Fld := ⟨16, 16⟩
def f_PWR_DRAW_PEAK : Fld := ⟨32, 16⟩
def f_PWR_DRAW_CLOCK : Fld := ⟨48, 4⟩
def f_PWR_DRAW_GATED : Fld := ⟨52, 3⟩
def f_PWR_COOLANT_FLOW : Fld := ⟨0, 16⟩
def f_PWR_COOLANT_INLET : Fld := ⟨16, 8⟩
def f_PWR_COOLANT_OUTLET : Fld := ⟨24, 8⟩
def f_PWR_COOLANT_FLOW_MIN : Fld := ⟨32, 16⟩
def f_PWR_TILE_MAX : Fld := ⟨0, 8⟩
def f_PWR_TILE_TILE : Fld := ⟨8, 6⟩
def f_PWR_TILE_LIMIT : Fld := ⟨16, 8⟩
def f_PWR_FORECAST_WORD : Fld := ⟨0, 64⟩
def f_PWR_SNAP_HDR_FULL : Fld := ⟨0, 1⟩
def f_PWR_SNAP_HDR_IGNORED : Fld := ⟨8, 8⟩
def f_PWR_SNAP_HDR_BEAT : Fld := ⟨16, 48⟩
def f_LNK_JOB_JOB : Fld := ⟨0, 32⟩
def f_LNK_JOB_MODULE : Fld := ⟨32, 16⟩
def f_LNK_JOB_MODULES : Fld := ⟨48, 16⟩
def f_LNK_COLL_PORT_PORT : Fld := ⟨0, 16⟩
def f_LNK_DSCP_COLL : Fld := ⟨0, 6⟩
def f_LNK_DSCP_ROCE : Fld := ⟨8, 6⟩
def f_LNK_DSCP_PTP : Fld := ⟨16, 6⟩
def f_LNK_DSCP_CNP : Fld := ⟨24, 6⟩
def f_LNK_RTO_RTO : Fld := ⟨0, 32⟩
def f_LNK_RTO_RETX_LIMIT : Fld := ⟨32, 8⟩
def f_LNK_SILENT_LIMIT : Fld := ⟨0, 32⟩
def f_LNK_SILENT_HOLDOFF : Fld := ⟨32, 32⟩
def f_LNK_FAULT_EPOCH_EPOCH : Fld := ⟨0, 32⟩
def f_LNK_PEER_BASE_BASE : Fld := ⟨8, 48⟩
def f_LNK_REPORTS_COUNT : Fld := ⟨0, 32⟩
def f_LNK_SPAN_STATUS_UP : Fld := ⟨0, 1⟩
def f_LNK_SPAN_STATUS_DEGRADED : Fld := ⟨1, 1⟩
def f_LNK_SPAN_STATUS_MISWIRE : Fld := ⟨2, 1⟩
def f_LNK_SPAN_STATUS_RETRAIN : Fld := ⟨3, 1⟩
def f_LNK_SPAN_STATUS_PEER_POS : Fld := ⟨4, 2⟩
def f_LNK_SPAN_STATUS_PEER_PORT : Fld := ⟨6, 2⟩
def f_LNK_SPAN_STATUS_RETRIES : Fld := ⟨32, 32⟩
def f_LNK_ETH_STATUS_UP : Fld := ⟨0, 1⟩
def f_LNK_ETH_STATUS_RETRAIN : Fld := ⟨1, 1⟩
def f_LNK_ETH_STATUS_FEC_UNCORR : Fld := ⟨16, 16⟩
def f_LNK_ETH_STATUS_CRC_DROP : Fld := ⟨32, 32⟩
def f_LNK_ETH_CFG_VLAN : Fld := ⟨0, 12⟩
def f_LNK_ETH_CFG_VLAN_EN : Fld := ⟨12, 1⟩
def f_LNK_ETH_CFG_NEXT_HOP : Fld := ⟨16, 48⟩
def f_LNK_ETH_ADDR_LOW : Fld := ⟨0, 64⟩
def f_LNK_SNAP_HDR_FULL : Fld := ⟨0, 1⟩
def f_LNK_SNAP_HDR_IGNORED : Fld := ⟨8, 8⟩
def f_LNK_SNAP_HDR_BEAT : Fld := ⟨16, 48⟩
def f_VID_CTL_ENGINE_EN : Fld := ⟨0, 32⟩
def f_VID_CTL_ENABLE : Fld := ⟨32, 1⟩
def f_VID_DPB_BASE_BASE : Fld := ⟨28, 28⟩
def f_VID_BUSY_BUSY : Fld := ⟨0, 32⟩
def f_VID_BUSY_PENDING : Fld := ⟨32, 9⟩
def f_VID_ERRORS_ERR_FRAMES : Fld := ⟨0, 32⟩
def f_VID_ERRORS_UNSUPPORTED : Fld := ⟨32, 32⟩
def f_VID_SNAP_HDR_FULL : Fld := ⟨0, 1⟩
def f_VID_SNAP_HDR_IGNORED : Fld := ⟨8, 8⟩
def f_VID_SNAP_HDR_BEAT : Fld := ⟨16, 48⟩
def f_HDMA_CH_STATE_BUSY : Fld := ⟨0, 1⟩
def f_HDMA_CH_STATE_HALTED : Fld := ⟨1, 1⟩
def f_HDMA_CH_STATE_DESC : Fld := ⟨6, 50⟩
def f_HDMA_CH_PROGRESS_BYTES : Fld := ⟨0, 40⟩
def f_HDMA_CH_PROGRESS_DONE : Fld := ⟨40, 24⟩
def f_HDMA_CH_CTL_ABORT : Fld := ⟨0, 1⟩
def f_HDMA_CH_CTL_START : Fld := ⟨1, 1⟩
def f_HDMA_CH_CTL_HEAD : Fld := ⟨6, 50⟩
def f_HDMA_CH_ABORT_RECORD : Fld := ⟨0, 64⟩
def f_MGS_STATUS_RM_HELD : Fld := ⟨0, 1⟩
def f_MGS_STATUS_LAST_RESTART : Fld := ⟨8, 8⟩
def f_MGS_STATUS_LOST : Fld := ⟨32, 32⟩
def f_MGS_ALERT_SENSOR : Fld := ⟨0, 1⟩
def f_MGS_ALERT_TILE_STOP : Fld := ⟨1, 1⟩
def f_MGS_ALERT_MEM_FAULT : Fld := ⟨2, 1⟩
def f_MGS_ALERT_REPAIR_EXHAUSTED : Fld := ⟨3, 1⟩
def f_MGS_ALERT_LINK : Fld := ⟨4, 1⟩
def f_MGS_ALERT_SILENT_PEER : Fld := ⟨5, 1⟩
def f_MGS_ALERT_LOG_LOST : Fld := ⟨6, 1⟩
def f_MGS_ALERT_COUNTER : Fld := ⟨7, 1⟩
def f_MGS_ALERT_RESTART : Fld := ⟨8, 1⟩
def f_MGS_ALERT_POWER : Fld := ⟨9, 1⟩
def f_MGS_ALERT_EN_EN : Fld := ⟨0, 10⟩
def f_MGS_WDOG_TIMEOUT : Fld := ⟨0, 16⟩
def f_MGS_WDOG_KICK : Fld := ⟨16, 1⟩
def f_MGS_LOG_WP_SEQ : Fld := ⟨0, 32⟩
def f_MGS_NET_CTL_PORT : Fld := ⟨0, 16⟩
def f_MGS_NET_CTL_STREAMS : Fld := ⟨16, 3⟩
def f_MGS_NET_CTL_ENABLE : Fld := ⟨19, 1⟩
def f_MGS_NET_COLLECTOR_ADDR : Fld := ⟨0, 64⟩
def f_MGS_NET_LOCAL_ADDR : Fld := ⟨0, 64⟩
def f_MGS_MC_CTL_FREEZE : Fld := ⟨0, 1⟩
def f_MGS_SNAP_CTL_FIRE : Fld := ⟨0, 1⟩
def f_MGS_SNAP_CTL_MATCH_ARM : Fld := ⟨1, 1⟩
def f_MGS_SNAP_CTL_PIN_EN : Fld := ⟨2, 1⟩
def f_MGS_SNAP_CTL_DRIVE_PIN : Fld := ⟨3, 1⟩
def f_MGS_SNAP_CTL_RELEASE : Fld := ⟨4, 1⟩
def f_MGS_SNAP_CTL_AUTO_SAVE : Fld := ⟨5, 1⟩
def f_MGS_SNAP_CAUSE_SOURCE : Fld := ⟨0, 3⟩
def f_MGS_SNAP_CAUSE_MULTI : Fld := ⟨3, 1⟩
def f_MGS_SNAP_CAUSE_TILE : Fld := ⟨4, 6⟩
def f_MGS_SNAP_CAUSE_BEAT : Fld := ⟨16, 48⟩
def f_MGS_SNAP_BEAT_BEAT : Fld := ⟨0, 64⟩
def f_MGS_SNAP_DUMP_BASE : Fld := ⟨19, 37⟩
def f_MGS_SNAP_IGNORED_COUNT : Fld := ⟨0, 32⟩
def f_MGS_HOST_WR_TIMEBASE : Fld := ⟨0, 1⟩
def f_MGS_HOST_WR_STEP : Fld := ⟨1, 1⟩
def f_MGS_HOST_WR_POWER : Fld := ⟨2, 1⟩
def f_MGS_HOST_WR_LINK : Fld := ⟨3, 1⟩
def f_MGS_HOST_WR_SCU : Fld := ⟨4, 1⟩
def f_MGS_HOST_WR_MEMORY : Fld := ⟨5, 1⟩
def f_MGS_HOST_WR_MONITOR : Fld := ⟨6, 1⟩
def f_MGS_HOST_WR_SNAPSHOT : Fld := ⟨7, 1⟩
def f_MGS_HOST_WR_TILE : Fld := ⟨8, 1⟩
def f_MGS_HOST_WR_VIDEO : Fld := ⟨9, 1⟩
def f_MGS_SEAL_SEAL : Fld := ⟨0, 1⟩
def f_MGS_HOST_DENIED_COUNT : Fld := ⟨0, 32⟩
def f_MGS_HOST_DENIED_OFFSET : Fld := ⟨32, 24⟩
def f_MGS_MC_SEL_SOURCE : Fld := ⟨0, 12⟩
def f_MGS_MC_SEL_UNIT : Fld := ⟨12, 8⟩
def f_MGS_MC_SEL_ENABLE : Fld := ⟨20, 1⟩
def f_MGS_MC_SEL_EVENT_ON_OVF : Fld := ⟨21, 1⟩
def f_MGS_MC_VAL_COUNT : Fld := ⟨0, 48⟩
def f_MGS_MC_VAL_OVF : Fld := ⟨48, 1⟩
def f_HIF_ID_ORDER : Fld := ⟨0, 16⟩
def f_HIF_ID_MOD_REV : Fld := ⟨16, 8⟩
def f_HIF_ID_TILE_STEP : Fld := ⟨24, 8⟩
def f_HIF_ID_BASE_STEP : Fld := ⟨32, 8⟩
def f_HIF_STATUS_READY : Fld := ⟨0, 1⟩
def f_HIF_STATUS_RECOVERY : Fld := ⟨1, 1⟩
def f_HIF_STATUS_RECORD_LOST : Fld := ⟨2, 1⟩
def f_HIF_STATUS_COLD_TRAINED : Fld := ⟨3, 1⟩
def f_HIF_STATUS_RM_BLACKOUT : Fld := ⟨4, 1⟩
def f_HIF_STATUS_P0_UP : Fld := ⟨5, 1⟩
def f_HIF_STATUS_P1_UP : Fld := ⟨6, 1⟩
def f_HIF_STATUS_LINK_LOSS : Fld := ⟨7, 1⟩
def f_HIF_STATUS_BOOT_STAGE : Fld := ⟨8, 8⟩
def f_HIF_STATUS_BOOT_MS : Fld := ⟨32, 32⟩
def f_HIF_CTL_LINK_WAIT : Fld := ⟨0, 16⟩
def f_HIF_UPD_STAGE_BASE : Fld := ⟨28, 28⟩
def f_HIF_UPD_CTL_PROVE_STEPS : Fld := ⟨0, 16⟩
def f_HIF_UPD_CTL_BURN_SVN : Fld := ⟨16, 1⟩
def f_HIF_UPD_STATUS_STATE : Fld := ⟨0, 3⟩
def f_HIF_UPD_STATUS_NEED_IDLE : Fld := ⟨3, 1⟩
def f_HIF_UPD_STATUS_FAILED : Fld := ⟨4, 1⟩
def f_HIF_UPD_STATUS_APPLIED : Fld := ⟨8, 16⟩
def f_HIF_UPD_STATUS_PROVEN_STEPS : Fld := ⟨24, 16⟩
def f_HIF_IRQ_ROUTE_VECTOR : Fld := ⟨0, 11⟩
def f_HIF_IRQ_ROUTE_PORT : Fld := ⟨11, 1⟩
def f_HIF_IRQ_ROUTE_ENABLE : Fld := ⟨12, 1⟩
def f_HIF_SNAP_HDR_FULL : Fld := ⟨0, 1⟩
def f_HIF_SNAP_HDR_IGNORED : Fld := ⟨8, 8⟩
def f_HIF_SNAP_HDR_BEAT : Fld := ⟨16, 48⟩
def f_HIF_SQ_BASE_PORT : Fld := ⟨0, 1⟩
def f_HIF_SQ_BASE_ADDR : Fld := ⟨6, 48⟩
def f_HIF_SQ_CTL_LOG2_ENTRIES : Fld := ⟨0, 5⟩
def f_HIF_SQ_CTL_ENABLE : Fld := ⟨8, 1⟩
def f_HIF_SQ_CTL_STOPPED : Fld := ⟨9, 1⟩
def f_HIF_SQ_CTL_HEAD : Fld := ⟨16, 16⟩
def f_HIF_CQ_BASE_PORT : Fld := ⟨0, 1⟩
def f_HIF_CQ_BASE_ADDR : Fld := ⟨6, 48⟩
def f_HIF_CQ_CTL_LOG2_ENTRIES : Fld := ⟨0, 5⟩
def f_HIF_CQ_CTL_ENABLE : Fld := ⟨8, 1⟩
def f_HIF_CQ_CTL_FULL : Fld := ⟨9, 1⟩
def f_HIF_CQ_CTL_IRQ_EN : Fld := ⟨10, 1⟩
def f_HIF_CQ_CTL_VECTOR : Fld := ⟨16, 11⟩
def f_HIF_CQ_CTL_TAIL : Fld := ⟨32, 16⟩
def f_HIF_CQ_CTL_PHASE : Fld := ⟨48, 1⟩
def f_HIF_CQ_MOD_COUNT : Fld := ⟨0, 8⟩
def f_HIF_CQ_MOD_TIME : Fld := ⟨16, 16⟩
def f_HIF_SQ_TAIL_TAIL : Fld := ⟨0, 16⟩
def f_HIF_CQ_HEAD_HEAD : Fld := ⟨0, 16⟩
def f_MSIX_ADDR_LOW : Fld := ⟨0, 32⟩
def f_MSIX_ADDR_HIGH : Fld := ⟨32, 32⟩
def f_MSIX_DATA_DATA : Fld := ⟨0, 32⟩
def f_MSIX_DATA_MASK : Fld := ⟨32, 1⟩
def f_MSIX_PBA_PENDING : Fld := ⟨0, 64⟩

/-! ### Decoding an offset -/

/-- The row of a block that covers a block offset. -/
def findRow (off : Nat) : List RegRow → Option RegRow
  | [] => none
  | r :: rs =>
    if r.off ≤ off ∧ (off - r.off) % r.stride = 0 ∧ (off - r.off) / r.stride < r.count then some r
    else findRow off rs

/-- The fields of the register at an offset, none where no table defines one (R455). -/
def regRow (a : Nat) : Option RegRow :=
  if a < 0x600000 then
    if a % 0x20000 < 0x10000 then findRow (a % 0x20000) tileRows
    else findRow (a % 0x1000) coreRows
  else if a < 0x800000 then none
  else if a < 0x818000 then findRow (a % 0x1000) dieRows
  else if a < 0x900000 then none
  else if a < 0x901000 then findRow (a - 0x900000) memctlRows
  else if a < 0x902000 then findRow (a - 0x901000) scuRows
  else if a < 0x903000 then findRow (a - 0x902000) stepRows
  else if a < 0x904000 then findRow (a - 0x903000) tbuRows
  else if a < 0x905000 then findRow (a - 0x904000) pwrRows
  else if a < 0x906000 then findRow (a - 0x905000) lnkRows
  else if a < 0x907000 then findRow (a - 0x906000) vidRows
  else if a < 0x908000 then findRow (a - 0x907000) hdmaRows
  else if a < 0x909000 then findRow (a - 0x908000) mgsRows
  else if 0xA00000 ≤ a ∧ a < 0xA40000 then findRow (a - 0xA00000) hifRows
  else none

/-- The value that a list of fields gives at reset. -/
def fieldsReset : List FieldRow → Nat
  | [] => 0
  | f :: fs => f.reset % 2 ^ f.width * 2 ^ f.lo + fieldsReset fs

/-- The reset value of VECTOR in HIF_IRQ_ROUTE n is n (Table HST-14). -/
def routeReset (a : Nat) : Nat := if 0xA00100 ≤ a ∧ a < 0xA00140 then (a - 0xA00100) / 8 else 0

/-- The reset value of the register at an offset, zero where none is defined. -/
def regReset (a : Nat) : Word :=
  match regRow a with
  | some r => BitVec.ofNat 64 (fieldsReset r.fields + routeReset a)
  | none => 0

end Sys2Proof.Machine
end

