-- ==== Sys2Proof/Machine/State.lean ====
section
/-! DEFINITION. The machine's state as plain data, everything spec/ gives the module, and its reset. -/

namespace Sys2Proof.Machine

/-! ### Core sequencers (spec/02) -/

/-- A descriptor in a core's queue: its 64 bytes as read at issue, its device address, the PC of its
ISSUE, its number in the queue since the job load (CR_NAN_OP), the format state record of its TENSOR_ID
as read at issue (R258), and whether its writes are all made, so that only its completion pulse is due
(R25, R27). -/
structure QEntry where
  desc  : List Byte
  addr  : Nat
  pc    : Nat
  index : Nat
  format : List Byte
  done  : Bool
  deriving DecidableEq, Repr

/-- What a sequencer is doing (Table PRG-2, R25 to R28, R467). -/
inductive SeqStatus where
  /-- stopped: before a job load, or under R32 -/
  | stopped
  | running
  /-- HALT (Table PRG-2) -/
  | halted
  /-- stalled on an ISSUE to a full queue (R25) -/
  | waitQueue (queue : Nat) (entry : QEntry)
  /-- on an event counter, since a beat (R28, R31) -/
  | waitEv (ev count since : Nat)
  /-- on the beat counter, for the epoch of its step plus an offset (R467) -/
  | waitBeat (offset : Nat)
  | waitPhase (phase : Nat)
  | waitEnd (phase : Nat)
  | waitDrain (mask : Nat)
  deriving DecidableEq, Repr

/-- The weight registers and the accumulator buffer of a core's arrays in a weight-stationary operation (R83, R84): the number of the
tile in use, the tile that the second register of each cell holds or loads meanwhile (none until the first swap: the tile after the
first), the half of the buffer that the current n-tile fills, and the half that the drain empties. -/
structure Weights where
  tile : Nat
  next : Option Nat
  half : Nat
  drain : Option Nat
  deriving DecidableEq, Repr

def Weights.empty : Weights := { tile := 0, next := none, half := 0, drain := none }

/-- One core's sequencer and queues. -/
structure Seq where
  status : SeqStatus
  pc     : Nat
  /-- the loop stack, top first: instruction index and remaining count (R464) -/
  loops  : List (Nat × Nat)
  /-- the instruction RAM's loaded image (R24) -/
  code   : List Word
  /-- step and index of the phase last granted (R465, R467) -/
  granted : Option (Nat × Nat)
  /-- the granted phase is not yet ended by this core -/
  inPhase : Bool
  /-- queues 0 to 3 (R25) -/
  queues : List (List QEntry)
  /-- descriptors issued to each queue since the job load -/
  issued : List Nat
  /-- the weights of the head descriptor of queue 0 (R84) -/
  weights : Weights
  /-- rows of M of the activation tile that each array holds since the last activation-stationary operation (R85): array and rows -/
  held : List (Nat × Nat)
  deriving DecidableEq, Repr

def Seq.empty : Seq :=
  { status := .stopped, pc := 0, loops := [], code := [], granted := none, inPhase := false
    queues := [[], [], [], []], issued := [0, 0, 0, 0], weights := Weights.empty, held := [] }

/-! ### Tiles -/

/-- A 512-byte block held by a tile's cache: its bytes and its envelope's mismatch as filled (R199, R463). -/
structure CacheBlock where
  bytes : List Byte
  mismatch : BitVec 32
  deriving DecidableEq, Repr

/-- A tile's event counters and its state outside the registers. -/
structure Tile where
  /-- EV0 to EV255 -/
  ev : List (Nat × BitVec 16)
  /-- the tile is stopped until the next job load (R32) -/
  stopped : Bool
  /-- cached blocks by block number -/
  cache : List (Nat × CacheBlock)
  /-- the step and phase the tile runs next, or runs now when `active` (R44) -/
  nextStep : Nat
  nextPhase : Nat
  active : Bool
  /-- first beat after the one in which the tile's last phase ended (R44); of a stopped tile that beat itself (R327) -/
  endBeat : Nat
  /-- the step that the tile takes once the phase it runs ends, where a GO came during it (R329) -/
  resume : Option Nat
  /-- cores that have reported their end of the granted phase (R45) -/
  reported : List Nat
  deriving DecidableEq, Repr

def Tile.empty : Tile :=
  { ev := [], stopped := false, cache := [], nextStep := 0, nextPhase := 0, active := false
    endBeat := 0, resume := none, reported := [] }

/-! ### Sequence context unit (spec/08) -/

/-- A walker: the core (16 × tile + core) that issued the attention descriptor, the length-table entry, the context, the
captured record (R186), the window it registered in, and whether it runs. -/
structure Walker where
  core    : Nat
  entry   : Nat
  ctx     : Nat
  record  : List Byte
  window  : Nat
  deriving DecidableEq, Repr

/-- A slice's walkers, windows and stalled edit (R186 to R189). An item is a pool and an address. -/
structure Slice where
  current : Nat
  walkers : List Walker
  windows : List (List (Nat × Nat))
  /-- the core (16 × tile + core) whose command waits under R189, or 768 + the context of a move whose edit waits -/
  stalled : Option Nat
  deriving DecidableEq, Repr

def Slice.empty : Slice :=
  { current := 0, walkers := [], windows := [[], [], [], [], [], [], [], []], stalled := none }

/-- A PARK or RESUME with MOVE in progress (R191): its context, the core (16 × tile + core) that issued it, its
target pool and the groups taken from it. -/
structure Move where
  ctx  : Nat
  core : Nat
  park : Bool
  pool : Nat
  groups : List Nat
  deriving DecidableEq, Repr

/-! ### DMA (spec/10) and collectives (spec/12) -/

/-- A collective in progress on a tile channel (R312 to R316). -/
structure Coll where
  desc : List Byte
  /-- the group's members: module and tile by contributor index -/
  members : List (Nat × Nat)
  me : Nat
  /-- slot of the staging area by segment in flight (R314) -/
  slots : List (Nat × Nat)
  /-- contributions present in their slots: segment and contributor -/
  present : List (Nat × Nat)
  folded : List Nat
  /-- credits held: segment of another owner's chunk -/
  credits : List Nat
  /-- segments sent: receiver and segment -/
  sent : List (Nat × Nat)
  /-- result segments received or written at DST -/
  got : List Nat
  deriving DecidableEq, Repr

/-- A DMA channel outside its registers: the descriptor it executes with its address, the format state
record of its TENSOR_ID as read at issue or fetch (R258), the next descriptor to fetch (R227), an abort that waits for the
next descriptor (R236), the event counters that pulses of a chain are due at, the collective, and the channel's occupation by
the turnstile. -/
structure Chan where
  cur : Option (Nat × List Byte)
  format : List Byte
  next : Option Nat
  abortPending : Bool
  pulseDue : Bool
  coll : Option Coll
  intake : Bool
  /-- the tile's counters that a host chain's pulses reach (Table HST-4) -/
  pulseTile : Option Nat
  /-- poisoned device blocks that a host chain read, and the device address of the first (R470, Table HST-6) -/
  poisoned : Nat
  poisonAt : Nat
  deriving DecidableEq, Repr

def Chan.empty : Chan :=
  { cur := none, format := [], next := none, abortPending := false, pulseDue := false, coll := none
    intake := false, pulseTile := none, poisoned := 0, poisonAt := 0 }

/-- An error present in a memory, as the outside world makes it (R205, R207, R253). -/
inductive ErrKind where
  /-- the next read of the block mismatches, the one after it verifies (R253) -/
  | transient
  /-- the on-die ECC cannot correct a burst of the block: the 256-byte unit of the block, bank, row -/
  | uncorrectable (unit bank row : Nat)
  /-- a parity error in a tile's cache line, in a 64-byte unit of the block (R205) -/
  | cacheParity (tile unit : Nat)
  /-- a parity error in the scratchpad, in a 64-byte unit of the block (R205) -/
  | scratchParity (unit : Nat)
  /-- a parity error in an operand store, or in the envelope side storage of any memory (R254) -/
  | parity
  /-- a parity error in the waiting descriptors of a core's queue (R254) -/
  | queue (core queue : Nat)
  /-- a parity error in the descriptor or state of a channel (R254) -/
  | channel (chan : Nat)
  /-- a parity error in the data path of a core's arrays and vector unit, or of a channel (R254) -/
  | corePath (core : Nat)
  | channelPath (chan : Nat)
  /-- a parity error in the data path of a stack's infuser, of a tile's slice, of the Span and Ethernet units or of the host interface
  (R254) -/
  | infuserPath (stack : Nat)
  | slicePath (tile : Nat)
  | linkPath
  | hostPath
  deriving DecidableEq, Repr

/-- An error and the 512-byte block (of the memory's own numbering) it lies in; 0 for an error of no memory. -/
structure MemErr where
  block : Nat
  kind : ErrKind
  deriving DecidableEq, Repr

/-! ### Base dies (spec/09, 11, 13) -/

/-- A memory device's state outside its registers. -/
structure Dev where
  /-- spare rows used: key pc × 64 + bank -/
  used : List (Nat × Nat)
  /-- rows that hPPR has written into the fuse map since delivery: key as above, and row (R219) -/
  fused : List (Nat × Nat)
  /-- banks with a soft repair pending: key as above, and its row -/
  soft : List (Nat × Nat)
  /-- what a stack or package tells of itself, with which training results are kept (R383) -/
  identity : Nat
  /-- the maintenance window is open since this beat -/
  windowOpen : Option Nat
  /-- the repair of the open window is made -/
  windowWork : Bool
  /-- at level 3 since this beat (R216) -/
  level3 : Option Nat
  deriving DecidableEq, Repr

def Dev.empty : Dev := { used := [], fused := [], soft := [], identity := 0, windowOpen := none, windowWork := false, level3 := none }

/-- A base die: its capture (R289 to R293), the mirror positions of its entries (R337), and its fill. -/
structure Die where
  capturing : Bool
  /-- mirror position at which each entry's records begin, from the job load, with the total last -/
  starts : List Nat
  /-- records still to capture: entry and record -/
  cursorEntry : Nat
  cursorRecord : Nat
  fillBeat : Nat
  /-- the step whose walk has begun and waits for a device, or is about to run (R216, R277) -/
  walk : Option Nat
  /-- fill data that waits for a device (R216) -/
  fillHeld : List FillItem
  deriving DecidableEq, Repr

def Die.empty : Die := { capturing := false, starts := [], cursorEntry := 0, cursorRecord := 0, fillBeat := 0, walk := none, fillHeld := [] }

/-! ### Carousel and verdict (spec/02, 11) -/

/-- A phase record in the making (Table PRG-8). -/
structure PhaseRec where
  step  : Nat
  phase : Nat
  start : Option Nat
  ended : BitVec 48
  flags : Nat
  peak  : Nat
  clock : Nat
  deriving DecidableEq, Repr

/-- The carousel outside its registers. -/
structure Carousel where
  entries : List PhaseEntry
  /-- running: started and not idle (R468) -/
  running : Bool
  /-- a write of zero to CAROUSEL_RUN waits for granted phases to end (R468) -/
  stopping : Bool
  /-- step with which it started or resumed since the last load; none before the first start (R467, R468) -/
  startStep : Option Nat
  /-- earlier period changes that are in force: FROM_STEP and period (R41, log entry 64) -/
  changes : List (Nat × Nat)
  records : List PhaseRec
  /-- envelopes declared: step and phase (R48) -/
  declared : List (Nat × Nat)
  /-- records made (R49) -/
  seq : Nat
  /-- the hold is one for loss of BEAT (R38) -/
  beatHold : Bool
  heldSince : Nat
  deriving DecidableEq, Repr

def Carousel.empty : Carousel :=
  { entries := [], running := false, stopping := false, startStep := none, changes := [], records := [], declared := []
    seq := 0, beatHold := false, heldSince := 0 }

/-- The step controller outside its registers. -/
structure StepCtl where
  /-- the 64-bit non-finite count of the current step (R261) -/
  nonfinite : Nat
  /-- steps in which a cause of R263 has acted -/
  withhold : List Nat
  /-- the step whose contribution is due in the beat after this one (R262) -/
  due : Option Nat
  /-- step of the contribution sent, and the beat it was sent -/
  sent : Option (Nat × Nat)
  /-- its verdict is already reported late (R266) -/
  late : Bool
  /-- the module's own contribution -/
  ownNonfinite : Nat
  /-- counts contributed to this module as owner: step, module, non-finite, withheld -/
  counts : List (Nat × Nat × Nat × Nat)
  /-- norm slots contributed to this module as owner: step, module, first slot, values -/
  slots : List (Nat × Nat × Nat × List Nat)
  /-- summed parts held -/
  sumCounts : Option (Nat × Nat)
  sumSlots : List (Nat × List Nat)
  /-- the verdict that has arrived: step, outcome, beat -/
  verdict : Option (Nat × Nat × Nat)
  /-- EXP in force during the step (R273) -/
  exp : Int
  /-- every infuser has finished its walk (R277) -/
  walkDone : Bool
  deriving DecidableEq, Repr

def StepCtl.empty : StepCtl :=
  { nonfinite := 0, withhold := [], due := none, sent := none, late := false, ownNonfinite := 0, counts := [], slots := []
    sumCounts := none, sumSlots := [], verdict := none, exp := 16, walkDone := true }

/-! ### The job and the repair map -/

/-- A dimension's SHARD entry (Table TEN-3). -/
structure Shard where
  axis : Nat
  count : Nat
  block : Nat
  deriving DecidableEq, Repr

/-- A tensor descriptor (Table TEN-1). -/
structure Tensor where
  id : Nat
  rank : Nat
  fmt : Nat
  layout : Nat
  blockAxis : Nat
  planeDim : Nat
  space : Nat
  mesh : Nat
  elem : Nat
  scale : Nat
  extent : List Nat
  stride : List Nat
  shard : List Shard
  deriving DecidableEq, Repr

/-- The loaded job (Table PRG-1). -/
structure Job where
  loaded : Bool
  digest : BitVec 32
  stateDigest : BitVec 32
  /-- the repair map has changed since the load otherwise than by spare-site swaps (R332) -/
  mapChanged : Bool
  tiles : BitVec 48
  tensors : List Tensor
  tensorTile : List (Nat × Nat)
  meshes : List Mesh
  modules : List (Nat × Nat)
  pinned : List Pinned
  /-- widths assumed per site and array, key as RepairMap.bypass (R340) -/
  widths : List (Nat × Nat)
  deriving DecidableEq, Repr

def Job.none : Job :=
  { loaded := false, digest := 0, stateDigest := 0, mapChanged := false, tiles := 0, tensors := []
    tensorTile := [], meshes := [], modules := [], pinned := [], widths := [] }

/-- The repair map (R8, R9, R14, R111 text, R224): retired position per band (13 for none), failed and
failing tiles, bypass masks by key (site × 16 + core) × 4 + array with site = band × 13 + position, and
the bad-page list. -/
structure RepairMap where
  retired : List Nat
  failed : BitVec 48
  failing : BitVec 48
  bypass : List (Nat × Word)
  badPages : List Word
  /-- sum of the widths of the 3,072 enabled arrays, as the ringmaster last computed it (R14) -/
  peak : Nat
  deriving DecidableEq, Repr

/-! ### Links (spec/12) -/

/-- What a packet of the panel mesh carries: a pulse to a counter, or a packet of the collective transport. -/
inductive Load where
  | pulse (ev : Nat)
  | packet (p : Packet)
  deriving DecidableEq, Repr

/-- A packet on its way over the panel mesh: its tiles, and whether it travels on the channel of responses (R296). -/
structure Flight where
  src : TileId
  dst : TileId
  response : Bool
  load : Load
  deriving DecidableEq, Repr

/-- What an Ethernet port adds to a packet (Tables LNK-2 and LNK-9): the port, the next hop's address, the VLAN tag, the DSCP value,
the UDP port, and the addresses, the peer's as its bytes. -/
structure EthFrame where
  port : Nat
  nextHop : Nat
  vlan : Option Nat
  dscp : Nat
  udp : Nat
  source : Nat
  dest : List Byte
  deriving DecidableEq, Repr

/-- A DATA packet without acknowledgement (R319). -/
structure Unacked where
  /-- the sending tile -/
  tile : TileId
  peer : Nat
  plane : Nat
  seq : Nat
  packet : Packet
  sent : Nat
  first : Nat
  retx : Nat
  deriving DecidableEq, Repr

/-- A silent peer (R322). -/
structure Silent where
  peer : Nat
  plane : Nat
  first : Nat
  reason : Nat
  deriving DecidableEq, Repr

/-- The links outside their registers. -/
structure Links where
  /-- next SEQ by peer × 32 + plane -/
  seqOut : List (Nat × Nat)
  unacked : List Unacked
  /-- accepted SEQs by peer × 32 + plane -/
  accepted : List (Nat × Nat)
  silent : List Silent
  /-- peers reported in the current fault epoch, and planes reported PRIMARY -/
  reported : List Nat
  primary : List Nat
  /-- links retraining: tile × 4 + dir, or 192 + port -/
  retraining : List Nat
  /-- positions joined by the selected vertical link of each logical tile to the tile below it (R10): tile, and the positions in
  its own band and in the next -/
  vertical : List (Nat × (Nat × Nat))
  /-- flit replays of mesh links, by tile × 4 + dir -/
  meshReplays : List (Nat × Nat)
  /-- credits that reached a collective not yet begun: tile, COLL_ID, contributor and segment (R314) -/
  credits : List (Nat × Nat × Nat × Nat)
  /-- DATA packets accepted for a collective not yet begun on their tile, or for a segment without a slot (R319) -/
  early : List Packet
  /-- requests of peers that wait for a device (R216) -/
  served : List (BitVec 12 × BitVec 32 × RdmaOp)
  /-- replays of the flit that fails, by link (R308) -/
  flits : List (Nat × Nat)
  /-- lanes of a Span port whose inversion the receiver corrects (R445) -/
  polarity : List (Nat × Nat)
  /-- halvings of the transport's window, by peer × 32 + plane (Table LNK-2) -/
  windows : List (Nat × Nat)
  /-- beat at which a plane's port went down (R324); 0 for one that never came up -/
  downSince : List (Nat × Nat)
  /-- beat of the last write of LNK_FAULT_EPOCH (R326) -/
  epochBeat : Nat
  deriving DecidableEq, Repr

def Links.empty : Links :=
  { seqOut := [], unacked := [], accepted := [], silent := [], reported := [], primary := []
    retraining := [], vertical := [], meshReplays := [], credits := [], early := [], served := []
    flits := [], polarity := [], windows := [], downSince := [], epochBeat := 0 }

/-! ### Host interface, boot and update (spec/15) -/

/-- A ring outside its registers. -/
structure Ring where
  tail : Nat
  cqHead : Nat
  /-- the command in execution -/
  cur : Option (List Byte)
  /-- a completion that waits for room: status, detail, value (R369) -/
  waiting : Option (Nat × Nat × Nat)
  /-- records not yet announced, and the beat of the first -/
  unannounced : Nat
  firstBeat : Nat
  deriving DecidableEq, Repr

def Ring.empty : Ring :=
  { tail := 0, cqHead := 0, cur := none, waiting := none, unannounced := 0, firstBeat := 0 }

/-- A memory region (R373). -/
structure Region where
  valid : Bool
  addr : Nat
  size : Nat
  write : Bool
  read : Bool
  gen : Nat
  deriving DecidableEq, Repr

def Region.empty : Region := { valid := false, addr := 0, size := 0, write := false, read := false, gen := 0 }

/-- An event log entry (Table MGT-2), without its CRC, which `serialise` forms. -/
structure LogEntry where
  beat : Nat
  seq : Nat
  kind : EventKind
  boot : Bool
  unit : Nat
  data : Nat
  /-- beat in which the ringmaster appended it to its log (R420) -/
  logged : Nat
  deriving DecidableEq, Repr

/-- The module part of the flash (Table HST-9): the repair map with its bad-page list, the rows pending hPPR (device number, pc,
bank, row; R220), the channels whose training results it does not hold (R383; device number and channel), the devices' identities as
stored with the results, and the DeviceID certificate and the manufacturing repair map with what Relroth's signature covers. -/
structure ModulePart where
  repair : RepairMap
  repairList : List (Nat × Nat × Nat × Nat)
  untrained : List (Nat × Nat)
  identities : List (Nat × Nat)
  cert : List Byte
  certSigned : List Byte
  manufactured : RepairMap
  manufacturedSigned : RepairMap
  deriving DecidableEq, Repr

/-- A copy of the module part: its sequence number, its content, and the content that its HMAC-SHA-384 was formed over (R374, log
entry 88). -/
structure PartCopy where
  seq : Nat
  body : ModulePart
  mac : ModulePart
  deriving DecidableEq, Repr

/-- The checks of a copy: the HMAC, and Relroth's signature of the certificate and of the manufacturing repair map (R374). -/
def PartCopy.passes (c : PartCopy) : Bool :=
  c.mac == c.body && c.body.certSigned == c.body.cert && c.body.manufacturedSigned == c.body.manufactured

/-- The flash (Table HST-9) and the fuses. -/
structure Flash where
  headerA : Bool
  headerB : Bool
  image : ConfigImage
  /-- the image in flash as the checks of R375 and R376 last passed it at the end of a write, whose every later check passes while the
  flash holds these very bytes (R389); none while a write is in progress -/
  checked : Option ConfigImage
  /-- the copies of the module part (R374) -/
  partA : PartCopy
  partB : PartCopy
  /-- the module part in use, but for the repair map: channels without training results and the identities stored with the others
  (R383), rows pending hPPR (R220) -/
  untrained : List (Nat × Nat)
  identities : List (Nat × Nat)
  repairList : List (Nat × Nat × Nat × Nat)
  /-- the LMS state region (Table HST-12): the records programmed in each sector, in order, and the bottom tree whose public key is
  kept beside them with the top tree's signature -/
  lmsA : List (List Byte)
  lmsB : List (List Byte)
  /-- slots of the region that do not read back as programmed, as the outside world makes them: sector and slot (R380) -/
  lmsBad : List (Nat × Nat)
  bottomTree : Nat
  /-- the next bottom tree is built (R381) -/
  treeReady : Bool
  log : List LogEntry
  svnFuses : Nat
  /-- revoked ECDSA and LMS key slots, key hashes (R375) -/
  revokedEcdsa : BitVec 4
  revokedLms : BitVec 4
  hashEcdsa : List (BitVec 384)
  hashLms : List (BitVec 384)
  deriving DecidableEq, Repr

def ConfigImage.blank : ConfigImage :=
  { header := [], ecdsaKey := [], ecdsaSig := [], lmsKey := [], lmsSig := [], sigRest := [], body := [] }

/-- The repair map of a module as shipped with no site retired and no column bypassed (log entry 4). -/
def RepairMap.whole : RepairMap :=
  { retired := [13, 13, 13, 13], failed := 0, failing := 0, bypass := [], badPages := [], peak := 196608 }

/-- The module part as shipped (log entry 4). -/
def ModulePart.shipped : ModulePart :=
  { repair := RepairMap.whole, repairList := [], untrained := [], identities := [], cert := [], certSigned := []
    manufactured := RepairMap.whole, manufacturedSigned := RepairMap.whole }

/-- The first LMS state record: MAGIC, SEQ, TOP_Q and BOTTOM_Q 0, and its CRC. -/
def shippedLmsRecord : List Byte :=
  [0x53, 0x53, 0x4D, 0x4C, 0, 0, 0, 0, 0, 0, 0, 0, 0, 0, 0, 0, 0, 0, 0, 0, 0, 0, 0, 0, 0, 0, 0, 0, 0x03, 0xF4, 0xE0, 0x04]

def Flash.shipped : Flash :=
  { headerA := true, headerB := true, image := ConfigImage.blank, checked := some ConfigImage.blank
    partA := ⟨0, ModulePart.shipped, ModulePart.shipped⟩, partB := ⟨1, ModulePart.shipped, ModulePart.shipped⟩
    untrained := [], identities := [], repairList := [], lmsA := [shippedLmsRecord], lmsB := [], lmsBad := [], bottomTree := 0
    treeReady := false, log := [], svnFuses := 0, revokedEcdsa := 0, revokedLms := 0
    hashEcdsa := [0, 0, 0, 0], hashLms := [0, 0, 0, 0] }

/-- The update in progress (R386 to R391). -/
structure Update where
  /-- where the staged image lies, and its length in bytes (R386) -/
  staged : Option (Nat × Nat)
  /-- section types still to apply -/
  waiting : List Nat
  /-- digest and IFACE in force, by section type -/
  inForce : List (Nat × (BitVec 384 × BitVec 16))
  /-- the beat that firmware names for section 8 -/
  policyBeat : Nat
  /-- channels on which section 5 has been applied: device and channel (Table HST-11) -/
  channels : List (Nat × Nat)
  /-- the PLDM update agent's medium and the bytes received (R424) -/
  agent : Option Medium
  received : List Byte
  deriving DecidableEq, Repr

def Update.empty : Update :=
  { staged := none, waiting := [], inForce := [], policyBeat := 0, channels := [], agent := none, received := [] }

/-! ### Management (spec/17) -/

/-- Per medium: the endpoint ID, SPDM negotiation and transcript, and subscribers. -/
structure Port where
  eid : Option Byte
  negotiated : Bool
  /-- SHA-384 transcript digest of the last signed response -/
  transcript : Option (BitVec 384)
  subscribers : List (Byte × BitVec 3)
  deriving DecidableEq, Repr

def Port.empty : Port := { eid := none, negotiated := false, transcript := none, subscribers := [] }

/-- A sensor (R417, R418): last, lowest and highest reading, missed periods, thresholds crossed (bit 0 warning, 1 critical,
2 fatal). -/
structure Sensor where
  last : Option Int
  low : Int
  high : Int
  missed : Nat
  crossed : Nat
  deriving DecidableEq, Repr

def Sensor.empty : Sensor := { last := none, low := 0, high := 0, missed := 0, crossed := 0 }

/-- The ringmaster (spec/17). -/
structure Manager where
  /-- the hardware queue, at most 4,096 (R419) -/
  queue : List LogEntry
  /-- events dropped since the queue last accepted one -/
  dropped : Nat
  ram : List LogEntry
  /-- entries of the RAM log already in flash: the next SEQ to copy -/
  copied : Nat
  tid : Byte
  /-- the registered event receiver: endpoint ID, and the medium it is reached on (R418) -/
  receiver : Option Byte
  receiverOn : Medium
  /-- events for it that wait while the ringmaster does not answer: sensor and reading -/
  events : List (Nat × Int)
  ports : List Port
  sensors : List (Nat × Sensor)
  /-- warm restart in progress (R394) -/
  restarting : Bool
  /-- beats of the boot in progress (Table HST-13) -/
  bootBeats : Nat
  mismatchBeat : Option Nat
  kickBeat : Nat
  netSeq : Nat
  /-- HSS signatures that wait for the next bottom tree: medium and message (R379, R381) -/
  hssWaiting : List (Medium × BitVec 384)
  deriving DecidableEq, Repr

def Manager.empty : Manager :=
  { queue := [], dropped := 0, ram := [], copied := 0, tid := 0, receiver := none, receiverOn := .i3c, events := []
    ports := [Port.empty, Port.empty, Port.empty], sensors := [], restarting := false, bootBeats := 0
    mismatchBeat := none, kickBeat := 0, netSeq := 0, hssWaiting := [] }

/-- A snapshot trigger that has fired: beat, source of Table MGT-14, tile (R432, R434). -/
structure Trigger where
  beat : Nat
  source : Nat
  tile : Nat
  deriving DecidableEq, Repr

/-- Snapshot state outside the registers. -/
structure Snaps where
  triggers : List Trigger
  /-- latched contents by block number, in the order of Table MGT-8 -/
  latches : List (Nat × List Nat)
  driveFrom : Option Nat
  saving : Bool
  /-- the dump area's capture: cause and latches -/
  dump : Option (Nat × List (Nat × List Nat))
  deriving DecidableEq, Repr

def Snaps.empty : Snaps := { triggers := [], latches := [], driveFrom := none, saving := false, dump := none }

/-! ### Power (spec/16) -/

/-- The samovar outside its registers. Draws are in 10 W units, beats are counter values. -/
structure Power where
  applied : Bool
  millivolts : Int
  centiamps : Nat
  underSince : Option Nat
  overSince : Option Nat
  /-- window averages, newest first, at most 100,000 (R402) -/
  windows : List Nat
  /-- beat at which a clock step up may take effect (R404) -/
  stepUpAt : Option Nat
  /-- heat holds the clock at or below this step, and goes on stepping it down (R409) -/
  heatSteps : Nat
  heatDown : Bool
  /-- coolant cap (R411) -/
  coolantCap : Nat
  lowFlow : Nat
  missedFlow : Nat
  /-- inlet in 0.1 degrees, last valid -/
  inlet : Int
  /-- beat of the shutdown's cause, and how far it has run: 1 begun, 2 memories off, 3 regulators off -/
  shutdownAt : Nat
  shutdownStage : Nat
  /-- declarations received (R48, R405): step, phase, ENVELOPE and COLLECTIVE -/
  envelopes : List (Nat × Nat × Nat × Bool)
  /-- ballast the samovar runs, and the draw it brings the module to, in hundredths of a watt (R401, R402) -/
  target : Nat
  level : Nat
  /-- ballast energy since the last 10 J of it, in units of 10 W for 1,000 beats (Table MGT-7) -/
  energy : Nat
  floorOff : Bool
  readyAt : Option Nat
  /-- the coolant sensors have their dynamic addresses (R447) -/
  assigned : Bool
  deriving DecidableEq, Repr

def Power.off : Power :=
  { applied := false, millivolts := 0, centiamps := 0, underSince := none, overSince := none, windows := []
    stepUpAt := none, heatSteps := 0, heatDown := false, coolantCap := 0, lowFlow := 0, missedFlow := 0, inlet := 0
    shutdownAt := 0, shutdownStage := 0, envelopes := [], target := 0, level := 0, energy := 0, floorOff := true, readyAt := none, assigned := false }

/-! ### Pins and turnstile -/

/-- A request of the module to host memory, or a message to the host. -/
inductive Waiting where
  /-- the next request of a channel's descriptor or chain -/
  | channel (e : Engine)
  /-- a ring's command fetch, command data or completion record -/
  | ring (q : RingId)
  | message (vector addr data : Nat)
  /-- a phase clock record (R49) -/
  | record (bytes : List Byte)
  /-- an abort record of a tile channel and its address (R236) -/
  | abortRecord (t : TileId) (channel addr : Nat) (bytes : List Byte)
  /-- the result word of a core's SCU command (R192) -/
  | result (c : CoreId) (addr : Nat) (bytes : List Byte)
  | rdma (qpn : BitVec 12) (rkey : BitVec 32) (op : RdmaOp)
  deriving DecidableEq, Repr

/-- A request that waits on a port whose link is down, and the beat since which it does (R363). -/
structure HostWait where
  port : Nat
  since : Nat
  what : Waiting
  deriving DecidableEq, Repr

/-- Sideband pins and straps (Table CON-4), the JTAG port and the PCIe links. -/
structure Pins where
  modrst : Bool
  /-- MODRST_L was released during a shutdown (R452) -/
  releaseWaits : Bool
  /-- MODRST_L was asserted during the shutdown that runs (R452) -/
  lateReset : Bool
  throt : Bool
  alert : Bool
  pgood : Bool
  /-- the module drives SNAP_L low (R435) -/
  snapLow : Bool
  /-- what PRELOAD left in the cells of the boundary register (R448) -/
  boundary : List Bool
  boardPos : Nat
  slotId : Nat
  jtagOut : List Bool
  /-- MSI-X enabled on P0, P1 (configuration space) -/
  msix : List Bool
  /-- vectors with a message pending, and its port (R372) -/
  msiPending : List (Nat × Nat)
  /-- requests that wait on a port whose link is down, oldest first (R363) -/
  waits : List HostWait
  beatPresent : Bool
  deriving DecidableEq, Repr

def Pins.reset : Pins :=
  { modrst := true, releaseWaits := false, lateReset := false, throt := false, alert := false, pgood := false, snapLow := false, boundary := []
    boardPos := 0, slotId := 0, jtagOut := [], msix := [false, false], msiPending := [], waits := []
    beatPresent := false }

/-- An engine of the turnstile at work: its number, the tile and channel of its descriptor, the context record as the engine read it
when it started (R352, R358). -/
structure EngineRun where
  engine : Nat
  tile : Nat
  chan : Nat
  record : List Byte
  deriving DecidableEq, Repr

/-- The turnstile's waiting descriptors in arrival order, by tile and channel, and its engines at work (R352). -/
structure Turnstile where
  waiting : List (Nat × Nat)
  running : List EngineRun
  deriving DecidableEq, Repr

def Turnstile.empty : Turnstile := { waiting := [], running := [] }

/-! ### What leaves the module -/

/-- A response to a management request (R378, R379, R422 to R425). -/
inductive Reply where
  | spdmVersion (major minor : Nat)
  | spdmCapabilities (cert chal meas : Bool)
  | spdmAlgorithms (ok : Bool)
  | spdmDigests (d : BitVec 384)
  | spdmCertificate (chain : List Byte)
  | spdmChallenge (transcript : BitVec 384) (signature : BitVec 768)
  | spdmMeasurements (blocks : List (Nat × BitVec 384)) (transcript : BitVec 384) (signature : BitVec 768)
  | spdmError
  | hssSignature (signature : List Byte)
  | signaturesLeft (n : Nat)
  | endpointId (eid : Byte)
  | endpointUuid (uuid : BitVec 128)
  | mctpVersion (ok : Bool)
  | messageTypes (types : List Nat)
  | tid (t : Byte)
  | done
  | pldmTypes (types : List Nat)
  | pldmVersion (type : Nat)
  | pldmCommands (names : List Nat)
  | unsupportedPldmCommand
  | sensor (value : Option Int)
  | pdrInfo (records : Nat)
  | pdr (sensor : Option Nat)
  | identifiers (order : Nat) (rev : Nat)
  | firmware (build : Word) (pending : Option Word)
  | alreadyInUpdateMode
  | notInUpdateMode
  | requestFirmwareData (offset : Nat)
  | transferComplete
  | verifyComplete (ok : Bool)
  | applyComplete
  | updateStatus (state : Nat)
  | flashLog (entries : List LogEntry)
  | noRoom
  deriving DecidableEq, Repr

/-- What the module sends out, in order. -/
inductive OutMsg where
  | msix (port vector addr data : Nat)
  | reply (m : Medium) (r : Reply)
  | pushForecast (m : Medium) (eid : Byte) (record : List Word)
  | pushReport (m : Medium) (eid : Byte) (record : List Byte)
  | pushLog (m : Medium) (eid : Byte) (e : LogEntry)
  | platformEvent (m : Medium) (eid : Byte) (sensor : Nat) (value : Int)
  | datagram (port : Nat) (dest : BitVec 128) (header record : List Byte)
  | uart (e : LogEntry)
  | pulse (port pos tile ev : Nat)
  | slew (port : Nat) (amount : Int) (apply : Nat)
  | packet (frame : Option EthFrame) (p : Packet)
  | verdict (frame : Option EthFrame) (v : VerdictMsg)
  | replay (link : Nat)
  | rdma (frame : EthFrame) (data : Option (List Byte))
  | cnp (frame : EthFrame)
  | arp (frame : Option EthFrame) (addr : BitVec 128)
  | delayRequest (frame : EthFrame)
  | spanWrite (module base idx width code : Nat) (poison : Bool)
  | fillRead (dscp stack first : Nat)
  | upload (dscp stack base bytes : Nat)
  | tdo (bits : List Bool)
  | setdasa (static dynamic : Nat)
  deriving DecidableEq, Repr

/-! ### The whole state -/

/-- The module (spec/00 to spec/19), the model's counter of free values (`free`, no part of the spec)
and the queue of waiting commands. -/
structure State where
  /-- every register, by offset from 0x00_3000_0000_0000; unlisted reads its reset value -/
  regs : List (Nat × Word)
  /-- every byte of HBM (by stack and offset), deep tier, scratchpads, operand stores and host memory -/
  mem : List Host.Cell
  /-- envelope exclusive-or CRC-32C of each 512-byte block: 0 sound, all ones marked poison (R255) -/
  env : List (Nat × BitVec 32)
  errs : List MemErr
  /-- sequencers by global core -/
  seqs : List (Nat × Seq)
  tiles : List (Nat × Tile)
  slices : List (Nat × Slice)
  /-- pool rings: head and tail positions -/
  pools : List (Nat × (Nat × Nat))
  moves : List Move
  /-- channels: 32 t + c, 2000 + 4 s + c, 3000 + c -/
  chans : List (Nat × Chan)
  /-- packets on their way over the panel mesh, in the order in which they were sent (R296) -/
  mesh : List Flight
  /-- what waits in a Span port's queue while the port is down or retrains (R308, R309): port and message -/
  spanHeld : List (Nat × OutMsg)
  /-- what a tile sends through a port die and what waits on the way there for a link that retrains, oldest first (R298, R308): the tile,
  the plane or 16 + Span port, and the message -/
  dieHeld : List (TileId × Nat × OutMsg)
  /-- what has come in through a port die and waits on the mesh on its way to a tile (R298, R308): the tile, the die and the load -/
  dieIn : List (TileId × Bool × Load)
  /-- devices: stack s, 24 + package -/
  devs : List (Nat × Dev)
  dies : List (Nat × Die)
  /-- ranges retired until power-down (R225) -/
  tempRetired : List Word
  beat : Word
  /-- first beat of a slew window (R40) -/
  windowStart : Bool
  /-- slews sent and not yet applied: amount and apply beat (R39) -/
  slews : List (Int × Nat)
  ptpStamp : Nat
  /-- beat of the last SYNC load, and whether one was (R36) -/
  syncBase : Option Nat
  car : Carousel
  stp : StepCtl
  job : Job
  repair : RepairMap
  links : Links
  rings : List (Nat × Ring)
  qps : List (Nat × List Byte)
  regions : List (Nat × Region)
  flash : Flash
  upd : Update
  mgr : Manager
  snaps : Snaps
  pwr : Power
  pins : Pins
  vid : Turnstile
  /-- latched high halves: offset, and 1 added for the host (R458) -/
  halves : List (Nat × BitVec 32)
  out : List OutMsg
  free : Nat
  pending : List Instr
  deriving DecidableEq, Repr

/-- A step that faults. -/
inductive Fault where
  /-- Raised by INPUT_SAMPLE for an input beyond the absolute limits of Table CON-7: the manual does not
  say how the module behaves from then on (R443, R453). Safe. -/
  | beyondAbsoluteLimits
  deriving DecidableEq, Repr

/-- A command without a meaning. -/
inductive Refusal where
  /-- No meaning written yet for the row named. Safe. -/
  | notModelled (mnemonic : String)
  deriving DecidableEq, Repr

/-- The module right after reset: 36 V applied, MODRST_L asserted, STANDBY, every register at its reset value, memory with
nothing listed, no job (R398, R452, log entries 3 and 4). -/
def State.reset : State :=
  { regs := [], mem := [], env := [], errs := [], seqs := [], tiles := [], slices := [], pools := []
    moves := [], chans := [], mesh := [], spanHeld := [], dieHeld := [], dieIn := [], devs := [], dies := [], tempRetired := [], beat := 0
    windowStart := true, slews := [], ptpStamp := 0, syncBase := none, car := Carousel.empty
    stp := StepCtl.empty, job := Job.none, repair := RepairMap.whole, links := Links.empty, rings := []
    qps := [], regions := [], flash := Flash.shipped, upd := Update.empty, mgr := Manager.empty
    snaps := Snaps.empty, pwr := { Power.off with applied := true }, pins := Pins.reset, vid := Turnstile.empty
    halves := [], out := [], free := 0, pending := [] }

end Sys2Proof.Machine
end

