-- ==== Sys2Proof/Machine/Ops.lean ====
section
/-! DEFINITION. The named operations over the state: registers and their fields, the sparse maps of
units, free values, events, alerts, interrupts, snapshot triggers and monitoring counters. -/

namespace Sys2Proof.Machine

/-! ### Registers -/

/-- The value of the register at an offset. -/
def State.reg (s : State) (a : Nat) : Nat := (mapGet (regReset a) s.regs a).toNat

/-- Set a whole register. -/
def State.setReg (s : State) (a v : Nat) : State :=
  { s with regs := mapSet (regReset a) s.regs a (BitVec.ofNat 64 v) }

/-- Read a field. -/
def fget (s : State) (a : Nat) (f : Fld) : Nat := bitsAt (s.reg a) f.lo f.width

/-- Write a field. -/
def fset (s : State) (a : Nat) (f : Fld) (v : Nat) : State :=
  s.setReg a (putBits (s.reg a) f.lo f.width v)

/-- A one-bit field reads 1. -/
def fbit (s : State) (a : Nat) (f : Fld) : Bool := fget s a f == 1

/-- The largest value of a field. -/
def Fld.max (f : Fld) : Nat := 2 ^ f.width - 1

/-- Add to a counter that sticks at its largest value (R462). -/
def fadd (s : State) (a : Nat) (f : Fld) (n : Nat) : State :=
  fset s a f (stick f.max (fget s a f + n))

/-- An address field's value in place: the register's address bits. -/
def faddr (s : State) (a : Nat) (f : Fld) : Nat := fget s a f * 2 ^ f.lo

/-! ### The units -/

def State.seq (s : State) (c : CoreId) : Seq := mapGet Seq.empty s.seqs (16 * c.tile.val + c.core.val)
def State.setSeq (s : State) (c : CoreId) (x : Seq) : State :=
  { s with seqs := mapSet Seq.empty s.seqs (16 * c.tile.val + c.core.val) x }

def State.tile (s : State) (t : TileId) : Tile := mapGet Tile.empty s.tiles t.val
def State.setTile (s : State) (t : TileId) (x : Tile) : State :=
  { s with tiles := mapSet Tile.empty s.tiles t.val x }

def State.slice (s : State) (t : TileId) : Slice := mapGet Slice.empty s.slices t.val
def State.setSlice (s : State) (t : TileId) (x : Slice) : State :=
  { s with slices := mapSet Slice.empty s.slices t.val x }

/-- The number of a channel: 32 t + c, 2000 + 4 s + c or 3000 + c. -/
def chanKey : Engine → Nat
  | .tile t c => 32 * t.val + c.val
  | .die h c => 2000 + 4 * h.val + c.val
  | .host c => 3000 + c.val

def State.chan (s : State) (e : Engine) : Chan := mapGet Chan.empty s.chans (chanKey e)
def State.setChan (s : State) (e : Engine) (x : Chan) : State :=
  { s with chans := mapSet Chan.empty s.chans (chanKey e) x }

/-- The number of a memory device: stack s, or 24 + package. -/
def devKey : MemDev → Nat
  | .stack h => h.val
  | .package h k => 24 + 2 * h.val + k.val

/-- The stack whose base die controls a device (R11). -/
def devDie : MemDev → StackId
  | .stack h => h
  | .package h _ => h

def State.dev (s : State) (d : MemDev) : Dev := mapGet Dev.empty s.devs (devKey d)
def State.setDev (s : State) (d : MemDev) (x : Dev) : State :=
  { s with devs := mapSet Dev.empty s.devs (devKey d) x }

def State.die (s : State) (h : StackId) : Die := mapGet Die.empty s.dies h.val
def State.setDie (s : State) (h : StackId) (x : Die) : State :=
  { s with dies := mapSet Die.empty s.dies h.val x }

def State.ring (s : State) (q : RingId) : Ring := mapGet Ring.empty s.rings q.val
def State.setRing (s : State) (q : RingId) (x : Ring) : State :=
  { s with rings := mapSet Ring.empty s.rings q.val x }

/-- The index of a management medium. -/
def mediumKey : Medium → Nat
  | .vdmP0 => 0
  | .vdmP1 => 1
  | .i3c => 2

def State.port (s : State) (m : Medium) : Port := nthD Port.empty s.mgr.ports (mediumKey m)
def State.setPort (s : State) (m : Medium) (p : Port) : State :=
  { s with mgr := { s.mgr with ports := setNth s.mgr.ports (mediumKey m) p } }

def State.sensor (s : State) (i : Nat) : Sensor := mapGet Sensor.empty s.mgr.sensors i
def State.setSensor (s : State) (i : Nat) (x : Sensor) : State :=
  { s with mgr := { s.mgr with sensors := mapSet Sensor.empty s.mgr.sensors i x } }

/-- The 16 cores of a tile, in ascending order. -/
def tileCores (t : TileId) : List CoreId := (List.finRange 16).map fun c => ⟨t, c⟩

/-- A logical tile by number. -/
def tileOf? (n : Nat) : Option TileId := if h : n < 48 then some ⟨n, h⟩ else none

/-- A mask's bit for a tile. -/
def inTiles (m : BitVec 48) (t : TileId) : Bool := m.getLsbD t.val

/-! ### Free values -/

/-- Take a fresh free value (log entry 6). -/
def takeFree (s : State) : BitVec 64 × State := (Config.freeValue s.free, { s with free := s.free + 1 })

/-- The beat counter as a number. -/
def State.now (s : State) : Nat := s.beat.toNat

/-! ### Messages, interrupts, events and alerts -/

/-- Send something out of the module. -/
def emit (s : State) (m : OutMsg) : State := { s with out := s.out ++ [m] }

/-- The PCIe link of a port is up. -/
def portUp (s : State) (p : Nat) : Bool :=
  if p = 0 then fbit s HIF_STATUS f_HIF_STATUS_P0_UP else fbit s HIF_STATUS f_HIF_STATUS_P1_UP

/-- A request waits on a port whose link is down, from this beat on (R363). A channel or ring has one request at a time. -/
def waitLink (s : State) (p : Nat) (w : Waiting) : State :=
  let again := match w with
    | .channel _ | .ring _ => s.pins.waits.any fun x => x.port == p && x.what == w
    | _ => false
  if again then s else { s with pins := { s.pins with waits := s.pins.waits ++ [⟨p, s.now, w⟩] } }

/-- Forget requests that wait on a port. -/
def dropWaits (s : State) (p : HostWait → Bool) : State :=
  { s with pins := { s.pins with waits := s.pins.waits.filter fun w => !p w } }

/-- Send an MSI-X message, or hold it pending while its port is disabled or its vector masked (R372); a message to a port whose
link is down waits for it (R363). -/
def msix (s : State) (port vector : Nat) : State :=
  if nthD false s.pins.msix port && !fbit s (MSIX_DATA vector) f_MSIX_DATA_MASK then
    let addr := s.reg (MSIX_ADDR vector)
    let data := fget s (MSIX_DATA vector) f_MSIX_DATA_DATA
    if portUp s port then emit s (.msix port vector addr data) else waitLink s port (.message vector addr data)
  else
    let s := { s with pins := { s.pins with msiPending := mapSet 2 s.pins.msiPending vector port } }
    s.setReg (MSIX_PBA (vector / 64)) (putBits (s.reg (MSIX_PBA (vector / 64))) (vector % 64) 1 1)

/-- Signal an interrupt source of Table HST-7 on the vector and port of its route (R372). -/
def interrupt (s : State) (source : Nat) : State :=
  if fbit s (HIF_IRQ_ROUTE source) f_HIF_IRQ_ROUTE_ENABLE then
    msix s (fget s (HIF_IRQ_ROUTE source) f_HIF_IRQ_ROUTE_PORT)
      (fget s (HIF_IRQ_ROUTE source) f_HIF_IRQ_ROUTE_VECTOR)
  else s

/-- ALERT_L is asserted for an enabled alert, for R415 and during a shutdown (R427). -/
def refreshAlert (s : State) : State :=
  { s with pins := { s.pins with
      alert := (s.reg MGS_ALERT &&& s.reg MGS_ALERT_EN) != 0 || fbit s MGS_STATUS f_MGS_STATUS_RM_HELD
        || s.pwr.shutdownStage != 0 } }

/-- Set a bit of MGS_ALERT; a newly set enabled bit signals source 6 (R427). -/
def raiseAlert (s : State) (f : Fld) : State :=
  if fbit s MGS_ALERT f then refreshAlert s
  else
    let s := refreshAlert (fset s MGS_ALERT f 1)
    if fbit s MGS_ALERT_EN f then interrupt s 6 else s

/-- Post an event to the hardware queue of 4,096 entries, stamped with the beat; a full queue drops and
counts it, and the entry next accepted is preceded by one with code LOST (R419). -/
def post (s : State) (k : EventKind) (unit data : Nat) : State :=
  let mk := fun (k : EventKind) (u d : Nat) => LogEntry.mk s.beat.toNat 0 k false u d 0
  if (s.mgr.queue.filter fun e => e.kind != .lost).length ≥ 4096 then
    let s := fadd s MGS_STATUS f_MGS_STATUS_LOST 1
    raiseAlert { s with mgr := { s.mgr with dropped := s.mgr.dropped + 1 } } f_MGS_ALERT_LOG_LOST
  else
    let lost := if s.mgr.dropped = 0 then [] else [mk .lost 0 s.mgr.dropped]
    { s with mgr := { s.mgr with queue := s.mgr.queue ++ lost ++ [mk k unit data], dropped := 0 } }

/-- A snapshot trigger fires in this beat (R432): its source of Table MGT-14 and, for sources 1 and 2, its tile. -/
def fireSnapshot (s : State) (source tile : Nat) : State :=
  { s with snaps := { s.snaps with triggers := s.snaps.triggers ++ [⟨s.beat.toNat, source, tile⟩] } }

/-! ### Monitoring counters (R428 to R431) -/

/-- One addition to a counter, whose select register holds `sel` (R429). -/
def mcBump (s : State) (a sel amount : Nat) : State :=
  let c := fget s a f_MGS_MC_VAL_COUNT
  if c + amount < 2 ^ 48 then fset s a f_MGS_MC_VAL_COUNT (c + amount)
  else if c + 1 = 2 ^ 48 ∧ fbit s a f_MGS_MC_VAL_OVF then s
  else
    let s := fset (fset s a f_MGS_MC_VAL_COUNT (2 ^ 48 - 1)) a f_MGS_MC_VAL_OVF 1
    if bitAt sel f_MGS_MC_SEL_EVENT_ON_OVF.lo then
      raiseAlert (post s .counterSaturated 0 sel) f_MGS_ALERT_COUNTER
    else s

/-- A source of Table MGT-7 reports an amount for a unit: every enabled counter of the run at `base` that
selects it adds it (R428). A source without units, given as unit 0xFF, is selected by any UNIT. An enabled counter is listed, because ENABLE
resets to 0. -/
def mcAdd (s : State) (base count source unit amount : Nat) : State :=
  if amount = 0 ∨ fbit s MGS_MC_CTL f_MGS_MC_CTL_FREEZE then s
  else
    (s.regs.filter fun p =>
        decide (base ≤ p.1 ∧ p.1 < base + 16 * count ∧ (p.1 - base) % 16 = 0) &&
        bitAt p.2.toNat f_MGS_MC_SEL_ENABLE.lo &&
        bitsAt p.2.toNat f_MGS_MC_SEL_SOURCE.lo f_MGS_MC_SEL_SOURCE.width == source &&
        (unit == 0xFF || bitsAt p.2.toNat f_MGS_MC_SEL_UNIT.lo f_MGS_MC_SEL_UNIT.width == 0xFF ||
          bitsAt p.2.toNat f_MGS_MC_SEL_UNIT.lo f_MGS_MC_SEL_UNIT.width == unit)).foldl
      (fun s p => mcBump s (p.1 + 8) p.2.toNat amount) s

/-- A tile source (codes 0x001 to 0x0FF). -/
def mcTile (s : State) (t : TileId) (source unit amount : Nat) : State :=
  mcAdd s (TL_MC_SEL t.val 0) 64 source unit amount

/-- A module source (codes 0x100 to 0x1FF). -/
def mcModule (s : State) (source unit amount : Nat) : State :=
  mcAdd s (MGS_MC_SEL 0) 128 source unit amount

/-! ### The host's and firmware's writes -/

/-- Whether a register row of the table is open to a requester: nothing before READY for the host
(R365), and the host only where the group's grant is set (R460). `group` is the bit of MGS_HOST_WR, or
none for a register that only firmware writes (Table REG-3). -/
def mayWrite (s : State) (r : Requester) (group : Option Nat) : Bool :=
  match r, group with
  | .firmware, _ => true
  | _, some g => fbit s HIF_STATUS f_HIF_STATUS_READY && bitAt (s.reg MGS_HOST_WR) g
  | _, none => false

/-- A host write that R460 ignores is counted with its offset; before READY it is only ignored (R365). -/
def denyWrite (s : State) (a : Nat) : State :=
  if fbit s HIF_STATUS f_HIF_STATUS_READY then
    fset (fadd s MGS_HOST_DENIED f_MGS_HOST_DENIED_COUNT 1) MGS_HOST_DENIED f_MGS_HOST_DENIED_OFFSET a
  else s

/-- Bits of MGS_HOST_WR (Table REG-2). -/
def grpTimebase : Nat := 0
def grpStep : Nat := 1
def grpPower : Nat := 2
def grpLink : Nat := 3
def grpScu : Nat := 4
def grpMemory : Nat := 5
def grpMonitor : Nat := 6
def grpSnapshot : Nat := 7
def grpTile : Nat := 8
def grpVideo : Nat := 9

/-- A write of register `a` from a requester: `act` where it takes effect, counted where R460 ignores it. -/
def guardedWrite (s : State) (r : Requester) (a : Nat) (group : Option Nat) (act : State → State) : State :=
  if mayWrite s r group then act s else denyWrite s a

/-- The module is sealed: RWL fields hold their values (R461). -/
def isSealed (s : State) : Bool := fbit s MGS_SEAL f_MGS_SEAL_SEAL

/-! ### The module part of the flash -/

/-- The newest copy of the module part whose checks pass (R374). -/
def newestPart (f : Flash) : Option PartCopy :=
  match f.partA.passes, f.partB.passes with
  | true, true => some (if f.partA.seq ≤ f.partB.seq then f.partB else f.partA)
  | true, false => some f.partA
  | false, true => some f.partB
  | false, false => none

/-- Read the module part (R374). -/
def readPart (s : State) (p : ModulePart) : State :=
  { s with repair := p.repair, flash := { s.flash with
      untrained := p.untrained, identities := p.identities, repairList := p.repairList } }

/-- The module part as it is now in use; what Relroth signed stays as it stands in the newest copy. -/
def partNow (s : State) : ModulePart :=
  { ((newestPart s.flash).getD s.flash.partA).body with
    repair := s.repair, repairList := s.flash.repairList, untrained := s.flash.untrained, identities := s.flash.identities }

/-- A write of the module part goes to the older copy with the next sequence number (R374). -/
def writePart (s : State) : State :=
  let a := s.flash.partA
  let b := s.flash.partB
  let new := fun n => PartCopy.mk n (partNow s) (partNow s)
  { s with flash := if a.seq ≤ b.seq then { s.flash with partA := new (b.seq + 1) }
                    else { s.flash with partB := new (a.seq + 1) } }

/-! ### Time -/

/-- Beats in a millisecond. -/
def beatsPerMs : Nat := 100000

end Sys2Proof.Machine
end

