-- ==== Sys2Proof/Machine/Memory.lean ====
section
/-! DEFINITION. Device addresses, memory, the caddy's cache, envelopes and poison (spec/09, spec/10). -/

namespace Sys2Proof.Machine

/-! ### CRC-32C (R248) -/

/-- One bit of the reflected CRC. -/
def crcBit (c : Nat) : Nat := if c % 2 = 1 then c / 2 ^^^ 0x82F63B78 else c / 2

/-- One byte of the reflected CRC. -/
def crcByte (c : Nat) (b : Byte) : Nat :=
  crcBit (crcBit (crcBit (crcBit (crcBit (crcBit (crcBit (crcBit (c ^^^ b.toNat))))))))

/-- CRC-32C with the parameters of R248. -/
def crc32c (bs : List Byte) : Nat := bs.foldl crcByte 0xFFFFFFFF ^^^ 0xFFFFFFFF

/-! ### The address map (Table MEM-1) -/

/-- Who makes an access: a unit of a tile, through its cache or not, or any other unit. -/
inductive Agent where
  | tile (t : TileId) (cached : Bool)
  | other
  deriving DecidableEq, Repr

/-- The spaces of Table MEM-1. -/
inductive Space where
  | hbm | deep | scratch | operand | registers | host | none
  deriving DecidableEq, Repr

/-- The space of a device address. -/
def spaceOf (a : Nat) : Space :=
  if a ≥ 2 ^ 56 then .none
  else if bitAt a 55 then .host
  else if a < 24 * 2 ^ 36 then .hbm
  else if 0x100000000000 ≤ a ∧ a < 0x100000000000 + 48 * 2 ^ 36 then .deep
  else if 0x200000000000 ≤ a ∧ a < 0x200000000000 + 48 * 2 ^ 28 then .scratch
  else if 0x210000000000 ≤ a ∧ a < 0x210000000000 + 768 * 2 ^ 22 then .operand
  else if 0x300000000000 ≤ a ∧ a < 0x300000000000 + 0x3000000 then .registers
  else .none

/-- The stack and offset of an HBM device address (R208). -/
def hbmLocate (s : State) (a : Nat) : Nat × Nat :=
  if bitAt (fget s HBM_MODE f_HBM_MODE_INTERLEAVE) (bitsAt a 31 5) then
    ((bitsAt a 36 5 + bitsAt a 12 24) % 24, bitsAt a 0 36)
  else (bitsAt a 36 5, bitsAt a 0 36)

/-- The key of the byte at a device address: HBM by stack and offset, host memory by host address (log entry 8). -/
def keyOf (s : State) (a : Nat) : Nat :=
  match spaceOf a with
  | .hbm => (hbmLocate s a).1 * 2 ^ 36 + (hbmLocate s a).2
  | .host => 2 ^ 55 + bitsAt a 0 54
  | _ => a

/-- A bad-page list entry retires the 2 MiB range of a key (R222, R223, Table MEM-8). -/
def retires (e : Word) (k : Nat) : Bool :=
  let n := e.toNat
  let unit := bitsAt n 8 8
  if bitsAt n 0 2 = 0 then
    decide (k < 24 * 2 ^ 36) && bitsAt k 21 15 == bitsAt n 16 16 && (bitAt n 2 || k / 2 ^ 36 == unit)
  else
    decide (0x100000000000 ≤ k ∧ k < 0x100000000000 + 48 * 2 ^ 36) && bitsAt k 21 15 == bitsAt n 16 16 &&
      bitsAt k 36 6 == unit

/-- The key lies in a retired range, of the list or until power-down (R222, R225). -/
def retired (s : State) (k : Nat) : Bool :=
  (s.repair.badPages ++ s.tempRetired).any fun e => retires e k

/-- Bytes of a tile's scratchpad partition (R197). -/
def scratchBytes (s : State) (t : Nat) : Nat := fget s (CAD_PART t) f_CAD_PART_SCRATCH_STEPS * 2 ^ 24

/-- Table MEM-1 maps the address for the agent, retirement apart (R195, R196). -/
def mapped (s : State) (ag : Agent) (a : Nat) : Bool :=
  match spaceOf a with
  | .hbm | .deep | .host => true
  | .scratch => decide (bitsAt a 0 28 < scratchBytes s (bitsAt a 28 6))
  | .operand =>
    match ag with
    | .tile t _ => bitsAt a 22 10 / 16 == t.val
    | .other => true
  | .registers | .none => false

/-- No address fault under R196. -/
def accessible (s : State) (ag : Agent) (a : Nat) : Bool := mapped s ag a && !retired s (keyOf s a)

/-- The bytes [a, a + n) lie in one space and are mapped. A space's mapped part is contiguous, except that
scratchpad windows and operand stores end with their owner's. -/
def rangeMapped (s : State) (ag : Agent) (a n : Nat) : Bool :=
  n == 0 || (mapped s ag a && mapped s ag (a + n - 1) && spaceOf a == spaceOf (a + n - 1) &&
    (match spaceOf a with
     | .scratch => a / 2 ^ 28 == (a + n - 1) / 2 ^ 28
     | .operand => a / 2 ^ 22 == (a + n - 1) / 2 ^ 22
     | .host => a / 2 ^ 54 == (a + n - 1) / 2 ^ 54
     | _ => true))

/-- Some byte of [lo, hi), which lies in one 2 MiB range, is retired. Consecutive 4 KiB pages of an interleaved region lie on
consecutive stacks (R208), so 24 pages show them all. -/
def chunkRetired (s : State) (lo hi : Nat) : Bool :=
  decide (lo < hi) && (List.range 24).any fun j => retired s (keyOf s (min (max lo ((lo / 4096 + j) * 4096)) (hi - 1)))

/-- Some byte of the range [a, a + n) is retired (R222, R223). -/
def rangeRetired (s : State) (a n : Nat) : Bool :=
  !(s.repair.badPages ++ s.tempRetired).isEmpty && (List.range (n / 2 ^ 21 + 2)).any fun i =>
    let base := (a / 2 ^ 21 + i) * 2 ^ 21
    chunkRetired s (max a base) (min (a + n) (base + 2 ^ 21))

/-- The addresses of a range are mapped for an agent and not retired: no address fault (R196). -/
def rangeAccessible (s : State) (ag : Agent) (a n : Nat) : Bool := rangeMapped s ag a n && !rangeRetired s a n

/-- The host port of a host address (Table MEM-1). -/
def hostPort (a : Nat) : Nat := if bitAt a 54 then 1 else 0

/-- A range of bytes in host memory behind a link that is down (R363). -/
def hostDown (s : State) (a : Nat) : Bool := spaceOf a == .host && !portUp s (hostPort a)

/-! ### Requests that a device holds (R216, R218) -/

/-- The pseudo-channel of a stack, or the channel of a package, that holds the 256-byte unit of a key: consecutive units lie on the 64
pseudo-channels or 8 channels in turn (R210, R211). -/
def channelOfKey (k : Nat) : Nat := if k < 24 * 2 ^ 36 then k % 2 ^ 36 / 256 % 64 else k % 2 ^ 36 / 256 % 8

/-- The device of a key: stack, or 24 + package. -/
def deviceOfKey (k : Nat) : Option Nat :=
  if k < 24 * 2 ^ 36 then some (k / 2 ^ 36)
  else if 0x100000000000 ≤ k ∧ k < 0x100000000000 + 48 * 2 ^ 36 then some (24 + bitsAt k 36 6) else none

/-- The channel register of a device's maintenance window. -/
def maintOf (d : Nat) : Nat := if d < 24 then HBM_MAINT d else DTR_MAINT ((d - 24) / 2) ((d - 24) % 2)

/-- The device holds new requests to a key's channel: at level 3, or while the channel's window is open. -/
def heldKey (s : State) (k : Nat) : Bool :=
  match deviceOfKey k with
  | none => false
  | some d =>
    let x := mapGet Dev.empty s.devs d
    x.level3.isSome || (x.windowOpen.isSome &&
      fget s (maintOf d) f_HBM_MAINT_CHANNEL == (if d < 24 then channelOfKey k / 2 else channelOfKey k))

/-- Some device holds requests. -/
def anyHeld (s : State) : Bool := s.devs.any fun p => p.2.level3.isSome || p.2.windowOpen.isSome

/-- A request to one of the 512-byte blocks at device addresses waits in its device's queue (R215, R216, R218). -/
def blocksHeld (s : State) (as : List Nat) : Bool :=
  anyHeld s && as.any fun a => heldKey s (keyOf s (a / 512 * 512)) || heldKey s (keyOf s (a / 512 * 512 + 256))

/-! ### Bytes -/

/-- The byte at a key; a byte that nothing has written reads as 0 (log entry 9). -/
def byteAt (s : State) (k : Nat) : Byte := mapGet 0 s.mem k

/-- The canonical form of memory: keys strictly rising, no byte listed that an unlisted one reads as. -/
def Memory.wf (m : List Host.Cell) : Bool := mapWf (fun _ => (0 : Byte)) m

/-- Write bytes from a key on. -/
def putBytes (m : List Host.Cell) : Nat → List Byte → List Host.Cell
  | _, [] => m
  | k, b :: bs => putBytes (mapSet 0 m k b) (k + 1) bs

/-- The mismatch of a block's envelope: 0 where it verifies. -/
def mismatchOf (s : State) (b : Nat) : BitVec 32 := mapGet 0 s.env b

/-- Set a block's mismatch. -/
def setMismatch (s : State) (b : Nat) (v : BitVec 32) : State := { s with env := mapSet 0 s.env b v }

/-- The mismatch of a block marked as poisoned (R255). -/
def marked : BitVec 32 := 0xFFFFFFFF

/-! ### The cache (R199 to R203, R463) -/

/-- A range of CAD_NC0 to CAD_NC7 of the tile covers the address. -/
def uncached (s : State) (t : TileId) (a : Nat) : Bool :=
  (List.range 8).any fun n =>
    let base := faddr s (CAD_NC t.val n) f_CAD_NC_BASE
    decide (base ≤ a ∧ a < base + fget s (CAD_NC t.val n) f_CAD_NC_SIZE * 2 ^ 21)

/-- The agent reads the address through its tile's cache (R199). No cache with 16 scratchpad steps. -/
def throughCache (s : State) (ag : Agent) (a : Nat) : Option TileId :=
  match ag with
  | .tile t true =>
    if (spaceOf a = .hbm ∨ spaceOf a = .deep) ∧ !uncached s t a ∧ fget s (CAD_PART t.val) f_CAD_PART_SCRATCH_STEPS < 16
    then some t else none
  | _ => none

/-- A block held in a tile's cache. -/
def cached (s : State) (t : TileId) (b : Nat) : Option CacheBlock :=
  ((s.tile t).cache.find? fun p => p.1 == b).map (·.2)

/-- Drop a block from a tile's cache. -/
def dropBlock (s : State) (t : TileId) (b : Nat) : State :=
  let x := s.tile t
  s.setTile t { x with cache := x.cache.filter fun p => p.1 != b }

/-- Drop the blocks that overlap keys [lo, hi) from a tile's cache (R203, at block grain). -/
def dropRange (s : State) (t : TileId) (lo hi : Nat) : State :=
  let x := s.tile t
  s.setTile t { x with cache := x.cache.filter fun p => !decide (p.1 * 512 < hi ∧ lo < p.1 * 512 + 512) }

/-- Drop every block of a tile's cache. -/
def dropAll (s : State) (t : TileId) : State := s.setTile t { s.tile t with cache := [] }

/-- The 512 bytes of a block in memory. -/
def blockBytes (s : State) (b : Nat) : List Byte := (List.range 512).map fun i => byteAt s (b * 512 + i)

/-- The byte an agent reads at an address, after `verifyBlock` has filled its cache. -/
def readByte (s : State) (ag : Agent) (a : Nat) : Byte :=
  match throughCache s ag a with
  | some t =>
    match cached s t (keyOf s a / 512) with
    | some c => nthD 0 c.bytes (keyOf s a % 512)
    | none => byteAt s (keyOf s a)
  | none => byteAt s (keyOf s a)

/-- Bytes an agent reads from an address on. -/
def readBytes (s : State) (ag : Agent) (a n : Nat) : List Byte := (List.range n).map fun i => readByte s ag (a + i)

/-- The little-endian value an agent reads. -/
def readNat (s : State) (ag : Agent) (a n : Nat) : Nat := leNat (readBytes s ag a n)

/-! ### Errors and records -/

/-- The step in progress at a tile: the one it runs or, between phases, runs next; with the carousel idle TBU_RESTART.STEP, with which
it starts (DESIGN CHOICE, log entry 70). -/
def stepOf (s : State) (t : TileId) : Nat :=
  if s.car.running then (s.tile t).nextStep else fget s TBU_RESTART f_TBU_RESTART_STEP

/-- The module contributes no verdict for step n (R263). -/
def withhold (s : State) (n : Nat) : State := { s with stp := { s.stp with withhold := insertOnce n s.stp.withhold } }

/-- A tile records an integrity event (R256, Table DMA-12): kind, unit, core and the block's address. -/
def integrityEvent (s : State) (t : TileId) (kind unit core a : Nat) : State :=
  let r := TL_INTEG t.val
  let s :=
    if fbit s r f_TL_INTEG_VALID then fadd s r f_TL_INTEG_COUNT 1
    else
      let s := fset (fset (fset (fset (fset (fset s r f_TL_INTEG_KIND kind) r f_TL_INTEG_VALID 1) r
        f_TL_INTEG_UNIT unit) r f_TL_INTEG_CORE core) r f_TL_INTEG_COUNT 1) r f_TL_INTEG_STEP (stepOf s t)
      fset s (TL_INTEG_ADDR t.val) f_TL_INTEG_ADDR_BLOCK (a / 512)
  let s := fset s (DMA_IRQ t.val) f_DMA_IRQ_INTEGRITY 1
  let s := if fbit s (DMA_IRQ_EN t.val) f_DMA_IRQ_EN_INTEGRITY then interrupt s 4 else s
  withhold (post s .integrity t.val (s.reg r)) (stepOf s t)

/-- An error of no memory is present (R254). -/
def faulty (s : State) (k : ErrKind) : Bool := s.errs.any fun e => e.kind == k

/-- The error is met: it is detected once. -/
def clearErr (s : State) (k : ErrKind) : State := { s with errs := s.errs.filter fun e => e.kind != k }

/-- CAD_PERR records a parity error (R205, Table MEM-10). -/
def caddyParity (s : State) (t : Nat) (kind a : Nat) : State :=
  let r := CAD_PERR t
  if fbit s r f_CAD_PERR_VALID then fadd s r f_CAD_PERR_COUNT 1
  else
    fset (fset (fset (fset s r f_CAD_PERR_KIND kind) r f_CAD_PERR_VALID 1) r f_CAD_PERR_ADDR (a / 64)) r
      f_CAD_PERR_COUNT 1

/-- The error log register of the memory device that holds a key. -/
def errlogOf (k : Nat) : Nat :=
  if k < 24 * 2 ^ 36 then HBM_ERRLOG (k / 2 ^ 36)
  else DTR_ERRLOG (bitsAt k 36 6 / 2) (bitsAt k 36 6 % 2)

/-- The 2 MiB range of a key holds the DRAM row of an error in its block (R210, R211): no other error can be of the block. -/
def rowFits (k unit bank row : Nat) : Bool :=
  match deviceOfKey k with
  | some d => (Config.rowRange d (channelOfKey (k / 512 * 512 + 256 * (unit % 2))) bank row).toNat == bitsAt k 21 15
  | none => true

/-- The fuse map of a device, by number, which its base die and firmware read through the IEEE 1500 wrapper: the banks and rows repaired
in the fuses, at delivery and since (R219). -/
def fuseMap (s : State) (d : Nat) : List (Nat × Nat) := (mapGet Dev.empty s.devs d).fused ++ Config.shippedRepairs d

/-- A row, by its bank's key, has been repaired before: in the fuses or softly (Table MEM-15). -/
def rowRepaired (s : State) (d bank row : Nat) : Bool :=
  (mapGet Dev.empty s.devs d).soft.contains (bank, row) || (fuseMap s d).contains (bank, row)

/-- The base die logs an uncorrectable error of a block's burst (R207, Table MEM-15). -/
def logUncorrectable (s : State) (k unit bank row : Nat) : State :=
  let r := errlogOf k
  let pc := channelOfKey (k / 512 * 512 + 256 * (unit % 2))
  let s :=
    if fbit s r f_HBM_ERRLOG_VALID then fset s r f_HBM_ERRLOG_OVERFLOW 1
    else
      fset (fset (fset (fset (fset s r f_HBM_ERRLOG_PC pc) r f_HBM_ERRLOG_BANK bank) r f_HBM_ERRLOG_ROW row) r
        f_HBM_ERRLOG_REPAIRED (boolNat ((deviceOfKey k).any fun d => rowRepaired s d (64 * pc + bank) row))) r f_HBM_ERRLOG_VALID 1
  raiseAlert (post s .uncorrectable (k / 2 ^ 36 % 64) (s.reg r)) f_MGS_ALERT_MEM_FAULT

/-- The kind of Table DMA-12 for a mismatch: 0 sound, 1 corruption, 2 marked poison (R255). -/
def mismatchKind (v : BitVec 32) : Nat := if v = 0 then 0 else if v = marked then 2 else 1

/-- Read the block of key `k`, device address `a`, from memory and verify it (R250, R253): its kind of Table
DMA-12, 0 where it is sound. A transient mismatch verifies at the second read. -/
def verifyKey (s : State) (ag : Agent) (k a : Nat) : Nat × State :=
  let b := k / 512
  match (s.errs.find? fun e => e.block == b && (match e.kind with
      | .transient | .scratchParity _ | .parity => true
      | .uncorrectable unit bank row => rowFits k unit bank row
      | _ => false)) with
  | some ⟨_, .uncorrectable unit bank row⟩ => (2, logUncorrectable s k unit bank row)
  | some ⟨_, .scratchParity unit⟩ =>
    (3, if spaceOf a = .scratch then caddyParity s (bitsAt a 28 6) 2 (a / 512 * 512 + 64 * (unit % 8)) else s)
  | some ⟨_, .parity⟩ => (3, s)
  | some ⟨_, .transient⟩ =>
    let s := { s with errs := s.errs.filter fun e => !(e.block == b && e.kind == .transient) }
    if spaceOf a = .hbm ∨ spaceOf a = .deep then
      (mismatchKind (mismatchOf s b), match ag with
        | .tile t _ => if mismatchOf s b = 0 then mcTile s t 0x040 0xFF 1 else s
        | .other => s)
    else (if mismatchOf s b = 0 then 1 else mismatchKind (mismatchOf s b), s)
  | _ => (mismatchKind (mismatchOf s b), s)

/-- Read the block of a device address from memory and verify it. -/
def verifyMemory (s : State) (ag : Agent) (a : Nat) : Nat × State := verifyKey s ag (keyOf s a) a

/-- The unit of a parity error in a tile's cached copy of a block. -/
def lineError (s : State) (t b : Nat) : Option Nat :=
  s.errs.findSome? fun e => match e.kind with
    | .cacheParity u unit => if e.block = b ∧ u = t then some unit else none
    | _ => none

/-- Verify the block that holds a device address for an agent, filling the cache for a read through it
(R199, R205, R253, R463). A block is one request of the monitoring sources 0x030 and 0x031 (log entry 60). A line that another
agent has written since it was filled is returned as filled or fetched again, by a free choice. -/
def verifyBlock (s : State) (ag : Agent) (a : Nat) : Nat × State :=
  match throughCache s ag a with
  | none => verifyMemory s ag a
  | some t =>
    let b := keyOf s a / 512
    let fill := fun (s : State) =>
      let r := verifyMemory s ag a
      let s := dropBlock r.2 t b
      let x := s.tile t
      let line : CacheBlock :=
        { bytes := blockBytes s b, mismatch := if r.1 = 0 then 0 else if r.1 = 1 then mismatchOf s b else marked }
      (r.1, s.setTile t { x with cache := mapInsert x.cache b line })
    match cached s t b with
    | none => fill (mcTile s t 0x031 0xFF 1)
    | some c =>
      let s := mcTile s t 0x030 0xFF 1
      match lineError s t.val b with
      | some unit =>
        let s := { s with errs := s.errs.filter fun e => !(e.block == b && e.kind == .cacheParity t.val unit) }
        fill (mcTile (caddyParity s t.val 1 (a / 512 * 512 + 64 * (unit % 8))) t 0x032 0xFF 1)
      | none =>
      if c.mismatch ≠ 0 then fill s
      else if c.bytes = blockBytes s b ∧ mismatchOf s b = 0 then (0, s)
      else
        let f := takeFree s
        if f.1.getLsbD 0 then (0, f.2) else fill f.2

/-- The 512-byte aligned addresses of the blocks that a range touches. -/
def blocksOf (a n : Nat) : List Nat :=
  if n = 0 then [] else (List.range ((a + n - 1) / 512 - a / 512 + 1)).map fun i => (a / 512 + i) * 512

/-- Verify a list of blocks in order: the poisoned ones with their kinds. -/
def verifyAll (s : State) (ag : Agent) : List Nat → List (Nat × Nat) × State
  | [] => ([], s)
  | a :: as =>
    let r := if spaceOf a = .host then (0, s) else verifyBlock s ag a
    let q := verifyAll r.2 ag as
    (if r.1 = 0 then q.1 else (a, r.1) :: q.1, q.2)

/-- Verify the blocks of a range. -/
def verifyRange (s : State) (ag : Agent) (a n : Nat) : List (Nat × Nat) × State := verifyAll s ag (blocksOf a n)

/-- The address lies in one of the poisoned blocks. -/
def isBad (bad : List (Nat × Nat)) (a : Nat) : Bool := bad.any fun p => p.1 == a / 512 * 512

/-- A range touches a poisoned block. -/
def touchesBad (bad : List (Nat × Nat)) (a n : Nat) : Bool :=
  bad.any fun p => decide (n ≠ 0 ∧ p.1 < a + n ∧ a < p.1 + 512)

/-- Record an integrity event for each poisoned block that a unit of a tile uses (R256). -/
def integrityAll (s : State) (t : TileId) (unit core : Nat) (bad : List (Nat × Nat)) : State :=
  bad.foldl (fun s p => integrityEvent s t p.2 unit core p.1) s

/-! ### Writes -/

/-- Update a tile's cached copy of a block that it writes, if present (R200). -/
def writeThrough (s : State) (ag : Agent) (b : Nat) (bytes : List (Nat × Byte)) (env : Option (BitVec 32)) : State :=
  match ag with
  | .other => s
  | .tile t _ =>
    match cached s t b with
    | none => s
    | some c =>
      let x := s.tile t
      let line : CacheBlock :=
        { bytes := bytes.foldl (fun l p => setNth l p.1 p.2) c.bytes, mismatch := env.getD c.mismatch }
      s.setTile t { x with cache := mapInsert x.cache b line }

/-- An error that a write of its whole block replaces: one of stored bytes or of the side storage. -/
def ErrKind.overwritten : ErrKind → Bool
  | .scratchParity _ | .parity => true
  | _ => false

/-- Write bytes at offsets within the block of key `b` (R232, R233, R255): a poisoned write marks the block, a
write of the whole block makes its envelope, a partial write leaves its mismatch as it was. -/
def writeBlock (s : State) (ag : Agent) (b : Nat) (bytes : List (Nat × Byte)) (poison : Bool) : State :=
  let whole := decide (bytes.length ≥ 512) && (List.range 512).all fun i => bytes.any fun p => p.1 == i
  let s := { s with
    mem := bytes.foldl (fun m p => mapSet 0 m (b * 512 + p.1) p.2) s.mem
    errs := if whole then s.errs.filter fun e => e.block != b || !e.kind.overwritten else s.errs }
  let env := if poison then some marked else if whole then some 0 else none
  let s := match env with
    | some v => setMismatch s b v
    | none => s
  writeThrough s ag b bytes env

/-- Write a list of address, byte and poison triples, in order, block by block. Host memory carries no envelopes (R249). Of two values for
one byte the later stays, which for the overlapping rows or scales of one operation's output is the model's choice (log entry 109). -/
def writeCells (s : State) (ag : Agent) (ws : List (Nat × Byte × Bool)) : State :=
  let ks := ws.map fun w => (keyOf s w.1, w.2)
  let blocks := (ks.map fun w => w.1 / 512).eraseDups
  blocks.foldl (fun s b =>
    let mine := ks.filter fun w => w.1 / 512 == b
    writeBlock s ag b (mine.map fun w => (w.1 % 512, w.2.1))
      (decide (b < 2 ^ 46) && mine.any fun w => w.2.2)) s

/-- Write consecutive bytes from an address on. -/
def writeBytes (s : State) (ag : Agent) (a : Nat) (bs : List Byte) (poison : Bool) : State :=
  writeCells s ag (bs.mapIdx fun i b => (a + i, b, poison))

/-- The lines of a range of keys are invalidated in every caddy (R202). -/
def dropEverywhere (s : State) (lo hi : Nat) : State :=
  (List.finRange 48).foldl (fun s t => if (s.tile t).cache.isEmpty then s else dropRange s t lo hi) s

end Sys2Proof.Machine
end

