-- ==== Sys2Proof/Machine/Fabric.lean ====
section
/-! DEFINITION. The paths between modules and between tiles: Span ports and their queues, the panel mesh and its order of arrival, and
what an Ethernet port adds to a packet (R295, R296, R299, R302, R303, R305, R308, R309). -/

namespace Sys2Proof.Machine

/-- Modules in the job, and this module's index (Table LNK-9). -/
def moduleCount (s : State) : Nat := max 1 (fget s LNK_JOB f_LNK_JOB_MODULES)
def moduleIndex (s : State) : Nat := fget s LNK_JOB f_LNK_JOB_MODULE

/-- Board of a module of the job. -/
def boardOf (s : State) (m : Nat) : Nat := (nthD (0, 0) s.job.modules m).1

/-- The module index lies on this module's board. -/
def onBoard (s : State) (m : Nat) : Bool := m == moduleIndex s || boardOf s m == boardOf s (moduleIndex s)

/-! ### Span (R299, R302, R308, R309) -/

/-- The Span port to a board position (R299). -/
def spanPortTo (s : State) (pos : Nat) : Nat := (pos + 3 - s.pins.boardPos) % 4

/-- The Span port to a module of the board. -/
def spanPortOf (s : State) (peer : Nat) : Nat := spanPortTo s (nthD (0, 0) s.job.modules peer).2

/-- The module at the other end of a Span port, where the job has it. -/
def spanPeer (s : State) (k : Nat) : Option Nat :=
  (List.range s.job.modules.length).find? fun m => onBoard s m && m != moduleIndex s && spanPortOf s m == k

/-- A Span port is up. -/
def spanUp (s : State) (k : Nat) : Bool := decide (k < 3) && fbit s (LNK_SPAN_STATUS k) f_LNK_SPAN_STATUS_UP

/-- A Span port carries traffic: it is up and does not retrain. -/
def spanOpen (s : State) (k : Nat) : Bool := spanUp s k && !s.links.retraining.contains (192 + k)

/-- The path to a module of the board is open. -/
def peerOpen (s : State) (m : Nat) : Bool := m == moduleIndex s || spanOpen s (spanPortOf s m)

/-- Send over a Span port; while it is down or retrains the message waits in its queue (R308, R309). -/
def sendSpan (s : State) (k : Nat) (m : OutMsg) : State :=
  if spanOpen s k then emit s m else { s with spanHeld := s.spanHeld ++ [(k, m)] }

/-- A Span port that carries traffic again sends what waited, in order. -/
def releaseSpan (s : State) (k : Nat) : State :=
  if spanOpen s k then
    { s with
      spanHeld := s.spanHeld.filter fun m => m.1 != k
      out := s.out ++ (s.spanHeld.filter fun m => m.1 == k).map (·.2) }
  else s

/-- Something crosses a link, so that no flit of it fails any longer (R308, log entry 82). -/
def linkPassed (s : State) (k : Nat) : State := { s with links := { s.links with flits := mapSet 0 s.links.flits k 0 } }

/-! ### The panel mesh (R295, R296) -/

/-- The port dies as nodes of the mesh beside the logical tiles 0 to 47 (R298). -/
def westDie : Nat := 48
def eastDie : Nat := 49

/-- The node beyond a tile's link in a direction, 0 north, 1 east, 2 south, 3 west (log entry 18): a logical tile, or at either end of a
band a port die (R298). -/
def meshNeighbour (t : Nat) (dir : Nat) : Option Nat :=
  if 48 ≤ t then none
  else
    match dir with
    | 0 => if t < 12 then none else some (t - 12)
    | 1 => some (if t % 12 = 11 then eastDie else t + 1)
    | 2 => if 36 ≤ t then none else some (t + 12)
    | _ => some (if t % 12 = 0 then westDie else t - 1)

/-- Steps from a to b. -/
def between (a b : Nat) : List Nat := if a ≤ b then (List.range (b - a + 1)).map (a + ·) else (List.range (a - b + 1)).map (a - ·)

/-- The tiles on a packet's way: along its band to the destination's column, then across the bands (R295). -/
def meshPath (a b : TileId) : List Nat :=
  ((between (a.val % 12) (b.val % 12)).map fun c => a.val / 12 * 12 + c) ++
    ((between (a.val / 12) (b.val / 12)).drop 1).map fun r => r * 12 + b.val % 12

/-- The nodes on the way between a tile and a port die: along the tile's band to its end (R298). -/
def diePath (t : Nat) (east : Bool) : List Nat :=
  ((between (t % 12) (if east then 11 else 0)).map fun c => t / 12 * 12 + c) ++ [if east then eastDie else westDie]

/-- The links of a way, by tile × 4 + direction number: at each hop the link of either end. -/
def pathLinks : List Nat → List Nat
  | a :: b :: rest =>
    (((List.finRange 4).filter fun d => meshNeighbour a (Config.meshDirection d).val == some b).map fun d => 4 * a + d.val) ++
      (((List.finRange 4).filter fun d => meshNeighbour b (Config.meshDirection d).val == some a).map fun d => 4 * b + d.val) ++
      pathLinks (b :: rest)
  | _ => []

/-- A link of a way retrains, so that what travels on it waits (R308). -/
def wayBlocked (s : State) (way : List Nat) : Bool :=
  !s.links.retraining.isEmpty && (pathLinks way).any s.links.retraining.contains

/-- A packet between two tiles waits. -/
def meshBlocked (s : State) (a b : TileId) : Bool := wayBlocked s (meshPath a b)

/-- What travels between a tile and a port die waits. -/
def dieBlocked (s : State) (t : TileId) (east : Bool) : Bool := wayBlocked s (diePath t.val east)

/-- The tile at whose router a stack's base die joins the mesh, as seen from a tile: of the stack's two home tiles (R11, R12) the nearer in
its column (DESIGN CHOICE, log entry 106). -/
def homeFrom (t : Nat) (stack : Nat) : TileId :=
  let u := if 2 * stack % 12 < t % 12 then 2 * stack + 1 else 2 * stack
  ⟨u % 48, Nat.mod_lt _ (by decide)⟩

/-- The nodes on the way from a tile to what holds a device address: a stack's base die, which is its home tiles' own, another tile's
scratchpad, or the west port die with the host interface. -/
def wayTo (s : State) (t : TileId) (a : Nat) : List Nat :=
  match spaceOf a with
  | .hbm | .deep =>
    match deviceOfKey (keyOf s a) with
    | some d =>
      let h := if d < 24 then d else (d - 24) / 2
      if t.val / 2 = h then [] else meshPath t (homeFrom t.val h)
    | none => []
  | .scratch =>
    match tileOf? (bitsAt a 28 6) with
    | some u => meshPath t u
    | none => []
  | .host => diePath t.val false
  | _ => []

/-- A request of a tile to one of the blocks at device addresses waits for a link of the mesh (R308). -/
def tileWaits (s : State) (t : TileId) (as : List Nat) : Bool :=
  !s.links.retraining.isEmpty && as.any fun a => wayBlocked s (wayTo s t a)

/-- A request of a channel waits for a link of the mesh: a tile's, the host DMA's from the west port die, or a base die's from its home
tile. -/
def engineWaits (s : State) (e : Engine) (as : List Nat) : Bool :=
  !s.links.retraining.isEmpty &&
    match e with
    | .tile t _ => tileWaits s t as
    | .die h _ => tileWaits s (homeFrom 0 h.val) as
    | .host _ => as.any fun a =>
        match deviceOfKey (keyOf s a), tileOf? (bitsAt a 28 6) with
        | some d, _ => wayBlocked s (diePath (homeFrom 0 (if d < 24 then d else (d - 24) / 2)).val false)
        | none, some u => spaceOf a == .scratch && wayBlocked s (diePath u.val false)
        | none, none => false

/-- A request of a channel to one of the blocks at device addresses waits: in a device's queue, or for a link of the mesh. -/
def requestsWait (s : State) (e : Engine) (as : List Nat) : Bool := blocksHeld s as || engineWaits s e as

/-- Put a packet on the mesh. -/
def sendMesh (s : State) (f : Flight) : State := { s with mesh := s.mesh ++ [f] }

/-- Two packets of one source, one destination and one channel. -/
def sameFlow (f g : Flight) : Bool := f.src == g.src && f.dst == g.dst && f.response == g.response

/-- The state after a packet of the mesh arrives: it is the first of its flow that is still under way (R296), and no link of its way
retrains (R308). Absent where it cannot arrive. -/
def takeFlight (s : State) (f : Flight) : Option State :=
  if (s.mesh.find? (sameFlow f)) == some f && !meshBlocked s f.src f.dst then
    some ((pathLinks (meshPath f.src f.dst)).foldl linkPassed { s with mesh := s.mesh.erase f })
  else none

/-! ### Ethernet (R303 to R305) -/

/-- An Ethernet port's own address: the low half from its register, the high half from the peer table at this
module's index (Table LNK-9). -/
def portAddress (s : State) (k : Nat) : Nat :=
  s.reg (LNK_ETH_ADDR k) +
    2 ^ 64 * readNat s .other (faddr s LNK_PEER_BASE f_LNK_PEER_BASE_BASE + 256 * moduleIndex s + 16 * k + 8) 8

/-- The link sender verifies what it reads of the peer table for a packet: its own address's high half and the peer's address (R250). -/
def verifyPeer (s : State) (k peer : Nat) : Bool × State :=
  let base := faddr s LNK_PEER_BASE f_LNK_PEER_BASE_BASE
  let a := verifyRange s .other (base + 256 * moduleIndex s + 16 * k + 8) 8
  let b := verifyRange a.2 .other (base + 256 * peer + 16 * k) 16
  (a.1.isEmpty && b.1.isEmpty, b.2)

/-- A frame that leaves an Ethernet port: the port's tag and next hop (Table LNK-2), a DSCP value (R305). -/
def frameAt (s : State) (k dscp udp : Nat) (dest : List Byte) : EthFrame :=
  { port := k, nextHop := fget s (LNK_ETH_CFG k) f_LNK_ETH_CFG_NEXT_HOP
    vlan := if fbit s (LNK_ETH_CFG k) f_LNK_ETH_CFG_VLAN_EN then some (fget s (LNK_ETH_CFG k) f_LNK_ETH_CFG_VLAN) else none
    dscp := dscp, udp := udp, source := portAddress s k, dest := dest }

/-- The frame of the collective transport to a peer on a plane, its address from the peer table. -/
def frameTo (s : State) (plane peer : Nat) : EthFrame :=
  frameAt s plane (fget s LNK_DSCP f_LNK_DSCP_COLL) (fget s LNK_COLL_PORT f_LNK_COLL_PORT_PORT)
    (readBytes s .other (faddr s LNK_PEER_BASE f_LNK_PEER_BASE_BASE + 256 * peer + 16 * plane) 16)

/-- The frame of a RoCEv2 packet of a queue pair, from its record (Table HST-8). -/
def rdmaFrame (s : State) (qpn dscp : Nat) : EthFrame :=
  let r := mapGet [] s.qps qpn
  frameAt s ((nthD 0 r 1).toNat % 16) dscp 4791 ((r.drop 16).take 16)

/-! ### The transport's planes (R309, R317) -/

/-- A plane or port is up: Ethernet 0 to 15, Span 16 to 18, the mesh 19. -/
def planeUp (s : State) (k : Nat) : Bool :=
  if k < 16 then fbit s (LNK_ETH_STATUS k) f_LNK_ETH_STATUS_UP else if k < 19 then spanUp s (k - 16) else true

/-- The Ethernet plane of a segment: planes that are down are skipped (R317). -/
def ethPlane (s : State) (seg : Nat) : Nat :=
  let p0 := (seg + moduleIndex s) % 16
  (((List.range 16).map fun i => (p0 + i) % 16).find? fun k => planeUp s k).getD p0

/-- The plane of a segment to a module (R309, R317). -/
def routePlane (s : State) (seg peer : Nat) : Nat :=
  if peer = moduleIndex s then 19
  else if onBoard s peer && spanUp s (spanPortOf s peer) then 16 + spanPortOf s peer
  else ethPlane s seg

/-- What leaves through a port die goes out on its Ethernet plane, or on its Span port. -/
def leavePort (s : State) (plane : Nat) (m : OutMsg) : State := if plane < 16 then emit s m else sendSpan s (plane - 16) m

/-- Something crosses the links between a tile and a port die. -/
def passDie (s : State) (t : TileId) (east : Bool) : State := (pathLinks (diePath t.val east)).foldl linkPassed s

/-- A tile sends through the west port die to an Ethernet plane, or through the east port die to a Span port (R298). Behind a link of the
way that retrains it waits, and in order behind what waits there (R296, R308). -/
def sendPort (s : State) (t : TileId) (plane : Nat) (m : OutMsg) : State :=
  let east := decide (16 ≤ plane)
  if dieBlocked s t east || s.dieHeld.any fun x => x.1 == t && decide (16 ≤ x.2.1) == east then
    { s with dieHeld := s.dieHeld ++ [(t, plane, m)] }
  else leavePort (passDie s t east) plane m

/-- What waited on the mesh for a port die is sent again, in order (R308). -/
def releaseDies (s : State) : State :=
  s.dieHeld.foldl (fun s x => sendPort s x.1 x.2.1 x.2.2) { s with dieHeld := [] }

/-- What comes in through a port die for a tile waits there: a link of the way retrains, or something for the tile waits before it (R296,
R298, R308). -/
def dieDelays (s : State) (t : TileId) (east : Bool) : Bool :=
  dieBlocked s t east || s.dieIn.any fun x => x.1 == t && x.2.1 == east

/-- What comes in for a tile takes effect, or waits at its port die. -/
def takeDie (s : State) (t : TileId) (east : Bool) (load : Load) (act : State → State) : State :=
  if dieDelays s t east then { s with dieIn := s.dieIn ++ [(t, east, load)] } else act (passDie s t east)

/-- Send a transport packet from a tile to a peer on the packet's plane. To an address that the peer table holds poisoned nothing is sent
(DESIGN CHOICE, log entry 105). -/
def sendPacket (s : State) (src : TileId) (peer : Nat) (p : Packet) : State :=
  if p.plane < 16 then
    let v := verifyPeer s p.plane peer
    if v.1 then sendPort v.2 src p.plane (.packet (some (frameTo v.2 p.plane peer)) p) else v.2
  else if p.plane < 19 then sendPort s src p.plane (.packet none p)
  else sendMesh s { src := src, dst := p.tile, response := p.type == 1, load := .packet p }

/-- Send a VERDICT packet to a module (R321). Which segment number stands for a part in R317's choice of a plane is not given: the
number of its run of norm slots, 0 for the counts (DESIGN CHOICE, log entry 97). -/
def sendVerdict (s : State) (peer : Nat) (v : VerdictMsg) : State :=
  let seg := match v.part with
    | .counts .. => 0
    | .slots first _ => first / 1024
  let k := routePlane s seg peer
  let v := { v with plane := k }
  if k < 16 then
    let r := verifyPeer s k peer
    if r.1 then emit r.2 (.verdict (some (frameTo r.2 k peer)) v) else r.2
  else sendSpan s (k - 16) (.verdict none v)

end Sys2Proof.Machine
end

