-- ==== Sys2Proof/Machine/Num.lean ====
section
/-! DEFINITION. Formats, exact values, rounding, conversion and block quantisation (spec/03). -/

namespace Sys2Proof.Machine

/-! ### Exact values -/

/-- A value: NaN, an infinity, or (-1)^neg × m × 2^e exactly. -/
inductive Val where
  | nan
  | inf (neg : Bool)
  | fin (neg : Bool) (m : Nat) (e : Int)
  deriving DecidableEq, Repr

/-- Arithmetic flags (Table NUM-9) and the count of block clamps (R60). -/
structure Flags where
  ovf : Bool := false
  unf : Bool := false
  inv : Bool := false
  nanin : Bool := false
  low : Bool := false
  clamps : Nat := 0
  deriving DecidableEq, Repr

/-- The flags of two events together. -/
def Flags.or (a b : Flags) : Flags :=
  { ovf := a.ovf || b.ovf, unf := a.unf || b.unf, inv := a.inv || b.inv, nanin := a.nanin || b.nanin
    low := a.low || b.low, clamps := a.clamps + b.clamps }

/-- No flag. -/
def Flags.none : Flags := {}

/-- The five flags as register bits. -/
def Flags.bits (f : Flags) : Nat :=
  boolNat f.ovf + 2 * boolNat f.unf + 4 * boolNat f.inv + 8 * boolNat f.nanin + 16 * boolNat f.low

namespace Val

def zero : Val := fin false 0 0
def one : Val := fin false 1 0

def isNan : Val → Bool
  | nan => true
  | _ => false

def isInf : Val → Bool
  | inf _ => true
  | _ => false

def isFin : Val → Bool
  | fin .. => true
  | _ => false

def isZero : Val → Bool
  | fin _ 0 _ => true
  | _ => false

/-- The sign bit; a NaN has none. -/
def sign : Val → Bool
  | nan => false
  | inf s => s
  | fin s _ _ => s

def neg : Val → Val
  | nan => nan
  | inf s => inf (!s)
  | fin s m e => fin (!s) m e

def abs : Val → Val
  | nan => nan
  | inf _ => inf false
  | fin _ m e => fin false m e

/-- Multiply by 2^k exactly. -/
def scale (k : Int) : Val → Val
  | nan => nan
  | inf s => inf s
  | fin s m e => fin s m (e + k)

/-- floor(log2 |v|) of a non-zero finite value. -/
def floorLog2 : Val → Int
  | fin _ m e => Nat.log2 m + e
  | _ => 0

/-- |m × 2^e| ≤ |n × 2^f|. -/
def leMag (m : Nat) (e : Int) (n : Nat) (f : Int) : Bool :=
  if e ≤ f then decide (m ≤ n * 2 ^ (f - e).toNat) else decide (m * 2 ^ (e - f).toNat ≤ n)

/-- Signed integer of a finite value at a quantum not above its own. -/
def toInt (s : Bool) (m : Nat) (e q : Int) : Int :=
  let n : Int := (m * 2 ^ (e - q).toNat : Nat)
  if s then -n else n

/-- The finite value n × 2^q; zero with the sign given. -/
def ofInt (n : Int) (q : Int) (zs : Bool) : Val :=
  if n = 0 then fin zs 0 0 else fin (decide (n < 0)) n.natAbs q

/-- Numeric order of two values, neither a NaN: a ≤ b. -/
def le : Val → Val → Bool
  | nan, _ | _, nan => false
  | inf true, _ => true
  | _, inf false => true
  | inf false, _ => false
  | _, inf true => false
  | fin s m e, fin t n f =>
    let q := min e f
    decide (toInt s m e q ≤ toInt t n f q)

/-- Exact product; a NaN and 0 × infinity give NaN. -/
def mul : Val → Val → Val
  | nan, _ | _, nan => nan
  | inf s, inf t => inf (s != t)
  | inf s, fin t m _ => if m = 0 then nan else inf (s != t)
  | fin s m _, inf t => if m = 0 then nan else inf (s != t)
  | fin s m e, fin t n f => fin (s != t) (m * n) (e + f)

/-- Exact sum; infinities of opposite sign give NaN; an exact zero of opposite signs is +0 (R110). -/
def add : Val → Val → Val
  | nan, _ | _, nan => nan
  | inf s, inf t => if s = t then inf s else nan
  | inf s, _ => inf s
  | _, inf t => inf t
  | fin s m e, fin t n f =>
    let q := min e f
    ofInt (toInt s m e q + toInt t n f q) q (s && t)

/-- Exact quotient, carried with sticky low bits so that every rounding to 53 bits or fewer is right. -/
def div : Val → Val → Val
  | nan, _ | _, nan => nan
  | inf _, inf _ => nan
  | inf s, fin t _ _ => inf (s != t)
  | fin s _ _, inf t => fin (s != t) 0 0
  | fin s m e, fin t n f =>
    if n = 0 then (if m = 0 then nan else inf (s != t))
    else if m = 0 then fin (s != t) 0 0
    else
      let k := 64 + Nat.log2 n
      let a := m * 2 ^ k
      fin (s != t) (2 * (a / n) + (if a % n = 0 then 0 else 1)) (e - f - k - 1)

/-- Square root, carried with a sticky low bit; a negative value gives NaN. -/
def sqrt : Val → Val
  | nan => nan
  | inf s => if s then nan else inf false
  | fin s m e =>
    if m = 0 then fin s 0 0
    else if s then nan
    else
      let odd := e % 2 ≠ 0
      let m' := if odd then 2 * m else m
      let e' := if odd then e - 1 else e
      let a := m' * 2 ^ 128
      let r := Nat.sqrt a
      fin false (2 * r + (if r * r = a then 0 else 1)) (e' / 2 - 64 - 1)

end Val

/-! ### Rounding (R57) -/

/-- m × 2^sh rounded to an integer, to nearest, ties to even. -/
def rneShift (m : Nat) (sh : Int) : Nat :=
  if sh ≥ 0 then m * 2 ^ sh.toNat
  else
    let d := 2 ^ (-sh).toNat
    let q := m / d
    let r := m % d
    if 2 * r < d then q else if 2 * r > d then q + 1 else q + q % 2

/-- Round a magnitude to `p` bits with an unbounded exponent: significand and exponent. -/
def rneUnbounded (p m : Nat) (e : Int) : Nat × Int :=
  let q : Int := Nat.log2 m + e - (p - 1 : Nat)
  (rneShift m (e - q), q)

/-- Round a magnitude to `p` bits, with no quantum below 2^qmin. -/
def rneBounded (p : Nat) (qmin : Int) (m : Nat) (e : Int) : Nat × Int :=
  let q : Int := max (Nat.log2 m + e - (p - 1 : Nat)) qmin
  (rneShift m (e - q), q)

/-! ### Formats (Table NUM-1, Table NUM-2) -/

/-- A format's exponent and mantissa widths, bias and largest exponent for scale selection. -/
structure Fmt where
  code : Nat
  ebits : Nat
  mbits : Nat
  bias : Int
  emax : Int
  deriving DecidableEq, Repr

def fmtE4M3 : Fmt := ⟨0, 4, 3, 7, 8⟩
def fmtE5M2 : Fmt := ⟨1, 5, 2, 15, 15⟩
def fmtE3M2 : Fmt := ⟨2, 3, 2, 3, 4⟩
def fmtE2M3 : Fmt := ⟨3, 2, 3, 1, 2⟩
def fmtE2M1 : Fmt := ⟨4, 2, 1, 1, 2⟩
def fmtInt8 : Fmt := ⟨5, 0, 7, 0, 0⟩
def fmtBF16 : Fmt := ⟨8, 8, 7, 127, 0⟩
def fmtFP16 : Fmt := ⟨9, 5, 10, 15, 0⟩
def fmtFP32 : Fmt := ⟨10, 8, 23, 127, 0⟩

/-- The format of a code, none where it is reserved (R52). -/
def fmtOf : Nat → Option Fmt
  | 0 => some fmtE4M3
  | 1 => some fmtE5M2
  | 2 => some fmtE3M2
  | 3 => some fmtE2M3
  | 4 => some fmtE2M1
  | 5 => some fmtInt8
  | 8 => some fmtBF16
  | 9 => some fmtFP16
  | 10 => some fmtFP32
  | _ => none

/-- The format of a code that has been checked. -/
def fmtAt (c : Nat) : Fmt := (fmtOf c).getD fmtFP32

/-- A format with block scales. -/
def isMx (c : Nat) : Bool := decide (c ≤ 5)

/-- Bits of an element. -/
def fmtBits (c : Nat) : Nat :=
  match c with
  | 0 | 1 | 5 => 8
  | 2 | 3 => 6
  | 4 => 4
  | 8 | 9 => 16
  | _ => 32

/-- Bytes of n packed elements (R53). -/
def packedBytes (c n : Nat) : Nat := ceilDiv (n * fmtBits c) 8

/-- Bytes of an element plane row of n elements, MX rows completed to whole blocks (R54). -/
def rowBytes (c n : Nat) : Nat := if isMx c then packedBytes c (roundUp n 32) else packedBytes c n

/-- The largest finite magnitude (Table NUM-1). -/
def fmtMax (f : Fmt) : Nat × Int :=
  match f.code with
  | 0 => (7, 6)
  | 1 => (7, 13)
  | 2 => (7, 2)
  | 3 => (15, -1)
  | 4 => (3, 1)
  | 5 => (127, -6)
  | 8 => (255, 120)
  | 9 => (2047, 5)
  | _ => (2 ^ 24 - 1, 104)

/-- The exponent of the smallest normal. -/
def fmtEmin (f : Fmt) : Int := 1 - f.bias

/-- The canonical NaN (R51). -/
def canonicalNan (c : Nat) : Nat :=
  match c with
  | 0 => 0x7F
  | 1 => 0x7E
  | 8 => 0x7FC0
  | 9 => 0x7E00
  | 10 => 0x7FC00000
  | _ => 0

/-- The value of a code (R50). -/
def decodeVal (f : Fmt) (x : Nat) : Val :=
  if f.code = 5 then
    let n := signed 8 x
    Val.ofInt n (-6) false
  else
    let s := bitAt x (f.ebits + f.mbits)
    let ex := bitsAt x f.mbits f.ebits
    let mt := bitsAt x 0 f.mbits
    let ieee := decide (f.code = 1 ∨ f.code ≥ 8)
    if ieee && ex + 1 == 2 ^ f.ebits then (if mt = 0 then .inf s else .nan)
    else if f.code = 0 ∧ ex = 15 ∧ mt = 7 then .nan
    else if ex = 0 then .fin s mt (1 - f.bias - f.mbits)
    else .fin s (2 ^ f.mbits + mt) ((ex : Int) - f.bias - f.mbits)

/-- The value of an operand as an operation reads it: fast mode reads FP32 and BF16 subnormals as zero (R63). -/
def readVal (f : Fmt) (strict : Bool) (x : Nat) : Val :=
  match decodeVal f x with
  | .fin s m e =>
    if !strict && decide (f.code = 8 ∨ f.code = 10) && decide (m ≠ 0) && decide (Nat.log2 m + e < fmtEmin f)
    then .fin s 0 0 else .fin s m e
  | v => v

/-- The code of a finite value that the format holds exactly. -/
def encodeExact (f : Fmt) (s : Bool) (m : Nat) (e : Int) : Nat :=
  if f.code = 5 then
    codeOf 8 (Val.toInt s m e (min e (-6)) / 2 ^ ((-6 : Int) - min e (-6)).toNat)
  else
    let sb := boolNat s * 2 ^ (f.ebits + f.mbits)
    if m = 0 then sb
    else
      let x : Int := Nat.log2 m + e
      if x < fmtEmin f then sb + rneShift m (e - (fmtEmin f - f.mbits))
      else sb + (x + f.bias).toNat * 2 ^ f.mbits + (rneShift m (e - (x - f.mbits)) - 2 ^ f.mbits)

/-- The code of the largest finite value of a sign. -/
def encodeMax (f : Fmt) (s : Bool) : Nat := encodeExact f s (fmtMax f).1 (fmtMax f).2

/-- The code of an infinity, in a format that has one. -/
def encodeInf (f : Fmt) (s : Bool) : Nat :=
  boolNat s * 2 ^ (f.ebits + f.mbits) + (2 ^ f.ebits - 1) * 2 ^ f.mbits

/-- A magnitude rounded to the format's precision with an unbounded exponent lies beyond its largest
finite value (R58). -/
def outOfRange (f : Fmt) (m : Nat) (e : Int) : Bool :=
  if f.code = 5 then decide (rneShift m (e + 6) > 127)
  else
    let r := if f.mbits = 0 then (m, e) else rneUnbounded (f.mbits + 1) m e
    !Val.leMag r.1 r.2 (fmtMax f).1 (fmtMax f).2

/-! ### Conversion to BF16, FP16 and FP32 (R57 to R63) -/

/-- What a conversion does to a value: its code, flags, whether OVF acted or the result is non-finite
(R261), and its NaN origin. -/
structure Conv where
  code : Nat
  fl : Flags
  counted : Bool
  /-- NaN formed by the conversion itself (origin 3) -/
  formed : Bool
  deriving DecidableEq, Repr

/-- Convert a value to BF16, FP16 or FP32 (Tables NUM-6, NUM-7, NUM-8). NANIN belongs to the read of a NaN. -/
def convertFloat (f : Fmt) (strict : Bool) (v : Val) : Conv :=
  match v with
  | .nan => ⟨canonicalNan f.code, {}, true, false⟩
  | .inf s => ⟨encodeInf f s, {}, true, false⟩
  | .fin s 0 _ => ⟨encodeExact f s 0 0, {}, false, false⟩
  | .fin s m e =>
    let u := rneUnbounded (f.mbits + 1) m e
    if outOfRange f m e then
      ⟨if strict then encodeInf f s else encodeMax f s, { ovf := true }, true, false⟩
    else
      let tiny := decide (Nat.log2 u.1 + u.2 < fmtEmin f)
      if !strict && tiny && f.code != 9 then ⟨encodeExact f s 0 0, { unf := true }, false, false⟩
      else
        let g := rneBounded (f.mbits + 1) (fmtEmin f - f.mbits) m e
        let exact := Val.leMag g.1 g.2 m e && Val.leMag m e g.1 g.2
        let unf := if strict then tiny && !exact else decide (g.1 = 0)
        ⟨encodeExact f s g.1 g.2, { unf := unf }, false, false⟩

/-- Round a value to FP32 and read it back. -/
def roundF32 (strict : Bool) (v : Val) : Val × Flags :=
  let c := convertFloat fmtFP32 strict v
  (decodeVal fmtFP32 c.code, c.fl)

/-! ### MX elements and blocks (R59 to R64) -/

/-- Where a block's scale exponent comes from (Table NUM-5): BLOCK, or an exponent given by HISTORY or
FIXED with whether its lower clamp acted. -/
inductive Policy where
  | block
  | given (x : Int) (low : Bool)
  deriving DecidableEq, Repr

/-- Encode a scaled value as an MX element. -/
def encodeElem (f : Fmt) (block strict : Bool) (v : Val) : Conv :=
  match v with
  | .nan => ⟨0, {}, true, false⟩
  | .inf s =>
    if f.code = 1 then ⟨encodeInf f s, {}, true, false⟩
    else if f.code = 0 then
      if strict then ⟨canonicalNan 0, { inv := true }, true, true⟩
      else ⟨encodeMax f s, { ovf := true }, true, false⟩
    else ⟨encodeMax f s, { ovf := true }, true, false⟩
  | .fin s 0 _ => ⟨encodeExact f s 0 0, {}, false, false⟩
  | .fin s m e =>
    if outOfRange f m e then
      if block then ⟨encodeMax f s, { clamps := 1 }, false, false⟩
      else if strict ∧ f.code = 0 then ⟨canonicalNan 0, { ovf := true }, true, true⟩
      else if strict ∧ f.code = 1 then ⟨encodeInf f s, { ovf := true }, true, false⟩
      else ⟨encodeMax f s, { ovf := true }, true, false⟩
    else if f.code = 5 then
      ⟨codeOf 8 (if s then -(rneShift m (e + 6) : Int) else rneShift m (e + 6)), {}, false, false⟩
    else
      let g := rneBounded (f.mbits + 1) (fmtEmin f - f.mbits) m e
      ⟨encodeExact f s g.1 g.2, {}, false, false⟩

/-- The largest finite magnitude of a list, +0 where there is none. -/
def amaxOf (vs : List Val) : Val :=
  vs.foldl (fun a v => if v.isFin && Val.le a v.abs then v.abs else a) Val.zero

/-- The scale exponent of Table NUM-5 for a largest magnitude, and whether the lower clamp acted. -/
def scaleExp (f : Fmt) (amax : Val) : Int × Bool :=
  if amax.isZero then (0, false)
  else
    let x := amax.floorLog2 - f.emax
    if x < -127 then (-127, true) else (min x 127, false)

/-- A quantised block: scale code, element codes, flags, and per element whether it counts under R261
and whether it formed a NaN. -/
structure Block where
  scale : Nat
  codes : List Nat
  fl : Flags
  counted : List Bool
  formed : List Bool
  deriving DecidableEq, Repr

/-- Quantise a block of FP32 values under a policy (R59 to R62); the block's real elements only. A NaN makes
the whole block NaN. -/
def quantise (f : Fmt) (p : Policy) (strict : Bool) (vs : List Val) : Block :=
  if vs.any Val.isNan then
    { scale := 0xFF, codes := vs.map fun _ => 0, fl := {}, counted := vs.map fun _ => true
      formed := vs.map fun _ => false }
  else
    let x := match p with
      | .block => scaleExp f (amaxOf vs)
      | .given x low => (x, low)
    let cs := vs.map fun v => encodeElem f (p == .block) strict (v.scale (-x.1))
    { scale := (x.1 + 127).toNat, codes := cs.map (·.code)
      fl := cs.foldl (fun a c => a.or c.fl) { low := x.2 }
      counted := cs.map (·.counted), formed := cs.map (·.formed) }

/-- The exact value of an MX element under its scale code; scale 0xFF gives NaN (R62). -/
def mxVal (f : Fmt) (scale x : Nat) : Val :=
  if scale = 0xFF then .nan else (decodeVal f x).scale ((scale : Int) - 127)

/-! ### Packing (Table NUM-3) -/

/-- Element i of a packed run of bytes that starts at an element boundary. -/
def elemAt (c : Nat) (bytes : List Byte) (i : Nat) : Nat :=
  let b := fmtBits c
  let lo := i * b
  bitsAt (leNat ((bytes.drop (lo / 8)).take 4)) (lo % 8) b

/-- Bytes of packed element codes, the last one completed with zero bits. -/
def packElems (c : Nat) (codes : List Nat) : List Byte :=
  let b := fmtBits c
  leBytes (packedBytes c codes.length) (codes.foldr (fun x acc => x % 2 ^ b + 2 ^ b * acc) 0)

/-! ### FP32 arithmetic of the units -/

/-- Fast mode reads an FP32 subnormal as zero of its sign (R63). -/
def flushF32 (strict : Bool) (v : Val) : Val :=
  match v with
  | .fin s m e =>
    if !strict && decide (m ≠ 0) && decide (Nat.log2 m + e < -126) then .fin s 0 0 else v
  | _ => v

/-- An invalid operation formed a NaN from operands that are none. -/
def invalid (r a b : Val) : Bool := r.isNan && !a.isNan && !b.isNan

/-- One FP32 addition (R110). NANIN belongs to the read of an input. -/
def addF32 (strict : Bool) (a b : Val) : Val × Flags :=
  let a := flushF32 strict a
  let b := flushF32 strict b
  let x := Val.add a b
  let r := roundF32 strict x
  (r.1, r.2.or { inv := invalid x a b })

/-- One FP32 multiplication. -/
def mulF32 (strict : Bool) (a b : Val) : Val × Flags :=
  let a := flushF32 strict a
  let b := flushF32 strict b
  let x := Val.mul a b
  let r := roundF32 strict x
  (r.1, r.2.or { inv := invalid x a b })

/-- One fused multiply-add a × b + c, rounded once. -/
def fmaF32 (strict : Bool) (a b c : Val) : Val × Flags :=
  let a := flushF32 strict a
  let b := flushF32 strict b
  let c := flushF32 strict c
  let x := Val.mul a b
  let y := Val.add x c
  let r := roundF32 strict y
  (r.1, r.2.or { inv := !c.isNan && (invalid x a b || invalid y x c) })

/-- One FP32 division, correctly rounded. -/
def divF32 (strict : Bool) (a b : Val) : Val × Flags :=
  let a := flushF32 strict a
  let b := flushF32 strict b
  let x := Val.div a b
  let r := roundF32 strict x
  (r.1, r.2.or { inv := invalid x a b })

/-- One FP32 square root, correctly rounded. -/
def sqrtF32 (strict : Bool) (a : Val) : Val × Flags :=
  let a := flushF32 strict a
  let x := Val.sqrt a
  let r := roundF32 strict x
  (r.1, r.2.or { inv := invalid x a a })

/-- The FP32 code of a value that FP32 holds. -/
def f32Code (v : Val) : Nat :=
  match v with
  | .nan => canonicalNan 10
  | .inf s => encodeInf fmtFP32 s
  | .fin s m e => encodeExact fmtFP32 s m e

/-- The value of an FP32 code. -/
def f32 (x : Nat) : Val := decodeVal fmtFP32 x

/-! ### Group partials and accumulation (spec/05) -/

/-- An accumulator: its value, flags, and the first cause of its NaN (Table NUM-15). -/
structure Acc where
  v : Val
  fl : Flags
  origin : Option Nat
  deriving DecidableEq, Repr

/-- Note a NaN's cause, the first one staying. -/
def Acc.cause (a : Acc) (o : Nat) : Acc := { a with origin := a.origin <|> some o }

/-- The window sum of exact finite products (R105 to R107): W and its quantum. -/
def windowSum (ps : List Val) : Int × Int :=
  let nz := ps.filter fun p => !p.isZero
  match nz with
  | [] => (0, 0)
  | p :: rest =>
    let e := rest.foldl (fun a v => max a v.floorLog2) p.floorLog2
    (nz.foldl (fun (w : Int) v =>
      match v with
      | .fin s m x =>
        let sh : Int := x - (e - 48)
        let t : Nat := if sh ≥ 0 then m * 2 ^ sh.toNat else m / 2 ^ (-sh).toNat
        if s then w - t else w + t
      | _ => w) 0, e - 48)

/-- A group's partial (R104 to R108, R65 to R68): FP32 value, flags and NaN cause. `sa` and `sb` are scale
codes, 127 where a format has none. -/
def groupPartial (strict : Bool) (sa sb : Nat) (ab : List (Val × Val)) : Val × Flags × Option Nat :=
  if sa = 0xFF ∨ sb = 0xFF then (.nan, { nanin := true }, some 1)
  else
    let ps := ab.map fun p => Val.mul p.1 p.2
    let nanIn := ab.any fun p => p.1.isNan || p.2.isNan
    let bad := ab.any fun p => invalid (Val.mul p.1 p.2) p.1 p.2
    let pinf := ps.any fun p => p == .inf false
    let ninf := ps.any fun p => p == .inf true
    if nanIn || bad || (pinf && ninf) then
      (.nan, { nanin := nanIn, inv := bad || (pinf && ninf) }, some (if nanIn then 0 else 2))
    else if pinf then (.inf false, {}, none)
    else if ninf then (.inf true, {}, none)
    else
      let w := windowSum ps
      let r := roundF32 strict (Val.ofInt w.1 (w.2 + ((sa : Int) - 127) + ((sb : Int) - 127)) false)
      (r.1, r.2, none)

/-- Add one value to an accumulator with one rounding (R110); a NaN read as an input sets NANIN. -/
def accAdd (strict : Bool) (a : Acc) (x : Val) (input : Bool) : Acc :=
  let r := addF32 strict a.v x
  let inv := invalid r.1 a.v x
  { v := r.1, fl := (a.fl.or r.2).or { nanin := input && x.isNan }
    origin := if r.1.isNan then a.origin <|> (if inv then some 2 else if x.isNan then some 0 else none) else none }

/-- Add a group (R109). -/
def accGroup (strict : Bool) (a : Acc) (sa sb : Nat) (ab : List (Val × Val)) : Acc :=
  let p := groupPartial strict sa sb ab
  let r := addF32 strict a.v p.1
  { v := r.1, fl := (a.fl.or p.2.1).or r.2
    origin := if r.1.isNan then a.origin <|> p.2.2 <|> (if invalid r.1 a.v p.1 then some 2 else none) else none }

/-- Add one exact scaled product in strict mode (R111). -/
def accProduct (a : Acc) (sa sb : Nat) (p : Val × Val) : Acc :=
  if sa = 0xFF ∨ sb = 0xFF then
    { v := .nan, fl := a.fl.or { nanin := true }, origin := a.origin <|> some 1 }
  else
    let x := (Val.mul p.1 p.2).scale (((sa : Int) - 127) + ((sb : Int) - 127))
    let y := Val.add a.v x
    let r := roundF32 true y
    let bad := invalid x p.1 p.2 || invalid y a.v x
    let nanIn := p.1.isNan || p.2.isNan
    { v := r.1, fl := (a.fl.or r.2).or { inv := bad, nanin := nanIn }
      origin := if r.1.isNan then a.origin <|> (if nanIn then some 0 else if bad then some 2 else none) else none }

/-- The accumulation of R109 and R111 over a run of products: scales and pairs per group of 32. -/
def accumulate (strict : Bool) (init : Acc) (groups : List (Nat × Nat × List (Val × Val))) : Acc :=
  groups.foldl (fun a g =>
    if strict then g.2.2.foldl (fun a p => accProduct a g.1 g.2.1 p) a
    else accGroup false a g.1 g.2.1 g.2.2) init

/-- A list in chunks of n, by fuel. -/
def chunks {α : Type} (n : Nat) : Nat → List α → List (List α)
  | 0, _ => []
  | k + 1, l => if l.isEmpty then [] else l.take n :: chunks n k (l.drop n)

/-- The sum path of R117: products with ones or squares, in groups of 32, unscaled. With STRICT set the window of R105 to R110 stays
and each of its roundings is the strict one (DESIGN CHOICE, log entry 71). -/
def sumPath (strict : Bool) (ps : List (Val × Val)) : Acc :=
  (chunks 32 ps.length ps).foldl (fun a g => accGroup strict a 127 127 g) ⟨Val.zero, {}, none⟩

/-! ### Special functions (R73, Table NUM-10)

A result is one of the FP32 values within the error bound; which one is free (log entry 10). -/

/-- The next FP32 code of the same sign. -/
def stepUp (x : Nat) (k : Int) : Nat := ((x : Int) + k).toNat

/-- 2^(i/2^n) for i of n fraction bits, as a fixed-point number with 64 fraction bits. -/
def exp2Frac (n i : Nat) : Nat :=
  ((List.range n).foldl (fun (p : Nat × Nat) k =>
      let root := Nat.sqrt (p.1 * 2 ^ 64)
      (root, if bitAt i (n - 1 - k) then p.2 * root / 2 ^ 64 else p.2)) (2 ^ 65, 2 ^ 64)).2

/-- exp2 of (-1)^s × m × 2^e, below 128, rounded down to an FP32 code, subnormal codes included; whether it
lies below the smallest normal, and whether it is exact. -/
def exp2Floor (s : Bool) (m : Nat) (e : Int) : Nat × Bool × Bool :=
  let n := (-(min e 0)).toNat
  let x : Int := Val.toInt s m e (-(n : Int))
  let i := x / (2 ^ n : Nat)
  let f := (x % (2 ^ n : Nat)).toNat
  let n' := min n 64
  let v := exp2Frac n' (f / 2 ^ (n - n'))
  if i ≥ -126 then (encodeExact fmtFP32 false (v / 2 ^ 41) (i - 23), false, f == 0)
  else (v / 2 ^ (-85 - i).toNat, true, f == 0 && decide (i ≥ -149))

/-- A non-zero value below FP32's smallest normal. -/
def tinyVal : Val → Bool
  | .fin _ m e => m != 0 && decide ((Nat.log2 m : Int) + e < -126)
  | _ => false

/-- A lane's result after the mode's treatment of subnormals (R73, Table NUM-8): fast mode writes zero of its sign. -/
def laneResult (strict : Bool) (v : Val) (fl : Flags) : Val × Flags :=
  if !strict && tinyVal v then (.fin v.sign 0 0, { fl with unf := true }) else (v, fl)

/-- exp2(x) by Table NUM-10, the choice `c` picking among the FP32 values within 2 ulp. A zero gives 1. -/
def exp2Val (strict : Bool) (c : Nat) (v : Val) : Val × Flags :=
  match flushF32 strict v with
  | .nan => (.nan, {})
  | .inf s => (if s then Val.zero else .inf false, {})
  | .fin s m e =>
    if m = 0 then (Val.one, {})
    else if !s && !Val.leMag m e (2 ^ 24 - 1) (-17) then
      (if strict then .inf false else f32 (encodeMax fmtFP32 false), { ovf := true })
    else if s && Val.leMag 200 0 m e then (Val.zero, { unf := true })
    else
      let r := exp2Floor s m e
      if r.2.1 && !strict then (Val.zero, { unf := true })
      else
        let y := f32 (stepUp r.1 ([0, 1, -1, 2].getD (c % 4) 0))
        laneResult strict y { unf := (r.2.1 || tinyVal y) && (!r.2.2 || c % 4 != 0) }

/-- A value rounded down in magnitude to an FP32 code, from a sticky exact value. -/
def floorCode (v : Val) : Nat :=
  match v with
  | .fin s m e =>
    let q : Int := max (Nat.log2 m + e - 23) (-149)
    let n := if e ≥ q then m * 2 ^ (e - q).toNat else m / 2 ^ (q - e).toNat
    if m = 0 then 0 else encodeExact fmtFP32 s n q
  | v => f32Code v

/-- A finite result within 1 ulp of a sticky exact value, by the choice `c`. Fast mode writes a subnormal as zero; in strict mode a
tiny result underflows where it is inexact (Table NUM-8). -/
def nearUlp (strict : Bool) (c : Nat) (v : Val) : Val × Flags :=
  let r := f32 (stepUp (floorCode v) ([0, 1, 0].getD (c % 3) 0))
  match v with
  | .fin s m e =>
    if !Val.leMag m e (2 ^ 24 - 1) 104 then
      (if strict then .inf s else f32 (encodeMax fmtFP32 s), { ovf := true })
    else if m ≠ 0 ∧ Nat.log2 m + e < -126 then
      if strict then (r, { unf := !(Val.le r v && Val.le v r) }) else (.fin s 0 0, { unf := true })
    else (r, {})
  | v => (v, {})

/-- 1/x by Table NUM-10. -/
def recipVal (strict : Bool) (c : Nat) (v : Val) : Val × Flags :=
  match flushF32 strict v with
  | .nan => (.nan, {})
  | .inf s => (.fin s 0 0, {})
  | .fin s m e =>
    if m = 0 then (.inf s, {}) else nearUlp strict c (Val.div Val.one (.fin s m e))

/-- 1/sqrt(x) by Table NUM-10. -/
def rsqrtVal (strict : Bool) (c : Nat) (v : Val) : Val × Flags :=
  match flushF32 strict v with
  | .nan => (.nan, {})
  | .inf s => if s then (.nan, { inv := true }) else (Val.zero, {})
  | .fin s m e =>
    if m = 0 then (.inf s, {})
    else if s then (.nan, { inv := true })
    else nearUlp strict c (Val.div Val.one (Val.sqrt (.fin s m e)))

/-- The first 64 fraction bits of log2 of x / 2^128, for x from 2^128 to 2^129. -/
def log2Frac (x : Nat) : Nat :=
  ((List.range 64).foldl (fun (p : Nat × Nat) _ =>
    let y := p.1 * p.1 / 2 ^ 128
    if y ≥ 2 ^ 129 then (y / 2, 2 * p.2 + 1) else (y, 2 * p.2)) (x, 0)).2

/-- log2(x) by Table NUM-10, the choice `c` picking among values within the bound: 2 ulp for x from 0.5 to 2, elsewhere 2^-22, which from
a magnitude of 4 on leaves the nearest FP32 value alone (log entry 10). No descriptor of the manual names this function. -/
def log2Val (strict : Bool) (c : Nat) (v : Val) : Val × Flags :=
  match flushF32 strict v with
  | .nan => (.nan, {})
  | .inf s => if s then (.nan, { inv := true }) else (.inf false, {})
  | .fin s m e =>
    if m = 0 then (.inf true, {})
    else if s then (.nan, { inv := true })
    else
      let k := Nat.log2 m
      let y : Int := ((k : Int) + e) * (2 ^ 64 : Nat) + log2Frac (m * 2 ^ 128 / 2 ^ k)
      let off : Int := if y.natAbs < 4 * 2 ^ 64 then ((c % 5 : Nat) - 2 : Int) * (2 ^ 40 : Nat) else 0
      if y.natAbs ≤ 2 ^ 64 then
        laneResult strict (f32 (stepUp (floorCode (Val.ofInt y (-64) false)) ([0, 1, -1, 2].getD (c % 4) 0))) {}
      else ((roundF32 true (Val.ofInt (y + off) (-64) false)).1, {})

/-- log2(x) as the lane gives it. -/
def log2Lane (strict : Bool) (x : Val) : Val × Flags :=
  log2Val strict (Config.laneChoice 3 (f32Code (flushF32 strict x))) x

/-- pow2(x) of R179: 2^n × exp2(f) with n the floor of x, the power applied exactly and rounded once. -/
def pow2Val (strict : Bool) (x : Val) : Val × Flags :=
  match flushF32 strict x with
  | .nan => (.nan, {})
  | .inf s => (if s then Val.zero else .inf false, {})
  | .fin s m e =>
    let q := min e 0
    let i := Val.toInt s m e q
    let n : Int := i / (2 ^ (-q).toNat : Nat)
    let f := i - n * (2 ^ (-q).toNat : Nat)
    let r := if f = 0 then (Val.one, {}) else
      exp2Val true (Config.laneChoice 0 (f32Code (.fin s m e))) (Val.ofInt f q false)
    roundF32 strict (r.1.scale n)

/-- reciprocal(x) as the lane gives it. -/
def recipLane (strict : Bool) (x : Val) : Val × Flags :=
  recipVal strict (Config.laneChoice 1 (f32Code (flushF32 strict x))) x

/-- rsqrt(x) as the lane gives it. -/
def rsqrtLane (strict : Bool) (x : Val) : Val × Flags :=
  rsqrtVal strict (Config.laneChoice 2 (f32Code (flushF32 strict x))) x

/-- The larger of two values; +0 above −0, a NaN above all (R164, R178). -/
def maxVal (a b : Val) : Val :=
  if a.isNan then a
  else if b.isNan then b
  else if a.isZero && b.isZero then (if a.sign then b else a)
  else if Val.le a b then b else a

end Sys2Proof.Machine
end

