-- ==== Sys2Proof/Machine/StepOps.lean ====
section
/-! DEFINITION. The step: format state, the non-finite count, contributions and the verdict, the infusers'
walk and the checkpoint capture (spec/11, R321). -/

namespace Sys2Proof.Machine

/-! ### Format state (R258 to R260) -/

/-- The address of a tensor's format state record. -/
def formatAddr (s : State) (id : Nat) : Nat := faddr s INF_FSTATE_BASE f_INF_FSTATE_BASE_BASE + 128 * id

/-- A tensor's record as it stands; none for TENSOR_ID 0xFFFF. -/
def formatRecord (s : State) (id : Nat) : List Byte :=
  if id = 0xFFFF then [] else readBytes s .other (formatAddr s id) 128

/-- Verify the blocks of a tensor's record before it is read (R250, R258): the bad ones. What follows a poisoned record is the model's
choice (log entry 93). -/
def verifyFormat (s : State) (id : Nat) : List (Nat × Nat) × State :=
  if id = 0xFFFF then ([], s) else verifyRange s .other (formatAddr s id) 128

/-- TENSOR_ID names a tensor of the job, or is 0xFFFF. -/
def tensorOk (s : State) (id : Nat) : Bool := id == 0xFFFF || s.job.tensors.any fun t => t.id == id

/-- Bytes [lo, lo + n) of a list as a little-endian number. -/
def field (bs : List Byte) (lo n : Nat) : Nat := leNat ((bs.drop lo).take n)

/-- The largest of the 16 amax history entries of a record. -/
def histMax (rec : List Byte) : Val :=
  amaxOf ((List.range 16).map fun i => f32 (field rec (8 + 4 * i) 4))

/-- The block-scale policy of a format state record for a target format (Table NUM-5); no record is BLOCK. -/
def policyOf (rec : List Byte) (f : Fmt) : Policy :=
  match bitsAt (field rec 0 1) 0 2 with
  | 1 => .given (scaleExp f (histMax rec)).1 (scaleExp f (histMax rec)).2
  | 2 => .given (signed 8 (field rec 1 1)) false
  | _ => .block

/-- The strainer mode of a record (R243). -/
def strainMode (rec : List Byte) : Nat := bitsAt (field rec 0 1) 2 2

/-- Writes to the tensor count toward the verdict (R261). -/
def gradOf (rec : List Byte) : Bool := bitAt (field rec 0 1) 4

/-- Merge a magnitude into a tensor's STEP_AMAX (R259), whose block is verified first (R250); into a poisoned one the write is poisoned
(R255, log entry 93). -/
def mergeAmax (s : State) (id : Nat) (v : Val) : State :=
  if id = 0xFFFF ∨ v.isZero then s
  else
    let a := formatAddr s id + 4
    let r := verifyRange s .other a 4
    let old := f32 (readNat r.2 .other a 4)
    if Val.le v old then r.2 else writeBytes r.2 .other a (leBytes 4 (f32Code v)) (!r.1.isEmpty)

/-- Add to the module's non-finite count (R119, R261). -/
def addNonfinite (s : State) (n : Nat) : State :=
  { s with stp := { s.stp with nonfinite := stick (2 ^ 64 - 1) (s.stp.nonfinite + n) } }

/-- Push every tensor's STEP_AMAX into its history, or only zero it for a withheld verdict (R260). The push verifies the record (R250);
one that is poisoned stays so (R255, log entry 93). -/
def pushAmax (s : State) (push : Bool) : State :=
  (s.job.tensors.map (·.id)).eraseDups.foldl (fun s id =>
    let v := if push then verifyFormat s id else ([], s)
    let bad := !v.1.isEmpty
    let s := v.2
    let rec_ := formatRecord s id
    let a := formatAddr s id
    let nxt := bitsAt (field rec_ 2 1) 0 4
    let s :=
      if push then
        writeBytes (writeBytes s .other (a + 8 + 4 * nxt) (leBytes 4 (field rec_ 4 4)) bad) .other (a + 2)
          (leBytes 1 ((nxt + 1) % 16)) bad
      else s
    writeBytes s .other (a + 4) (leBytes 4 0) bad) s

/-! ### Contribution and verdict (R262 to R269, R321) -/

def normSlots (s : State) : Nat := fget s INF_NORM_CTL f_INF_NORM_CTL_SLOTS
def normBase (s : State) : Nat := faddr s INF_NORM_BASE f_INF_NORM_BASE_BASE

/-- The owner of the norm slots from `first` on (R321). -/
def slotOwner (s : State) (first : Nat) : Nat := (first / 1024 + 1) % moduleCount s

/-- The first slots of the runs of 1,024. -/
def slotRuns (s : State) : List Nat := (List.range (ceilDiv (normSlots s) 1024)).map (· * 1024)

/-- The step record of Table STP-2. -/
def stepRecord (n outcome exp clean nf wh arrival : Nat) : List Byte :=
  leBytes 4 n ++ leBytes 1 outcome ++ leBytes 1 exp ++ leBytes 2 clean ++ leBytes 8 nf ++ leBytes 8 wh ++
    leBytes 8 arrival ++ leBytes 32 0

/-- The interrupt of the step controller (Table HST-7, source 1). -/
def stepInterrupt (s : State) : State := if fbit s INF_CTL f_INF_CTL_IRQ_EN then interrupt s 1 else s

/-- EXP, CLEAN and OUTCOME after a verdict, and whether a halving met MIN_EXP or a doubling MAX_EXP (Table
STP-3, R269). -/
def lossScale (s : State) (nf wh : Nat) : Int × Nat × Nat × Bool × Bool :=
  let exp := signed 8 (fget s INF_LS_STATE f_INF_LS_STATE_EXP)
  let clean := fget s INF_LS_STATE f_INF_LS_STATE_CLEAN
  let lo := signed 8 (fget s INF_LS_CTL f_INF_LS_CTL_MIN_EXP)
  let hi := signed 8 (fget s INF_LS_CTL f_INF_LS_CTL_MAX_EXP)
  if wh ≠ 0 then (exp, clean, 2, false, false)
  else if nf ≠ 0 then
    if exp ≤ lo then (exp, 0, 1, true, false) else (exp - 1, 0, 1, false, false)
  else if clean + 1 ≥ fget s INF_LS_CTL f_INF_LS_CTL_CLEAN_RUN then
    if exp ≥ hi then (exp, 0, 0, false, true) else (exp + 1, 0, 0, false, false)
  else (exp, clean + 1, 0, false, false)

/-- The verdict of the step whose contribution was sent arrives (R260, R265, R268): summed counts, and the
summed norm slots by run where the module holds them. -/
def verdictArrives (s : State) (nf wh : Nat) (slots : List (Nat × List Nat)) : State :=
  let n := (s.stp.sent.getD (0, 0)).1
  let r := lossScale s nf wh
  let outcome := r.2.2.1
  let oldExp := signed 8 (fget s INF_LS_STATE f_INF_LS_STATE_EXP)
  let s := fset (fset s INF_LS_STATE f_INF_LS_STATE_EXP (codeOf 8 r.1)) INF_LS_STATE f_INF_LS_STATE_CLEAN r.2.1
  let s := if r.2.2.2.1 then fset s INF_STATUS f_INF_STATUS_LS_FLOOR 1 else s
  let s := if r.2.2.2.2 then fset s INF_STATUS f_INF_STATUS_LS_CEIL 1 else s
  let s := fset s INF_STATUS f_INF_STATUS_VERDICT_WAIT 0
  let s := fset (fset s INF_LAST f_INF_LAST_STEP n) INF_LAST f_INF_LAST_OUTCOME outcome
  let s :=
    if outcome = 1 then fadd s INF_SKIPPED f_INF_SKIPPED_SKIPPED 1
    else if outcome = 2 then fadd s INF_SKIPPED f_INF_SKIPPED_WITHHELD 1
    else s
  let s := slots.foldl (fun s p =>
    writeBytes s .other (normBase s + 4 * p.1) (p.2.flatMap fun v => leBytes 4 v) false) s
  let rec_ := stepRecord n outcome (codeOf 8 r.1) r.2.1 nf wh s.now
  let s := writeBytes s .other (faddr s INF_STEP_ADDR f_INF_STEP_ADDR_ADDR) rec_ false
  let s := pushAmax s (wh == 0)
  let s :=
    if outcome = 1 then post s .stepSkipped 0 (field rec_ 0 8)
    else if outcome = 2 then post s .stepWithheld 0 (field rec_ 0 8)
    else s
  { s with stp := { s.stp with
      sent := none, verdict := some (n, outcome, s.now), exp := oldExp, walkDone := true
      sumCounts := none, sumSlots := [] } }

/-- The carousel starts or resumes with step n: a contribution, made or due, a verdict, the parts collected for it, and a cause of R263 of
an earlier run of step n or a later one count no more (DEDUCED, log entry 67). R19 then holds in the new run: its COMMIT phase waits for
its own verdict. The non-finite count goes on: only a contribution zeroes it (R262). -/
def newRun (s : State) (n : Nat) : State :=
  let old := s.stp.sent.any fun c => decide (n ≤ c.1)
  let s := { s with stp := { s.stp with
      withhold := s.stp.withhold.filter fun m => decide (m < n)
      due := s.stp.due.filter fun m => decide (m < n)
      sent := if old then none else s.stp.sent
      sumCounts := if old then none else s.stp.sumCounts
      sumSlots := if old then [] else s.stp.sumSlots
      verdict := s.stp.verdict.filter fun v => decide (v.1 < n)
      counts := s.stp.counts.filter fun c => decide (c.1 < n)
      slots := s.stp.slots.filter fun c => decide (c.1 < n) } }
  if old then fset s INF_STATUS f_INF_STATUS_VERDICT_WAIT 0 else s

/-- The module holds the verdict once it has every part (R264, R321). -/
def verdictComplete (s : State) : State :=
  match s.stp.sent, s.stp.sumCounts with
  | some _, some (nf, wh) =>
    if (slotRuns s).all fun f => s.stp.sumSlots.any fun p => p.1 == f then
      verdictArrives s nf wh s.stp.sumSlots
    else s
  | _, _ => s

/-- The left fold of R118 over norm slots of the modules, in ascending index. -/
def foldSlots (parts : List (List Nat)) : List Nat :=
  match parts with
  | [] => []
  | p :: ps => ps.foldl (fun acc q =>
      (acc.zip q).map fun x => f32Code (addF32 false (f32 x.1) (f32 x.2)).1) p

/-- A summed part is recorded at this module. -/
def recordSum (s : State) (part : VerdictPart) : State :=
  match part with
  | .counts nf wh => { s with stp := { s.stp with sumCounts := some (nf.toNat, wh.toNat) } }
  | .slots first vals =>
    { s with stp := { s.stp with
        sumSlots := (s.stp.sumSlots.filter fun p => p.1 != first) ++ [(first, vals.map (·.toNat))] } }

/-- Send a summed part to every other module and record it here. -/
def sendSum (s : State) (n : Nat) (part : VerdictPart) : State :=
  let s := if moduleCount s > 1 then
      ((List.range (moduleCount s)).filter (· != moduleIndex s)).foldl (fun s m => sendVerdict s m
        ⟨BitVec.ofNat 16 (moduleIndex s), BitVec.ofNat 32 (fget s LNK_JOB f_LNK_JOB_JOB), BitVec.ofNat 32 n, true, part, 0, false⟩) s
    else s
  if (s.stp.sent.map (·.1)) = some n then recordSum s part else s

/-- An owner folds a part once every module's contribution to it is present (R119, R118, R264). -/
def foldCounts (s : State) (n : Nat) : State :=
  let mine := s.stp.counts.filter fun c => c.1 == n
  let ms := List.range (moduleCount s)
  if ms.all fun m => mine.any fun c => c.2.1 == m then
    let nf := mine.foldl (fun a c => stick (2 ^ 64 - 1) (a + c.2.2.1)) 0
    let wh := mine.foldl (fun a c => stick (2 ^ 64 - 1) (a + c.2.2.2)) 0
    sendSum { s with stp := { s.stp with counts := s.stp.counts.filter fun c => c.1 != n } } n
      (.counts (BitVec.ofNat 64 nf) (BitVec.ofNat 64 wh))
  else s

/-- The same for a run of norm slots. -/
def foldRun (s : State) (n first : Nat) : State :=
  let mine := s.stp.slots.filter fun c => c.1 == n && c.2.2.1 == first
  let ms := List.range (moduleCount s)
  if ms.all fun m => mine.any fun c => c.2.1 == m then
    let parts := ms.map fun m => ((mine.find? fun c => c.2.1 == m).map (·.2.2.2)).getD []
    sendSum { s with stp := { s.stp with slots := s.stp.slots.filter fun c => !(c.1 == n && c.2.2.1 == first) } }
      n (.slots first ((foldSlots parts).map (BitVec.ofNat 32)))
  else s

/-- A contribution reaches its owner, which is this module. A second one from the same module is ignored. -/
def takePart (s : State) (n m : Nat) (part : VerdictPart) : State :=
  match part with
  | .counts nf wh =>
    if s.stp.counts.any fun c => c.1 == n && c.2.1 == m then s
    else foldCounts { s with stp := { s.stp with counts := s.stp.counts ++ [(n, m, nf.toNat, wh.toNat)] } } n
  | .slots first vals =>
    if s.stp.slots.any fun c => c.1 == n && c.2.1 == m && c.2.2.1 == first then s
    else
      foldRun { s with stp := { s.stp with slots := s.stp.slots ++ [(n, m, first, vals.map (·.toNat))] } } n first

/-- Give one part of the module's contribution to its owner. -/
def contributePart (s : State) (n : Nat) (owner : Nat) (part : VerdictPart) : State :=
  if owner = moduleIndex s then takePart s n (moduleIndex s) part
  else
    sendVerdict s owner
      ⟨BitVec.ofNat 16 (moduleIndex s), BitVec.ofNat 32 (fget s LNK_JOB f_LNK_JOB_JOB), BitVec.ofNat 32 n, false, part, 0, false⟩

/-- The norm table faults or holds a poisoned block (R263). -/
def normTableBad (s : State) : Bool × State :=
  let n := 4 * normSlots s
  if n = 0 then (false, s)
  else if !rangeMapped s .other (normBase s) n || rangeRetired s (normBase s) n then (true, s)
  else
    let r := verifyRange s .other (normBase s) n
    (!r.1.isEmpty, r.2)

/-- A tile of the module is stopped. -/
def anyStopped (s : State) : Bool := s.tiles.any fun p => p.2.stopped

/-- The module sends its contribution for step n (R262, R263). -/
def sendContribution (s : State) (n : Nat) : State :=
  let t := normTableBad s
  let s := t.2
  let wh := s.stp.withhold.contains n || anyStopped s || fbit s INF_CTL f_INF_CTL_WITHHOLD || t.1
  let nf := if wh then 0 else s.stp.nonfinite
  let vals := (List.range (normSlots s)).map fun i =>
    BitVec.ofNat 32 (readNat s .other (normBase s + 4 * i) 4)
  let s := { s with stp := { s.stp with
      nonfinite := 0, withhold := s.stp.withhold.filter fun m => decide (n < m), sent := some (n, s.now), late := false, ownNonfinite := nf, verdict := none
      sumCounts := none, sumSlots := [] } }
  let s := fset s INF_STATUS f_INF_STATUS_VERDICT_WAIT 1
  let s := contributePart s n 0 (.counts (BitVec.ofNat 64 nf) (BitVec.ofNat 64 (boolNat wh)))
  let s := (slotRuns s).foldl (fun s f =>
    contributePart s n (slotOwner s f) (.slots f ((vals.drop f).take 1024))) s
  verdictComplete s

/-- The contribution that is due is sent: the phase before COMMIT ended in the beat before (R262). -/
def sendDue (s : State) : State :=
  match s.stp.due with
  | some n => sendContribution { s with stp := { s.stp with due := none } } n
  | none => s

/-! ### Random streams (R287) -/

/-- High and low halves of a product of 32-bit words. -/
def mulHigh (a b : Nat) : Nat := a * b / 2 ^ 32
def mulLow (a b : Nat) : Nat := a * b % 2 ^ 32

/-- One round of Philox-4x32 on the counter words under a key. -/
def philoxRound (k0 k1 : Nat) (c : Nat × Nat × Nat × Nat) : Nat × Nat × Nat × Nat :=
  let m0 := 0xD2511F53
  let m1 := 0xCD9E8D57
  (mulHigh m1 c.2.2.1 ^^^ c.2.1 ^^^ k0, mulLow m1 c.2.2.1, mulHigh m0 c.1 ^^^ c.2.2.2 ^^^ k1, mulLow m0 c.1)

/-- Rounds of Philox, the key raised by its Weyl constants after each. -/
def philoxRounds : Nat → Nat → Nat → Nat × Nat × Nat × Nat → Nat × Nat × Nat × Nat
  | 0, _, _, c => c
  | n + 1, k0, k1, c =>
    philoxRounds n ((k0 + 0x9E3779B9) % 2 ^ 32) ((k1 + 0xBB67AE85) % 2 ^ 32) (philoxRound k0 k1 c)

/-- Philox-4x32-10, whose rounds and constants the manual takes from the generator of that name (PRESUMED, log entry 95). -/
def philox (k0 k1 c0 c1 c2 c3 : Nat) : Nat × Nat × Nat × Nat := philoxRounds 10 k0 k1 (c0, c1, c2, c3)

/-- Draw d of a stream in a step: output word d mod 4 of the call whose counter is ⌊d / 4⌋, the step and the stream's halves, under the
halves of INF_SEED as key (R287). -/
def drawOf (s : State) (step : Nat) (stream : Word) (d : Nat) : Nat :=
  let seed := s.reg INF_SEED
  let w := philox (seed % 2 ^ 32) (seed / 2 ^ 32) (d / 4 % 2 ^ 32) (step % 2 ^ 32) (stream.toNat % 2 ^ 32) (stream.toNat / 2 ^ 32)
  match d % 4 with
  | 0 => w.1
  | 1 => w.2.1
  | 2 => w.2.2.1
  | _ => w.2.2.2

/-! ### The infuser (R277 to R283) -/

/-- An update list entry (Table STP-5). -/
structure UEntry where
  tensor : Nat
  rule : Nat
  bf16 : Bool
  records : Nat
  recordAddr : Nat
  gradAddr : Nat
  lr : Val
  beta1 : Val
  beta2 : Val
  eps : Val
  wd : Val
  p1 : Val
  p2 : Val
  clipSlot : Nat
  clipMax : Val
  deriving DecidableEq, Repr

/-- The entry a list of 64 bytes holds. -/
def parseEntry (b : List Byte) : UEntry :=
  let v := fun i => f32 (field b i 4)
  { tensor := field b 0 2, rule := bitsAt (field b 2 1) 0 2, bf16 := bitAt (field b 2 1) 2, records := field b 4 4
    recordAddr := bitsAt (field b 8 8) 9 27 * 512, gradAddr := bitsAt (field b 16 8) 6 30 * 64
    lr := v 24, beta1 := v 28, beta2 := v 32, eps := v 36, wd := v 40, p1 := v 44, p2 := v 48
    clipSlot := field b 52 2, clipMax := v 56 }

/-- The key of a stack offset. -/
def stackKey (h : StackId) (off : Nat) : Nat := h.val * 2 ^ 36 + off % 2 ^ 36

/-- Bytes from a key on. -/
def keyBytes (s : State) (k n : Nat) : List Byte := (List.range n).map fun i => byteAt s (k + i)

def ulistBase (s : State) (h : StackId) : Nat := faddr s (INF_ULIST_BASE h.val) f_INF_ULIST_BASE_BASE
def ulistCount (s : State) (h : StackId) : Nat := fget s (INF_ULIST_COUNT h.val) f_INF_ULIST_COUNT_COUNT

/-- Entry i of a base die's update list. -/
def entryOf (s : State) (h : StackId) (i : Nat) : UEntry :=
  parseEntry (keyBytes s (stackKey h (ulistBase s h + 64 * i)) 64)

/-- Verify the blocks of a range of keys of a stack; retired ranges count as poisoned, and so does what meets a parity error in the
infuser's data path (R254). -/
def verifyStack (s : State) (h : StackId) (off n : Nat) : Bool × State :=
  let path := faulty s (.infuserPath h.val)
  (blocksOf off n).foldl (fun r a =>
    let k := stackKey h a
    let v := verifyKey r.2 .other k k
    (r.1 && v.1 == 0 && !retired r.2 k, v.2)) (!path, if path then clearErr s (.infuserPath h.val) else s)

/-- Two to the k, rounded once to FP32 (R278). -/
def twoPow (k : Int) : Val := (roundF32 true (.fin false 1 k)).1

/-- The gradient multiplier (R273). -/
def clipFactor (s : State) (e : UEntry) : Val :=
  let exp := s.stp.exp
  if e.clipSlot = 0xFFFF ∨ e.clipMax.isZero then twoPow (-exp)
  else
    let nrm := (sqrtF32 true (f32 (readNat s .other (normBase s + 4 * e.clipSlot) 4))).1
    let t := (mulF32 true e.clipMax (twoPow exp)).1
    if !nrm.isNan && !t.isNan && !Val.le nrm t then (divF32 true e.clipMax nrm).1 else twoPow (-exp)

/-- The values formed once per entry and commit (R279). -/
structure Hyper where
  lr : Val
  kk : Val
  dk : Val
  p1 : Val
  p2 : Val
  a1 : Val
  a2 : Val
  alpha : Val
  sq2 : Val
  deriving DecidableEq, Repr

/-- FP32 subtraction with subnormals kept. -/
def subF32 (a b : Val) : Val := (addF32 true a b.neg).1

/-- The address of the schedule factor of step n (R279). -/
def schedAddr (s : State) (n : Nat) : Nat :=
  faddr s INF_SCHED_BASE f_INF_SCHED_BASE_BASE + 4 * min n (fget s INF_SCHED_LEN f_INF_SCHED_LEN_LEN - 1)

/-- What the infuser forms an entry's values from lies at no faulting address (R196, R455): the schedule factor, the summed norm slot and
the tensor's format state. -/
def hyperMapped (s : State) (e : UEntry) (n : Nat) : Bool :=
  rangeAccessible s .other (schedAddr s n) 4 &&
    (e.clipSlot == 0xFFFF || rangeAccessible s .other (normBase s + 4 * e.clipSlot) 4) &&
    (e.tensor == 0xFFFF || rangeAccessible s .other (formatAddr s e.tensor) 128)

/-- The infuser verifies what it forms an entry's values from (R250). An entry with a poisoned one, or one at a faulting address, is
treated as a poisoned entry (log entry 93). -/
def verifyHyper (s : State) (e : UEntry) (n : Nat) : Bool × State :=
  if !hyperMapped s e n then (true, s)
  else
    let a := verifyRange s .other (schedAddr s n) 4
    let b := if e.clipSlot = 0xFFFF then ([], a.2) else verifyRange a.2 .other (normBase s + 4 * e.clipSlot) 4
    let c := verifyFormat b.2 e.tensor
    (!a.1.isEmpty || !b.1.isEmpty || !c.1.isEmpty, c.2)

def hyperOf (s : State) (e : UEntry) (n : Nat) : Hyper :=
  let fac := f32 (readNat s .other (schedAddr s n) 4)
  let lr := (mulF32 true e.lr fac).1
  let p1 := (mulF32 true e.p1 e.beta1).1
  let p2 := (mulF32 true e.p2 e.beta2).1
  { lr := lr, kk := clipFactor s e, dk := (mulF32 true lr e.wd).1, p1 := p1, p2 := p2
    a1 := subF32 Val.one e.beta1, a2 := subF32 Val.one e.beta2
    alpha := (divF32 true lr (subF32 Val.one p1)).1, sq2 := (sqrtF32 true (subF32 Val.one p2)).1 }

/-- A lane's new W, M1 and M2 (R280). -/
def laneUpdate (e : UEntry) (y : Hyper) (w m1 m2 gs : Val) : Val × Val × Val :=
  let mul := fun a b => (mulF32 true a b).1
  let fma := fun a b c => (fmaF32 true a b c).1
  let g := mul gs y.kk
  let w1 := fma y.dk.neg w w
  match e.rule with
  | 0 => (fma y.lr.neg g w1, m1, m2)
  | 1 =>
    let m1' := fma e.beta1 m1 g
    (fma y.lr.neg m1' w1, m1', m2)
  | _ =>
    let m1' := fma e.beta1 m1 (mul y.a1 g)
    let m2' := fma e.beta2 m2 (mul y.a2 (mul g g))
    let den := (addF32 true (divF32 true (sqrtF32 true m2').1 y.sq2).1 e.eps).1
    (fma y.alpha.neg (divF32 true m1' den).1 w1, m1', m2')

/-- Put little-endian bytes into a record. -/
def patch (b : List Byte) (off : Nat) (new : List Byte) : List Byte :=
  b.take off ++ new ++ b.drop (off + new.length)

/-- What an infuser makes of a record (R281 to R283): the new bytes, whether the record is written, frozen
lanes and bad lanes met, and the largest weight for STEP_AMAX. -/
structure Infused where
  bytes : List Byte
  written : Bool
  frozen : Nat
  bad : Nat
  amax : Val
  deriving DecidableEq, Repr

def infuseRecord (s : State) (e : UEntry) (y : Hyper) (n : Nat) (rec_ grad : List Byte) : Infused :=
  let frozen := field rec_ 0 4
  let lanes := (List.range 32).map fun j =>
    let w := f32 (field rec_ (64 + 4 * j) 4)
    let m1 := f32 (field rec_ (192 + 4 * j) 4)
    let m2 := f32 (field rec_ (320 + 4 * j) 4)
    let gs := if e.bf16 then decodeVal fmtBF16 (field grad (2 * j) 2) else f32 (field grad (4 * j) 4)
    if bitAt frozen j then (j, true, false, w, w, m1, m2)
    else
      let r := laneUpdate e y w m1 m2 gs
      if r.1.isFin && r.2.1.isFin && r.2.2.isFin then (j, false, false, w, r.1, r.2.1, r.2.2)
      else (j, false, true, w, w, m1, m2)
  let upd := lanes.filter fun l => !l.2.1 && !l.2.2.1
  let b := upd.foldl (fun b l =>
    patch (patch (patch b (64 + 4 * l.1) (leBytes 4 (f32Code l.2.2.2.2.1))) (192 + 4 * l.1)
      (leBytes 4 (f32Code l.2.2.2.2.2.1))) (320 + 4 * l.1) (leBytes 4 (f32Code l.2.2.2.2.2.2))) rec_
  let ws := (List.range 32).map fun j => f32 (field b (64 + 4 * j) 4)
  let code := bitsAt (field rec_ 6 1) 0 4
  let mx := isMx code
  let f := fmtAt code
  let scale := if mx then (quantise f (policyOf (formatRecord s e.tensor) f) false ws).scale else 0x7F
  let b := patch (patch (patch b 8 (leBytes 4 n)) 4 (leBytes 2 e.tensor)) 7 (leBytes 1 scale)
  { bytes := b, written := !upd.isEmpty, frozen := (lanes.filter fun l => l.2.1).length
    bad := (lanes.filter fun l => l.2.2.1).length, amax := if mx then amaxOf ws else Val.zero }

/-! ### Capture (R289 to R293) -/

/-- The mirror address of the k-th record. -/
def mirrorAddr (s : State) (h : StackId) (k : Nat) : Nat :=
  faddr s (INF_CKPT_STAGE h.val) f_INF_CKPT_STAGE_BASE + 2 ^ 24 + 512 * k

/-- The mirror position at which entry i begins (R337), or the total. -/
def mirrorStart (s : State) (h : StackId) (i : Nat) : Nat := nthD 0 (s.die h).starts i

/-- Records in the mirror. -/
def mirrorTotal (s : State) (h : StackId) : Nat := (s.die h).starts.getLastD 0

/-- The cursor as the position it names. -/
def cursorPos (s : State) (h : StackId) : Nat := mirrorStart s h (s.die h).cursorEntry + (s.die h).cursorRecord

/-- Set the cursor, skipping entries without records, and show it (Table STP-12). -/
def setCursor (s : State) (h : StackId) (pos : Nat) : State :=
  let d := s.die h
  let n := d.starts.length - 1
  let e := ((List.range n).filter fun i => decide (nthD 0 d.starts (i + 1) ≤ pos)).length
  let s := s.setDie h { d with cursorEntry := e, cursorRecord := pos - nthD 0 d.starts e }
  fset (fset s (INF_CKPT_CURSOR h.val) f_INF_CKPT_CURSOR_ENTRY e) (INF_CKPT_CURSOR h.val)
    f_INF_CKPT_CURSOR_RECORD (pos - nthD 0 d.starts e)

/-- INF_DIE_STATUS.BUSY: a walk or a capture runs. -/
def refreshBusy (s : State) (h : StackId) : State :=
  fset s (INF_DIE_STATUS h.val) f_INF_DIE_STATUS_BUSY (boolNat ((s.die h).capturing || !s.stp.walkDone))

/-- The Ethernet engine uploads a base die's staging area over RoCEv2 once its capture is complete (R290, R306): its start and length.
When, and on which queue pairs, is not given (DESIGN CHOICE, log entry 96). -/
def uploadStage (s : State) (h : StackId) : State :=
  emit s (.upload (fget s LNK_DSCP f_LNK_DSCP_ROCE) h.val (faddr s (INF_CKPT_STAGE h.val) f_INF_CKPT_STAGE_BASE)
    (0x1000000 + 512 * mirrorTotal s h))

/-- A base die's capture ends once its cursor has passed its last record; the capture is complete when every
base die's is (R293). -/
def captureCheck (s : State) : State :=
  let s := (List.finRange 24).foldl (fun s h =>
    if (s.die h).capturing && decide (cursorPos s h ≥ mirrorTotal s h) then
      refreshBusy (s.setDie h { s.die h with capturing := false }) h
    else s) s
  if fbit s INF_CKPT_STATUS f_INF_CKPT_STATUS_ACTIVE && (List.finRange 24).all fun h => !(s.die h).capturing then
    (List.finRange 24).foldl uploadStage
      (fset (fset s INF_CKPT_STATUS f_INF_CKPT_STATUS_ACTIVE 0) INF_CKPT_STATUS f_INF_CKPT_STATUS_COMPLETE 1)
  else s

/-- Copy bytes from a key to a device address, poison by block (R255). -/
def copyKeys (s : State) (k a n : Nat) : State :=
  let v := (blocksOf k n).foldl (fun r b =>
    let x := verifyKey r.2 .other b b
    (if x.1 = 0 then r.1 else r.1 ++ [b], x.2)) ([], s)
  writeCells v.2 .other ((List.range n).map fun i =>
    (a + i, byteAt v.2 (k + i), v.1.any fun b => b == (k + i) / 512 * 512))

/-- Copy bytes between device addresses, poison by block. -/
def copyBytes (s : State) (src dst n : Nat) : State :=
  let r := verifyRange s .other src n
  writeCells r.2 .other ((List.range n).map fun i => (dst + i, readByte r.2 .other (src + i), isBad r.1 (src + i)))

/-- The highest TENSOR_ID of the job plus one. -/
def formatCount (s : State) : Nat := s.job.tensors.foldl (fun a t => max a (t.id + 1)) 0

/-- A base die copies the staging header and begins its capture of step n (R289, R290). -/
def captureDie (s : State) (n : Nat) (h : StackId) : State :=
  let stage := faddr s (INF_CKPT_STAGE h.val) f_INF_CKPT_STAGE_BASE
  let head := leBytes 4 n ++ leBytes 8 (s.reg INF_LS_STATE) ++ leBytes 2 (ulistCount s h) ++ leBytes 2 0 ++
    leBytes 4 (formatCount s) ++ leBytes 4 (mirrorTotal s h) ++ leBytes 40 0
  let s := writeBytes s .other stage head false
  let s := copyKeys s (stackKey h (ulistBase s h)) (stage + 0x10000) (64 * ulistCount s h)
  let s := copyBytes s (formatAddr s 0) (stage + 0x500000) (128 * formatCount s)
  let s := setCursor (s.setDie h { s.die h with capturing := true }) h 0
  refreshBusy s h

/-- In the beat after the COMMIT phase of the armed step, every base die starts its capture, or the capture
is cancelled (R289). -/
def captureStart (s : State) (n outcome : Nat) : State :=
  if fbit s INF_CKPT_CTL f_INF_CKPT_CTL_ARM && fget s INF_CKPT_CTL f_INF_CKPT_CTL_ARM_STEP == n then
    let s := fset s INF_CKPT_CTL f_INF_CKPT_CTL_ARM 0
    if outcome = 2 then fset s INF_CKPT_STATUS f_INF_CKPT_STATUS_CANCELLED 1
    else
      let s := fset (fset s INF_CKPT_STATUS f_INF_CKPT_STATUS_STEP n) INF_CKPT_STATUS f_INF_CKPT_STATUS_ACTIVE 1
      captureCheck ((List.finRange 24).foldl (fun s h => captureDie s n h) s)
  else s

/-- Copy one record, of an entry's records, to its mirror position as it stands. -/
def mirrorRecord (s : State) (h : StackId) (off pos : Nat) : State :=
  copyKeys s (stackKey h off) (mirrorAddr s h pos) 512

/-- The entry of the update list is poisoned (R337). -/
def entryBad (s : State) (h : StackId) (i : Nat) : Bool × State :=
  let r := verifyStack s h (ulistBase s h + 64 * i) 64
  (!r.1, r.2)

/-- The mirror position of a poisoned entry's record is written poisoned (R337). -/
def mirrorPoison (s : State) (h : StackId) (pos : Nat) : State :=
  writeBytes s .other (mirrorAddr s h pos) (List.replicate 512 0) true

/-- A base die's request to a block of its stack, or to a device address, waits at a device that holds requests (R215, R216, R218). -/
def dieHolds (s : State) (h : StackId) (off n : Nat) (as : List Nat) : Bool :=
  anyHeld s && (blocksHeld s as ||
    (blocksOf off n).any fun a => heldKey s (stackKey h a) || heldKey s (stackKey h (a + 256)))

/-- The capture copies the record at its cursor and advances it (R291), unless a device that it reads or writes holds requests. -/
def captureStep (s : State) (h : StackId) : State :=
  if (s.die h).capturing && decide (cursorPos s h < mirrorTotal s h) &&
      !dieHolds s h ((entryOf s h (s.die h).cursorEntry).recordAddr + 512 * (s.die h).cursorRecord) 512
        [mirrorAddr s h (cursorPos s h)] then
    let pos := cursorPos s h
    let i := (s.die h).cursorEntry
    let r := entryBad s h i
    let s := r.2
    let s := if r.1 then mirrorPoison s h pos
      else mirrorRecord s h ((entryOf s h i).recordAddr + 512 * (s.die h).cursorRecord) pos
    captureCheck (setCursor s h (pos + 1))
  else s

/-! ### The walk (R277, R292, R337) -/

/-- INF_POISON counts records left, the first event recorded (Table FLT-7). -/
def leaveRecords (s : State) (h : StackId) (off : Nat) (entry : Bool) (n : Nat) : State :=
  let r := INF_POISON h.val
  let s := if fbit s r f_INF_POISON_VALID then s
    else fset (fset (fset (fset s r f_INF_POISON_COUNT 0) r f_INF_POISON_OFFSET (off / 64)) r
      f_INF_POISON_ENTRY (boolNat entry)) r f_INF_POISON_VALID 1
  fadd s r f_INF_POISON_COUNT n

/-- The committing walk reaches the record at mirror position `pos`, at or beyond the capture cursor: it is
forwarded before its update, or, when it is left, captured as it stands (R292, R337). -/
def forwardRecord (s : State) (h : StackId) (off pos : Nat) (left : Bool) : State :=
  if (s.die h).capturing && decide (cursorPos s h ≤ pos) then
    let s := setCursor (mirrorRecord s h off pos) h (pos + 1)
    if left then s
    else mcModule (fadd s (INF_CKPT_FWD h.val) f_INF_CKPT_FWD_COUNT 1) 0x141 h.val 1
  else s

/-- One record of the walk. -/
def walkRecord (h : StackId) (e : UEntry) (y : Hyper) (n start : Nat) (s : State) (r : Nat) : State :=
  let off := e.recordAddr + 512 * r
  let goff := if e.bf16 then e.gradAddr + 64 * r else e.gradAddr + 128 * r
  let v := verifyStack s h off 512
  let g := verifyStack v.2 h goff (if e.bf16 then 64 else 128)
  let s := g.2
  if !v.1 || !g.1 then forwardRecord (leaveRecords s h off false 1) h off (start + r) true
  else
    let rec_ := keyBytes s (stackKey h off) 512
    let x := infuseRecord s e y n rec_ (keyBytes s (stackKey h goff) 128)
    let s := forwardRecord s h off (start + r) false
    let s := fadd s (INF_FROZEN h.val) f_INF_FROZEN_COUNT x.frozen
    let s := if x.bad = 0 then s
      else fset (fadd s (INF_BAD_LANES h.val) f_INF_BAD_LANES_COUNT x.bad) (INF_DIE_STATUS h.val)
        f_INF_DIE_STATUS_BAD_LANE 1
    if x.written then
      let changed := ((List.range 512).map fun i => (i, nthD 0 x.bytes i)).filter fun p => p.2 != nthD 0 rec_ p.1
      mcModule (mergeAmax (writeBlock s .other (stackKey h off / 512) changed false) e.tensor x.amax) 0x140 h.val 1
    else s

/-- One entry of the walk: P1 and P2 are written back after it (R279). -/
def walkEntry (h : StackId) (n : Nat) (s : State) (i : Nat) : State :=
  let start := mirrorStart s h i
  let own := entryBad s h i
  let bad := if own.1 then own else verifyHyper own.2 (entryOf own.2 h i) n
  let s := bad.2
  if bad.1 then
    let cnt := mirrorStart s h (i + 1) - start
    let s := leaveRecords s h (ulistBase s h + 64 * i) true cnt
    (List.range cnt).foldl (fun s r =>
      if (s.die h).capturing && decide (cursorPos s h ≤ start + r) then
        setCursor (mirrorPoison s h (start + r)) h (start + r + 1)
      else s) s
  else
    let e := entryOf s h i
    let y := hyperOf s e n
    let s := (List.range e.records).foldl (walkRecord h e y n start) s
    if e.rule = 2 then
      let k := stackKey h (ulistBase s h + 64 * i)
      let put := fun (s : State) (k v : Nat) =>
        writeBlock s .other (k / 512) ((leBytes 4 v).mapIdx fun j b => (k % 512 + j, b)) false
      put (put s (k + 44) (f32Code y.p1)) (k + 48) (f32Code y.p2)
    else s

/-- A base die's walk waits: its stack, or the device of a table that it reads, holds requests (R215, R216, R218; that the whole walk
waits where one of its requests does is the model's choice, log entry 104). -/
def walkHeld (s : State) (h : StackId) (n : Nat) : Bool :=
  let d := s.dev (.stack h)
  anyHeld s && (d.level3.isSome || d.windowOpen.isSome || blocksHeld s
    (schedAddr s n :: blocksOf (normBase s) (4 * normSlots s) ++ blocksOf (formatAddr s 0) (128 * formatCount s)))

/-- A base die's infuser walks its update list for the step that its die holds, unless a device makes it wait. -/
def walkDie (s : State) (h : StackId) : State :=
  match (s.die h).walk with
  | some n =>
    if walkHeld s h n then s
    else
      let s := s.setDie h { s.die h with walk := none }
      refreshBusy ((List.range (ulistCount s h)).foldl (walkEntry h n) s) h
  | none => s

/-- The walks that wait for no device are made. -/
def walkDies (s : State) : State := captureCheck ((List.finRange 24).foldl walkDie s)

/-- A walk waits for its device. -/
def walkWaits (s : State) : Bool := s.dies.any fun d => d.2.walk.isSome

/-- Every infuser walks its update list for step n (R277). The module's walk is done when
INFUSER_WALK_COMPLETE says so. -/
def infuserWalk (s : State) (n : Nat) : State :=
  let s := { s with stp := { s.stp with walkDone := false } }
  walkDies ((List.finRange 24).foldl (fun s h => refreshBusy (s.setDie h { s.die h with walk := some n }) h) s)

end Sys2Proof.Machine
end

