-- ==== Sys2Proof/Machine/Carousel.lean ====
section
/-! DEFINITION. The carousel: epochs, grants, ends, the phase clock log, holds, and stopped tiles (spec/02,
R327 to R330). -/

namespace Sys2Proof.Machine

/-! ### Epochs (R41) -/

def stepPeriod (s : State) : Nat := fget s TBU_STEP_PERIOD f_TBU_STEP_PERIOD_PERIOD

/-- The period change that TBU_PERIOD_CHANGE holds; NEW_PERIOD 0 is none. -/
def heldChange (s : State) : List (Nat × Nat) :=
  let np := fget s TBU_PERIOD_CHANGE f_TBU_PERIOD_CHANGE_NEW_PERIOD
  if np = 0 then [] else [(fget s TBU_PERIOD_CHANGE f_TBU_PERIOD_CHANGE_FROM_STEP, np)]

/-- The period changes in force, in ascending FROM_STEP: the earlier ones, and the register's, which replaces any from its step on
(DESIGN CHOICE, log entry 64). -/
def periodChanges (s : State) : List (Nat × Nat) :=
  (s.car.changes.filter fun c => (heldChange s).all fun h => decide (c.1 < h.1)) ++ heldChange s

/-- The epoch of step n, where step `n0` has epoch `b` and the period is `p`: the epoch of a change's FROM_STEP is computed with the
old period, and each later one adds the new (R41). -/
def epochFrom (n0 b p : Nat) : List (Nat × Nat) → Nat → Nat
  | [], n => b + (n - n0) * p
  | c :: cs, n => if n ≤ c.1 then b + (n - n0) * p else epochFrom c.1 (b + (c.1 - n0) * p) c.2 cs n

/-- The step whose epoch has last passed at a beat. -/
def stepFrom (n0 b p : Nat) : List (Nat × Nat) → Nat → Nat
  | [], now => n0 + (now - b) / p
  | c :: cs, now =>
    if now < b + (c.1 - n0) * p then n0 + (now - b) / p else stepFrom c.1 (b + (c.1 - n0) * p) c.2 cs now

/-- The epoch of step n, with the period changes in force (R41). -/
def epochOf (s : State) (n : Nat) : Nat := epochFrom 0 (s.reg TBU_EPOCH_BASE) (stepPeriod s) (periodChanges s) n

/-- The step whose epoch has last passed at a beat, from the epoch base on. -/
def stepOn (s : State) (beat : Nat) : Nat := stepFrom 0 (s.reg TBU_EPOCH_BASE) (stepPeriod s) (periodChanges s) beat

/-- The step whose epoch last passed (TBU_STEP). -/
def stepAt (s : State) : Nat :=
  if s.now < s.reg TBU_EPOCH_BASE ∨ stepPeriod s = 0 then fget s TBU_STEP f_TBU_STEP_STEP else stepOn s s.now

/-- A write of TBU_PERIOD_CHANGE while the carousel runs: the change it replaces stays in force where its step's epoch has passed;
in a hold or while idle the job controller rebases, and the register alone counts (R41, R329; DESIGN CHOICE, log entry 64). -/
def keepChange (s : State) : State :=
  if s.car.running && !fbit s TBU_RESTART f_TBU_RESTART_HELD then
    if (heldChange s).all fun h => decide (h.1 ≤ stepAt s) then { s with car := { s.car with changes := periodChanges s } } else s
  else { s with car := { s.car with changes := [] } }

/-! ### Entries and records -/

def entryAt (s : State) (p : Nat) : Option PhaseEntry := s.car.entries[p]?

def isCommit (e : PhaseEntry) : Bool := e.flags.getLsbD 1
def noLog (e : PhaseEntry) : Bool := e.flags.getLsbD 2
def isCollective (e : PhaseEntry) : Bool := e.flags.getLsbD 0

/-- The first entry at or after an index, in table order and continuing into the next step, whose TILES
includes the tile: step and index; index 4,096, which no entry has, for a tile that no TILES includes. -/
def nextFrom (es : List PhaseEntry) (t : TileId) (n p : Nat) : Nat × Nat :=
  match ((List.range es.length).filter fun i => decide (p ≤ i) && (es[i]?.any fun e => inTiles e.tiles t)).head? with
  | some i => (n, i)
  | none =>
    match ((List.range es.length).filter fun i => es[i]?.any fun e => inTiles e.tiles t).head? with
    | some i => (n + 1, i)
    | none => (n + 1, 4096)

/-- What has ended on the tiles ended in an earlier beat: the counter has taken a lower value, or stays for a beat (R35, R40, R44). -/
def endsPass (s : State) : State :=
  { s with tiles := s.tiles.map fun p => (p.1, { p.2 with endBeat := min p.2.endBeat s.now }) }

/-- Every tile's next phase is its first of step n. -/
def seekStep (s : State) (n : Nat) : State :=
  (List.finRange 48).foldl (fun s t =>
    let x := nextFrom s.car.entries t n 0
    s.setTile t { s.tile t with nextStep := x.1, nextPhase := x.2, active := false, reported := [] }) s

/-- A stack or package is above level 0 (R217). -/
def memoryHot (s : State) : Bool :=
  (List.range 24).any fun h =>
    fget s (HBM_TEMP h) f_HBM_TEMP_LEVEL != 0 || fget s (DTR_TEMP h 0) f_DTR_TEMP_LEVEL != 0 ||
      fget s (DTR_TEMP h 1) f_DTR_TEMP_LEVEL != 0

/-- The array clock of PWR_DRAW, in the codes of Table PRG-8. -/
def clockCode (s : State) : Nat := fget s PWR_DRAW f_PWR_DRAW_CLOCK

/-- The flags of Table PRG-9 that conditions of this moment set in the phases in progress. -/
def momentFlags (s : State) : Nat :=
  4 * boolNat (memoryHot s) + 8 * boolNat (decide (clockCode s ≠ 0)) + 16 * boolNat s.pins.throt +
    64 * boolNat (decide (fget s PWR_DRAW f_PWR_DRAW_BALLAST ≠ 0)) +
    128 * boolNat (fbit s TBU_STATUS f_TBU_STATUS_HOLDOVER)

/-- The record of a phase in the making, present or fresh. -/
def phaseRec (s : State) (n p : Nat) : PhaseRec :=
  (s.car.records.find? fun r => r.step == n && r.phase == p).getD
    { step := n, phase := p, start := none, ended := 0, flags := 0, peak := 0, clock := 0 }

def setPhaseRec (s : State) (r : PhaseRec) : State :=
  { s with car := { s.car with records :=
      (s.car.records.filter fun q => !(q.step == r.step && q.phase == r.phase)) ++ [r] } }

/-- What holds now marks every phase in progress (R217, R37, Table PRG-9); `more` adds flags of an event. -/
def markPhases (s : State) (more : Nat) : State :=
  { s with car := { s.car with records := s.car.records.map fun r =>
      { r with flags := r.flags ||| momentFlags s ||| more, clock := max r.clock (clockCode s)
               peak := max r.peak (fget s PWR_DRAW f_PWR_DRAW_NOW) } } }

/-- The timebase unit counts on from its internal oscillator (R37). -/
def enterHoldover (s : State) : State :=
  if fbit s TBU_STATUS f_TBU_STATUS_HOLDOVER then s
  else post (fset s TBU_STATUS f_TBU_STATUS_HOLDOVER 1) .holdoverEntered 0 s.now

/-! ### The phase clock log (R49) -/

/-- The record of Table PRG-8. -/
def recordBytes (s : State) (r : PhaseRec) (e : PhaseEntry) (seq : Nat) : List Byte :=
  let end_ := s.now
  let late := e.deadline.toNat ≠ 0xFFFFFFFF ∧ end_ > epochOf s r.step + e.deadline.toNat
  let flags := r.flags ||| boolNat (decide late) |||
    32 * boolNat (decide (e.envelope ≠ 0 ∧ r.peak > e.envelope.toNat))
  leBytes 8 (r.start.getD end_) ++ leBytes 8 end_ ++ leBytes 4 r.step ++ leBytes 2 r.phase ++ leBytes 2 flags ++
    leBytes 2 e.envelope.toNat ++ leBytes 2 r.peak ++ leBytes 1 r.clock ++ leBytes 1 0 ++ leBytes 2 seq

/-- A record that cannot be written is dropped and counted (R49). -/
def dropRecord (s : State) : State :=
  post (fset (fadd s TBU_PLOG_DROP f_TBU_PLOG_DROP_COUNT 1) TBU_STATUS f_TBU_STATUS_PLOG_DROP 1) .recordDropped 0
    (fget s TBU_PLOG_DROP f_TBU_PLOG_DROP_COUNT + 1)

/-- The port on which a phase clock record waits, which a later one may not pass. -/
def recordWaits (s : State) : Option Nat :=
  s.pins.waits.findSome? fun w => match w.what with
    | .record _ => some w.port
    | _ => none

/-- Write a record into the ring at WP, or drop it (R49); a write to a port whose link is down waits (R363). -/
def writeRecord (s : State) (bytes : List Byte) : State :=
  let wp := fget s TBU_PLOG_WP f_TBU_PLOG_WP_WP
  let size := 2 ^ fget s TBU_PLOG_CTL f_TBU_PLOG_CTL_LOG2_ENTRIES
  let a := faddr s TBU_PLOG_BASE f_TBU_PLOG_BASE_BASE + 32 * wp
  if (wp + 1) % size = fget s TBU_PLOG_RP f_TBU_PLOG_RP_RP then dropRecord s
  else if !(rangeMapped s .other a 32) || rangeRetired s a 32 then dropRecord s
  else
    match recordWaits s with
    | some p => waitLink s p (.record bytes)
    | none =>
      if hostDown s a then waitLink s (hostPort a) (.record bytes)
      else fset (writeBytes s .other a bytes false) TBU_PLOG_WP f_TBU_PLOG_WP_WP ((wp + 1) % size)

/-- Write a phase's record into the ring, or drop it (R49). A disabled ring takes no record. -/
def logPhase (s : State) (r : PhaseRec) (e : PhaseEntry) : State :=
  let lg := fget s TBU_PLOG_CTL f_TBU_PLOG_CTL_LOG2_ENTRIES
  if noLog e || !fbit s TBU_PLOG_CTL f_TBU_PLOG_CTL_ENABLE || decide (lg < 8 ∨ lg > 24) then s
  else
    let seq := s.car.seq + 1
    let s := { s with car := { s.car with seq := seq } }
    writeRecord s (recordBytes s r e seq)

/-! ### Updates (spec/15), as far as other blocks touch them -/

def updState (s : State) : Nat := fget s HIF_UPD_STATUS f_HIF_UPD_STATUS_STATE

/-- STATE changes and signals source 5. -/
def setUpdState (s : State) (x : Nat) : State :=
  if updState s = x then s
  else post (interrupt (fset s HIF_UPD_STATUS f_HIF_UPD_STATUS_STATE x) 5) .updateState 0 x

/-- A stopped tile or a ringmaster restart during PROVING sets the count back to zero (R388). -/
def provingRestart (s : State) : State :=
  if updState s = 3 then fset s HIF_UPD_STATUS f_HIF_UPD_STATUS_PROVEN_STEPS 0 else s

/-- A proven update is written: STATE becomes WRITING and both boot headers are erased first (R389). -/
def startWriting (s : State) : State :=
  setUpdState { s with flash := { s.flash with headerA := false, headerB := false, checked := none } } 4

/-- An update is proven once PROVE_STEPS steps have committed since it entered PROVING: at the step, as it enters, and at a write of
PROVE_STEPS (R388). -/
def provenCheck (s : State) : State :=
  if updState s = 3 ∧ fget s HIF_UPD_STATUS f_HIF_UPD_STATUS_PROVEN_STEPS ≥ fget s HIF_UPD_CTL f_HIF_UPD_CTL_PROVE_STEPS then
    startWriting s
  else s

/-- A step with OUTCOME 0 has committed (R388). -/
def provenStep (s : State) : State :=
  if updState s = 3 then provenCheck (fadd s HIF_UPD_STATUS f_HIF_UPD_STATUS_PROVEN_STEPS 1) else s

/-! ### Ends of phases (R45, R328, R468) -/

/-- The hold of R328: no phase is granted and HELD is set. -/
def hold (s : State) : State :=
  let s := fset (fset s TBU_RESTART f_TBU_RESTART_HELD 1) TBU_RESTART f_TBU_RESTART_HOLD_REQ 0
  { s with car := { s.car with heldSince := s.now } }

/-- CAROUSEL_IDLE: no phase is granted or pending, so no hold stands, and the module is back in IDLE_READY (Table PWR-1). -/
def idleNow (s : State) : State :=
  let s := { s with car := { s.car with running := false, stopping := false, records := [], declared := [], beatHold := false }
                    pwr := { s.pwr with envelopes := [] } }
  let s := fset (fset s TBU_STATUS f_TBU_STATUS_CAROUSEL_IDLE 1) TBU_CTL f_TBU_CTL_CAROUSEL_RUN 0
  let s := fset s TBU_RESTART f_TBU_RESTART_HELD 0
  if fget s PWR_STATE f_PWR_STATE_STATE = 3 then fset s PWR_STATE f_PWR_STATE_STATE 2 else s

def held (s : State) : Bool := fbit s TBU_RESTART f_TBU_RESTART_HELD

/-- A write of zero idles the carousel once the phases granted have ended (R468). -/
def stopCheck (s : State) : State :=
  if s.car.stopping && (List.finRange 48).all fun t => !(s.tile t).active then idleNow s else s

/-- A phase ends on the module (R45): its record, the contribution due after the phase before COMMIT (R262), and after COMMIT the
step counted as proven (R388), the capture (R289) and the hold (R328). -/
def phaseEnds (s : State) (n p : Nat) : State :=
  match entryAt s p with
  | none => s
  | some e =>
    let r := phaseRec (markPhases s 0) n p
    let s := logPhase s r e
    let rest := s.car.records.filter fun q => !(q.step == n && q.phase == p)
    let s := { s with car := { s.car with records := rest }
                      pwr := { s.pwr with envelopes := s.pwr.envelopes.filter fun v => !(v.1 == n && v.2.1 == p) } }
    let s := if (entryAt s (p + 1)).any isCommit then { s with stp := { s.stp with due := some n } } else s
    if isCommit e then
      let outcome : Nat := match s.stp.verdict with
        | some (m, o, _) => if m = n then o else 2
        | none => 2
      -- where every tile had stopped before the grant, the infusers walk as the phase ends (R277)
      let s := if r.start.isNone && outcome == 0 then infuserWalk s n else s
      let s := captureStart (if outcome = 0 then provenStep s else s) n outcome
      if (fbit s TBU_RESTART f_TBU_RESTART_HOLD_ON_WITHHELD && outcome == 2) ||
          fbit s TBU_RESTART f_TBU_RESTART_HOLD_REQ then hold s
      else s
    else s

/-- A phase ends on a tile; flags add to its record. After a GO during it, the tile takes the step of the GO, and a phase whose
record the GO dropped (`dropOld`) ends on the tile alone (R329). -/
def tilePhaseEnds (s : State) (t : TileId) (n p flags : Nat) : State :=
  let r := phaseRec s n p
  let ended := r.ended ||| BitVec.ofNat 48 (2 ^ t.val)
  let resume := (s.tile t).resume
  let lost := resume.isSome && !s.car.records.any fun q => q.step == n && q.phase == p
  let s := if lost then s else setPhaseRec s { r with ended := ended, flags := r.flags ||| flags }
  let x := match resume with
    | some m => nextFrom s.car.entries t m 0
    | none => nextFrom s.car.entries t n (p + 1)
  let s := s.setTile t { s.tile t with
    active := false, reported := [], resume := none, nextStep := x.1, nextPhase := x.2
    endBeat := if (s.tile t).stopped then s.now else s.now + 1 }
  let s := if !lost && (entryAt s p).any fun e => ended &&& e.tiles == e.tiles then phaseEnds s n p else s
  stopCheck s

/-- The verdict of step n arrived at this module in an earlier beat (R47). -/
def verdictBefore (s : State) (n : Nat) : Bool :=
  match s.stp.verdict with
  | some (m, _, b) => m == n && decide (b < s.now)
  | none => false

/-- The time conditions of R44 and R47 for a tile's next phase. -/
def phaseDue (s : State) (t : TileId) : Bool :=
  let x := s.tile t
  match entryAt s x.nextPhase with
  | none => false
  | some e =>
    s.car.running && !held s && !s.car.stopping && !x.active &&
      decide (s.now ≥ epochOf s x.nextStep + e.earliest.toNat) && decide (x.endBeat ≤ s.now) &&
      (!isCommit e || verdictBefore s x.nextStep)

/-- One due phase of each stopped tile ends on it (R327). -/
def settleOnce (s : State) : State :=
  (List.finRange 48).foldl (fun s t =>
    if (s.tile t).stopped && phaseDue s t then
      tilePhaseEnds s t (s.tile t).nextStep (s.tile t).nextPhase 0
    else s) s

/-- The phases of stopped tiles that are due end, each in the beat in which the one before it has ended. -/
def settleAll : Nat → State → State
  | 0, s => s
  | n + 1, s =>
    if (List.finRange 48).any fun t => (s.tile t).stopped && phaseDue s t then settleAll n (settleOnce s) else s

/-- The carousel treats the phases of stopped tiles as ended on them when they are due (R327). A COMMIT phase waits for a verdict
of an earlier beat, so no more phases fall due in a beat than the table has. -/
def settle (s : State) : State := settleAll (s.car.entries.length + 1) s

/-! ### Stopped tiles (R32, R327) -/

/-- The 16 sequencers of a tile stop issuing and the phase it runs ends on it; the stop signals source 2 and
the module contributes no verdict for the step. `data` is the fault register the event records. -/
def stopTile (s : State) (t : TileId) (data : Nat) : State :=
  if (s.tile t).stopped then withhold s (stepOf s t)
  else
    let s := withhold s (stepOf s t)
    let s := s.setTile t { s.tile t with stopped := true, endBeat := min (s.tile t).endBeat s.now }
    let s := (tileCores t).foldl (fun s c =>
      let q := s.seq c
      if q.status = .halted then s else s.setSeq c { q with status := .stopped }) s
    let s := provingRestart (interrupt (raiseAlert (post s .tileStop t.val data) f_MGS_ALERT_TILE_STOP) 2)
    let x := s.tile t
    let s := if x.active then tilePhaseEnds s t x.nextStep x.nextPhase 0x200 else s
    settle s

/-- A fault stops a tile, and the snapshot trigger fires with the fault source (R32, R432). On a tile that has stopped before, as
HALT_JOB stops it (R330), a fault stops nothing and fires none. -/
def faultStop (s : State) (t : TileId) (data : Nat) : State :=
  stopTile (if (s.tile t).stopped then s else fireSnapshot s 1 t.val) t data

/-- A program fault (R32): TL_PFAULT records the first. -/
def programFault (s : State) (t : TileId) (cause ev core pc : Nat) : State :=
  let r := TL_PFAULT t.val
  let s := if fbit s r f_TL_PFAULT_VALID then s
    else fset (fset (fset (fset (fset (fset s r f_TL_PFAULT_CAUSE cause) r f_TL_PFAULT_EV ev) r
      f_TL_PFAULT_CORE core) r f_TL_PFAULT_PC pc) r f_TL_PFAULT_VALID 1) r f_TL_PFAULT_STEP (stepOf s t)
  faultStop s t (s.reg r)

/-! ### Pulses (R27, R29, R30) -/

def evCount (s : State) (t : TileId) (ev : Nat) : Nat := (mapGet 0 (s.tile t).ev ev : BitVec 16).toNat

def setEv (s : State) (t : TileId) (ev n : Nat) : State :=
  let x := s.tile t
  s.setTile t { x with ev := mapSet 0 x.ev ev (BitVec.ofNat 16 n) }

/-- The cores of a tile that wait on a counter, in ascending order, with the counts they wait for. -/
def waiters (s : State) (t : TileId) (ev : Nat) : List (CoreId × Nat) :=
  (tileCores t).filterMap fun c =>
    match (s.seq c).status with
    | .waitEv e n _ => if e = ev then some (c, n) else none
    | _ => none

/-- Grant waits on a counter in ascending core number, each against the value the grants before it left
(R28, R29). -/
def grantWaits (s : State) (t : TileId) (ev : Nat) : State :=
  (waiters s t ev).foldl (fun s w =>
    if w.2 ≤ evCount s t ev then
      let q := s.seq w.1
      setEv (s.setSeq w.1 { q with status := .running, pc := q.pc + 1 }) t ev (evCount s t ev - w.2)
    else s) s

/-- A pulse reaches its counter, with the grants of the cycle judged on the value before it; a pulse that
finds the counter at 0xFFFF is lost and is a program fault (R29, R30). -/
def pulseAt (s : State) (t : TileId) (ev : Nat) : State :=
  let s := grantWaits s t ev
  if evCount s t ev = 0xFFFF then
    let w := (waiters s t ev).head?
    programFault s t 1 ev ((w.map fun w => w.1.core.val).getD 0) ((w.map fun w => (s.seq w.1).pc).getD 0)
  else setEv s t ev (evCount s t ev + 1)

end Sys2Proof.Machine
end

