-- ==== Sys2Proof/Machine/Flags.lean ====
section
/-! DEFINITION. The arithmetic flags, the NaN trap and the writing of results: what every array drain and
every vector operation does with the values it has formed (R59 to R62, R71 to R78, R103, R259, R261). -/

namespace Sys2Proof.Machine

/-! ### Flags and the NaN trap -/

/-- Set flags of CR_NUM_FLAGS and count the block clamps (R60, R71). -/
def numFlags (s : State) (c : CoreId) (fl : Flags) : State :=
  let r := CR_NUM_FLAGS c.tile.val c.core.val
  mcTile (s.setReg r (s.reg r ||| fl.bits)) c.tile 0x020 c.core.val fl.clamps

/-- A NaN written by a core: origin, unit, row and column (Tables NUM-13, NUM-15). -/
structure NanWrite where
  origin : Nat
  unit : Nat
  row : Nat
  col : Nat
  deriving DecidableEq, Repr

/-- The step of the phase last granted to a core; before its first grant after a load, the step with which the carousel has started
or resumed since, none before that (R467). -/
def grantedStep (s : State) (c : CoreId) : Option Nat :=
  match (s.seq c).granted with
  | some g => some g.1
  | none => s.car.startStep

/-- The step of the phase granted to a core, 0 before the first start. -/
def coreStep (s : State) (c : CoreId) : Nat := (grantedStep s c).getD 0

/-- Fill the record of the NaN trap (R74). -/
def nanRecord (s : State) (c : CoreId) (queue : Nat) (e : QEntry) (w : NanWrite) : State :=
  let i := CR_NAN_INFO c.tile.val c.core.val
  let o := CR_NAN_OP c.tile.val c.core.val
  let d := CR_NAN_COORD c.tile.val c.core.val
  let s := fset (fset (fset (fset s i f_CR_NAN_INFO_VALID 1) i f_CR_NAN_INFO_ORIGIN w.origin) i
    f_CR_NAN_INFO_UNIT w.unit) i f_CR_NAN_INFO_STEP (coreStep s c)
  let s := s.setReg (CR_NAN_BEAT c.tile.val c.core.val) s.now
  let s := fset (fset (fset s o f_CR_NAN_OP_OP_INDEX e.index) o f_CR_NAN_OP_QUEUE queue) o f_CR_NAN_OP_PC e.pc
  fset (fset s d f_CR_NAN_COORD_ROW w.row) d f_CR_NAN_COORD_COL w.col

/-- The NaN trap takes the NaNs of an operation (R74, R75, R77, R78). Which of them is recorded is free (log
entry 11); a trap that is off takes none. -/
def nanTrap (s : State) (c : CoreId) (queue : Nat) (e : QEntry) (ws : List NanWrite) : State :=
  let mode := fget s (CR_NAN_CTL c.tile.val c.core.val) f_CR_NAN_CTL_MODE
  let more := CR_NAN_MORE c.tile.val c.core.val
  match ws with
  | [] => s
  | w :: _ =>
    if mode = 0 then s
    else if fbit s (CR_NAN_INFO c.tile.val c.core.val) f_CR_NAN_INFO_VALID then
      fadd s more f_CR_NAN_MORE_COUNT ws.length
    else
      let f := takeFree s
      let s := nanRecord f.2 c queue e (nthD w ws (f.1.toNat % ws.length))
      let s := fadd s more f_CR_NAN_MORE_COUNT (ws.length - 1)
      let s := post s .nanCapture c.tile.val (s.reg (CR_NAN_INFO c.tile.val c.core.val))
      if mode = 2 then
        stopTile (fireSnapshot s 2 c.tile.val) c.tile (s.reg (CR_NAN_INFO c.tile.val c.core.val))
      else if fbit s (CR_NAN_CTL c.tile.val c.core.val) f_CR_NAN_CTL_SNAP then fireSnapshot s 2 c.tile.val
      else s

/-! ### Converting and writing a row of results -/

/-- One output value: how it was formed, whether it depends on a poisoned block, and whether it came from no
element at all, so that it sets no flag (R155, R166). -/
structure OutVal where
  acc : Acc
  poison : Bool
  quiet : Bool := false
  deriving DecidableEq, Repr

/-- A converted row: the bytes with their addresses, flags, elements counted under R261, the largest finite
magnitude converted into an MX format, and its NaNs by column and origin. -/
structure Drained where
  cells : List (Nat × Byte × Bool)
  fl : Flags
  counted : Nat
  amax : Val
  nans : List (Nat × Nat)
  deriving DecidableEq, Repr

/-- Bytes at consecutive addresses, one poison mark. -/
def cellsOf (a : Nat) (bs : List Byte) (poison : Bool) : List (Nat × Byte × Bool) :=
  bs.mapIdx fun i b => (a + i, b, poison)

/-- Elements of a list whose operation saturated or whose result counts (R261). -/
def countOf (vs : List OutVal) (counted : List Bool) : Nat :=
  ((vs.zip counted).filter fun p => p.2 || p.1.acc.fl.ovf).length

/-- The largest finite magnitude of two records. -/
def maxMag (a b : Val) : Val := if Val.le a b then b else a

/-- Convert a block of an MX row, its element bytes at `ea` and its scale byte at `sa` (R59 to R62, R54). Each element
of a block written whole as NaN is a NaN written by the block's lowest causing element (R75, log entry 11). A block of outputs that
raise no flag raises none, SCALE_LOW included (R155, R166). -/
def drainBlock (f : Fmt) (p : Policy) (strict : Bool) (ea sa first : Nat) (vs : List OutVal) : Drained :=
  let q := quantise f p strict (vs.map (·.acc.v))
  let codes := q.codes ++ List.replicate (32 - vs.length) 0
  let poison := vs.any (·.poison)
  let nans :=
    if q.scale = 0xFF then
      match (vs.zipIdx.filter fun v => v.1.acc.v.isNan).head? with
      | some v => List.replicate vs.length (first + v.2, v.1.acc.origin.getD 0)
      | none => []
    else (q.formed.zipIdx.filter (·.1)).map fun v => (first + v.2, 3)
  { cells := cellsOf ea (packElems f.code codes) poison ++ [(sa, BitVec.ofNat 8 q.scale, poison)]
    fl := if vs.all (·.quiet) then {} else vs.foldl (fun a v => a.or v.acc.fl) q.fl
    counted := countOf vs q.counted
    amax := amaxOf (vs.map (·.acc.v)), nans := nans }

/-- Convert one element of a BF16, FP16 or FP32 row, at address `ea` (R57 to R63). -/
def drainElem (f : Fmt) (strict : Bool) (ea col : Nat) (v : OutVal) : Drained :=
  let c := convertFloat f strict v.acc.v
  { cells := cellsOf ea (leBytes (fmtBits f.code / 8) c.code) v.poison
    fl := v.acc.fl.or c.fl, counted := countOf [v] [c.counted], amax := Val.zero
    nans := if v.acc.v.isNan then [(col, v.acc.origin.getD 0)] else [] }

/-- Nothing converted. -/
def Drained.none : Drained := { cells := [], fl := {}, counted := 0, amax := Val.zero, nans := [] }

/-- Two conversions together. -/
def Drained.or (a b : Drained) : Drained :=
  { cells := a.cells ++ b.cells, fl := a.fl.or b.fl, counted := a.counted + b.counted
    amax := maxMag a.amax b.amax, nans := a.nans ++ b.nans }

/-- Convert a row whose elements begin at `ea` and whose scales begin at `sa`. -/
def drainRow (f : Fmt) (p : Policy) (strict : Bool) (ea sa : Nat) (vs : List OutVal) : Drained :=
  if isMx f.code then
    (chunks 32 vs.length vs).zipIdx.foldl (fun d b =>
      d.or (drainBlock f p strict (ea + b.2 * packedBytes f.code 32) (sa + b.2) (32 * b.2) b.1)) Drained.none
  else
    vs.zipIdx.foldl (fun d v => d.or (drainElem f strict (ea + v.2 * (fmtBits f.code / 8)) v.2 v.1)) Drained.none

/-- Mark the head of a queue as written: only its completion pulse is due (R27, R103). -/
def markDone (s : State) (c : CoreId) (queue : Nat) : State :=
  let q := s.seq c
  match nthD [] q.queues queue with
  | [] => s
  | e :: es => s.setSeq c { q with queues := setNth q.queues queue ({ e with done := true } :: es) }

/-- The bytes of converted rows, with their addresses, in order. -/
def outCells (rows : List (Nat × Drained)) : List (Nat × Byte × Bool) := rows.flatMap fun r => r.2.cells

/-- A parity error in the data path of a core's arrays or vector unit: its outputs are poisoned, and the tile records the event
(R254, R256, Table DMA-9). -/
def pathParity (s : State) (c : CoreId) (unit : Nat) (rows : List (Nat × Drained)) : State × List (Nat × Drained) :=
  let k := ErrKind.corePath (16 * c.tile.val + c.core.val)
  if faulty s k then
    (integrityEvent (clearErr s k) c.tile 3 (17 + unit) c.core.val ((rows.findSome? fun r => r.2.cells.head?.map (·.1)).getD 0),
      rows.map fun r => (r.1, { r.2 with cells := r.2.cells.map fun x => (x.1, x.2.1, true) }))
  else (s, rows)

/-- Write converted rows and record what the conversion reports: flags, clamps, amax, the non-finite count of
a GRAD tensor and the NaN trap. `at_` gives unit, row and column of a row's element (Table NUM-13). -/
def writeResults (s : State) (c : CoreId) (queue : Nat) (e : QEntry) (tensor : Nat)
    (rows : List (Nat × Drained)) (at_ : Nat → Nat → Nat × Nat × Nat) : State :=
  let r := pathParity s c (((rows.head?.map fun r => (at_ r.1 0).1).getD 0)) rows
  let s := r.1
  let rows := r.2
  let d := rows.foldl (fun d r => d.or { r.2 with nans := [], cells := [] }) Drained.none
  let s := writeCells s (.tile c.tile false) (outCells rows)
  let s := mergeAmax (numFlags s c d.fl) tensor d.amax
  let s := if gradOf e.format then addNonfinite s d.counted else s
  let ws := rows.flatMap fun r => r.2.nans.map fun n =>
    let p := at_ r.1 n.1
    { origin := n.2, unit := p.1, row := p.2.1, col := p.2.2 : NanWrite }
  markDone (nanTrap s c queue e ws) c queue

end Sys2Proof.Machine
end

