-- ==== Sys2Proof/Machine/Operands.lean ====
section
/-! DEFINITION. The operand forms of the arrays and the vector unit: descriptor fields, the spaces they name,
the reading of packed elements and scales, and the conditions checked at issue (R99, R115, R163). -/

namespace Sys2Proof.Machine

/-! ### Spaces of a core -/

/-- Device address of a core's operand store (Table MEM-1). -/
def storeBase (c : CoreId) : Nat := 0x210000000000 + (16 * c.tile.val + c.core.val) * 2 ^ 22

/-- Device address of a tile's scratchpad window (Table MEM-1). -/
def scratchBase (t : TileId) : Nat := 0x200000000000 + t.val * 2 ^ 28

/-- Base of a core's space: operand store, or the tile's scratchpad. -/
def spaceBase (c : CoreId) (scratch : Bool) : Nat := if scratch then scratchBase c.tile else storeBase c

/-- Size of a core's space; a scratchpad's is its partition (R197). -/
def spaceSize (s : State) (c : CoreId) (scratch : Bool) : Nat :=
  if scratch then scratchBytes s c.tile.val else 2 ^ 22

/-- A range within a core's spaces: the space, its first offset and its length. -/
structure Range where
  scratch : Bool
  lo : Nat
  n : Nat
  deriving DecidableEq, Repr

/-- The range lies within its space. -/
def Range.fits (s : State) (c : CoreId) (r : Range) : Bool :=
  r.n == 0 || decide (r.lo + r.n ≤ spaceSize s c r.scratch)

/-- Two ranges share a byte. -/
def Range.meets (a b : Range) : Bool :=
  a.scratch == b.scratch && decide (a.n ≠ 0 ∧ b.n ≠ 0 ∧ a.lo < b.lo + b.n ∧ b.lo < a.lo + a.n)

/-- Bytes from the first to the last of `rows` rows of `row` bytes at stride `ld`. -/
def rowsBytes (rows ld row : Nat) : Nat := if rows = 0 ∨ row = 0 then 0 else (rows - 1) * ld + row

/-- Rows of bytes of a core's space: `rows` rows of `row` bytes at stride `ld` from an offset. -/
structure Rows where
  scratch : Bool
  lo : Nat
  rows : Nat
  ld : Nat
  row : Nat
  deriving DecidableEq, Repr

/-- A range as one row. -/
def Range.asRows (r : Range) : Rows := ⟨r.scratch, r.lo, 1, 0, r.n⟩

/-- The blocks that rows touch, in a core's space at `base`. -/
def Rows.blocks (base : Nat) (r : Rows) : List Nat :=
  (List.range r.rows).flatMap fun i => blocksOf (base + r.lo + i * r.ld) r.row

/-- Two sets of rows share a byte: some row of `a` meets the first row of `b` that ends after its start. -/
def Rows.meets (a b : Rows) : Bool :=
  a.scratch == b.scratch && (List.range a.rows).any fun i =>
    let p := a.lo + i * a.ld
    let j := if p < b.lo + b.row then 0 else (p - b.lo - b.row) / b.ld + 1
    decide (j < b.rows ∧ a.row ≠ 0 ∧ b.row ≠ 0 ∧ b.lo + j * b.ld < p + a.row ∧ p < b.lo + j * b.ld + b.row)

/-! ### Elements -/

/-- The code of element i of a packed run that starts at a byte address. -/
def elemCode (s : State) (ag : Agent) (fmt a i : Nat) : Nat :=
  let b := fmtBits fmt
  let lo := i * b
  bitsAt (readNat s ag (a + lo / 8) ((lo % 8 + b + 7) / 8)) (lo % 8) b

/-- The value of element i as an operation reads it (R63). -/
def elemVal (s : State) (ag : Agent) (fmt : Nat) (strict : Bool) (a i : Nat) : Val :=
  readVal (fmtAt fmt) strict (elemCode s ag fmt a i)

/-- Element i of a packed run lies in a poisoned block. -/
def elemBad (bad : List (Nat × Nat)) (fmt a i : Nat) : Bool :=
  let lo := i * fmtBits fmt
  touchesBad bad (a + lo / 8) ((lo % 8 + fmtBits fmt + 7) / 8)

/-- The scale code at an address for an MX format, 2^0 for the others. -/
def scaleCode (s : State) (ag : Agent) (fmt a : Nat) : Nat := if isMx fmt then (readByte s ag a).toNat else 127

/-- The operand pairs of R55. -/
def pairOk (a b : Nat) : Bool := (isMx a && isMx b) || (a == b && (a == 8 || a == 9))

/-- A format code that is not reserved (R52). -/
def fmtOk (c : Nat) : Bool := (fmtOf c).isSome

/-! ### Arrays (Table ARR-7) -/

def arrWidth (s : State) (c : CoreId) (a : Nat) : Nat := fget s (ARR_WIDTH c.tile.val c.core.val a) f_ARR_WIDTH_WIDTH
def arrLeft (s : State) (c : CoreId) (a : Nat) : Nat := fget s (ARR_WIDTH c.tile.val c.core.val a) f_ARR_WIDTH_LEFT_WIDTH
def arrRight (s : State) (c : CoreId) (a : Nat) : Nat := fget s (ARR_WIDTH c.tile.val c.core.val a) f_ARR_WIDTH_RIGHT_WIDTH

/-- The enabled arrays of an ARRAY_MASK, ascending. -/
def arraysOf (mask : Nat) : List Nat := (List.range 4).filter fun a => bitAt mask a

/-! ### The matrix descriptor (Tables ARR-4, ARR-5) -/

/-- A matrix descriptor's fields. -/
structure MatDesc where
  mode : Nat
  split : Bool
  strict : Bool
  aFmt : Nat
  bFmt : Nat
  outFmt : Nat
  cMode : Nat
  cFmt : Nat
  mask : Nat
  bSpace : Bool
  outSpace : Bool
  opt : Nat
  tensor : Nat
  m : Nat
  n : Nat
  k : Nat
  nTile : Nat
  splitIndex : Nat
  splitCount : Nat
  aAddr : Nat
  aScale : Nat
  bAddr : Nat
  bScale : Nat
  cAddr : Nat
  outAddr : Nat
  outScale : Nat
  aLd : Nat
  bLd : Nat
  outLd : Nat
  deriving DecidableEq, Repr

def parseMatrix (d : List Byte) : MatDesc :=
  let x := field d 0 4
  { mode := bitsAt x 4 2, split := bitAt x 6, strict := bitAt x 7, aFmt := bitsAt x 8 4, bFmt := bitsAt x 12 4
    outFmt := bitsAt x 16 4, cMode := bitsAt x 20 2, cFmt := bitsAt x 22 4, mask := bitsAt x 26 4
    bSpace := bitAt x 30, outSpace := bitAt x 31, opt := field d 5 1, tensor := field d 6 2
    m := field d 8 3, n := field d 12 3, k := field d 16 3, nTile := field d 20 1
    splitIndex := field d 22 1, splitCount := field d 23 1, aAddr := field d 24 4, aScale := field d 28 4
    bAddr := field d 32 4, bScale := field d 36 4, cAddr := field d 40 4, outAddr := field d 44 4
    outScale := field d 48 4, aLd := field d 52 4, bLd := field d 56 4, outLd := field d 60 4 }

/-- Bytes that an operand of T vectors of K elements spans, plain or skewed (R87). -/
def operandBytes (split : Bool) (fmt t k ld : Nat) : Nat :=
  if split then
    (if t = 0 ∨ k = 0 then 0 else (ceilDiv k 32 * (t + 31) - 1) * ld + packedBytes fmt 32)
  else rowsBytes t ld (rowBytes fmt k)

/-- Bytes of one row, or of one feed word in split mode. -/
def operandRow (split : Bool) (fmt k : Nat) : Nat := if split then packedBytes fmt 32 else rowBytes fmt k

/-- Scale bytes of `rows` rows of n elements. -/
def scaleBytes (fmt rows n : Nat) : Nat := if isMx fmt then rows * ceilDiv n 32 else 0

/-- An operation without rows or columns reads and writes nothing (R96). -/
def MatDesc.empty (x : MatDesc) : Bool := x.m == 0 || x.n == 0

def MatDesc.aRange (x : MatDesc) : Range :=
  ⟨false, x.aAddr, if x.empty then 0 else operandBytes x.split x.aFmt x.m x.k x.aLd⟩
def MatDesc.aScales (x : MatDesc) : Range :=
  ⟨false, x.aScale, if x.empty then 0 else scaleBytes x.aFmt x.m x.k⟩
def MatDesc.bRange (x : MatDesc) : Range :=
  ⟨x.bSpace, x.bAddr, if x.empty then 0 else operandBytes x.split x.bFmt x.n x.k x.bLd⟩
def MatDesc.bScales (x : MatDesc) : Range :=
  ⟨x.bSpace, x.bScale, if x.empty then 0 else scaleBytes x.bFmt x.n x.k⟩
def MatDesc.cRange (x : MatDesc) : Range :=
  ⟨false, x.cAddr, if x.empty ∨ x.cMode ≠ 1 then 0 else x.m * x.n * (fmtBits x.cFmt / 8)⟩
def MatDesc.outRange (x : MatDesc) : Range :=
  ⟨x.outSpace, x.outAddr, if x.empty then 0 else rowsBytes x.m x.outLd (rowBytes x.outFmt x.n)⟩
def MatDesc.outScales (x : MatDesc) : Range :=
  ⟨x.outSpace, x.outScale, if x.empty then 0 else scaleBytes x.outFmt x.m x.n⟩

/-- The rows of an operand of T vectors, or its feed words in the skewed layout (R87). -/
def operandRows (split scratch : Bool) (fmt lo t k ld : Nat) : Rows :=
  ⟨scratch, lo, if t = 0 ∨ k = 0 then 0 else if split then ceilDiv k 32 * (t + 31) else t, ld, operandRow split fmt k⟩

def MatDesc.aRows (x : MatDesc) : Rows := operandRows x.split false x.aFmt x.aAddr (if x.empty then 0 else x.m) x.k x.aLd
def MatDesc.bRows (x : MatDesc) : Rows := operandRows x.split x.bSpace x.bFmt x.bAddr (if x.empty then 0 else x.n) x.k x.bLd
def MatDesc.outRows (x : MatDesc) : Rows :=
  ⟨x.outSpace, x.outAddr, if x.empty then 0 else x.m, x.outLd, rowBytes x.outFmt x.n⟩

/-- The exception of Table ARR-6: the output replaces its own C. -/
def MatDesc.inPlace (x : MatDesc) : Bool :=
  !x.outSpace && x.cAddr == x.outAddr && x.cFmt == x.outFmt && x.outLd == x.n * (fmtBits x.outFmt / 8)

/-- Widths admit N_TILE (R85, R88, R93). -/
def nTileOk (s : State) (c : CoreId) (x : MatDesc) : Bool :=
  decide (1 ≤ x.nTile ∧ x.nTile ≤ 64) && (x.mode != 2 || x.nTile == 64) &&
    (arraysOf x.mask).all fun a =>
      (x.mode == 2 || decide (x.nTile ≤ arrWidth s c a)) &&
      (!x.split || decide (x.nTile ≤ 32 ∧ x.nTile ≤ arrLeft s c a ∧ x.nTile ≤ arrRight s c a))

/-- No condition of Table ARR-6 holds (R99). -/
def matrixOk (s : State) (c : CoreId) (d : List Byte) : Bool :=
  let x := parseMatrix d
  decide (x.mode ≤ 2) &&
  fmtOk x.aFmt && fmtOk x.bFmt && fmtOk x.outFmt && pairOk x.aFmt x.bFmt &&
  (x.cMode != 1 || decide (8 ≤ x.cFmt ∧ x.cFmt ≤ 10)) &&
  decide (x.cMode ≤ 1) && decide (x.opt < 4) && field d 11 1 == 0 && field d 15 1 == 0 && field d 19 1 == 0 &&
  field d 21 1 == 0 &&
  x.mask != 0 && (arraysOf x.mask).all (fun a => arrWidth s c a != 0) &&
  nTileOk s c x &&
  bitAt x.opt 0 == x.split && bitAt x.opt 1 == x.split &&
  decide (x.splitIndex < x.splitCount) &&
  (x.splitCount == 1 || (x.outFmt == 10 && (x.cMode == 0 || x.splitIndex == 0) &&
    (x.splitIndex + 1 == x.splitCount || x.k % 32 == 0))) &&
  [x.aAddr, x.bAddr, x.cAddr, x.outAddr, x.aLd, x.bLd, x.outLd].all (fun a => a % 64 == 0) &&
  decide (x.aLd ≥ operandRow x.split x.aFmt x.k ∧ x.bLd ≥ operandRow x.split x.bFmt x.k ∧
    x.outLd ≥ rowBytes x.outFmt x.n) &&
  [x.aRange, x.aScales, x.bRange, x.bScales, x.cRange, x.outRange, x.outScales].all (fun r => r.fits s c) &&
  tensorOk s x.tensor &&
  [x.outRows, x.outScales.asRows].all (fun o =>
    [x.aRows, x.aScales.asRows, x.bRows, x.bScales.asRows].all (fun r => !o.meets r) &&
      (!o.meets x.cRange.asRows || x.inPlace))

/-! ### The combine descriptor (Table SUM-2) -/

/-- A combine descriptor's fields. -/
structure CombDesc where
  strict : Bool
  partSpace : Bool
  outSpace : Bool
  outFmt : Nat
  count : Nat
  tensor : Nat
  m : Nat
  n : Nat
  partAddr : Nat
  partStride : Nat
  partLd : Nat
  outAddr : Nat
  outScale : Nat
  outLd : Nat
  deriving DecidableEq, Repr

def parseCombine (d : List Byte) : CombDesc :=
  let x := field d 0 4
  { strict := bitAt x 8, partSpace := bitAt x 9, outSpace := bitAt x 10, outFmt := bitsAt x 12 4
    count := field d 5 1, tensor := field d 6 2, m := field d 8 3, n := field d 12 3
    partAddr := field d 16 4, partStride := field d 20 4, partLd := field d 24 4
    outAddr := field d 28 4, outScale := field d 32 4, outLd := field d 36 4 }

def CombDesc.part (x : CombDesc) (i : Nat) : Range :=
  ⟨x.partSpace, x.partAddr + i * x.partStride, if x.n = 0 then 0 else rowsBytes x.m x.partLd (4 * x.n)⟩
def CombDesc.partRows (x : CombDesc) (i : Nat) : Rows :=
  ⟨x.partSpace, x.partAddr + i * x.partStride, x.m, x.partLd, 4 * x.n⟩
def CombDesc.outRows (x : CombDesc) : Rows := ⟨x.outSpace, x.outAddr, x.m, x.outLd, rowBytes x.outFmt x.n⟩
def CombDesc.outRange (x : CombDesc) : Range :=
  ⟨x.outSpace, x.outAddr, rowsBytes x.m x.outLd (rowBytes x.outFmt x.n)⟩
def CombDesc.outScales (x : CombDesc) : Range := ⟨x.outSpace, x.outScale, scaleBytes x.outFmt x.m x.n⟩

/-- No condition of R115 holds. -/
def combineOk (s : State) (c : CoreId) (d : List Byte) : Bool :=
  let x := parseCombine d
  !bitAt (field d 0 4) 11 && bitsAt (field d 0 4) 16 16 == 0 && field d 11 1 == 0 && field d 15 1 == 0 &&
  field d 40 24 == 0 && x.count != 0 && fmtOk x.outFmt && tensorOk s x.tensor &&
  x.partStride % 64 == 0 && x.partLd % 64 == 0 && decide (x.partLd ≥ 4 * x.n) &&
  (List.range x.count).all (fun i => (x.part i).fits s c) && x.outRange.fits s c && x.outScales.fits s c &&
  ((x.outAddr == x.partAddr && x.outSpace == x.partSpace && x.outFmt == 10 && x.outLd == x.partLd) ||
    (List.range x.count).all fun i =>
      !x.outRows.meets (x.partRows i) && !x.outScales.asRows.meets (x.partRows i))

/-! ### Windows: convolution and pooling (Tables WIN-2, WIN-4) -/

/-- One spatial dimension. -/
structure Axis where
  ext : Nat
  lo : Nat
  hi : Nat
  k : Nat
  stride : Nat
  dil : Nat
  deriving DecidableEq, Repr

/-- Stored extent (R148). -/
def Axis.stored (a : Axis) : Nat := a.lo + a.ext + a.hi

/-- Output extent (R151), zero where it is not positive. -/
def Axis.out (a : Axis) : Nat :=
  (((a.stored : Int) - a.dil * ((a.k : Int) - 1) - 1) / (a.stride : Int) + 1).toNat

/-- A stored position lies in padding (R148). -/
def Axis.padded (a : Axis) (p : Nat) : Bool := decide (p < a.lo ∨ a.lo + a.ext ≤ p)

/-- Fields that convolution and pooling share: formats, the axes W, H and T, and the planes. -/
structure WinDesc where
  conv : Bool
  strict : Bool
  split : Bool
  inFmt : Nat
  wFmt : Nat
  outFmt : Nat
  mask : Nat
  wSpace : Bool
  outSpace : Bool
  average : Bool
  includePad : Bool
  skew : Bool
  allowEmpty : Bool
  padMode : Nat
  tensor : Nat
  cIn : Nat
  cOut : Nat
  w : Axis
  h : Axis
  t : Axis
  nTile : Nat
  inAddr : Nat
  inScale : Nat
  wAddr : Nat
  wScale : Nat
  outAddr : Nat
  outScale : Nat
  deriving DecidableEq, Repr

/-- The axis of a spatial dimension. -/
def parseAxis (d : List Byte) (i : Nat) : Axis :=
  { ext := field d (12 + 2 * i) 2, lo := field d (18 + 2 * i) 1, hi := field d (19 + 2 * i) 1
    k := field d (24 + i) 1, stride := field d (28 + i) 1, dil := field d (32 + 2 * i) 2 }

/-- A window descriptor: a convolution from queue 0, a pooling from queue 1. -/
def parseWindow (conv : Bool) (d : List Byte) : WinDesc :=
  let x := field d 0 4
  let o := field d 5 1
  { conv := conv, strict := if conv then bitAt x 7 else bitAt x 8, split := conv && bitAt x 6
    inFmt := if conv then bitsAt x 8 4 else bitsAt x 12 4, wFmt := bitsAt x 12 4, outFmt := bitsAt x 16 4
    mask := bitsAt x 26 4, wSpace := bitAt x 30, outSpace := if conv then bitAt x 31 else bitAt x 11
    average := bitAt x 9, includePad := bitAt x 10, skew := conv && bitAt o 0, allowEmpty := bitAt o 1
    padMode := bitsAt o 2 2, tensor := field d 6 2, cIn := field d 8 2
    cOut := if conv then field d 10 2 else field d 8 2
    w := parseAxis d 0, h := parseAxis d 1, t := parseAxis d 2, nTile := field d 27 1
    inAddr := field d 40 4, inScale := field d 44 4, wAddr := field d 48 4, wScale := field d 52 4
    outAddr := field d 56 4, outScale := field d 60 4 }

/-- Bytes from one row of a planar plane to the next (Table TEN-2, R162). -/
def planeRow (skew : Bool) (fmt w : Nat) : Nat :=
  if skew then roundUp (packedBytes fmt (w + 31)) 64 else roundUp (rowBytes fmt w) 64

/-- Bytes from one plane to the next (Table TEN-2). -/
def planeBytes (skew : Bool) (fmt w h : Nat) : Nat := roundUp (planeRow skew fmt w * h) 512

/-- Bytes from the first to the last element of n planes; a skewed row counts with all 31 elements of the skew, also below 32 channels
(DESIGN CHOICE, log entry 109). -/
def planesSpan (skew : Bool) (fmt n w h : Nat) : Nat :=
  if n = 0 ∨ w = 0 ∨ h = 0 then 0
  else (n - 1) * planeBytes skew fmt w h + (h - 1) * planeRow skew fmt w +
    (if skew then packedBytes fmt (w + 31) else rowBytes fmt w)

def WinDesc.inRange (x : WinDesc) : Range :=
  ⟨false, x.inAddr, planesSpan x.skew x.inFmt (x.cIn * x.t.stored) x.w.stored x.h.stored⟩
def WinDesc.inScales (x : WinDesc) : Range :=
  ⟨false, x.inScale, scaleBytes x.inFmt (x.h.stored * x.cIn * x.t.stored) x.w.stored⟩

/-- Filter taps. -/
def WinDesc.ntap (x : WinDesc) : Nat := x.w.k * x.h.k * x.t.k

/-- Channel blocks. -/
def WinDesc.cb (x : WinDesc) : Nat := ceilDiv x.cIn 32

def WinDesc.wRange (x : WinDesc) : Range :=
  ⟨x.wSpace, x.wAddr, if x.conv then packedBytes x.wFmt (32 * x.cb * x.ntap * x.cOut) else 0⟩
def WinDesc.wScales (x : WinDesc) : Range :=
  ⟨x.wSpace, x.wScale, if x.conv ∧ isMx x.wFmt then x.cb * x.ntap * x.cOut else 0⟩

/-- The output is empty (R151). -/
def WinDesc.noOut (x : WinDesc) : Bool := x.w.out == 0 || x.h.out == 0 || x.t.out == 0

def WinDesc.outRange (x : WinDesc) : Range :=
  ⟨x.outSpace, x.outAddr,
    if x.noOut then 0 else planesSpan false x.outFmt (x.cOut * x.t.out) x.w.out x.h.out⟩
def WinDesc.outScales (x : WinDesc) : Range :=
  ⟨x.outSpace, x.outScale, if x.noOut then 0
    else scaleBytes x.outFmt (x.h.out * x.cOut * x.t.out) x.w.out⟩

/-- The conditions of Table WIN-3 that both descriptors share. An output overlaps an input also where it lies in the gaps between the rows
and planes alone (DESIGN CHOICE, log entry 109). -/
def windowOk (s : State) (c : CoreId) (x : WinDesc) (d : List Byte) : Bool :=
  decide (field d 5 1 < 16 ∧ x.padMode ≠ 3) && field d 31 1 == 0 && field d 38 2 == 0 &&
  fmtOk x.inFmt && fmtOk x.outFmt &&
  [x.w, x.h, x.t].all (fun a => a.ext != 0 && a.k != 0 && a.stride != 0 && a.dil != 0) &&
  (!x.noOut || x.allowEmpty) &&
  x.inAddr % 64 == 0 && x.outAddr % 64 == 0 &&
  [x.inRange, x.inScales, x.wRange, x.wScales, x.outRange, x.outScales].all (fun r => r.fits s c) &&
  [x.outRange, x.outScales].all (fun o =>
    [x.inRange, x.inScales, x.wRange, x.wScales].all fun r => !o.meets r) &&
  tensorOk s x.tensor

/-- No condition of Table WIN-3 holds for a convolution (R163). -/
def convolutionOk (s : State) (c : CoreId) (d : List Byte) : Bool :=
  let x := parseWindow true d
  windowOk s c x d && bitsAt (field d 0 4) 4 2 == 3 && bitsAt (field d 0 4) 20 2 == 0 && fmtOk x.wFmt &&
  pairOk x.inFmt x.wFmt && x.wAddr % 64 == 0 &&
  x.mask != 0 && (arraysOf x.mask).all (fun a => arrWidth s c a != 0) &&
  decide (1 ≤ x.nTile ∧ x.nTile ≤ 64) &&
  (arraysOf x.mask).all (fun a => decide (x.nTile ≤ arrWidth s c a)) &&
  x.split == x.skew &&
  (!x.split || (decide (x.cIn ≤ 32 ∧ x.nTile ≤ 32) && (arraysOf x.mask).all fun a =>
    decide (x.nTile ≤ arrLeft s c a ∧ x.nTile ≤ arrRight s c a)))

/-- No condition of Table WIN-3 holds for a pooling (R163). -/
def poolingOk (s : State) (c : CoreId) (d : List Byte) : Bool :=
  let x := parseWindow false d
  windowOk s c x d && bitsAt (field d 0 4) 20 12 == 0 && !bitAt (field d 5 1) 0 && field d 10 2 == 0 &&
  field d 48 8 == 0

/-! ### The merge descriptor (Table ATT-8) -/

/-- A merge descriptor's fields. -/
structure MergeDesc where
  strict : Bool
  partSpace : Bool
  outSpace : Bool
  outFmt : Nat
  count : Nat
  tensor : Nat
  rows : Nat
  dim : Nat
  partAddr : Nat
  partStride : Nat
  outAddr : Nat
  outLd : Nat
  partLd : Nat
  outScale : Nat
  deriving DecidableEq, Repr

def parseMerge (d : List Byte) : MergeDesc :=
  let x := field d 0 4
  { strict := bitAt x 8, partSpace := bitAt x 9, outSpace := bitAt x 10, outFmt := bitsAt x 12 4
    count := field d 5 1, tensor := field d 6 2, rows := field d 8 4, dim := field d 12 2
    partAddr := field d 16 4, partStride := field d 20 4, outAddr := field d 24 4, outLd := field d 28 4
    partLd := field d 32 4, outScale := field d 36 4 }

/-- The partial records of split i. -/
def MergeDesc.part (x : MergeDesc) (i : Nat) : Range :=
  ⟨x.partSpace, x.partAddr + i * x.partStride, rowsBytes x.rows x.partLd (64 + 4 * x.dim)⟩

/-- The partial records of split i, row by row. -/
def MergeDesc.partRows (x : MergeDesc) (i : Nat) : Rows :=
  ⟨x.partSpace, x.partAddr + i * x.partStride, x.rows, x.partLd, 64 + 4 * x.dim⟩

/-- No condition of R183 holds for a merge (log entry 12 for its COUNT). -/
def mergeOk (s : State) (c : CoreId) (d : List Byte) : Bool :=
  let x := parseMerge d
  !bitAt (field d 0 4) 11 && bitsAt (field d 0 4) 16 16 == 0 && field d 14 2 == 0 && field d 40 24 == 0 &&
  x.count != 0 && fmtOk x.outFmt && tensorOk s x.tensor && (x.dim == 64 || x.dim == 128 || x.dim == 256) &&
  x.outLd % 64 == 0 && x.partLd % 64 == 0 && decide (x.partLd ≥ 64 + 4 * x.dim) &&
  (List.range x.count).all (fun i => (x.part i).fits s c) &&
  Range.fits s c ⟨x.outSpace, x.outAddr, rowsBytes x.rows x.outLd (rowBytes x.outFmt x.dim)⟩ &&
  Range.fits s c ⟨x.outSpace, x.outScale, scaleBytes x.outFmt x.rows x.dim⟩

/-! ### The precondition descriptor (Table STP-6) -/

/-- A precondition descriptor's fields. -/
structure PreDesc where
  strict : Bool
  space : Bool
  count : Nat
  n : Nat
  cols : Nat
  damp : Val
  aAddr : Nat
  aStride : Nat
  gAddr : Nat
  gStride : Nat
  outAddr : Nat
  statusAddr : Nat
  deriving DecidableEq, Repr

def parsePre (d : List Byte) : PreDesc :=
  let x := field d 0 4
  { strict := bitAt x 8, space := bitAt x 9, count := field d 6 2, n := field d 8 2, cols := field d 10 2
    damp := f32 (field d 12 4), aAddr := field d 16 4, aStride := field d 20 4, gAddr := field d 24 4
    gStride := field d 28 4, outAddr := field d 32 4, statusAddr := field d 36 4 }

/-- Bytes from one row of G to the next. -/
def PreDesc.gLd (x : PreDesc) : Nat := roundUp (4 * x.cols) 64

def PreDesc.aRange (x : PreDesc) (b : Nat) : Range := ⟨x.space, x.aAddr + b * x.aStride, 4 * x.n * x.n⟩
def PreDesc.gRange (x : PreDesc) (b : Nat) : Range :=
  ⟨x.space, x.gAddr + b * x.gStride, rowsBytes x.n x.gLd (4 * x.cols)⟩
def PreDesc.outRange (x : PreDesc) (b : Nat) : Range :=
  ⟨x.space, x.outAddr + b * x.gStride, rowsBytes x.n x.gLd (4 * x.cols)⟩
def PreDesc.statusRange (x : PreDesc) : Range := ⟨x.space, x.statusAddr, x.count⟩

/-- No condition of R286 holds. -/
def preconditionOk (s : State) (c : CoreId) (d : List Byte) : Bool :=
  let x := parsePre d
  let bs := List.range x.count
  bitsAt (field d 0 4) 10 22 == 0 && field d 5 1 == 0 && field d 40 24 == 0 &&
  decide (1 ≤ x.count ∧ 1 ≤ x.n ∧ x.n ≤ 128 ∧ 1 ≤ x.cols ∧ x.cols ≤ 4096) &&
  x.damp.isFin && (!x.damp.sign || x.damp.isZero) &&
  [x.aAddr, x.aStride, x.gAddr, x.gStride, x.outAddr, x.statusAddr].all (fun a => a % 64 == 0) &&
  bs.all (fun b => (x.aRange b).fits s c && (x.gRange b).fits s c && (x.outRange b).fits s c) &&
  x.statusRange.fits s c &&
  bs.all (fun b => !(x.outRange b).meets x.statusRange &&
    bs.all fun k => !(x.outRange b).meets (x.aRange k) && !(x.outRange b).meets (x.gRange k))

end Sys2Proof.Machine
end

