-- ==== Sys2Proof/Machine/Arrays.lean ====
section
/-! DEFINITION. The four arrays of a core: the matrix operation, the weight tile swap and the convolution
(spec/04, spec/07). A result does not depend on the schedule (R82); of it the weight
registers and the halves of the accumulator buffer are modelled (R83, R84). -/

namespace Sys2Proof.Machine

/-! ### The matrix operation -/

/-- Byte address and bit offset, in elements, of element (t, k) of an operand with T vectors: row t, or its
place in the skewed layout (R87). The element index is within a run that starts at the address. -/
def operandElem (split : Bool) (base ld vecs t k : Nat) : Nat × Nat :=
  if split then (base + (k / 32 * (vecs + 31) + t + k % 32) * ld, k % 32) else (base + t * ld, k)

/-- The pairs of one group for output (m, n): A and B scale codes, then the element values (R54, R104). -/
def matrixGroup (s : State) (c : CoreId) (x : MatDesc) (m n g : Nat) : Nat × Nat × List (Val × Val) :=
  let ag : Agent := .tile c.tile false
  let ab := spaceBase c false
  let bb := spaceBase c x.bSpace
  let kb := ceilDiv x.k 32
  (scaleCode s ag x.aFmt (ab + x.aScale + m * kb + g), scaleCode s ag x.bFmt (bb + x.bScale + n * kb + g),
    ((List.range 32).filter fun i => decide (32 * g + i < x.k)).map fun i =>
      let pa := operandElem x.split (ab + x.aAddr) x.aLd x.m m (32 * g + i)
      let pb := operandElem x.split (bb + x.bAddr) x.bLd x.n n (32 * g + i)
      (elemVal s ag x.aFmt x.strict pa.1 pa.2, elemVal s ag x.bFmt x.strict pb.1 pb.2))

/-- The accumulator's initial value: +0, or the C element converted to FP32 (R95, R109). -/
def matrixInit (s : State) (c : CoreId) (x : MatDesc) (m n : Nat) : Acc :=
  if x.cMode = 1 then
    let v := elemVal s (.tile c.tile false) x.cFmt x.strict (spaceBase c false + x.cAddr) (m * x.n + n)
    { v := v, fl := { nanin := v.isNan }, origin := if v.isNan then some 0 else none }
  else ⟨Val.zero, {}, none⟩

/-- The accumulator of output (m, n) after its last group (R109, R111). -/
def matrixValue (s : State) (c : CoreId) (x : MatDesc) (m n : Nat) : Acc :=
  accumulate x.strict (matrixInit s c x m n)
    ((List.range (ceilDiv x.k 32)).map fun g => matrixGroup s c x m n g)

/-- The bytes of row t of an operand lie in a poisoned block. -/
def rowBad (bad : List (Nat × Nat)) (split : Bool) (fmt base ld vecs t k : Nat) : Bool :=
  if split then (List.range k).any fun i =>
    let p := operandElem true base ld vecs t i
    elemBad bad fmt p.1 p.2
  else touchesBad bad (base + t * ld) (rowBytes fmt k)

/-- Row t of A, its scales, or its C elements lie in a poisoned block. -/
def aRowBad (bad : List (Nat × Nat)) (c : CoreId) (x : MatDesc) (m : Nat) : Bool :=
  rowBad bad x.split x.aFmt (spaceBase c false + x.aAddr) x.aLd x.m m x.k ||
    touchesBad bad (spaceBase c false + x.aScale + m * ceilDiv x.k 32) (scaleBytes x.aFmt 1 x.k)

/-- Row n of B or its scales lie in a poisoned block. -/
def bRowBad (bad : List (Nat × Nat)) (c : CoreId) (x : MatDesc) (n : Nat) : Bool :=
  rowBad bad x.split x.bFmt (spaceBase c x.bSpace + x.bAddr) x.bLd x.n n x.k ||
    touchesBad bad (spaceBase c x.bSpace + x.bScale + n * ceilDiv x.k 32) (scaleBytes x.bFmt 1 x.k)

/-- The C element of (m, n) lies in a poisoned block. -/
def cElemBad (bad : List (Nat × Nat)) (c : CoreId) (x : MatDesc) (m n : Nat) : Bool :=
  x.cMode == 1 && isBad bad (spaceBase c false + x.cAddr + (m * x.n + n) * (fmtBits x.cFmt / 8))

/-- The array that takes output row m, of `rows` rows over the enabled arrays (R80). -/
def arrayOfRow (mask rows m : Nat) : Nat :=
  let as := arraysOf mask
  nthD 0 as (m / max 1 (ceilDiv rows as.length))

/-- Record an integrity event for each poisoned block, with the lowest array that reads it (Table DMA-12). -/
def matrixIntegrity (s : State) (c : CoreId) (x : MatDesc) (bad : List (Nat × Nat)) : State :=
  bad.foldl (fun s p =>
    let reader := (List.range x.m).find? fun m => aRowBad [p] c x m ||
      (List.range x.n).any fun n => cElemBad [p] c x m n || bRowBad [p] c x n
    integrityEvent s c.tile p.2 (17 + arrayOfRow x.mask x.m (reader.getD 0)) c.core.val p.1) s

/-- The output rows of a matrix operation, converted (R95, R103). -/
def matrixRows (s : State) (c : CoreId) (x : MatDesc) (p : Policy) (bad : List (Nat × Nat)) : List (Nat × Drained) :=
  let ob := spaceBase c x.outSpace
  (List.range x.m).map fun m =>
    (m, drainRow (fmtAt x.outFmt) p x.strict (ob + x.outAddr + m * x.outLd)
      (ob + x.outScale + m * ceilDiv x.n 32)
      ((List.range x.n).map fun n =>
        { acc := matrixValue s c x m n
          poison := (x.k != 0 && (aRowBad bad c x m || bRowBad bad c x n)) || cElemBad bad c x m n }))

/-- The rows that hold an operand's elements: in the skewed layout, the feed words of group g that one of its
elements lies in (R87). -/
def operandReads (split : Bool) (r : Rows) (t k : Nat) : List Rows :=
  if split then (List.range (ceilDiv k 32)).map fun g =>
    { r with lo := r.lo + g * (t + 31) * r.ld, rows := if r.rows = 0 then 0 else t + min 32 (k - 32 * g) - 1 }
  else [r]

/-- The blocks a matrix operation reads (R95, R96). -/
def matrixReads (s : State) (c : CoreId) (x : MatDesc) : List (Nat × Nat) × State :=
  let of := fun (r : Range) => blocksOf (spaceBase c r.scratch + r.lo) r.n
  let rows := fun (r : Rows) => r.blocks (spaceBase c r.scratch)
  let ab := if x.k = 0 then [] else (operandReads x.split x.aRows x.m x.k).flatMap rows ++ of x.aScales ++
    (operandReads x.split x.bRows x.n x.k).flatMap rows ++ of x.bScales
  verifyAll s (.tile c.tile false) ((ab ++ of x.cRange).eraseDups)

/-- Rows of M that array `a` holds per tile in activation-stationary mode: its own width (R85). -/
def stationaryRows (s : State) (c : CoreId) (a : Nat) : Nat := arrWidth s c a

/-- The rows of M of the last tile that each enabled array holds, of the i-th array's share of M (R80, R85). -/
def heldRows (s : State) (c : CoreId) (x : MatDesc) : List (Nat × Nat) :=
  let share := ceilDiv x.m (max 1 (arraysOf x.mask).length)
  (arraysOf x.mask).mapIdx fun i a =>
    let rows := min share (x.m - i * share)
    (a, if rows = 0 then 0 else (rows - 1) % max 1 (stationaryRows s c a) + 1)

/-- In activation-stationary mode the arrays hold the activation tile that they have taken last (R85). -/
def holdTile (s : State) (c : CoreId) (x : MatDesc) : State :=
  if x.mode = 2 then s.setSeq c { s.seq c with held := heldRows s c x } else s

/-- A matrix operation up to its writes: the state after its operands are read and taken into the arrays, and its output rows. -/
def matrixOut (s : State) (c : CoreId) (e : QEntry) : State × List (Nat × Drained) :=
  let x := parseMatrix e.desc
  let v := matrixReads s c x
  let s := holdTile (matrixIntegrity v.2 c x v.1) c x
  (s, matrixRows s c x (policyOf e.format (fmtAt x.outFmt)) v.1)

/-- Run a matrix descriptor. -/
def runMatrix (s : State) (c : CoreId) (e : QEntry) : State :=
  let x := parseMatrix e.desc
  if x.empty then markDone s c 0
  else
    let o := matrixOut s c e
    writeResults o.1 c 0 e x.tensor o.2 fun m n => (arrayOfRow x.mask x.m m, m, n)

/-- A parity error stands in a core's queue (R254). -/
def queueBad (s : State) (c : CoreId) (queue : Nat) : Bool := faulty s (.queue (16 * c.tile.val + c.core.val) queue)

/-- The unfinished descriptor at the head of a core's queue, of an opcode. -/
def headOf (s : State) (c : CoreId) (queue width opcode : Nat) : Option QEntry :=
  match nthD [] (s.seq c).queues queue with
  | [] => none
  | e :: _ => if !e.done && bitsAt (field e.desc 0 4) 0 width == opcode && !queueBad s c queue then some e else none

/-- A unit meets a parity error in the descriptors that wait for it: the descriptor at the head performs no part, and the tile takes
a program fault with CAUSE 4 (R254, Table DMA-9). -/
def queueParity (s : State) (c : CoreId) (queue : Nat) : State :=
  match nthD [] (s.seq c).queues queue with
  | e :: es =>
    if !e.done && queueBad s c queue then
      let q := s.seq c
      programFault ((clearErr s (.queue (16 * c.tile.val + c.core.val) queue)).setSeq c
        { q with queues := setNth q.queues queue es }) c.tile 4 0 c.core.val e.pc
    else s
  | [] => s

/-- MATRIX_OPERATION: the arrays run the matrix descriptor at the head of queue 0 (R80 to R103). -/
def execMatrixOperation (c : CoreId) (s : State) : Host.Outcome State Fault Refusal :=
  match headOf s c 0 4 1 with
  | some e => .next (runMatrix s c e)
  | none => .next (queueParity s c 0)

/-- Rows of the i-th enabled array at most (R80). -/
def arrayRows (x : MatDesc) : Nat := min (ceilDiv x.m (max 1 (arraysOf x.mask).length)) x.m

/-- Elements of K that a weight tile spans: two groups, four for E2M1 × E2M1 (R81); in split mode one group to a quadrant (R86). -/
def tileDepth (x : MatDesc) : Nat := if x.split then 32 else if x.aFmt = 4 ∧ x.bFmt = 4 then 128 else 64

/-- Columns of n-tiles that are processed together: one n-tile, or the four of the quadrants Q0 to Q3 (R86). -/
def tileColumns (x : MatDesc) : Nat := (if x.split then 4 else 1) * max 1 x.nTile

/-- Chunks of an array's rows, and tiles of K (R83). -/
def rowChunks (x : MatDesc) : Nat := ceilDiv (arrayRows x) 1024
def kTiles (x : MatDesc) : Nat := ceilDiv x.k (tileDepth x)

/-- Weight tiles of a weight-stationary operation: n-tiles, chunks of rows and tiles of K (R83, R86, Table ARR-1). -/
def weightTiles (x : MatDesc) : Nat := ceilDiv x.n (tileColumns x) * rowChunks x * kTiles x

/-- Where the tile of a number lies: n-tiles ascend, within each the chunks of rows, within each the tiles of K (R83). The first
output columns of its quadrants, one quadrant without SPLIT (R86), the first row of the chunk within an array's rows, and the first
element of K. -/
def weightTileAt (x : MatDesc) (i : Nat) : List Nat × Nat × Nat :=
  let n := i / (rowChunks x * kTiles x)
  ((List.range (if x.split then 4 else 1)).map fun q => n * tileColumns x + q * max 1 x.nTile,
    i / kTiles x % rowChunks x * 1024, i % kTiles x * tileDepth x)

/-- The swap to a tile: the second register begins to load the one after it. A tile of a further n-tile finds the results of the last
in the accumulator buffer: with chunks of 512 rows or fewer they drain from one half while it fills the other, with larger chunks
the drain has completed (R84). -/
def swapWeights (x : MatDesc) (w : Weights) : Weights :=
  let i := w.next.getD (w.tile + 1)
  let moves := (weightTileAt x i).1 != (weightTileAt x w.tile).1
  let small := decide (min (arrayRows x) 1024 ≤ 512)
  { tile := i, next := if i + 1 < weightTiles x then some (i + 1) else none
    half := if moves && small then 1 - w.half else w.half
    drain := if moves then (if small then some w.half else none) else w.drain }

/-- WEIGHT_TILE_SWAP: in the cycle after every enabled array has streamed its last vector past the current tile, which the event says,
the arrays swap to the preloaded tile of the weight-stationary descriptor at the head of queue 0, while a further one is due (R84). -/
def execWeightTileSwap (c : CoreId) (s : State) : Host.Outcome State Fault Refusal :=
  match headOf s c 0 4 1 with
  | some e =>
    let x := parseMatrix e.desc
    let q := s.seq c
    if x.mode = 0 ∧ q.weights.tile + 1 < weightTiles x then
      .next (s.setSeq c { q with weights := swapWeights x q.weights })
    else .next s
  | none => .next (queueParity s c 0)

/-! ### Windows -/

/-- A stored position of the input tile: byte address of its row, element within the row, and scale address
(R124, R148, R162). -/
def inputPlace (c : CoreId) (x : WinDesc) (ch px py pt : Nat) : Nat × Nat × Nat :=
  let base := spaceBase c false
  let plane := planeBytes x.skew x.inFmt x.w.stored x.h.stored
  (base + x.inAddr + (ch + x.cIn * pt) * plane + py * planeRow x.skew x.inFmt x.w.stored,
    px + (if x.skew then ch % 32 else 0),
    base + x.inScale + (px / 32 + ceilDiv x.w.stored 32 * (py + x.h.stored * (ch + x.cIn * pt))))

/-- Tap t of a window: kw, kh, kt. -/
def tapOf (x : WinDesc) (t : Nat) : Nat × Nat × Nat := (t % x.w.k, t / x.w.k % x.h.k, t / x.w.k / x.h.k)

/-- The stored position that tap t reads for output (ox, oy, oz) (R151). -/
def tapPlace (x : WinDesc) (ox oy oz t : Nat) : Nat × Nat × Nat :=
  let k := tapOf x t
  (ox * x.w.stride + k.1 * x.w.dil, oy * x.h.stride + k.2.1 * x.h.dil, oz * x.t.stride + k.2.2 * x.t.dil)

/-- The position lies in padding. -/
def inPadding (x : WinDesc) (p : Nat × Nat × Nat) : Bool := x.w.padded p.1 || x.h.padded p.2.1 || x.t.padded p.2.2

/-- The filter element and scale of channel ch, tap t, output channel o (R149). -/
def filterPlace (x : WinDesc) (ch t o : Nat) : Nat × Nat :=
  (ch + 32 * x.cb * (t + x.ntap * o), ch / 32 + x.cb * (t + x.ntap * o))

/-- A value that a convolution multiplies: its scale code and element value; +0 without a scale in zero
padding (R157). -/
def convInput (s : State) (c : CoreId) (x : WinDesc) (ch : Nat) (p : Nat × Nat × Nat) : Nat × Val :=
  if x.padMode = 0 && inPadding x p then (127, Val.zero)
  else
    let q := inputPlace c x ch p.1 p.2.1 p.2.2
    let ag : Agent := .tile c.tile false
    (scaleCode s ag x.inFmt q.2.2, elemVal s ag x.inFmt x.strict q.1 q.2.1)

/-- A filter value with its scale code. -/
def convFilter (s : State) (c : CoreId) (x : WinDesc) (ch t o : Nat) : Nat × Val :=
  let q := filterPlace x ch t o
  let ag : Agent := .tile c.tile false
  let base := spaceBase c x.wSpace
  (scaleCode s ag x.wFmt (base + x.wScale + q.2), elemVal s ag x.wFmt x.strict (base + x.wAddr) q.1)

/-- The positions of W that the pass of an output computes (R159). -/
def passRow (x : WinDesc) (ox : Nat) : List Nat :=
  let n := max 1 x.nTile
  (List.range (min n (x.w.out - ox / n * n))).map fun i => ox / n * n + i

/-- A tap is skipped in the pass of an output: in zero padding at every position of the pass, with no filter element infinite or NaN
and no filter scale 0xFF (R158). -/
def tapSkipped (s : State) (c : CoreId) (x : WinDesc) (ox oy oz t : Nat) : Bool :=
  x.padMode == 0 && (passRow x ox).all (fun i => inPadding x (tapPlace x i oy oz t)) &&
    (List.range x.cOut).all fun o => (List.range x.cIn).all fun ch =>
      let f := convFilter s c x ch t o
      f.1 != 0xFF && f.2.isFin

/-- One group of a convolution (R152, R153): channels of block j at tap t. In strict mode the product of zero padding and a finite filter
element is +0, so that a tap that is not skipped adds what a skipped one does (R152, R158; DEDUCED, log entry 108). -/
def convGroup (s : State) (c : CoreId) (x : WinDesc) (o j t : Nat) (p : Nat × Nat × Nat) (a : Acc) : Acc :=
  let zero := x.padMode == 0 && inPadding x p
  let ps := ((List.range 32).filter fun i => decide (32 * j + i < x.cIn)).map fun i =>
    (convInput s c x (32 * j + i) p, convFilter s c x (32 * j + i) t o)
  let nanScale := ps.any fun q => q.1.1 == 0xFF || q.2.1 == 0xFF
  let scaled := ps.map fun q =>
    (q.1.2.scale ((q.1.1 : Int) - 127), q.2.2.scale ((q.2.1 : Int) - 127))
  if x.strict then
    (ps.zip scaled).foldl (fun a q =>
      accProduct a (if q.1.1.1 = 0xFF ∨ q.1.2.1 = 0xFF then 0xFF else 127) 127
        (if zero && q.2.2.isFin then (Val.zero, Val.zero) else q.2)) a
  else accGroup false a (if nanScale then 0xFF else 127) 127 scaled

/-- Output element (ox, oy, oz, o) of a convolution: a group of a skipped tap adds a partial of +0 (R158). -/
def convValue (s : State) (c : CoreId) (x : WinDesc) (ox oy oz o : Nat) : Acc :=
  (List.range (x.cb * x.ntap)).foldl (fun a g =>
    if tapSkipped s c x ox oy oz (g % x.ntap) then accAdd x.strict a Val.zero true
    else convGroup s c x o (g / x.ntap) (g % x.ntap) (tapPlace x ox oy oz (g % x.ntap)) a) ⟨Val.zero, {}, none⟩

/-- The tap's value comes from a poisoned block. -/
def inputBad (bad : List (Nat × Nat)) (c : CoreId) (x : WinDesc) (ch : Nat) (p : Nat × Nat × Nat) : Bool :=
  !(x.padMode == 0 && inPadding x p) &&
    (let q := inputPlace c x ch p.1 p.2.1 p.2.2
     elemBad bad x.inFmt q.1 q.2.1 || (isMx x.inFmt && isBad bad q.2.2))

/-- A filter value comes from a poisoned block. -/
def filterBad (bad : List (Nat × Nat)) (c : CoreId) (x : WinDesc) (ch t o : Nat) : Bool :=
  let q := filterPlace x ch t o
  elemBad bad x.wFmt (spaceBase c x.wSpace + x.wAddr) q.1 ||
    (isMx x.wFmt && isBad bad (spaceBase c x.wSpace + x.wScale + q.2))

/-- The output rows (oy, o, oz) of a window descriptor in dense order, by their dense row number. -/
def outputRows (x : WinDesc) : List (Nat × Nat × Nat × Nat) :=
  if x.noOut then []
  else (List.range (x.h.out * x.cOut * x.t.out)).map fun r =>
    (r, r % x.h.out, r / x.h.out % x.cOut, r / x.h.out / x.cOut)

/-- An output depends on a poisoned block; a skipped tap reads nothing (R158). -/
def convBad (s : State) (bad : List (Nat × Nat)) (c : CoreId) (x : WinDesc) (ox oy oz o : Nat) : Bool :=
  !bad.isEmpty && (List.range x.ntap).any fun t => !tapSkipped s c x ox oy oz t && (List.range x.cIn).any fun ch =>
    inputBad bad c x ch (tapPlace x ox oy oz t) || filterBad bad c x ch t o

/-- The lowest enabled array whose output channels read a block: UNIT of the block's event (R159, Table DMA-12). -/
def convReader (s : State) (c : CoreId) (x : WinDesc) (b : Nat × Nat) : Nat :=
  let o := (List.range x.cOut).find? fun o => (outputRows x).any fun r => r.2.2.1 == o &&
    (List.range x.w.out).any fun ox => convBad s [b] c x ox r.2.1 r.2.2.2 o
  arrayOfRow x.mask x.cOut (o.getD 0)

/-- Element and scale address of output row (oy, o, oz) (R150). -/
def outputPlace (c : CoreId) (x : WinDesc) (oy o oz : Nat) : Nat × Nat :=
  let base := spaceBase c x.outSpace
  (base + x.outAddr + (o + x.cOut * oz) * planeBytes false x.outFmt x.w.out x.h.out +
      oy * planeRow false x.outFmt x.w.out,
    base + x.outScale + ceilDiv x.w.out 32 * (oy + x.h.out * (o + x.cOut * oz)))

/-- The blocks a window descriptor reads: no input or filter without channels (R155). A pooling reads the stored padding of PAD_MODE 1 and
2 also with INCLUDE_PAD 0, where it takes no part (DESIGN CHOICE, log entry 109). -/
def windowReads (s : State) (c : CoreId) (x : WinDesc) : List (Nat × Nat) × State :=
  let of := fun (r : Range) => blocksOf (spaceBase c r.scratch + r.lo) r.n
  let bs := if x.noOut ∨ x.cOut = 0 ∨ x.cIn = 0 then []
    else (of x.inRange ++ of x.inScales ++ of x.wRange ++ of x.wScales).eraseDups
  verifyAll s (.tile c.tile false) (bs.filter fun b =>
    (outputRows x).any fun r => (List.range x.w.out).any fun ox =>
      if x.conv then convBad s [(b, 1)] c x ox r.2.1 r.2.2.2 r.2.2.1
      else (List.range x.ntap).any fun t =>
        inputBad [(b, 1)] c x r.2.2.1 (tapPlace x ox r.2.1 r.2.2.2 t))

/-- A convolution up to its writes: the state after its operands are read, and its output rows. -/
def convolutionOut (s : State) (c : CoreId) (e : QEntry) : State × List (Nat × Drained) :=
  let x := parseWindow true e.desc
  let v := windowReads s c x
  let s := v.1.foldl (fun s b => integrityEvent s c.tile b.2 (17 + convReader s c x b) c.core.val b.1) v.2
  let p := policyOf e.format (fmtAt x.outFmt)
  (s, (outputRows x).map fun r =>
    let q := outputPlace c x r.2.1 r.2.2.1 r.2.2.2
    (r.1, drainRow (fmtAt x.outFmt) p x.strict q.1 q.2
      ((List.range x.w.out).map fun ox =>
        { acc := convValue s c x ox r.2.1 r.2.2.2 r.2.2.1
          poison := convBad s v.1 c x ox r.2.1 r.2.2.2 r.2.2.1, quiet := x.cIn == 0 })))

/-- Run a convolution descriptor. The row that the NaN trap names is the dense number of the output row over H_out, C_OUT and T_out
(DESIGN CHOICE, log entry 109). -/
def runConvolution (s : State) (c : CoreId) (e : QEntry) : State :=
  let x := parseWindow true e.desc
  let o := convolutionOut s c e
  writeResults o.1 c 0 e x.tensor o.2 fun r col => (arrayOfRow x.mask x.cOut (r / x.h.out % x.cOut), r, col)

/-- CONVOLUTION: the arrays run the convolution descriptor at the head of queue 0 (R148 to R162). -/
def execConvolution (c : CoreId) (s : State) : Host.Outcome State Fault Refusal :=
  match headOf s c 0 4 2 with
  | some e => .next (runConvolution s c e)
  | none => .next (queueParity s c 0)

end Sys2Proof.Machine
end

