-- ==== Sys2Proof/Machine/Completion.lean ====
section
/-! DEFINITION. Completion records of the host rings and the interrupts that announce them (R366, R369, R371, R372). -/

namespace Sys2Proof.Machine

/-! ### Ring geometry (R366, Tables HST-18 and HST-19) -/

/-- Entries of a ring by its LOG2_ENTRIES, 0 where the value disables it. -/
def ringSize (lg : Nat) : Nat := if 4 ≤ lg ∧ lg ≤ 16 then 2 ^ lg else 0

def sqSize (s : State) (q : RingId) : Nat := ringSize (fget s (HIF_SQ_CTL q.val) f_HIF_SQ_CTL_LOG2_ENTRIES)
def cqSize (s : State) (q : RingId) : Nat := ringSize (fget s (HIF_CQ_CTL q.val) f_HIF_CQ_CTL_LOG2_ENTRIES)

/-- The address of a ring base register as a host address of Table MEM-1. -/
def ringAddr (s : State) (r : Nat) : Nat := 2 ^ 55 + bitsAt (s.reg r) 0 1 * 2 ^ 54 + bitsAt (s.reg r) 6 48 * 64

/-! ### Moderation (R372) -/

/-- Announce a completion ring's records on its own port. -/
def announce (s : State) (q : RingId) : State :=
  msix (s.setRing q { s.ring q with unannounced := 0 }) (fget s (HIF_CQ_BASE q.val) f_HIF_CQ_BASE_PORT)
    (fget s (HIF_CQ_CTL q.val) f_HIF_CQ_CTL_VECTOR)

/-- A record that counts has been written. -/
def moderate (s : State) (q : RingId) : State :=
  if fbit s (HIF_CQ_CTL q.val) f_HIF_CQ_CTL_IRQ_EN then
    let r := s.ring q
    let n := r.unannounced + 1
    let s := s.setRing q { r with unannounced := n, firstBeat := if r.unannounced = 0 then s.now else r.firstBeat }
    if n ≥ max 1 (fget s (HIF_CQ_MOD q.val) f_HIF_CQ_MOD_COUNT) then announce s q else s
  else s

/-! ### Completion records (R369, Table HST-5) -/

/-- The completion record of a command. -/
def completionBytes (s : State) (q : RingId) (cmd : List Byte) (status detail value : Nat) : List Byte :=
  (cmd.drop 2).take 2 ++ cmd.take 1 ++ leBytes 1 status ++ leBytes 4 detail ++ leBytes 8 value ++
    leBytes 2 (fget s (HIF_SQ_CTL q.val) f_HIF_SQ_CTL_HEAD) ++ leBytes 1 q.val ++
    leBytes 1 (fget s (HIF_CQ_CTL q.val) f_HIF_CQ_CTL_PHASE) ++ leBytes 12 0

/-- TAIL and PHASE move past a record; the ring is full when the record is the last that the host has left room for. -/
def advanceTail (s : State) (q : RingId) : State :=
  let c := HIF_CQ_CTL q.val
  let tail := (fget s c f_HIF_CQ_CTL_TAIL + 1) % cqSize s q
  let phase := fget s c f_HIF_CQ_CTL_PHASE
  let s := fset (fset s c f_HIF_CQ_CTL_TAIL tail) c f_HIF_CQ_CTL_PHASE (if tail = 0 then 1 - phase else phase)
  fset s c f_HIF_CQ_CTL_FULL (boolNat (tail == (s.ring q).cqHead % cqSize s q))

/-- Write the completion record that waits in a ring, where the ring takes it (R369). -/
def flushRing (s : State) (q : RingId) : State :=
  let r := s.ring q
  match r.cur, r.waiting with
  | some cmd, some (status, detail, value) =>
    let c := HIF_CQ_CTL q.val
    let a := ringAddr s (HIF_CQ_BASE q.val) + 32 * (fget s c f_HIF_CQ_CTL_TAIL % cqSize s q)
    if cqSize s q = 0 ∨ !fbit s c f_HIF_CQ_CTL_ENABLE ∨ fbit s c f_HIF_CQ_CTL_FULL then s
    else if hostDown s a then waitLink s (hostPort a) (.ring q)
    else
      let s := writeBytes s .other a (completionBytes s q cmd status detail value) false
      let s := advanceTail (s.setRing q { r with cur := none, waiting := none }) q
      if bitAt (field8 cmd 1) 1 then s else moderate s q
  | _, _ => s
where
  /-- One byte of a command. -/
  field8 (bs : List Byte) (i : Nat) : Nat := (bs.getD i 0).toNat

/-- The command in execution of a ring completes (R367, R369). -/
def completeRing (s : State) (q : RingId) (status detail value : Nat) : State :=
  let r := s.ring q
  if r.cur.isSome && r.waiting.isNone then flushRing (s.setRing q { r with waiting := some (status, detail, value) }) q
  else s

end Sys2Proof.Machine
end

