-- ==== Sys2Proof/Machine/Channels.lean ====
section
/-! DEFINITION. The registers of a DMA channel and its abort (R226, R236 to R238). -/

namespace Sys2Proof.Machine

/-! ### Registers of a channel: the three engines hold the same four -/

def chState : Engine → Nat
  | .tile t c => DMA_CH_STATE t.val c.val
  | .die h c => DIE_CH_STATE h.val c.val
  | .host c => HDMA_CH_STATE c.val

def chProgress : Engine → Nat
  | .tile t c => DMA_CH_PROGRESS t.val c.val
  | .die h c => DIE_CH_PROGRESS h.val c.val
  | .host c => HDMA_CH_PROGRESS c.val

def chCtl : Engine → Nat
  | .tile t c => DMA_CH_CTL t.val c.val
  | .die h c => DIE_CH_CTL h.val c.val
  | .host c => HDMA_CH_CTL c.val

def chAbort : Engine → Nat
  | .tile t c => DMA_CH_ABORT t.val c.val
  | .die h c => DIE_CH_ABORT h.val c.val
  | .host c => HDMA_CH_ABORT c.val

/-- The channel's number within its engine. -/
def chNumber : Engine → Nat
  | .tile _ c => c.val
  | .die _ c => c.val
  | .host c => c.val

/-- The core whose queue 2 a tile channel of 0 to 15 serves (R226). -/
def chCore : Engine → Option CoreId
  | .tile t c => if h : c.val < 16 then some ⟨t, ⟨c.val, h⟩⟩ else none
  | _ => none

/-- The agent a channel reads and writes as. Base-die and host engines do not pass a cache (R201). -/
def chAgent : Engine → Agent
  | .tile t _ => .tile t true
  | _ => .other

/-- The channel has aborted and waits for the next job load. -/
def chHalted (s : State) (e : Engine) : Bool := fbit s (chState e) f_DMA_CH_STATE_HALTED

/-- Show what a channel executes, or that it is idle. -/
def chBusy (s : State) (e : Engine) (busy : Bool) (addr : Nat) : State :=
  fset (fset s (chState e) f_DMA_CH_STATE_BUSY (boolNat busy)) (chState e) f_DMA_CH_STATE_DESC (addr / 64)

/-- Bytes 0 to 7 of an abort record (Table DMA-4). -/
def abortWord (cause channel residue : Nat) : Nat :=
  cause % 16 + channel % 32 * 2 ^ 8 + 2 ^ 16 + residue % 2 ^ 32 * 2 ^ 32

/-- An abort record is visible: the channel's bit of DMA_IRQ, and its interrupt (R236). -/
def abortSeen (s : State) (t : TileId) (c : Nat) : State :=
  let s := s.setReg (DMA_IRQ t.val) (s.reg (DMA_IRQ t.val) ||| 2 ^ c)
  if bitAt (s.reg (DMA_IRQ_EN t.val)) c then interrupt s 3 else s

/-- Write an abort record where its address is mapped; a write to a port whose link is down waits (R363). -/
def writeAbort (s : State) (t : TileId) (c a : Nat) (bytes : List Byte) : State :=
  if !rangeMapped s (.tile t false) a 16 || rangeRetired s a 16 then abortSeen s t c
  else if hostDown s a then waitLink s (hostPort a) (.abortRecord t c a bytes)
  else abortSeen (writeBytes s (.tile t false) a bytes false) t c

/-- An abort: the record, the halt, the discarded descriptors and, for channels 0 to 15 of a tile, the stopped
tile (R236, R237). A host channel's COPY completes with DMA_ABORT (Table HST-6). -/
def abortChannel (s : State) (e : Engine) (cause residue addr : Nat) : State :=
  let w := abortWord cause (chNumber e) residue
  let s := fset (chBusy (s.setReg (chAbort e) w) e false addr) (chState e) f_DMA_CH_STATE_HALTED 1
  let s := s.setChan e Chan.empty
  match e with
  | .tile t c =>
    let a := faddr s (DMA_ABORT_BASE t.val) f_DMA_ABORT_BASE_BASE + 16 * c.val
    let s := writeAbort s t c.val a (leBytes 8 w ++ leBytes 8 addr)
    let s := post s .dmaAbort t.val w
    match chCore e with
    | some k =>
      let q := s.seq k
      let s := s.setSeq k { q with queues := setNth q.queues 2 [] }
      faultStop s t w
    | none => s
  | .host q => completeRing (post s .dmaAbort q.val w) q 4 residue w
  | .die .. => post s .dmaAbort (chNumber e) w

end Sys2Proof.Machine
end

