-- ==== Sys2Proof/Machine/Vector.lean ====
section
/-! DEFINITION. The vector unit's descriptors: combine (R113 to R116), pooling (R164 to R166), split-KV
merge (R181, R182) and precondition (R284 to R286). -/

namespace Sys2Proof.Machine

/-- Unit, row and column of a vector operation's element with `n` columns a row (Table NUM-13). -/
def laneAt (n row col : Nat) : Nat × Nat × Nat := (4, (row * n + col) / 256, (row * n + col) % 256)

/-- An FP32 value as a vector operation reads it, at an address. -/
def readF32 (s : State) (c : CoreId) (strict : Bool) (a : Nat) : Val :=
  readVal fmtFP32 strict (readNat s (.tile c.tile false) a 4)

/-- An accumulator that starts from a value read as an input. -/
def accInput (v : Val) : Acc :=
  { v := v, fl := { nanin := v.isNan }, origin := if v.isNan then some 0 else none }

/-- Verify ranges of a core's spaces. -/
def verifyRanges (s : State) (c : CoreId) (rs : List Range) : List (Nat × Nat) × State :=
  verifyAll s (.tile c.tile false)
    ((rs.flatMap fun r => blocksOf (spaceBase c r.scratch + r.lo) r.n).eraseDups)

/-- Verify rows of a core's spaces. -/
def verifyRows (s : State) (c : CoreId) (rs : List Rows) : List (Nat × Nat) × State :=
  verifyAll s (.tile c.tile false) ((rs.flatMap fun r => r.blocks (spaceBase c r.scratch)).eraseDups)

/-! ### Combine -/

/-- The left fold over the partials of element (m, n) (R113). -/
def combineValue (s : State) (c : CoreId) (x : CombDesc) (m n : Nat) : Acc :=
  let at_ := fun i => readF32 s c x.strict (spaceBase c x.partSpace + x.partAddr + i * x.partStride + m * x.partLd + 4 * n)
  (List.range (x.count - 1)).foldl (fun a i => accAdd x.strict a (at_ (i + 1)) true) (accInput (at_ 0))

/-- A partial of element (m, n) lies in a poisoned block. -/
def combineBad (bad : List (Nat × Nat)) (c : CoreId) (x : CombDesc) (m n : Nat) : Bool :=
  (List.range x.count).any fun i =>
    touchesBad bad (spaceBase c x.partSpace + x.partAddr + i * x.partStride + m * x.partLd + 4 * n) 4

/-- A combine up to its writes: the state after its partials are read, and its output rows. An output that lies over partials at other
positions is accepted where R115 admits it in place, and every partial is read before any write (DESIGN CHOICE, log entry 74). -/
def combineOut (s : State) (c : CoreId) (e : QEntry) : State × List (Nat × Drained) :=
  let x := parseCombine e.desc
  let v := verifyRows s c ((List.range x.count).map x.partRows)
  let s := integrityAll v.2 c.tile 21 c.core.val v.1
  let p := policyOf e.format (fmtAt x.outFmt)
  let ob := spaceBase c x.outSpace
  (s, (List.range x.m).map fun m =>
    (m, drainRow (fmtAt x.outFmt) p x.strict (ob + x.outAddr + m * x.outLd) (ob + x.outScale + m * ceilDiv x.n 32)
      ((List.range x.n).map fun n => { acc := combineValue s c x m n, poison := combineBad v.1 c x m n })))

/-- Run a combine descriptor. -/
def runCombine (s : State) (c : CoreId) (e : QEntry) : State :=
  let o := combineOut s c e
  writeResults o.1 c 1 e (parseCombine e.desc).tensor o.2 fun r col => laneAt (parseCombine e.desc).n r col

/-- COMBINE: the vector unit adds split partials in ascending split order (R113). -/
def execCombine (c : CoreId) (s : State) : Host.Outcome State Fault Refusal :=
  match headOf s c 1 8 0x40 with
  | some e => .next (runCombine s c e)
  | none => .next (queueParity s c 1)

/-! ### Pooling -/

/-- The value of a window position on a channel, converted to FP32 (R64, R164), its flags, and whether its
scale is NaN. -/
def poolInput (s : State) (c : CoreId) (x : WinDesc) (ch : Nat) (p : Nat × Nat × Nat) : Val × Flags × Bool :=
  let q := convInput s c x ch p
  if q.1 = 0xFF then (.nan, {}, true)
  else
    let r := if isMx x.inFmt then roundF32 x.strict (q.2.scale ((q.1 : Int) - 127)) else (q.2, {})
    (r.1, r.2, false)

/-- The exact value that average pooling adds (R117). Taps of one group may have different block scales: each value is scaled before
the window, as R153 does for convolutions (DESIGN CHOICE, log entry 72). -/
def poolExact (s : State) (c : CoreId) (x : WinDesc) (ch : Nat) (p : Nat × Nat × Nat) : Val :=
  let q := convInput s c x ch p
  if q.1 = 0xFF then .nan else q.2.scale ((q.1 : Int) - 127)

/-- The taps of a window that take part (R166). -/
def poolTaps (x : WinDesc) (ox oy oz : Nat) : List Nat :=
  (List.range x.ntap).filter fun t => x.includePad || !inPadding x (tapPlace x ox oy oz t)

/-- Max pooling of one output (R164, R166). -/
def maxValue (s : State) (c : CoreId) (x : WinDesc) (ch ox oy oz : Nat) : Acc :=
  let vs := (poolTaps x ox oy oz).map fun t => poolInput s c x ch (tapPlace x ox oy oz t)
  match vs with
  | [] => ⟨Val.zero, {}, none⟩
  | v :: rest =>
    let m := rest.foldl (fun a b => maxVal a b.1) v.1
    let nan := vs.find? fun w => w.1.isNan
    { v := m, fl := vs.foldl (fun a w => a.or w.2.1) { nanin := m.isNan }
      origin := nan.map fun w => if w.2.2 then 1 else 0 }

/-- ORIGIN of a sum that a NaN operand or scale made NaN first: within the first group of 32 taps that holds one, a NaN scale comes
before a NaN operand (R75). -/
def averageOrigin (s : State) (c : CoreId) (x : WinDesc) (ch ox oy oz : Nat) (ts : List Nat) : Nat :=
  let hit := (chunks 32 x.ntap (List.range x.ntap)).map fun g => (g.filter ts.contains).map fun t => tapPlace x ox oy oz t
  match hit.find? fun g => g.any fun p => (poolExact s c x ch p).isNan with
  | some g => boolNat (g.any fun p => (convInput s c x ch p).1 == 0xFF)
  | none => 0

/-- Average pooling of one output (R165, R166). With INCLUDE_PAD 0 the groups of 32 count all taps, a dropped tap adding +0 (DESIGN
CHOICE, log entry 73). -/
def averageValue (s : State) (c : CoreId) (x : WinDesc) (ch ox oy oz : Nat) : Acc :=
  let ts := poolTaps x ox oy oz
  if ts.isEmpty then ⟨Val.zero, {}, none⟩
  else
    let a := sumPath x.strict ((List.range x.ntap).map fun t =>
      (if ts.contains t then poolExact s c x ch (tapPlace x ox oy oz t) else Val.zero, Val.one))
    let r := (roundF32 true (Val.div Val.one (.fin false ts.length 0))).1
    let y := mulF32 x.strict a.v r
    { v := y.1, fl := a.fl.or y.2
      origin := if y.1.isNan then (if a.origin = some 0 then some (averageOrigin s c x ch ox oy oz ts) else a.origin) else none }

/-- A window of an output touches a poisoned block. -/
def poolBad (bad : List (Nat × Nat)) (c : CoreId) (x : WinDesc) (ch ox oy oz : Nat) : Bool :=
  !bad.isEmpty && (poolTaps x ox oy oz).any fun t => inputBad bad c x ch (tapPlace x ox oy oz t)

/-- A pooling up to its writes: the state after its input is read, and its output rows. -/
def poolingOut (s : State) (c : CoreId) (e : QEntry) : State × List (Nat × Drained) :=
  let x := parseWindow false e.desc
  let v := windowReads s c x
  let s := integrityAll v.2 c.tile 21 c.core.val v.1
  let p := policyOf e.format (fmtAt x.outFmt)
  (s, (outputRows x).map fun r =>
    let q := outputPlace c x r.2.1 r.2.2.1 r.2.2.2
    (r.1, drainRow (fmtAt x.outFmt) p x.strict q.1 q.2
      ((List.range x.w.out).map fun ox =>
        { acc := if x.average then averageValue s c x r.2.2.1 ox r.2.1 r.2.2.2
            else maxValue s c x r.2.2.1 ox r.2.1 r.2.2.2
          poison := poolBad v.1 c x r.2.2.1 ox r.2.1 r.2.2.2
          quiet := (poolTaps x ox r.2.1 r.2.2.2).isEmpty })))

/-- Run a pooling descriptor. -/
def runPooling (s : State) (c : CoreId) (e : QEntry) : State :=
  let x := parseWindow false e.desc
  let o := poolingOut s c e
  writeResults o.1 c 1 e x.tensor o.2 fun r col => laneAt x.w.out r col

/-- MAX_POOLING: the vector unit writes the largest value of each window (R164). -/
def execMaxPooling (c : CoreId) (s : State) : Host.Outcome State Fault Refusal :=
  match headOf s c 1 8 0x41 with
  | some e => if bitAt (field e.desc 0 4) 9 then .next s else .next (runPooling s c e)
  | none => .next (queueParity s c 1)

/-- AVERAGE_POOLING: the vector unit writes each window's mean (R165). -/
def execAveragePooling (c : CoreId) (s : State) : Host.Outcome State Fault Refusal :=
  match headOf s c 1 8 0x41 with
  | some e => if bitAt (field e.desc 0 4) 9 then .next (runPooling s c e) else .next s
  | none => .next (queueParity s c 1)

/-! ### Merge -/

/-- Address of the partial record of a row in a split. -/
def partialAt (c : CoreId) (x : MergeDesc) (i row : Nat) : Nat :=
  spaceBase c x.partSpace + x.partAddr + i * x.partStride + row * x.partLd

/-- A value as an operation reads it: a NaN's origin is 0, a NaN operand. -/
def leaf (v : Val) : Acc := ⟨v, {}, if v.isNan then some 0 else none⟩

/-- The origin of a result: the first cause among its operands in the order given, else the operation itself (R75). -/
def resultOrigin (r : Val) (inv : Bool) (os : List (Option Nat)) : Option Nat :=
  if r.isNan then (os.filterMap id).head? <|> some (if inv then 2 else 0) else none

/-- A fused multiply-add x × y + a, joining the flags of the addend and noting the first cause of a NaN. -/
def accFma (strict : Bool) (a x y : Acc) : Acc :=
  let r := fmaF32 strict x.v y.v a.v
  { v := r.1, fl := a.fl.or r.2, origin := resultOrigin r.1 r.2.inv [a.origin, x.origin, y.origin] }

/-- A product x × y, joining the flags of x. -/
def accMul (strict : Bool) (x y : Acc) : Acc :=
  let r := mulF32 strict x.v y.v
  { v := r.1, fl := x.fl.or r.2, origin := resultOrigin r.1 r.2.inv [x.origin, y.origin] }

/-- The elements of a merged row, and whether no split saw a key (R181, R182). -/
def mergeRow (s : State) (c : CoreId) (x : MergeDesc) (row : Nat) : List Acc × Bool :=
  let ids := List.range x.count
  let rd := fun i o => readF32 s c x.strict (partialAt c x i row + o)
  let ms := ids.map fun i => rd i 0
  let m := (ms.drop 1).foldl maxVal (ms.headD (.inf true))
  if m = .inf true then (List.replicate x.dim ⟨Val.zero, {}, none⟩, true)
  else
    -- each split's weight, with ORIGIN 2 where it is infinity less infinity
    let cs : List Acc := ms.map fun mi =>
      let d := addF32 x.strict mi m.neg
      let p := if mi = .inf true then (Val.zero, {}) else pow2Val x.strict d.1
      ⟨p.1, (if mi = .inf true then {} else d.2).or p.2, resultOrigin p.1 d.2.inv [(leaf mi).origin, (leaf m).origin]⟩
    let nanin := m.isNan
    let base : Acc := ⟨Val.zero, {}, none⟩
    let l := (ids.zip cs).foldl (fun a p =>
      let v := rd p.1 4
      accFma x.strict { a with fl := (a.fl.or p.2.fl).or { nanin := v.isNan || nanin } } (leaf v) p.2) base
    let r := recipLane x.strict l.v
    let rl : Acc := ⟨r.1, l.fl.or r.2, resultOrigin r.1 r.2.inv [l.origin]⟩
    ((List.range x.dim).map fun d =>
      let o := (ids.zip cs).foldl (fun a p =>
        let v := rd p.1 (64 + 4 * d)
        accFma x.strict { a with fl := a.fl.or { nanin := v.isNan } } (leaf v) p.2) base
      let y := accMul x.strict o rl
      { y with fl := y.fl.or rl.fl }, false)

/-- A merge up to its writes: the state after its partials are read and its empty rows counted, and its output rows. -/
def mergeOut (s : State) (c : CoreId) (e : QEntry) : State × List (Nat × Drained) :=
  let x := parseMerge e.desc
  let v := verifyRows s c ((List.range x.count).map x.partRows)
  let s := integrityAll v.2 c.tile 21 c.core.val v.1
  let p := policyOf e.format (fmtAt x.outFmt)
  let ob := spaceBase c x.outSpace
  let rows := (List.range x.rows).map fun r =>
    let bad := (List.range x.count).any fun i => touchesBad v.1 (partialAt c x i r) (64 + 4 * x.dim)
    (r, mergeRow s c x r, bad)
  let s := fadd s (SCU_EMPTY_ROWS c.tile.val) f_SCU_EMPTY_ROWS_COUNT (rows.filter fun r => r.2.1.2).length
  (s, rows.map fun r =>
    (r.1, drainRow (fmtAt x.outFmt) p x.strict (ob + x.outAddr + r.1 * x.outLd) (ob + x.outScale + r.1 * (x.dim / 32))
      (r.2.1.1.map fun a => { acc := a, poison := r.2.2 })))

/-- Run a merge descriptor. -/
def runMerge (s : State) (c : CoreId) (e : QEntry) : State :=
  let x := parseMerge e.desc
  let o := mergeOut s c e
  writeResults o.1 c 1 e x.tensor o.2 fun r col => laneAt x.dim r col

/-- MERGE: the vector unit merges split-KV partial records (R181, R182). -/
def execMerge (c : CoreId) (s : State) : Host.Outcome State Fault Refusal :=
  match headOf s c 1 8 0x42 with
  | some e => .next (runMerge s c e)
  | none => .next (queueParity s c 1)

/-! ### Precondition -/

/-- The value of the other sign. -/
def Acc.neg (a : Acc) : Acc := { a with v := a.v.neg }

/-- A Cholesky factor in the making: columns below the diagonal, the values r[j], flags and the first
failing pivot (R284, R285). -/
structure Chol where
  cols : List (List Acc)
  rs : List Acc
  fl : Flags
  fail : Option Nat
  deriving DecidableEq, Repr

/-- l[i][k]. -/
def Chol.at (h : Chol) (i k : Nat) : Acc := nthD (leaf Val.zero) (nthD [] h.cols k) i

/-- Column j of the factor. -/
def cholStep (strict : Bool) (n : Nat) (a : Nat → Nat → Val) (damp : Val) (h : Chol) (j : Nat) : Chol :=
  if h.fail.isSome then h
  else
    let d0 := addF32 strict (a j j) damp
    let d := (List.range j).foldl (fun d k => accFma strict d (h.at j k).neg (h.at j k)) ⟨d0.1, d0.2, none⟩
    if d.v.isNan || d.v.isZero || d.v.sign then { h with fl := h.fl.or d.fl, fail := some j }
    else
      let l := rsqrtLane strict d.v
      let r : Acc := ⟨l.1, l.2, resultOrigin l.1 l.2.inv [d.origin]⟩
      let col := (List.range n).map fun i =>
        if i ≤ j then leaf Val.zero
        else
          accMul strict ((List.range j).foldl (fun s k => accFma strict s (h.at i k).neg (h.at j k)) (leaf (a i j))) r
      { cols := h.cols ++ [col], rs := h.rs ++ [r]
        fl := col.foldl (fun f x => f.or x.fl) ((h.fl.or d.fl).or r.fl), fail := none }

/-- The solution x of a column of G: values with the causes of their NaNs, and flags. -/
def cholSolve (strict : Bool) (n : Nat) (h : Chol) (g : Nat → Val) : List Acc × Flags :=
  let zero := leaf Val.zero
  let ys := (List.range n).foldl (fun (y : List Acc × Flags) i =>
    let t := (List.range i).foldl (fun t k => accFma strict t (h.at i k).neg (nthD zero y.1 k)) (leaf (g i))
    let m := accMul strict t (nthD zero h.rs i)
    (y.1 ++ [{ m with fl := {} }], y.2.or m.fl)) ([], {})
  (List.range n).foldl (fun (x : List Acc × Flags) j =>
    let i := n - 1 - j
    let t := (List.range j).foldl (fun t k =>
      accFma strict t (h.at (i + 1 + k) i).neg (nthD zero x.1 k)) (nthD zero ys.1 i)
    let m := accMul strict t (nthD zero h.rs i)
    ({ m with fl := {} } :: x.1, x.2.or m.fl)) ([], ys.2)

/-- What one block gives: output FP32 codes and ORIGIN of a NaN by row, status byte and flags. -/
structure Solved where
  rows : List (List Nat)
  origins : List (List Nat)
  status : Nat
  fl : Flags
  deriving DecidableEq, Repr

/-- Precondition block b (R284, R285). -/
def preBlock (s : State) (c : CoreId) (x : PreDesc) (b : Nat) : Solved :=
  let base := spaceBase c x.space
  let aAt := fun i j => readF32 s c x.strict (base + (x.aRange b).lo + 4 * (i * x.n + j))
  let gCode := fun i k => readNat s (.tile c.tile false) (base + (x.gRange b).lo + i * x.gLd + 4 * k) 4
  let aNan := (List.range x.n).any fun i => (List.range (i + 1)).any fun j => (aAt i j).isNan
  let gNan := (List.range x.n).any fun i => (List.range x.cols).any fun k => (f32 (gCode i k)).isNan
  let h := (List.range x.n).foldl (cholStep x.strict x.n aAt x.damp) ⟨[], [], { nanin := aNan }, none⟩
  match h.fail with
  | some j =>
    { rows := (List.range x.n).map fun i => (List.range x.cols).map fun k => gCode i k
      origins := [], status := 0x80 ||| j, fl := h.fl }
  | none =>
    let sols := (List.range x.cols).map fun k =>
      cholSolve x.strict x.n h fun i => readVal fmtFP32 x.strict (gCode i k)
    let at_ := fun i => sols.map fun q => nthD (leaf Val.zero) q.1 i
    { rows := (List.range x.n).map fun i => (at_ i).map fun a => f32Code a.v
      origins := (List.range x.n).map fun i => (at_ i).map fun a => a.origin.getD 2
      status := 0, fl := sols.foldl (fun f q => f.or q.2) (h.fl.or { nanin := gNan }) }

/-- A precondition up to its writes: the state after its blocks are read, and per block what it gives and whether
it depends on a poisoned block. -/
def preconditionOut (s : State) (c : CoreId) (e : QEntry) : State × List (Nat × Solved × Bool) :=
  let x := parsePre e.desc
  let bs := List.range x.count
  let v := verifyRanges s c (bs.flatMap fun b => [x.aRange b, x.gRange b])
  let s := integrityAll v.2 c.tile 21 c.core.val v.1
  let base := spaceBase c x.space
  (s, bs.map fun b =>
    (b, preBlock s c x b, touchesBad v.1 (base + (x.aRange b).lo) (x.aRange b).n ||
      touchesBad v.1 (base + (x.gRange b).lo) (x.gRange b).n))

/-- The bytes a precondition writes: each block's output rows and its status byte. -/
def preconditionCells (c : CoreId) (x : PreDesc) (rs : List (Nat × Solved × Bool)) : List (Nat × Byte × Bool) :=
  let base := spaceBase c x.space
  rs.flatMap fun r =>
    (r.2.1.rows.zipIdx.flatMap fun row =>
      cellsOf (base + (x.outRange r.1).lo + row.2 * x.gLd) (row.1.flatMap fun v => leBytes 4 v) r.2.2) ++
      [(base + x.statusAddr + r.1, BitVec.ofNat 8 r.2.1.status, r.2.2)]

/-- Run a precondition descriptor. -/
def runPrecondition (s : State) (c : CoreId) (e : QEntry) : State :=
  let x := parsePre e.desc
  let out := preconditionOut s c e
  let s := out.1
  let rs := out.2
  let ws := rs.flatMap fun r => r.2.1.rows.zipIdx.flatMap fun row =>
    (row.1.zipIdx.filter fun v => (f32 v.1).isNan && r.2.1.status == 0).map fun v =>
      let p := laneAt x.cols (r.1 * x.n + row.2) v.2
      { origin := nthD 2 (nthD [] r.2.1.origins row.2) v.2, unit := p.1, row := p.2.1, col := p.2.2 : NanWrite }
  let skipped := (rs.filter fun r => r.2.1.status != 0).length
  let s := writeCells s (.tile c.tile false) (preconditionCells c x rs)
  let s := numFlags s c (rs.foldl (fun f r => f.or r.2.1.fl) {})
  let s := if skipped = 0 then s
    else fset (fadd s (TL_PRECOND c.tile.val) f_TL_PRECOND_SKIPPED skipped) (TL_PRECOND c.tile.val)
      f_TL_PRECOND_STEP (stepOf s c.tile)
  markDone (nanTrap s c 1 e ws) c 1

/-- PRECONDITION: the vector unit solves for each gradient block, or copies it on a failed pivot (R284, R285). -/
def execPrecondition (c : CoreId) (s : State) : Host.Outcome State Fault Refusal :=
  match headOf s c 1 8 0x44 with
  | some e => .next (runPrecondition s c e)
  | none => .next (queueParity s c 1)

end Sys2Proof.Machine
end

