-- ==== Sys2Proof/Machine/Contexts.lean ====
section
/-! DEFINITION. The sequence context unit: context records, page tables, edits, quarantine, moves and the
commands of queue 3 (R167 to R172, R184 to R193). -/

namespace Sys2Proof.Machine

/-! ### Records -/

/-- The global number of a core. -/
def coreNumber (c : CoreId) : Nat := 16 * c.tile.val + c.core.val

/-- The slice that owns a context (R167). -/
def ownerOf (ctx : Nat) : TileId := ⟨ctx % 48, Nat.mod_lt _ (by decide)⟩

/-- Address of a context record. -/
def ctxAddr (s : State) (ctx : Nat) : Nat := faddr s SCU_TABLE_BASE f_SCU_TABLE_BASE_BASE + 64 * ctx

/-- The agent that reads records and tables: the owning slice, through its tile's cache (R167, R174, R199). -/
def sliceReader (ctx : Nat) : Agent := .tile (ownerOf ctx) true

/-- The 64 bytes of a context record. -/
def ctxRecord (s : State) (ctx : Nat) : List Byte := readBytes s (sliceReader ctx) (ctxAddr s ctx) 64

/-- The fields of a context record that the unit uses (Table ATT-1). -/
structure Ctx where
  state : Nat
  mode : Nat
  layout : Nat
  flags : Nat
  gen : Nat
  length : Nat
  groups : Nat
  root : Nat
  maskParam : Nat
  deriving DecidableEq, Repr

def parseCtx (r : List Byte) : Ctx :=
  { state := bitsAt (field r 0 1) 0 3, mode := bitsAt (field r 1 1) 0 2, layout := bitsAt (field r 2 1) 0 4
    flags := field r 3 1, gen := field r 4 4, length := field r 8 4, groups := field r 12 4
    root := bitsAt (field r 16 8) 12 44 * 4096, maskParam := field r 32 4 }

/-- The agent that writes records and tables: the owning slice. -/
def sliceAgent (ctx : Nat) : Agent := .tile (ownerOf ctx) false

/-- Write bytes of a context record. -/
def putCtx (s : State) (ctx off : Nat) (bs : List Byte) : State :=
  writeBytes s (sliceAgent ctx) (ctxAddr s ctx + off) bs false

/-- A model layout record (Table ATT-3): slices, BF16, log2 of the head dimension, scale address. -/
structure Layout where
  slices : Nat
  bf16 : Bool
  dimLog2 : Nat
  scaleAddr : Nat
  deriving DecidableEq, Repr

/-- Address of a model layout record (R170). -/
def layoutAddr (s : State) (n : Nat) : Nat := faddr s SCU_LAYOUT_BASE f_SCU_LAYOUT_BASE_BASE + 64 * n

/-- The fields of a layout record; a KV_FMT code that Table ATT-3 reserves is taken as E4M3 (DESIGN CHOICE, log entry 107). -/
def layoutOf (s : State) (ag : Agent) (n : Nat) : Layout :=
  let r := readBytes s ag (layoutAddr s n) 64
  { slices := field r 0 2, bf16 := bitsAt (field r 2 1) 0 4 == 8, dimLog2 := field r 3 1
    scaleAddr := bitsAt (field r 8 8) 0 56 }

/-! ### Page tables (R172) -/

/-- A root or leaf entry of a table page. -/
def tableEntry (s : State) (ag : Agent) (page i : Nat) : Nat := readNat s ag (page + 8 * i) 8

/-- The leaf table page of root entry i, where it exists. -/
def leafPage (s : State) (ag : Agent) (root i : Nat) : Option Nat :=
  let x := tableEntry s ag root i
  if bitAt x 0 then some (bitsAt x 12 44 * 4096) else none

/-- The leaf entry of page group g, where it is valid. -/
def leafEntry (s : State) (ag : Agent) (root g : Nat) : Option Nat :=
  match leafPage s ag root (g / 512) with
  | none => none
  | some p => if bitAt (tableEntry s ag p (g % 512)) 0 then some (tableEntry s ag p (g % 512)) else none

/-- Pool and base address of a leaf entry. -/
def groupOf (x : Nat) : Nat × Nat := (bitsAt x 1 4, bitsAt x 15 41 * 2 ^ 15)

/-- A leaf entry's bytes. -/
def leafBytes (pool addr : Nat) : List Byte := leBytes 8 (1 + 2 * pool + addr / 2 ^ 15 * 2 ^ 15)

/-! ### Pools (R193) -/

/-- The pool gives and takes groups (Table ATT-13). -/
def poolOn (s : State) (p : Nat) : Bool :=
  let lg := fget s (SCU_POOL_CTL p) f_SCU_POOL_CTL_LOG2_ENTRIES
  fbit s (SCU_POOL_CTL p) f_SCU_POOL_CTL_ENABLE && decide (4 ≤ lg ∧ lg ≤ 24)

/-- Address of position i of a pool's ring. -/
def poolSlot (s : State) (p i : Nat) : Nat :=
  faddr s (SCU_POOL_BASE p) f_SCU_POOL_BASE_BASE + 8 * (i % 2 ^ fget s (SCU_POOL_CTL p) f_SCU_POOL_CTL_LOG2_ENTRIES)

/-- Take n groups from the head of a pool's ring, all or none. -/
def poolTake (s : State) (ag : Agent) (p n : Nat) : Option (List Nat × State) :=
  let free := fget s (SCU_POOL_FREE p) f_SCU_POOL_FREE_FREE
  if n = 0 then some ([], s)
  else if !poolOn s p || decide (free < n) then none
  else
    let h := mapGet (0, 0) s.pools p
    let as := (List.range n).map fun i => bitsAt (readNat s ag (poolSlot s p (h.1 + i)) 8) 0 56
    let s := { s with pools := mapSet (0, 0) s.pools p (h.1 + n, h.2) }
    let s := fset s (SCU_POOL_FREE p) f_SCU_POOL_FREE_FREE (free - n)
    some (as, fset s (SCU_POOL_FREE p) f_SCU_POOL_FREE_LOW (min (fget s (SCU_POOL_FREE p) f_SCU_POOL_FREE_LOW) (free - n)))

/-- A slice can write the position of a pool's ring. -/
def slotReachable (s : State) (t : TileId) (p i : Nat) : Bool := rangeAccessible s (.tile t false) (poolSlot s p i) 8

/-- The SCU fault record of a tile, and the tile's stop (R174, R175). -/
def scuStop (s : State) (t : TileId) (core cause entry ctx gen : Nat) : State :=
  let r := SCU_FAULT t.val
  let x := SCU_FAULT_CTX t.val
  let s := if fbit s r f_SCU_FAULT_VALID then s
    else fset (fset (fset (fset (fset (fset s r f_SCU_FAULT_CAUSE cause) r f_SCU_FAULT_CORE core) r
      f_SCU_FAULT_VALID 1) r f_SCU_FAULT_ENTRY entry) x f_SCU_FAULT_CTX_CONTEXT ctx) x
      f_SCU_FAULT_CTX_GENERATION gen
  faultStop s t (s.reg r)

/-- A slice returns a group to the tail of its pool (R193), through its tile's cache (R200). A position that meets an address fault
(R196) takes no group, and the slice's tile takes SCU fault 7 (DESIGN CHOICE, log entry 84). -/
def poolGive (s : State) (t : TileId) (p a : Nat) : State :=
  let h := mapGet (0, 0) s.pools p
  if !slotReachable s t p h.2 then scuStop s t 0 7 0 0 0
  else
    let s := writeBytes s (.tile t false) (poolSlot s p h.2) (leBytes 8 a) false
    fadd { s with pools := mapSet (0, 0) s.pools p (h.1, h.2 + 1) } (SCU_POOL_FREE p) f_SCU_POOL_FREE_FREE 1

/-- The pool of table pages (R187). -/
def tablePool (s : State) : Nat := fget s SCU_CTL f_SCU_CTL_TABLE_POOL

/-! ### Windows and quarantine (R188, R189) -/

/-- Items in a slice's quarantine. -/
def Slice.items (x : Slice) : Nat := (x.windows.map List.length).sum

/-- A window holds walkers or items. -/
def Slice.occupied (x : Slice) (w : Nat) : Bool :=
  !(nthD [] x.windows w).isEmpty || x.walkers.any fun k => k.window == w

/-- Show a slice's windows in SCU_QSTAT (Table ATT-16). -/
def refreshQstat (s : State) (t : TileId) : State :=
  let x := s.slice t
  let occ := ((List.range 8).map fun w => boolNat (x.occupied w) * 2 ^ w).sum
  let r := SCU_QSTAT t.val
  fset (fset (fset (fset s r f_SCU_QSTAT_CURRENT x.current) r f_SCU_QSTAT_STALLED (boolNat x.stalled.isSome)) r
    f_SCU_QSTAT_OCCUPIED occ) r f_SCU_QSTAT_ITEMS x.items

/-- Change a slice and its SCU_QSTAT. -/
def putSlice (s : State) (t : TileId) (x : Slice) : State := refreshQstat (s.setSlice t x) t

/-- An edit with n items can close the current window now (R189). -/
def editFits (s : State) (t : TileId) (n : Nat) : Bool :=
  let x := s.slice t
  !x.occupied ((x.current + 1) % 8) && decide (x.items + n ≤ 131072)

/-- The lines of a device range leave every caddy (R202): contiguous keys in each 4 KiB page, which an interleaved region places
on a stack of its own (R208). -/
def dropDevice (s : State) (a n : Nat) : State :=
  (List.range (ceilDiv n 4096)).foldl (fun s i =>
    dropEverywhere s (keyOf s (a + 4096 * i)) (keyOf s (a + 4096 * i) + min 4096 (n - 4096 * i))) s

/-- Items enter the current window, which closes; the lines of each, `size` bytes, leave every caddy (R188,
R202). An item is a pool, an address and a size. -/
def quarantine (s : State) (t : TileId) (items : List (Nat × Nat × Nat)) : State :=
  let x := s.slice t
  let ws := setNth x.windows x.current (nthD [] x.windows x.current ++ items.map fun i => (i.1, i.2.1))
  let s := putSlice s t { x with windows := ws, current := (x.current + 1) % 8 }
  items.foldl (fun s i => dropDevice s i.2.1 i.2.2) s

/-! ### Edits (R187) -/

/-- The groups of a context from `keep` on, with the leaf pages that lose them. -/
def unmapItems (s : State) (ctx : Nat) (x : Ctx) (keep : Nat) : List (Nat × Nat × Nat) :=
  let size := (layoutOf s (sliceReader ctx) x.layout).slices * 2 ^ 15
  ((List.range x.groups).filter fun g => decide (keep ≤ g)).filterMap fun g =>
    (leafEntry s (sliceReader ctx) x.root g).map fun e => ((groupOf e).1, (groupOf e).2, size)

/-- Copy a table page to a new one, keeping its first n entries. -/
def copyPage (s : State) (ctx old new n : Nat) : State :=
  writeBytes s (sliceAgent ctx) new
    ((List.range 4096).map fun i => if i < 8 * n then readByte s (sliceReader ctx) (old + i) else 0) false

/-- A root entry's bytes. -/
def rootBytes (page : Nat) : List Byte := leBytes 8 (1 + page / 4096 * 4096)

/-- Unmap the groups from `keep` on: changed pages are written to new pages of the table pool; none where the
pool cannot give them. The answer's context bytes are not yet updated: root and generation follow. -/
def unmapFrom (s : State) (ctx : Nat) (x : Ctx) (keep : Nat) : Option (List (Nat × Nat × Nat) × Nat × State) :=
  let tp := tablePool s
  let ag := sliceReader ctx
  let items := unmapItems s ctx x keep
  if items.isEmpty then some ([], x.root, s)
  else
    let split := keep % 512 != 0
    match poolTake s ag tp (if split then 2 else 1) with
    | none => none
    | some (as, s) =>
      let root := nthD 0 as 0
      let leaf := nthD 0 as 1
      let pages := ((List.range 128).filter fun i => decide (keep / 512 ≤ i)).filterMap fun i =>
        (leafPage s ag x.root i).map fun p => (tp, p, 4096)
      let s := copyPage s ctx x.root root (keep / 512)
      let s := match split, leafPage s ag x.root (keep / 512) with
        | true, some old =>
          writeBytes (copyPage s ctx old leaf (keep % 512)) (sliceAgent ctx) (root + 8 * (keep / 512))
            (rootBytes leaf) false
        | _, _ => s
      some (items ++ pages ++ [(tp, x.root, 4096)], root, s)

/-- Advance GENERATION (R190). -/
def nextGen (g : Nat) : Nat := (g + 1) % 2 ^ 32

/-- Replace PT_ROOT, PG_COUNT and GENERATION of a record (R187). -/
def putMap (s : State) (ctx root groups gen : Nat) : State :=
  putCtx (putCtx (putCtx s ctx 16 (leBytes 8 root)) ctx 12 (leBytes 4 groups)) ctx 4 (leBytes 4 gen)

/-! ### Commands -/

/-- A command's fields (Table ATT-11). -/
structure ScuCmd where
  checkGen : Bool
  release : Bool
  mask : Bool
  move : Bool
  pool : Nat
  ctx : Nat
  expect : Nat
  arg0 : Nat
  result : Nat
  mode : Nat
  layout : Nat
  maskParam : Nat
  rng : Nat
  ts : Nat
  deriving DecidableEq, Repr

def parseScu (d : List Byte) : ScuCmd :=
  let f := field d 1 1
  { checkGen := bitAt f 0, release := bitAt f 1, mask := bitAt f 2, move := bitAt f 3, pool := field d 2 1
    ctx := bitsAt (field d 8 4) 0 20, expect := field d 12 4, arg0 := field d 16 4
    result := bitsAt (field d 24 8) 0 56, mode := field d 32 1, layout := field d 33 1
    maskParam := field d 36 4, rng := field d 40 8, ts := bitsAt (field d 48 8) 0 56 }

/-- No reserved bit of a command is set (R192). -/
def scuOk (d : List Byte) : Bool :=
  decide (field d 1 1 < 16 ∧ field d 2 1 < 16 ∧ field d 32 1 < 4 ∧ field d 33 1 < 16) &&
  field d 3 1 == 0 && field d 5 3 == 0 && field d 8 4 / 2 ^ 20 == 0 && field d 20 4 == 0 &&
  field d 31 1 == 0 && field d 34 2 == 0 && field d 55 1 == 0 && field d 56 8 == 0

/-- Statuses of R192. Of several that hold GEN_MISMATCH comes first, then BAD_STATE, BAD_ARG and NO_SPACE (DESIGN CHOICE, log entry
13). -/
def scuDone : Nat := 0
def scuGenMismatch : Nat := 1
def scuNoSpace : Nat := 2
def scuBadState : Nat := 3
def scuBadArg : Nat := 4

/-- What a command comes to: a status, the count accepted and the state; or a wait under R189. -/
inductive ScuResult where
  | answer (status accepted : Nat) (s : State)
  | wait
  deriving DecidableEq, Repr

/-- Apply an edit, or wait for a free window or ring room (R188, R189). -/
def applyEdit (s : State) (ctx : Nat) (items : List (Nat × Nat × Nat)) (accepted : Nat) (after : State) : ScuResult :=
  if editFits s (ownerOf ctx) items.length then
    .answer scuDone accepted (quarantine after (ownerOf ctx) items)
  else .wait

/-- OPEN (R169, Table ATT-11). -/
def scuOpen (s : State) (k : ScuCmd) (x : Ctx) : ScuResult :=
  if x.state ≠ 0 then .answer scuBadState 0 s
  else if (k.mode = 1 ∨ k.mode = 3) ∧ k.maskParam = 0 then .answer scuBadArg 0 s
  else
    match poolTake s (sliceReader k.ctx) (tablePool s) 1 with
    | none => .answer scuNoSpace 0 s
    | some (as, s) =>
      let root := nthD 0 as 0
      let s := writeBytes s (sliceAgent k.ctx) root (List.replicate 4096 0) false
      .answer scuDone 0 (putCtx s k.ctx 0
        ([1, BitVec.ofNat 8 k.mode, BitVec.ofNat 8 k.layout, if k.ts = 0 then 0 else 1] ++ leBytes 4 x.gen ++
          leBytes 4 0 ++ leBytes 4 0 ++ leBytes 8 root ++ leBytes 8 k.rng ++ leBytes 4 k.maskParam ++ leBytes 4 0 ++
          leBytes 8 k.ts))

/-- Every group and table page of a context, the root last. -/
def allItems (s : State) (ctx : Nat) (x : Ctx) : List (Nat × Nat × Nat) :=
  let tp := tablePool s
  unmapItems s ctx x 0 ++ ((List.range 128).filterMap fun i => (leafPage s (sliceReader ctx) x.root i).map fun p => (tp, p, 4096)) ++
    [(tp, x.root, 4096)]

/-- CLOSE: every group and table page is unmapped (R169). -/
def scuClose (s : State) (k : ScuCmd) (x : Ctx) : ScuResult :=
  if x.state ≠ 1 ∧ x.state ≠ 2 then .answer scuBadState 0 s
  else
    let gen := if (unmapItems s k.ctx x 0).isEmpty then x.gen else nextGen x.gen
    applyEdit s k.ctx (allItems s k.ctx x) 0
      (putMap (putCtx s k.ctx 0 [0]) k.ctx 0 0 gen)

/-- Map the groups of `as` from group g on, in place, with new leaf pages from `leaves` where none exists. -/
def mapGroups (ctx root pool : Nat) : List Nat → Nat → List Nat → State → State
  | [], _, _, s => s
  | a :: as, g, leaves, s =>
    match leafPage s (sliceReader ctx) root (g / 512) with
    | some p =>
      mapGroups ctx root pool as (g + 1) leaves
        (writeBytes s (sliceAgent ctx) (p + 8 * (g % 512)) (leafBytes pool a) false)
    | none =>
      let p := leaves.headD 0
      let s := writeBytes s (sliceAgent ctx) p (List.replicate 4096 0) false
      let s := writeBytes s (sliceAgent ctx) (root + 8 * (g / 512)) (rootBytes p) false
      mapGroups ctx root pool as (g + 1) (leaves.drop 1)
        (writeBytes s (sliceAgent ctx) (p + 8 * (g % 512)) (leafBytes pool a) false)

/-- Leaf table pages that n groups more need. -/
def leavesNeeded (s : State) (ctx : Nat) (x : Ctx) (n : Nat) : Nat :=
  ((List.range 128).filter fun i =>
    decide (n ≠ 0 ∧ x.groups / 512 ≤ i ∧ i ≤ (x.groups + n - 1) / 512) && (leafPage s (sliceReader ctx) x.root i).isNone).length

/-- APPEND: n groups from a pool, all or none (R187, R193). -/
def scuAppend (s : State) (k : ScuCmd) (x : Ctx) : ScuResult :=
  if x.state ≠ 1 then .answer scuBadState 0 s
  else if x.groups + k.arg0 > 65536 then .answer scuNoSpace 0 s
  else
    match poolTake s (sliceReader k.ctx) k.pool k.arg0 with
    | none => .answer scuNoSpace 0 s
    | some (as, s1) =>
      match poolTake s1 (sliceReader k.ctx) (tablePool s1) (leavesNeeded s k.ctx x k.arg0) with
      | none => .answer scuNoSpace 0 s
      | some (ls, s2) =>
        applyEdit s k.ctx [] 0
          (putMap (mapGroups k.ctx x.root k.pool as x.groups ls s2) k.ctx x.root (x.groups + k.arg0) (nextGen x.gen))

/-- Set LENGTH and unmap the groups beyond it; `always` advances the generation and closes the window even
where no group is unmapped. -/
def trimTo (s : State) (k : ScuCmd) (x : Ctx) (len accepted : Nat) (always : Bool) : ScuResult :=
  match unmapFrom s k.ctx x (ceilDiv len 64) with
  | none => .answer scuNoSpace 0 s
  | some (items, root, s1) =>
    let s1 := putCtx s1 k.ctx 8 (leBytes 4 len)
    if items.isEmpty && !always then .answer scuDone accepted s1
    else
      applyEdit s k.ctx items accepted
        (putMap s1 k.ctx root (min x.groups (ceilDiv len 64)) (nextGen x.gen))

/-- TRUNCATE (R185, Table ATT-11). -/
def scuTruncate (s : State) (k : ScuCmd) (x : Ctx) : ScuResult :=
  if x.state ≠ 1 then .answer scuBadState 0 s
  else if k.arg0 > x.length then .answer scuBadArg 0 s
  else trimTo s k x k.arg0 0 true

/-- Consecutive ones of a mask from bit 0, up to eight (R184). -/
def leadingOnes (m : Nat) : Nat := ((List.range 8).takeWhile fun i => bitAt m i).length

/-- Positions that ADVANCE adds (R184). -/
def advanceBy (k : ScuCmd) : Nat := if k.mask then leadingOnes k.arg0 else k.arg0

/-- ADVANCE (R184, R185). -/
def scuAdvance (s : State) (k : ScuCmd) (x : Ctx) : ScuResult :=
  let n := advanceBy k
  if x.state ≠ 1 then .answer scuBadState 0 s
  else if x.length + n > x.groups * 64 then .answer scuBadArg 0 s
  else if k.release then trimTo s k x (x.length + n) n false
  else .answer scuDone n (putCtx s k.ctx 8 (leBytes 4 (x.length + n)))

/-- SET: the mask (R169). -/
def scuSet (s : State) (k : ScuCmd) (x : Ctx) : ScuResult :=
  if x.state ≠ 1 ∧ x.state ≠ 2 then .answer scuBadState 0 s
  else if (k.mode = 1 ∨ k.mode = 3) ∧ k.maskParam = 0 then .answer scuBadArg 0 s
  else .answer scuDone 0 (putCtx (putCtx s k.ctx 1 [BitVec.ofNat 8 k.mode]) k.ctx 32 (leBytes 4 k.maskParam))

/-- PARK and RESUME without MOVE (R191). -/
def scuSwitch (s : State) (k : ScuCmd) (x : Ctx) (park : Bool) : ScuResult :=
  if x.state ≠ (if park then 1 else 2) then .answer scuBadState 0 s
  else .answer scuDone 0 (putCtx s k.ctx 0 [if park then 2 else 1])

/-- Write a command's result word, poisoned where what it read was (R255), and finish it (R192); a word for a port whose link is down
waits for it, and the pulse with it (R363). At an unmapped or retired RESULT_ADDR the word is dropped and the command finishes; one that
is not 8-byte aligned is written where it lies (DESIGN CHOICE, log entry 111). -/
def scuAnswer (s : State) (c : CoreId) (k : ScuCmd) (status accepted : Nat) (bad : Bool) : State :=
  let g := (parseCtx (ctxRecord s k.ctx)).gen
  let w := leBytes 8 (status + accepted % 2 ^ 24 * 2 ^ 8 + g * 2 ^ 32)
  if !rangeAccessible s (.tile c.tile false) k.result 8 then markDone s c 3
  else if hostDown s k.result then waitLink s (hostPort k.result) (.result c k.result w)
  else markDone (writeBytes s (.tile c.tile false) k.result w bad) c 3

/-- A command of the core has taken effect and its result word waits for a link (R363). -/
def resultWaits (s : State) (c : CoreId) : Bool :=
  s.pins.waits.any fun w => match w.what with
    | .result d _ _ => d == c
    | _ => false

/-- The edit of a core waits in its slice (R189). -/
def stallSlice (s : State) (t : TileId) (who : Option Nat) : State := putSlice s t { s.slice t with stalled := who }

/-- The blocks of ranges that a slice writes, or has written, over poisoned reads are stored poisoned (R255, R256). -/
def sliceTaint (s : State) (ctx : Nat) (bad : Bool) (rs : List (Nat × Nat)) : State :=
  if bad then
    ((rs.flatMap fun r => blocksOf r.1 r.2).filter fun a => spaceOf a != .host).foldl
      (fun s a => writeBlock s (sliceAgent ctx) (keyOf s a / 512) [] true) s
  else s

/-- Start the move of a PARK or RESUME with MOVE: MOVING, with every group taken (R191). -/
def startMove (s : State) (c : CoreId) (k : ScuCmd) (x : Ctx) (park bad : Bool) : State :=
  if x.state ≠ (if park then 1 else 2) then scuAnswer s c k scuBadState 0 bad
  else if k.arg0 > 15 then scuAnswer s c k scuBadArg 0 bad
  else
    match poolTake s (sliceReader k.ctx) k.arg0 x.groups with
    | none => scuAnswer s c k scuNoSpace 0 bad
    | some (as, s) =>
      let s := sliceTaint (putCtx s k.ctx 0 [3]) k.ctx bad [(ctxAddr s k.ctx, 64)]
      { s with moves := s.moves ++ [⟨k.ctx, coreNumber c, park, k.arg0, as⟩] }

/-- A move of this core's command is under way. -/
def moving (s : State) (c : CoreId) : Bool := s.moves.any fun m => m.core == coreNumber c

/-! ### Reading records and tables (R196, R250) -/

/-- Ranges of the root entries [i, j) of a table. -/
def rootRange (root i j : Nat) : List (Nat × Nat) := if i < j then [(root + 8 * i, 8 * (j - i))] else []

/-- Ranges of the leaf entries of the groups [lo, hi), where their pages exist. -/
def leafRanges (s : State) (ag : Agent) (root lo hi : Nat) : List (Nat × Nat) :=
  (List.range 128).flatMap fun i =>
    let a := max lo (512 * i)
    let b := min hi (512 * i + 512)
    if a < b then ((leafPage s ag root i).map fun p => (p + 8 * (a - 512 * i), 8 * (b - a))).toList else []

/-- Ranges of the ring positions that a take of n groups reads. -/
def poolRanges (s : State) (p n : Nat) : List (Nat × Nat) :=
  let size := 2 ^ fget s (SCU_POOL_CTL p) f_SCU_POOL_CTL_LOG2_ENTRIES
  let h := (mapGet (0, 0) s.pools p).1 % size
  let first := min n (size - h)
  if !poolOn s p || decide (fget s (SCU_POOL_FREE p) f_SCU_POOL_FREE_FREE < n) then []
  else [(poolSlot s p h, 8 * first), (poolSlot s p 0, 8 * (n - first))]

/-- A slice can reach ranges (R196). -/
def sliceReaches (s : State) (ctx : Nat) (rs : List (Nat × Nat)) : Bool :=
  rs.all fun r => rangeAccessible s (sliceReader ctx) r.1 r.2

/-- A slice verifies ranges it reads for its own control (R250): the poisoned blocks, one more where a parity error stands in the
slice's data path (R254). -/
def sliceRead (s : State) (ctx : Nat) (rs : List (Nat × Nat)) : List (Nat × Nat) × State :=
  let v := verifyAll s (sliceReader ctx) ((rs.flatMap fun r => blocksOf r.1 r.2).eraseDups)
  let k := ErrKind.slicePath (ownerOf ctx).val
  match faulty v.2 k, rs with
  | true, r :: _ => (v.1 ++ [(r.1 / 512 * 512, 3)], clearErr v.2 k)
  | _, _ => v

/-- A slice reads ranges for a core of a tile: false where one meets an address fault (R196). The tile records the poisoned blocks
(R256). -/
def sliceVerify (s : State) (t : TileId) (core ctx : Nat) (rs : List (Nat × Nat)) : Bool × State :=
  if sliceReaches s ctx rs then
    let v := sliceRead s ctx rs
    (true, integrityAll v.2 t 16 core v.1)
  else (false, s)

/-- What a slice reads there is poisoned. -/
def sliceBad (s : State) (ctx : Nat) (rs : List (Nat × Nat)) : Bool := sliceReaches s ctx rs && !(sliceRead s ctx rs).1.isEmpty

/-- A slice's reads wait at a device that holds requests (R216, R218). -/
def sliceHeld (s : State) (rs : List (Nat × Nat)) : Bool := anyHeld s && rs.any fun r => blocksHeld s (blocksOf r.1 r.2)

/-- What a command or a walk reads beside the record: root entries, leaf entries, the layout, and groups taken from pools. -/
structure TableReads where
  root : Nat × Nat := (0, 0)
  leaf : Nat × Nat := (0, 0)
  layout : Bool := false
  pools : List (Nat × Nat) := []
  deriving DecidableEq, Repr

/-- The first ranges of them: the root and the layout. -/
def TableReads.first (s : State) (x : Ctx) (r : TableReads) : List (Nat × Nat) :=
  rootRange x.root r.root.1 r.root.2 ++ if r.layout then [(layoutAddr s x.layout, 64)] else []

/-- The ranges read after those: the leaves that the root names, and the pools' positions. -/
def TableReads.rest (s : State) (ctx : Nat) (x : Ctx) (r : TableReads) : List (Nat × Nat) :=
  leafRanges s (sliceReader ctx) x.root r.leaf.1 r.leaf.2 ++ r.pools.flatMap fun p => poolRanges s p.1 p.2

/-- Verify them, the root and the layout first. -/
def readTables (s : State) (t : TileId) (core ctx : Nat) (x : Ctx) (r : TableReads) : Bool × State :=
  let a := sliceVerify s t core ctx (r.first s x)
  if a.1 then sliceVerify a.2 t core ctx (r.rest a.2 ctx x) else a

/-- Some of them is poisoned. -/
def tablesBad (s : State) (t : TileId) (core ctx : Nat) (x : Ctx) (r : TableReads) : Bool :=
  let a := sliceVerify s t core ctx (r.first s x)
  sliceBad s ctx (r.first s x) || a.1 && sliceBad a.2 ctx (r.rest a.2 ctx x)

/-- The requests of a slice to ranges wait: at a device that holds them, or for a link of the mesh (R308). -/
def rangesWait (s : State) (ctx : Nat) (rs : List (Nat × Nat)) : Bool :=
  sliceHeld s rs || tileWaits s (ownerOf ctx) (rs.flatMap fun r => blocksOf r.1 r.2)

/-- The reads of a context's record and tables wait. -/
def tablesHeld (s : State) (ctx : Nat) (x : Ctx) (r : TableReads) : Bool :=
  (anyHeld s || !s.links.retraining.isEmpty) && rangesWait s ctx ((ctxAddr s ctx, 64) :: r.first s x ++ r.rest s ctx x)

/-- What cutting a context to a length reads. -/
def trimReads (s : State) (x : Ctx) (len : Nat) : TableReads :=
  let keep := ceilDiv len 64
  if keep < x.groups then
    { root := (0, 128), leaf := (keep / 512 * 512, x.groups), layout := true
      pools := [(tablePool s, if keep % 512 = 0 then 1 else 2)] }
  else {}

/-- What a command reads of its context's tables and of the pools. -/
def scuReads (s : State) (opcode : Nat) (k : ScuCmd) (x : Ctx) : TableReads :=
  match opcode with
  | 1 => if x.state = 0 then { pools := [(tablePool s, 1)] } else {}
  | 2 =>
    if x.state = 1 ∨ x.state = 2 then { root := (0, 128), leaf := (0, x.groups), layout := decide (x.groups ≠ 0) } else {}
  | 3 =>
    if x.state = 1 ∧ k.arg0 ≠ 0 ∧ x.groups + k.arg0 ≤ 65536 then
      { root := (x.groups / 512, ceilDiv (x.groups + k.arg0) 512), pools := [(k.pool, k.arg0)] }
    else {}
  | 4 => if x.state = 1 ∧ k.arg0 ≤ x.length then trimReads s x k.arg0 else {}
  | 5 => if x.state = 1 ∧ k.release then trimReads s x (x.length + advanceBy k) else {}
  | 6 | 7 => if k.move ∧ k.arg0 ≤ 15 then { pools := [(k.arg0, x.groups)] } else {}
  | _ => {}

/-- The pages that a take gives. -/
def pagesOf (r : Option (List Nat × State)) : List (Nat × Nat) := (r.elim [] (·.1)).map fun a => (a, 4096)

/-- What a command that takes effect writes beside the record and the result word: new table pages and entries in place. -/
def scuWrites (s : State) (opcode : Nat) (k : ScuCmd) (x : Ctx) : List (Nat × Nat) :=
  let ag := sliceReader k.ctx
  let tp := tablePool s
  let trim := fun len =>
    let keep := ceilDiv len 64
    if (unmapItems s k.ctx x keep).isEmpty then [] else pagesOf (poolTake s ag tp (if keep % 512 = 0 then 1 else 2))
  if scuReads s opcode k x = {} then []
  else
    match opcode with
    | 1 => pagesOf (poolTake s ag tp 1)
    | 3 =>
      match poolTake s ag k.pool k.arg0 with
      | none => []
      | some (_, u) =>
        leafRanges s ag x.root x.groups (x.groups + k.arg0) ++ pagesOf (poolTake u ag (tablePool u) (leavesNeeded s k.ctx x k.arg0))
    | 4 => trim k.arg0
    | 5 => trim (x.length + advanceBy k)
    | _ => []

/-- Retire the walkers of a core's attention descriptor from every slice. -/
def retireWalkers (s : State) (c : CoreId) : State :=
  (List.finRange 48).foldl (fun s t =>
    if (s.slice t).walkers.any fun w => w.core == coreNumber c then
      putSlice s t { s.slice t with walkers := (s.slice t).walkers.filter fun w => w.core != coreNumber c }
    else s) s

/-- The descriptor at the head of a queue is discarded (R25). -/
def dropHead (s : State) (c : CoreId) (queue : Nat) : State :=
  let q := s.seq c
  s.setSeq c { q with queues := setNth q.queues queue ((nthD [] q.queues queue).drop 1) }

/-- An SCU fault: the record, the stopped tile, and the walkers' end (R174, R175). The descriptor is discarded
(log entry 14). -/
def scuFault (s : State) (c : CoreId) (cause entry ctx gen : Nat) : State :=
  scuStop (dropHead (retireWalkers s c) c 3) c.tile c.core.val cause entry ctx gen

/-- The tile DMA channel, 16 to 23, that carries what a slice moves for an entry of a core (R175, log entry 84). -/
def sliceChannel (c : CoreId) (entry : Nat) : Engine :=
  .tile c.tile ⟨16 + (Config.streamChannel (coreNumber c) entry).val, by omega⟩

/-- A record, table page, layout record or pool position that a slice reads or writes for a core meets an address fault: the channel
that carries the access aborts with CAUSE 2 and the core's tile takes SCU fault 7, as R175 states for a stream (DESIGN CHOICE, log
entry 84). -/
def tableFault (s : State) (c : CoreId) (entry ctx gen : Nat) : State :=
  let a := ((nthD [] (s.seq c).queues 3).head?.map (·.addr)).getD 0
  scuFault (abortChannel s (sliceChannel c entry) 2 0 a) c 7 entry ctx gen

/-- Run the command at the head of a core's queue 3 (R169, R190, R192). The slice takes no command while an
edit of another core waits (R189). -/
def runScu (s : State) (c : CoreId) (opcode : Nat) : State :=
  match headOf s c 3 8 opcode with
  | none => queueParity s c 3
  | some e =>
    let k := parseScu e.desc
    let t := ownerOf k.ctx
    if moving s c || resultWaits s c || ((s.slice t).stalled.isSome && (s.slice t).stalled != some (coreNumber c)) then s
    else
      let y := parseCtx (ctxRecord s k.ctx)
      if tablesHeld s k.ctx y (scuReads s opcode k y) || rangesWait s k.ctx (scuWrites s opcode k y) then s
      else
      let bad := sliceBad s k.ctx [(ctxAddr s k.ctx, 64)]
      let v := sliceVerify s c.tile c.core.val k.ctx [(ctxAddr s k.ctx, 64)]
      let x := parseCtx (ctxRecord v.2 k.ctx)
      let r := readTables v.2 c.tile c.core.val k.ctx x (scuReads v.2 opcode k x)
      if !v.1 then tableFault s c 0 k.ctx x.gen
      else if k.checkGen && k.expect != x.gen then scuAnswer v.2 c k scuGenMismatch 0 bad
      else if !r.1 then tableFault v.2 c 0 k.ctx x.gen
      else if !sliceReaches r.2 k.ctx (scuWrites r.2 opcode k x) then tableFault r.2 c 0 k.ctx x.gen
      else
      let bad := bad || tablesBad v.2 c.tile c.core.val k.ctx x (scuReads v.2 opcode k x)
      if (opcode = 6 ∨ opcode = 7) ∧ k.move then startMove r.2 c k x (opcode == 6) bad
      else
        let s := r.2
        let ws := (ctxAddr s k.ctx, 64) :: scuWrites s opcode k x
        let r := match opcode with
          | 1 => scuOpen s k x
          | 2 => scuClose s k x
          | 3 => scuAppend s k x
          | 4 => scuTruncate s k x
          | 5 => scuAdvance s k x
          | 6 => scuSwitch s k x true
          | 7 => scuSwitch s k x false
          | _ => scuSet s k x
        match r with
        | .wait => stallSlice s t (some (coreNumber c))
        | .answer status acc s =>
          scuAnswer (sliceTaint (stallSlice s t none) k.ctx (bad && status == scuDone) ws) c k status acc bad

/-- OPEN -/
def execScuOpen (c : CoreId) (s : State) : Host.Outcome State Fault Refusal := .next (runScu s c 1)
/-- CLOSE -/
def execScuClose (c : CoreId) (s : State) : Host.Outcome State Fault Refusal := .next (runScu s c 2)
/-- APPEND -/
def execScuAppend (c : CoreId) (s : State) : Host.Outcome State Fault Refusal := .next (runScu s c 3)
/-- TRUNCATE -/
def execScuTruncate (c : CoreId) (s : State) : Host.Outcome State Fault Refusal := .next (runScu s c 4)
/-- ADVANCE -/
def execScuAdvance (c : CoreId) (s : State) : Host.Outcome State Fault Refusal := .next (runScu s c 5)
/-- PARK -/
def execScuPark (c : CoreId) (s : State) : Host.Outcome State Fault Refusal := .next (runScu s c 6)
/-- RESUME -/
def execScuResume (c : CoreId) (s : State) : Host.Outcome State Fault Refusal := .next (runScu s c 7)
/-- SET -/
def execScuSet (c : CoreId) (s : State) : Host.Outcome State Fault Refusal := .next (runScu s c 8)

/-! ### Moves (R191) -/

/-- The core of a global number. -/
def coreOf (n : Nat) : CoreId := ⟨⟨n / 16 % 48, Nat.mod_lt _ (by decide)⟩, ⟨n % 16, Nat.mod_lt _ (by decide)⟩⟩

/-- Copy the groups of a move, poison by block. -/
def copyGroups (s : State) (ctx : Nat) (x : Ctx) (as : List Nat) (size : Nat) : State :=
  as.zipIdx.foldl (fun s a =>
    match leafEntry s (sliceReader ctx) x.root a.2 with
    | some e => copyBytes s (groupOf e).2 a.1 size
    | none => s) s

/-- End a move's command with a status; the context takes the state given. A core number from 768 on marks a move whose command
a resume load has dropped. -/
def endMove (s : State) (m : Move) (state status : Nat) (bad : Bool) : State :=
  let s := { s with moves := s.moves.filter fun n => n.ctx != m.ctx }
  let s := putCtx s m.ctx 0 [BitVec.ofNat 8 state]
  let c := coreOf m.core
  match if m.core < 768 then headOf s c 3 8 (if m.park then 6 else 7) else none with
  | some e => scuAnswer s c (parseScu e.desc) status 0 bad
  | none => s

/-- The move gives its groups back to their pool, and the context takes its former state (R191). -/
def undoMove (s : State) (m : Move) (status : Nat) (bad : Bool) : State :=
  endMove (m.groups.foldl (fun s a => poolGive s (ownerOf m.ctx) m.pool a) s) m (if m.park then 1 else 2) status bad

/-- A record, table or page group of a move meets an address fault: the move is undone and its command takes the fault of
`tableFault` (DESIGN CHOICE, log entry 84). -/
def moveFaults (s : State) (m : Move) : State :=
  let g := (parseCtx (ctxRecord s m.ctx)).gen
  let s := undoMove s { m with core := 768 } scuNoSpace false
  if m.core < 768 then tableFault s (coreOf m.core) 0 m.ctx g else s

/-- The page groups of a move, old and new, can all be reached. -/
def groupsReachable (s : State) (m : Move) (x : Ctx) (size : Nat) : Bool :=
  m.groups.zipIdx.all fun a => rangeAccessible s .other a.1 size &&
    (match leafEntry s (sliceReader m.ctx) x.root a.2 with
     | some e => rangeAccessible s .other (groupOf e).2 size
     | none => true)

/-- The copy of a move, whose tables have been read, ends and the move is applied as one edit (R187, R191). `bad` says that some of what
was read is poisoned, so that what is written is too (R255). -/
def applyMove (s : State) (m : Move) (bad : Bool) : State :=
  let x := parseCtx (ctxRecord s m.ctx)
  let t := ownerOf m.ctx
  let size := (layoutOf s (sliceReader m.ctx) x.layout).slices * 2 ^ 15
  let tp := tablePool s
  let leaves := ceilDiv x.groups 512
  if !groupsReachable s m x size then moveFaults s m
  else
  match poolTake s (sliceReader m.ctx) tp (leaves + 1) with
  | none => undoMove s m scuNoSpace bad
  | some (as, s1) =>
    let root := nthD 0 as 0
    let items := allItems s m.ctx x
    let pages := as.map fun a => (a, 4096)
    if !editFits s t items.length then stallSlice s t (some (768 + m.ctx))
    else if !sliceReaches s m.ctx pages then moveFaults s m
    else
      let s := copyGroups s1 m.ctx x m.groups size
      let s := writeBytes s (sliceAgent m.ctx) root (List.replicate 4096 0) false
      let s := mapGroups m.ctx root m.pool m.groups 0 (as.drop 1) s
      let s := putMap s m.ctx root x.groups (nextGen x.gen)
      let deep := match m.groups with
        | [] => bitAt x.flags 1
        | a :: _ => spaceOf a == .deep
      let s := putCtx s m.ctx 3 [BitVec.ofNat 8 (putBits x.flags 1 1 (boolNat deep))]
      let s := sliceTaint s m.ctx bad ((ctxAddr s m.ctx, 64) :: pages ++ m.groups.map fun a => (a, size))
      endMove (quarantine (stallSlice s t none) t items) m (if m.park then 2 else 1) scuDone bad

/-- What the end of a move's copy reads beside the record. -/
def moveReads (s : State) (x : Ctx) : TableReads :=
  { root := (0, 128), leaf := (0, x.groups), layout := true, pools := [(tablePool s, ceilDiv x.groups 512 + 1)] }

/-- The tile and the core whose command a move serves; of a command that a resume load has dropped, the owner's. -/
def Move.reader (m : Move) : TileId × Nat := if m.core < 768 then ((coreOf m.core).tile, (coreOf m.core).core.val) else (ownerOf m.ctx, 0)

/-- The end of a move's copy reads the record, the tables and the pool positions: false where one meets an address fault. -/
def readMove (s : State) (m : Move) : Bool × State :=
  let v := sliceVerify s m.reader.1 m.reader.2 m.ctx [(ctxAddr s m.ctx, 64)]
  let x := parseCtx (ctxRecord v.2 m.ctx)
  let r := readTables v.2 m.reader.1 m.reader.2 m.ctx x (moveReads s x)
  (v.1 && r.1, r.2)

/-- Some of what the end of a move's copy reads is poisoned. -/
def moveBad (s : State) (m : Move) : Bool :=
  let v := sliceVerify s m.reader.1 m.reader.2 m.ctx [(ctxAddr s m.ctx, 64)]
  let x := parseCtx (ctxRecord v.2 m.ctx)
  sliceBad s m.ctx [(ctxAddr s m.ctx, 64)] || tablesBad v.2 m.reader.1 m.reader.2 m.ctx x (moveReads s x)

/-- The requests of a move's end wait: for the record and the tables, or for the page groups, old and new. -/
def moveWaits (s : State) (m : Move) : Bool :=
  let x := parseCtx (ctxRecord s m.ctx)
  let size := (layoutOf s (sliceReader m.ctx) x.layout).slices * 2 ^ 15
  (anyHeld s || !s.links.retraining.isEmpty) &&
    (tablesHeld s m.ctx x (moveReads s x) ||
      rangesWait s m.ctx (((m.groups ++ (unmapItems s m.ctx x 0).map fun i => i.2.1).map fun a => (a, size)) ++
        pagesOf (poolTake s (sliceReader m.ctx) (tablePool s) (ceilDiv x.groups 512 + 1))))

/-- The copy of a move ends: the move is applied over what was read. -/
def completeMove (s : State) (m : Move) : State :=
  let r := readMove s m
  if moveWaits s m then s else if r.1 then applyMove r.2 m (moveBad s m) else moveFaults s m

/-- PAGE_MOVE_COMPLETE: the base-die copy of a move ends (R191). -/
def execPageMoveComplete (ctx : BitVec 20) (s : State) : Host.Outcome State Fault Refusal :=
  match s.moves.find? fun m => m.ctx == ctx.toNat with
  | none => .next s
  | some m =>
    if (s.slice (ownerOf m.ctx)).stalled.isSome then .next s else .next (completeMove s m)

/-- STALLED_EDIT_APPLY: an edit that waited applies once a window and ring room are free (R189). -/
def execStalledEditApply (t : TileId) (s : State) : Host.Outcome State Fault Refusal :=
  match (s.slice t).stalled with
  | none => .next s
  | some n =>
    if n ≥ 768 then
      match s.moves.find? fun m => 768 + m.ctx == n with
      | none => .next s
      | some m => .next (completeMove s m)
    else
      let c := coreOf n
      match nthD [] (s.seq c).queues 3 with
      | [] => .next s
      | e :: _ => .next (runScu s c (field e.desc 0 1))

/-- The closed windows of a slice, oldest first. -/
def closedWindows (x : Slice) : List Nat := (List.range 7).map fun i => (x.current + 1 + i) % 8

/-- QUARANTINE_RELEASE: the oldest window is released once no walker remains in it or an older one, and its
items return to their pools (R188, R202). -/
def execQuarantineRelease (t : TileId) (s : State) : Host.Outcome State Fault Refusal :=
  let x := s.slice t
  let older := (closedWindows x).takeWhile fun w => (nthD [] x.windows w).isEmpty
  match (closedWindows x).find? fun w => !(nthD [] x.windows w).isEmpty with
  | none => .next s
  | some w =>
    if x.walkers.any (fun k => k.window == w || older.contains k.window) ||
        sliceHeld s ((nthD [] x.windows w).map fun i => (poolSlot s i.1 (mapGet (0, 0) s.pools i.1).2, 8)) then .next s
    else
      let s := putSlice s t { x with windows := setNth x.windows w [] }
      .next ((nthD [] x.windows w).foldl (fun s i => poolGive s t i.1 i.2) s)

end Sys2Proof.Machine
end

