-- ==== Sys2Proof/Machine/Attention.lean ====
section
/-! DEFINITION. Walkers and the attention descriptor (R173 to R183, R186). -/

namespace Sys2Proof.Machine

/-! ### The descriptor (Table ATT-9) -/

structure AttDesc where
  strict : Bool
  writeKv : Bool
  partial_ : Bool
  outSpace : Bool
  mask : Nat
  qFmt : Nat
  outFmt : Nat
  hq : Nat
  splitIndex : Nat
  splitCount : Nat
  dimLog2 : Nat
  slice : Nat
  tensor : Nat
  entries : Nat
  ltAddr : Nat
  qAddr : Nat
  kvNew : Nat
  outAddr : Nat
  outLd : Nat
  keyLo : Nat
  keyHi : Nat
  scaleLog2 : Val
  qScale : Nat
  rows : Nat
  outScale : Nat
  deriving DecidableEq, Repr

def parseAtt (d : List Byte) : AttDesc :=
  let f := field d 1 1
  let m := field d 2 1
  { strict := bitAt f 0, writeKv := bitAt f 1, partial_ := bitAt f 2, outSpace := bitAt f 3, mask := bitsAt f 4 4
    qFmt := bitsAt m 0 4, outFmt := bitsAt m 4 4, hq := field d 3 1, splitIndex := field d 5 1
    splitCount := field d 6 1, dimLog2 := field d 7 1, slice := field d 8 2, tensor := field d 10 2
    entries := field d 12 4, ltAddr := field d 16 4, qAddr := field d 20 4, kvNew := field d 24 4
    outAddr := field d 28 4, outLd := field d 32 4, keyLo := field d 36 4, keyHi := field d 40 4
    scaleLog2 := f32 (field d 44 4), qScale := field d 48 4, rows := field d 52 4, outScale := field d 56 4 }

def AttDesc.dim (x : AttDesc) : Nat := 2 ^ x.dimLog2

/-- Query heads of a position: HQ per KV head of the slice (R170, R173). -/
def AttDesc.heads (x : AttDesc) : Nat := x.hq * ((if x.qFmt = 8 then 128 else 256) / x.dim)

/-- Bytes of one output row or partial record (R180). -/
def AttDesc.rowLen (x : AttDesc) : Nat := if x.partial_ then 64 + 4 * x.dim else rowBytes x.outFmt x.dim

/-- No condition of R183 holds (log entry 12 for the ranges of HQ, SPLIT_COUNT and SPLIT_INDEX). -/
def attentionOk (s : State) (c : CoreId) (d : List Byte) : Bool :=
  let x := parseAtt d
  let n := x.rows * x.heads
  decide (6 ≤ x.dimLog2 ∧ x.dimLog2 ≤ 8) && field d 60 4 == 0 &&
  decide (1 ≤ x.hq ∧ x.hq ≤ 64 ∧ x.splitIndex < x.splitCount) &&
  fmtOk x.qFmt && x.qFmt != 9 && x.qFmt != 10 && (x.partial_ || fmtOk x.outFmt) &&
  (x.partial_ || x.splitCount == 1) && tensorOk s x.tensor &&
  x.keyLo % 64 == 0 && (x.keyHi == 0xFFFFFFFF || x.keyHi % 64 == 0) && x.outLd % 64 == 0 &&
  (!x.partial_ || decide (x.outLd ≥ x.rowLen)) &&
  [⟨false, x.ltAddr, 16 * x.entries⟩, ⟨false, x.qAddr, n * rowBytes x.qFmt x.dim⟩,
    ⟨false, x.qScale, scaleBytes x.qFmt n x.dim⟩, ⟨false, x.kvNew, if x.writeKv then 512 * x.rows else 0⟩,
    ⟨x.outSpace, x.outAddr, rowsBytes n x.outLd x.rowLen⟩,
    ⟨x.outSpace, x.outScale, if x.partial_ then 0 else scaleBytes x.outFmt n x.dim⟩].all fun (r : Range) => r.fits s c

/-! ### Length tables (Table ATT-5) -/

structure LtEntry where
  ctx : Nat
  start : Nat
  count : Nat
  candidate : Bool
  deriving DecidableEq, Repr

/-- Entry i of a descriptor's length table. Of a COUNT word that exceeds 65,535 the low 16 bits count, and reserved bits of the CONTEXT and
FLAGS words are ignored (DESIGN CHOICE, log entry 107). -/
def ltEntry (s : State) (c : CoreId) (x : AttDesc) (i : Nat) : LtEntry :=
  let b := readBytes s (.tile c.tile false) (storeBase c + x.ltAddr + 16 * i) 16
  { ctx := bitsAt (field b 0 4) 0 20, start := field b 4 4, count := bitsAt (field b 8 4) 0 16
    candidate := bitAt (field b 12 4) 0 }

/-- The entries, with their positions in the table and their first position rows (R173). One of COUNT 0 makes no work, but has a
walker like every other (R174). -/
def ltWork (s : State) (c : CoreId) (x : AttDesc) : List (Nat × Nat × LtEntry) :=
  ((List.range x.entries).foldl (fun (r : Nat × List (Nat × Nat × LtEntry)) i =>
    let e := ltEntry s c x i
    (r.1 + e.count, r.2 ++ [(i, r.1, e)])) (0, [])).2

/-- The sum of COUNT over the table. -/
def ltRows (s : State) (c : CoreId) (x : AttDesc) : Nat :=
  ((List.range x.entries).map fun i => (ltEntry s c x i).count).sum

/-- End of the keys of an entry in the descriptor's range (R176); an entry of no positions reads none. -/
def keyEnd (x : AttDesc) (e : LtEntry) : Nat := if e.count = 0 then 0 else min x.keyHi (e.start + e.count)

/-- Page groups that a walk over an entry needs. -/
def walkGroups (x : AttDesc) (e : LtEntry) : Nat × Nat := (ceilDiv x.keyLo 64, ceilDiv (keyEnd x e) 64)

/-! ### Walkers (R174, R186) -/

/-- The cause of Table ATT-7 that a walker meets at its entry, 0 for none; of several the lowest-numbered (DESIGN CHOICE, log
entry 107). -/
def walkerCause (s : State) (c : CoreId) (x : AttDesc) (e : LtEntry) (k : Ctx) : Nat :=
  let ag := sliceReader e.ctx
  let y := layoutOf s ag k.layout
  let g := walkGroups x e
  let need := (List.range g.2).filter fun i => decide (g.1 ≤ i)
  if k.state = 0 ∨ k.state = 2 then 1
  else if e.start + e.count > k.groups * 64 ∨ need.any (fun g => (leafEntry s ag k.root g).isNone) then 2
  else if if x.writeKv then e.start ≠ k.length else e.start + e.count > k.length then 3
  else if e.candidate ∧ e.count > 8 then 4
  else if ltRows s c x ≠ x.rows then 5
  else if x.slice ≥ y.slices ∨ x.dimLog2 ≠ y.dimLog2 ∨ !pairOk x.qFmt (if y.bf16 then 8 else 0) then 6
  else 0

/-- The attention descriptor at the head of a core's queue 3. -/
def attHead (s : State) (c : CoreId) : Option QEntry := headOf s c 3 8 0x10

/-- A walker of the core has started for an entry. -/
def walkerOf (s : State) (c : CoreId) (entry ctx : Nat) : Option Walker :=
  (s.slice (ownerOf ctx)).walkers.find? fun w => w.core == coreNumber c && w.entry == entry

/-- What a walker reads of its context's tables: nothing of a context that is free or parked, or whose groups end before its
positions (Table ATT-7, causes 1 and 2). -/
def walkReads (x : AttDesc) (e : LtEntry) (k : Ctx) : TableReads :=
  let g := walkGroups x e
  if k.state ≠ 1 ∨ e.start + e.count > k.groups * 64 then {}
  else { root := (g.1 / 512, ceilDiv g.2 512), leaf := g, layout := true }

/-- A walker starts on an entry: it captures the record, checks and registers in the current window (R174, R186); on a MOVING
context the walker waits (Table ATT-10). -/
def startWalker (s : State) (c : CoreId) (x : AttDesc) (i : Nat) : State :=
  let e := ltEntry s c x i
  if (walkerOf s c i e.ctx).isSome then s
  else
    let y := parseCtx (ctxRecord s e.ctx)
    if tablesHeld s e.ctx y (walkReads x e y) then s
    else
    let v := sliceVerify s c.tile c.core.val e.ctx [(ctxAddr s e.ctx, 64)]
    let rec_ := ctxRecord v.2 e.ctx
    let k := parseCtx rec_
    let r := readTables v.2 c.tile c.core.val e.ctx k (walkReads x e k)
    if !v.1 then tableFault s c i e.ctx k.gen
    else if k.state = 3 then v.2
    else if !r.1 then tableFault v.2 c i e.ctx k.gen
    else
      let s := r.2
      let cause := walkerCause s c x e k
      if cause ≠ 0 then scuFault s c cause i e.ctx k.gen
      else
        let y := s.slice (ownerOf e.ctx)
        putSlice s (ownerOf e.ctx) { y with walkers := y.walkers ++ [⟨coreNumber c, i, e.ctx, rec_, y.current⟩] }

/-- WALKER_START: a walker captures the context record, checks its entry and registers (R174, R186). -/
def execWalkerStart (c : CoreId) (entry : Nat) (s : State) : Host.Outcome State Fault Refusal :=
  match attHead s c with
  | none => .next (queueParity s c 3)
  | some e =>
    let x := parseAtt e.desc
    if entry < x.entries then .next (startWalker s c x entry) else .next s

/-! ### Keys and values (R171, R177) -/

/-- Address of the K (half 0) or V (half 1) row of a position. -/
def kvRow (s : State) (ctx : Nat) (k : Ctx) (pos slice half : Nat) : Nat :=
  let base := match leafEntry s (sliceReader ctx) k.root (pos / 64) with
    | some x => (groupOf x).2
    | none => 0
  base + slice * 32768 + half * 16384 + pos % 64 * 256

/-- What a walker gives its core: the entry, its first row, the record it captured and the layout. -/
structure Feed where
  entry : Nat
  row : Nat
  lt : LtEntry
  ctx : Ctx
  lay : Layout
  deriving DecidableEq, Repr

/-- The feeds of the entries; none while a walker of one has not started. -/
def feedsOf (s : State) (c : CoreId) (x : AttDesc) : Option (List Feed) :=
  (ltWork s c x).mapM fun w =>
    (walkerOf s c w.1 w.2.2.ctx).map fun k =>
      let r := parseCtx k.record
      { entry := w.1, row := w.2.1, lt := w.2.2, ctx := r, lay := layoutOf s (sliceReader w.2.2.ctx) r.layout : Feed }

/-- The new rows of an entry in the descriptor's key range, K then V: source and destination addresses (R177). -/
def kvWrites (s : State) (c : CoreId) (x : AttDesc) (f : Feed) : List (Nat × Nat) :=
  ((List.range f.lt.count).filter fun j => decide (x.keyLo ≤ f.lt.start + j ∧ f.lt.start + j < x.keyHi)).flatMap fun j =>
    [0, 1].map fun half =>
      (storeBase c + x.kvNew + 512 * (f.row + j) + 256 * half, kvRow s f.lt.ctx f.ctx (f.lt.start + j) x.slice half)

/-- An address fault meets a row of 256 bytes (R196). -/
def rowFaults (s : State) (c : CoreId) (a : Nat) : Bool := !rangeMapped s (.tile c.tile true) a 256 || rangeRetired s a 256

/-- Write one row: the enclosing block is read and verified and its envelope made anew, so that a block found poisoned is recorded
and stored as marked poison (R177, R251, R255, R256). `bad` are the poisoned blocks of the new rows. -/
def writeKvRow (s : State) (c : CoreId) (bad : List (Nat × Nat)) (w : Nat × Nat) : State :=
  let v := verifyRange s (.tile c.tile true) w.2 256
  let s := integrityAll v.2 c.tile 16 c.core.val v.1
  writeBytes s (.tile c.tile false) w.2 (readBytes s (.tile c.tile false) w.1 256) (touchesBad bad w.1 256 || !v.1.isEmpty)

/-- Write rows in order, up to the first that meets an address fault (R177, R238). -/
def writeKvRows (s : State) (c : CoreId) (x : AttDesc) (ws : List (Nat × Nat)) : State :=
  let v := verifyRange s (.tile c.tile false) (storeBase c + x.kvNew) (512 * x.rows)
  (ws.takeWhile fun w => !rowFaults v.2 c w.2).foldl (fun s w => writeKvRow s c v.1 w) v.2

/-- The new rows of every entry are written first (R177). -/
def writeNewRows (s : State) (c : CoreId) (x : AttDesc) (fs : List Feed) : State :=
  if x.writeKv then writeKvRows s c x (fs.flatMap (kvWrites s c x)) else s

/-- A query at position q sees key k (R176, Table ATT-6). -/
def visible (f : Feed) (q k : Nat) : Bool :=
  let p := f.ctx.maskParam
  decide (k < f.lt.start + f.lt.count) &&
  (match f.ctx.mode with
   | 0 => decide (k ≤ q)
   | 1 => decide (k / p ≤ q / p)
   | 2 => true
   | _ => decide (q < k + p ∧ k ≤ q)) &&
  (!f.lt.candidate || decide (k < f.lt.start) || decide (k ≤ q))

/-- The keys of a 64-key block of the split that a query sees. -/
def blockKeys (x : AttDesc) (f : Feed) (q b : Nat) : List Nat :=
  ((List.range 64).map fun i => 64 * b + i).filter fun k =>
    decide (x.keyLo ≤ k ∧ k < keyEnd x f.lt) && visible f q k

/-- The 64-key blocks of the split. -/
def keyBlocks (x : AttDesc) (f : Feed) : List Nat :=
  (List.range (ceilDiv (keyEnd x f.lt) 64)).filter fun b => decide (x.keyLo ≤ 64 * b)

/-- Element d of KV head `head` in a row, and the row's scale code (R170, R171). -/
def kvElem (s : State) (c : CoreId) (x : AttDesc) (f : Feed) (k half head d : Nat) : Val :=
  elemVal s (.tile c.tile true) (if f.lay.bf16 then 8 else 0) x.strict (kvRow s f.lt.ctx f.ctx k x.slice half)
    (head * x.dim + d)

def kvScale (s : State) (c : CoreId) (x : AttDesc) (f : Feed) (half : Nat) : Nat :=
  if f.lay.bf16 then 127 else (readByte s (.tile c.tile true) (f.lay.scaleAddr + 2 * x.slice + half)).toNat

/-- The logit of a query row and a key, times SCALE_LOG2 (R178). -/
def logit (s : State) (c : CoreId) (x : AttDesc) (f : Feed) (row head k : Nat) : Acc :=
  let ag : Agent := .tile c.tile false
  let q := storeBase c + x.qAddr + row * rowBytes x.qFmt x.dim
  let a := accumulate x.strict ⟨Val.zero, {}, none⟩ ((List.range (x.dim / 32)).map fun g =>
    (scaleCode s ag x.qFmt (storeBase c + x.qScale + row * (x.dim / 32) + g), kvScale s c x f 0,
      (List.range 32).map fun i =>
        (elemVal s ag x.qFmt x.strict q (32 * g + i), kvElem s c x f k 0 head (32 * g + i))))
  let t := mulF32 x.strict a.v x.scaleLog2
  { v := t.1, fl := a.fl.or t.2
    origin := if t.1.isNan then a.origin <|> some (if t.2.inv then 2 else 0) else none }

/-- The running state of a query row (R178), with the first cause of a NaN maximum. -/
structure Soft where
  m : Val
  cause : Option Nat
  l : Acc
  o : List Acc
  fl : Flags
  deriving DecidableEq, Repr

/-- The weights of a block of 32 keys: scale code and value per key, +0 for a key that takes no part (R178). -/
def weightGroup (f : Feed) (strict : Bool) (ps : List (Option Val)) : Nat × List Val × Flags :=
  if f.lay.bf16 then
    let cs := ps.map fun p => match p with
      | some v => convertFloat fmtBF16 strict v
      | none => ⟨0, {}, false, false⟩
    (127, cs.map fun c => readVal fmtBF16 strict c.code, cs.foldl (fun a c => a.or c.fl) {})
  else
    let b := quantise fmtE4M3 .block strict (ps.map fun p => p.getD Val.zero)
    (b.scale, b.codes.map fun c => decodeVal fmtE4M3 c, b.fl)

/-- An FP32 multiply-add of the running state: a × c + x, two roundings. -/
def softAdd (strict : Bool) (a : Acc) (c : Val) (x : Acc) : Acc :=
  let p := mulF32 strict a.v c
  let r := addF32 strict p.1 x.v
  { v := r.1, fl := ((a.fl.or p.2).or x.fl).or r.2
    origin := if r.1.isNan then a.origin <|> x.origin <|> some (if p.2.inv || r.2.inv then 2 else 0) else none }

/-- One 64-key block updates a query row's state (R178, R179). -/
def softBlock (s : State) (c : CoreId) (x : AttDesc) (f : Feed) (row kvHead q : Nat) (st : Soft) (b : Nat) : Soft :=
  let keys := blockKeys x f q b
  if keys.isEmpty then st
  else
    let ts := keys.map fun k => (k, logit s c x f row kvHead k)
    let bm := ts.foldl (fun a t => maxVal a t.2.v) (.inf true)
    let m1 := maxVal st.m bm
    let cd := addF32 x.strict st.m m1.neg
    let cp := if st.m = .inf true then (Val.zero, {}) else
      (let p := pow2Val x.strict cd.1; (p.1, cd.2.or p.2))
    let ps := (List.range 64).map fun i =>
      (ts.find? fun t => t.1 == 64 * b + i).map fun t =>
        let d := addF32 x.strict t.2.v m1.neg
        let p := pow2Val x.strict d.1
        (p.1, (t.2.fl.or d.2).or p.2)
    let groups := [0, 32].map fun o => weightGroup f x.strict (((ps.drop o).take 32).map fun p => p.map (·.1))
    let fl := (ps.filterMap id).foldl (fun a p => a.or p.2) (groups.foldl (fun a g => a.or g.2.2) cp.2)
    -- the first cause on the way to every element of the block: a logit, then a weight formed by an invalid operation (R75)
    let nanT := ts.findSome? fun t => t.2.origin
    let cause := nanT <|> if (ps.filterMap id).any fun p => p.2.inv then some 2 else none
    let sum := groups.foldl (fun a g => accGroup x.strict a g.1 127 (g.2.1.map fun p => (p, Val.one)))
      (⟨Val.zero, {}, none⟩ : Acc)
    let pv := fun d => accumulate x.strict ⟨Val.zero, {}, none⟩ (groups.zipIdx.map fun g =>
      (g.1.1, kvScale s c x f 1, g.1.2.1.mapIdx fun i p =>
        let k := 64 * b + 32 * g.2 + i
        if keys.contains k then (p, kvElem s c x f k 1 kvHead d) else (Val.zero, Val.zero)))
    { m := m1, cause := if m1.isNan then st.cause <|> nanT else none
      l := softAdd x.strict st.l cp.1 { sum with origin := cause <|> sum.origin }
      o := st.o.mapIdx fun d a =>
        let y := pv d
        softAdd x.strict a cp.1 { y with origin := cause <|> y.origin }
      fl := (st.fl.or fl).or { nanin := m1.isNan } }

/-- The state of a query row after the split's blocks. -/
def softRow (s : State) (c : CoreId) (x : AttDesc) (f : Feed) (row kvHead q : Nat) : Soft :=
  (keyBlocks x f).foldl (softBlock s c x f row kvHead q)
    { m := .inf true, cause := none, l := ⟨Val.zero, {}, none⟩, o := List.replicate x.dim ⟨Val.zero, {}, none⟩, fl := {} }

/-- Rows of a descriptor: query row, head, position and feed (R173). -/
def queryRows (x : AttDesc) (fs : List Feed) : List (Nat × Nat × Nat × Feed) :=
  fs.flatMap fun f => (List.range f.lt.count).flatMap fun j => (List.range x.heads).map fun h =>
    ((f.row + j) * x.heads + h, h, f.lt.start + j, f)

/-- Device ranges whose blocks an attention descriptor reads, with the unit that reads them: Q and its scales,
the new rows, keys, values and their scales. -/
def attReads (s : State) (c : CoreId) (x : AttDesc) (fs : List Feed) : List (Nat × Nat) :=
  let n := x.rows * x.heads
  [(storeBase c + x.qAddr, n * rowBytes x.qFmt x.dim), (storeBase c + x.qScale, scaleBytes x.qFmt n x.dim),
    (storeBase c + x.kvNew, if x.writeKv then 512 * x.rows else 0)] ++
  fs.flatMap fun f => (keyBlocks x f).flatMap fun b =>
    (if f.lay.bf16 then [] else [(f.lay.scaleAddr + 2 * x.slice, 2)]) ++
      [(kvRow s f.lt.ctx f.ctx (64 * b) x.slice 0, 16384), (kvRow s f.lt.ctx f.ctx (64 * b) x.slice 1, 16384)]

/-- The query row depends on a poisoned block: its own Q row, or the rows of a key it sees. -/
def attBad (s : State) (c : CoreId) (x : AttDesc) (bad : List (Nat × Nat)) (r : Nat × Nat × Nat × Feed) : Bool :=
  !bad.isEmpty &&
    (touchesBad bad (storeBase c + x.qAddr + r.1 * rowBytes x.qFmt x.dim) (rowBytes x.qFmt x.dim) ||
      touchesBad bad (storeBase c + x.qScale + r.1 * (x.dim / 32)) (scaleBytes x.qFmt 1 x.dim) ||
      (keyBlocks x r.2.2.2).any fun b => (blockKeys x r.2.2.2 r.2.2.1 b).any fun k =>
        isBad bad (kvRow s r.2.2.2.lt.ctx r.2.2.2.ctx k x.slice 0) || isBad bad (kvRow s r.2.2.2.lt.ctx r.2.2.2.ctx k x.slice 1) ||
          (!r.2.2.2.lay.bf16 && isBad bad (r.2.2.2.lay.scaleAddr + 2 * x.slice)))

/-- Flags without the clamp count, for the elements that a row's own flags reach: the row counts its clamps once (R60, R71). -/
def Flags.noClamps (f : Flags) : Flags := { f with clamps := 0 }

/-- The elements of a finished row with PARTIAL clear, and whether no key was seen (R180, R182). -/
def finishRow (x : AttDesc) (st : Soft) : List Acc × Bool :=
  if st.m = .inf true then (List.replicate x.dim ⟨Val.zero, {}, none⟩, true)
  else
    let r := recipLane x.strict st.l.v
    (st.o.map fun a =>
      let y := mulF32 x.strict a.v r.1
      { v := y.1, fl := (((a.fl.or y.2).or st.l.fl).or r.2).or st.fl.noClamps
        origin := if y.1.isNan then a.origin <|> st.l.origin <|> some (if y.2.inv then 2 else 0) else none }, false)

/-- A partial record's bytes and conversion report (R180). A saturation in the row's logits or weights lies on the path of each of its
elements (R261). A NaN m or l is a NaN that the core writes (R74); its column is not given: 0 (DESIGN CHOICE, log entry 11). -/
def partialRow (x : AttDesc) (a : Nat) (st : Soft) (poison : Bool) : Drained :=
  let head := leBytes 4 (f32Code st.m) ++ leBytes 4 (f32Code st.l.v) ++ List.replicate 56 0
  let body := drainRow fmtFP32 .block x.strict (a + 64) 0
    (st.o.map fun v => { acc := { v with fl := v.fl.or st.fl.noClamps }, poison := poison })
  let own := (if st.m.isNan then [(0, st.cause.getD 0)] else []) ++ if st.l.v.isNan then [(0, st.l.origin.getD 0)] else []
  { body with cells := cellsOf a head poison ++ body.cells, fl := (body.fl.or st.fl).or st.l.fl, nans := own ++ body.nans }

/-- The first feed whose keys or values lie in part at addresses that fault (Table ATT-7, cause 7). -/
def attFaultsAt (s : State) (c : CoreId) (x : AttDesc) (fs : List Feed) : Option Feed :=
  fs.find? fun f => (!f.lay.bf16 && !(keyBlocks x f).isEmpty &&
      !rangeAccessible s (.tile c.tile true) (f.lay.scaleAddr + 2 * x.slice) 2) || (keyBlocks x f).any fun b =>
    [0, 1].any fun h =>
      !rangeAccessible s (.tile c.tile true) (kvRow s f.lt.ctx f.ctx (64 * b) x.slice h) 16384

/-- An attention operation up to its output writes: the state after its new rows are written and its operands are
read, and its output rows. -/
def attentionOut (s : State) (c : CoreId) (e : QEntry) (x : AttDesc) (fs : List Feed) : State × List (Nat × Drained) :=
  let ranges := attReads s c x fs
  let s := writeNewRows s c x fs
  let v := verifyAll s (.tile c.tile true) ((ranges.flatMap fun r => blocksOf r.1 r.2).eraseDups)
  let qb := fun (p : Nat × Nat) => spaceOf p.1 == .operand
  let s := integrityAll v.2 c.tile (17 + arrayOfRow x.mask 1 0) c.core.val (v.1.filter qb)
  let s := integrityAll s c.tile 16 c.core.val (v.1.filter fun p => !qb p)
  let p := policyOf e.format (fmtAt x.outFmt)
  let ob := spaceBase c x.outSpace
  let per := x.heads / x.hq
  let done := (queryRows x fs).map fun r =>
    (r.1, softRow s c x r.2.2.2 r.1 (r.2.1 / x.hq % max 1 per) r.2.2.1, attBad s c x v.1 r)
  let empties := if x.partial_ then 0 else (done.filter fun d => d.2.1.m == .inf true).length
  let s := fadd s (SCU_EMPTY_ROWS c.tile.val) f_SCU_EMPTY_ROWS_COUNT empties
  (s, done.map fun d =>
    (d.1, if x.partial_ then partialRow x (ob + x.outAddr + d.1 * x.outLd) d.2.1 d.2.2
      else
        let row := finishRow x d.2.1
        let out := drainRow (fmtAt x.outFmt) p x.strict (ob + x.outAddr + d.1 * x.outLd)
          (ob + x.outScale + d.1 * (x.dim / 32)) (row.1.map fun a => { acc := a, poison := d.2.2 })
        if row.2 then out else { out with fl := { out.fl with clamps := out.fl.clamps + d.2.1.fl.clamps } }))

/-- The tile DMA channel that carries a walker's stream and row writes (R175). -/
def streamEngine (w : Walker) : Engine := sliceChannel (coreOf w.core) w.entry

/-- The walker whose stream a channel from 16 to 23 carries, from its start until it retires. -/
def streamOn (s : State) (e : Engine) : Option Walker :=
  match e with
  | .tile t _ => ((List.finRange 48).flatMap fun u => (s.slice u).walkers).find? fun w =>
      decide (w.core / 16 = t.val) && streamEngine w == e
  | _ => none

/-- The channel that carries a walker's stream aborts: the walker ends and its tile takes SCU fault 7 (R175). What the stream did
not move is left open. -/
def streamAborts (s : State) (w : Walker) (cause : Nat) : State :=
  let c := coreOf w.core
  let f := takeFree s
  let a := ((attHead s c).map (·.addr)).getD 0
  scuFault (abortChannel f.2 (streamEngine w) cause (f.1.toNat % 2 ^ 32) a) c 7 w.entry w.ctx (parseCtx w.record).gen

/-- An abort request meets a walker's stream after `moved` of its new rows have been written: whole rows are written or untouched
(R175, R238). -/
def abortStream (s : State) (w : Walker) (moved : Nat) : State :=
  let c := coreOf w.core
  match attHead s c with
  | none => streamAborts s w 1
  | some e =>
    let x := parseAtt e.desc
    let k := parseCtx w.record
    let fs := ((ltWork s c x).filter fun q => q.1 == w.entry).map fun q =>
      { entry := q.1, row := q.2.1, lt := q.2.2, ctx := k, lay := layoutOf s (sliceReader q.2.2.ctx) k.layout : Feed }
    streamAborts (if x.writeKv then writeKvRows s c x ((fs.flatMap (kvWrites s c x)).take moved) else s) w 1

/-- A read or row write of an attention descriptor waits at a device that holds requests (R216, R218), or for a link of the mesh
(R308). -/
def attHeld (s : State) (c : CoreId) (x : AttDesc) (fs : List Feed) : Bool :=
  let rs := attReads s c x fs ++ if x.writeKv then fs.flatMap fun f => (kvWrites s c x f).map fun w => (w.2, 256) else []
  sliceHeld s rs || tileWaits s c.tile (rs.flatMap fun r => blocksOf r.1 r.2)

/-- Run an attention descriptor whose walkers have all started, and retire them. Where keys or values lie at addresses that fault,
the rows before the fault are written and the channel of the walker's stream aborts with CAUSE 2. -/
def runAttention (s : State) (c : CoreId) (e : QEntry) (x : AttDesc) (fs : List Feed) : State :=
  match attFaultsAt s c x fs with
  | some f =>
    match walkerOf s c f.entry f.lt.ctx with
    | some w => streamAborts (writeNewRows s c x fs) w 2
    | none => s
  | none =>
    let o := attentionOut s c e x fs
    retireWalkers (writeResults o.1 c 3 e x.tensor o.2 fun r col => laneAt x.dim r col) c

/-- ATTENTION: the issuing core runs the attention descriptor at the head of queue 3 once its walkers have
started (R177 to R182). -/
def execAttention (c : CoreId) (s : State) : Host.Outcome State Fault Refusal :=
  match attHead s c with
  | none => .next (queueParity s c 3)
  | some e =>
    let x := parseAtt e.desc
    match feedsOf s c x with
    | none => .next s
    | some fs => if attHeld s c x fs then .next s else .next (runAttention s c e x fs)

end Sys2Proof.Machine
end

