-- ==== Sys2Proof/Machine/Limits.lean ====
section
/-! DEFINITION. The samovar's limits on the draw: caps, floor, ramp, clock and ballast (R400 to R408). Draws are in 10 W units, and
where a name says so in hundredths of a watt, in which PWR_RAMP.RATE is the change that one window permits. -/

namespace Sys2Proof.Machine

/-! ### The limits (R400 to R403) -/

/-- The lowest cap in force: THROT_L, coolant, configured (Table PWR-2); a configured cap above 2,000 acts as 2,000 (log
entry 99). -/
def capInForce (s : State) : Nat :=
  let c := min (min 2000 (fget s PWR_CAP f_PWR_CAP_CAP)) s.pwr.coolantCap
  if s.pins.throt then min c (fget s PWR_THROT f_PWR_THROT_CAP) else c

/-- The trailing-second peak: the highest of the last 100,000 window averages. -/
def trailingPeak (s : State) : Nat := s.pwr.windows.foldl max 0

/-- The floor applies while the carousel runs or is held, not after HOLD_LIMIT, nor against THROT_L or a shutdown (R402, R403,
R407). -/
def floorApplies (s : State) : Bool :=
  s.car.running && !s.pwr.floorOff && !s.pins.throt && s.pwr.shutdownStage == 0

def floorDraw (s : State) : Nat :=
  if floorApplies s then fget s PWR_FLOOR f_PWR_FLOOR_PCT * trailingPeak s / 100 else 0

/-- Hundredths of a watt that one window's average may differ from the last (R401). -/
def rampStep (s : State) : Nat := fget s PWR_RAMP f_PWR_RAMP_RATE

/-- The present draw in hundredths of a watt: what the samovar brought the draw to where the last window's reading, in units of 10 W,
agrees with it, else the reading. -/
def drawNow (s : State) : Nat :=
  let n := fget s PWR_DRAW f_PWR_DRAW_NOW
  if s.pwr.level / 1000 = n then s.pwr.level else 1000 * n

/-! ### The array clock (R404) -/

/-- Upper draw of a clock step at full MXFP8 load, in watts (Table PWR-3). -/
def stepWatts (code : Nat) : Nat := nthD 11000 [19300, 16900, 14900, 13200, 11000] code

/-- The phase of an envelope is in progress. -/
def phaseRuns (s : State) (n p : Nat) : Bool := s.car.records.any fun r => r.step == n && r.phase == p && r.start.isSome

/-- ENVELOPE of the phases in progress: the largest declared; 19.3 kW where none is declared (R404). -/
def envelopeNow (s : State) : Nat :=
  let es := s.car.records.filterMap fun r => if r.start.isSome then (entryAt s r.phase).map fun e => e.envelope.toNat else none
  if es.isEmpty || es.any (· == 0) then 1930 else es.foldl max 0

/-- A step's upper draw, scaled, fits the permitted hundredths of a watt with g eighths gated. -/
def stepFits (env permitted code g : Nat) : Bool := decide (stepWatts code * 100 * (env * 10) * (8 - g) ≤ permitted * 19300 * 8)

/-- The highest step that fits, then the least gating at 1.8 GHz: code and gated eighths (R404). -/
def chooseStep (env permitted : Nat) : Nat × Nat :=
  match (List.range 5).find? fun c => stepFits env permitted c 0 with
  | some c => (c, 0)
  | none => (4, ((List.range 8).find? fun g => stepFits env permitted 4 g).getD 7)

/-- Hundredths of a watt that the limits permit in the next window: the caps, and the ramp from the present draw. -/
def permittedDraw (s : State) : Nat := min (1000 * capInForce s) (drawNow s + rampStep s)

/-- The clock step and gating that the limits permit, with the steps that heat holds the clock down by. -/
def clockWanted (s : State) : Nat × Nat :=
  let want := chooseStep (envelopeNow s) (permittedDraw s)
  let code := max want.1 s.pwr.heatSteps
  (code, if code = 4 then want.2 else 0)

/-- Show a clock step and gating; phases in progress record it. -/
def setClock (s : State) (code gated : Nat) : State :=
  markPhases (fset (fset s PWR_DRAW f_PWR_DRAW_CLOCK code) PWR_DRAW f_PWR_DRAW_GATED gated) 0

/-- The samovar steps down or gates at once, and starts one step up, 5,000 beats ahead (R404). -/
def adjustClock (s : State) : State :=
  if s.pwr.shutdownStage ≠ 0 then setClock s 4 0
  else
    let want := clockWanted s
    let cur := fget s PWR_DRAW f_PWR_DRAW_CLOCK
    if want.1 < cur then
      setClock { s with pwr := { s.pwr with stepUpAt := some (s.pwr.stepUpAt.getD (s.now + 5000)) } } cur want.2
    else setClock { s with pwr := { s.pwr with stepUpAt := none } } want.1 want.2

/-! ### Ballast (R401 to R403, R405, R408) -/

/-- Ballast stops at once, and the draw is what the last window showed (R407, R408, R413). -/
def stopBallast (s : State) : State :=
  fset { s with pwr := { s.pwr with target := 0, level := 1000 * fget s PWR_DRAW f_PWR_DRAW_NOW } } PWR_DRAW f_PWR_DRAW_BALLAST 0

/-- The draw, in 10 W units, that the received envelopes of phases not yet in progress plan for; ENVELOPE 0 is planned at the
trailing-second peak. Nothing is planned once the carousel idles or has been held past HOLD_LIMIT (R403, R405). -/
def plannedDraw (s : State) : Nat :=
  if s.pwr.floorOff || !s.car.running then 0
  else ((s.pwr.envelopes.filter fun v => !phaseRuns s v.1 v.2.1).map fun v =>
    if v.2.2.1 = 0 then trailingPeak s else v.2.2.1).foldl max 0

/-- The draw that the samovar keeps up, in hundredths of a watt, after a window whose last one ended at `last` and which shows the
present draw: a fall is held to the ramp, and the draw rises at the ramp toward the floor and a planned envelope, all under the caps (R400,
R401, R405). -/
def drawAim (s : State) (last : Nat) : Nat :=
  let lo := last - rampStep s
  let fall := if drawNow s < lo then lo else drawNow s - rampStep s
  let rise := min (1000 * max (floorDraw s) (plannedDraw s)) (drawNow s + rampStep s)
  min (1000 * capInForce s) (max fall rise)

/-- Ballast, in hundredths of a watt, that brings a window's draw without it, in 10 W units, to an aim; without free array cycles it
stays at what it was (R402). -/
def ballastFor (s : State) (aim draw ballast : Nat) (freeCycles : Bool) : Nat :=
  if s.pins.throt || s.pwr.shutdownStage != 0 then 0
  else
    let want := aim - 1000 * (draw - ballast)
    if freeCycles then want else min (1000 * ballast) want

end Sys2Proof.Machine
end

