-- ==== Sys2Proof/Machine/Tensors.lean ====
section
/-! DEFINITION. Tensor descriptors, layouts, shards and devices (R121 to R129). -/

namespace Sys2Proof.Machine

/-! ### Descriptors (Tables TEN-1, TEN-3) -/

/-- A SHARD entry. -/
def parseShard (b : List Byte) (i : Nat) : Shard :=
  let x := field b (104 + 8 * i) 8
  { axis := bitsAt x 0 3, count := bitsAt x 8 16, block := bitsAt x 24 32 }

/-- The tensor descriptor that 192 bytes hold. -/
def parseTensor (b : List Byte) : Tensor :=
  { id := field b 0 2, rank := field b 2 1, fmt := bitsAt (field b 3 1) 0 4, layout := bitsAt (field b 3 1) 4 2
    blockAxis := bitsAt (field b 4 1) 0 3, planeDim := bitsAt (field b 5 1) 0 3, space := field b 6 1
    mesh := field b 7 1, elem := bitsAt (field b 16 8) 0 56, scale := bitsAt (field b 24 8) 0 56
    extent := (List.range 6).map fun i => field b (32 + 4 * i) 4
    stride := (List.range 6).map fun i => field b (56 + 8 * i) 8
    shard := (List.range 6).map (parseShard b) }

def Tensor.ext (t : Tensor) (d : Nat) : Nat := nthD 0 t.extent d
def Tensor.sh (t : Tensor) (d : Nat) : Shard := nthD ⟨7, 1, 0⟩ t.shard d

/-- The axis along which blocks of 32 run: BLOCK_AXIS of an MX tensor, dimension 0 of another. -/
def Tensor.axis (t : Tensor) : Nat := if isMx t.fmt then t.blockAxis else 0

/-- The job's tensor with an identifier. -/
def tensorOf (s : State) (id : Nat) : Option Tensor := s.job.tensors.find? fun t => t.id == id

/-! ### Shards (R126, R127) -/

/-- The effective block of a sharded dimension. -/
def shardBlock (e : Nat) (h : Shard) : Nat := if h.block = 0 then ceilDiv e h.count else h.block

/-- Shard and local index of a global index. -/
def locate (i e : Nat) (h : Shard) : Nat × Nat :=
  let b := max 1 (shardBlock e h)
  let j := i / b
  (j % h.count, j / h.count * b + i % b)

/-- Local extent of a shard. -/
def shardExt (e : Nat) (h : Shard) (k : Nat) : Nat :=
  let b := max 1 (shardBlock e h)
  let nb := ceilDiv e b
  let n := if k ≥ nb then 0 else (nb - 1 - k) / h.count + 1
  if nb ≠ 0 ∧ k = (nb - 1) % h.count then n * b - (nb * b - e) else n * b

/-- A device's coordinate on an axis of a mesh. -/
def coordOn (m : Mesh) (ord a : Nat) : Nat :=
  ord / ((m.extents.take a).foldl (· * ·) 1) % max 1 (nthD 1 m.extents a)

/-- The shard of dimension d that a device holds, 0 where the dimension is not sharded. -/
def heldShard (m : Mesh) (t : Tensor) (ord d : Nat) : Nat :=
  let h := t.sh d
  if h.axis > 3 then 0 else coordOn m ord h.axis * h.count / max 1 (nthD 1 m.extents h.axis)

/-- Local extents of a device's piece. -/
def localExts (m : Option (Mesh × Nat)) (t : Tensor) : List Nat :=
  (List.range t.rank).map fun d =>
    match m with
    | none => t.ext d
    | some (m, ord) => if (t.sh d).axis > 3 then t.ext d else shardExt (t.ext d) (t.sh d) (heldShard m t ord d)

/-! ### Layouts (Table TEN-2, R124) -/

/-- Bytes of one run of dimension 0. -/
def runBytes (t : Tensor) (e0 : Nat) : Nat :=
  if isMx t.fmt && t.blockAxis == 0 then rowBytes t.fmt e0 else packedBytes t.fmt e0

/-- Strides of dimensions 1 on, over local extents. -/
def strides (t : Tensor) (es : List Nat) : List Nat :=
  match t.layout with
  | 1 => (List.range t.rank).map fun d => nthD 0 t.stride d
  | l =>
    (List.range t.rank).foldl (fun acc d =>
      if d = 0 then [fmtBits t.fmt / 8]
      else
        let raw := if d = 1 then runBytes t (nthD 0 es 0) else nthD 0 acc (d - 1) * nthD 0 es (d - 1)
        let raw := if l = 2 ∧ d = 1 then roundUp raw 64 else raw
        acc ++ [if l = 2 ∧ d = t.planeDim then roundUp raw 512 else raw]) []

/-- Bytes from the first to the last element of a piece. -/
def pieceSpan (t : Tensor) (es : List Nat) : Nat :=
  if es.any (· == 0) then 0
  else
    let ss := strides t es
    ((List.range t.rank).filter (0 < ·)).foldl (fun a d => a + (nthD 0 es d - 1) * nthD 0 ss d) (runBytes t (nthD 0 es 0))

/-- Scale bytes of a piece. -/
def pieceScales (t : Tensor) (es : List Nat) : Nat :=
  if isMx t.fmt then
    (List.range t.rank).foldl (fun a d =>
      a * (if d = t.blockAxis then ceilDiv (nthD 0 es d) 32 else nthD 0 es d)) 1
  else 0

/-- Dense index over extents, dimension 0 fastest. -/
def denseIndex : List Nat → List Nat → Nat
  | e :: es, i :: is => i + e * denseIndex es is
  | _, _ => 0

/-- Replace the block axis by blocks of 32 in a list of extents or indices. -/
def inBlocks (axis : Nat) (round : Nat → Nat) (l : List Nat) : List Nat :=
  l.mapIdx fun d x => if d = axis then round x else x

/-- Byte address of the run, element within it, and scale address of a local index (R123, R124). -/
def tensorPlace (t : Tensor) (eb sb : Nat) (es idx : List Nat) : Nat × Nat × Nat :=
  let ss := strides t es
  (((List.range t.rank).filter (0 < ·)).foldl (fun a d => a + nthD 0 idx d * nthD 0 ss d) eb, nthD 0 idx 0,
    sb + denseIndex (inBlocks t.blockAxis (fun e => ceilDiv e 32) es) (inBlocks t.blockAxis (· / 32) idx))

/-! ### Devices (R125, R128) -/

/-- Base device address of a piece in its space. -/
def spaceStart (t : Tensor) (tile core : Nat) : Nat :=
  match t.space with
  | 0 => 0x210000000000 + (16 * tile + core) * 2 ^ 22
  | 1 => 0x200000000000 + tile * 2 ^ 28
  | 2 => tile / 2 * 2 ^ 36
  | 3 => 0
  | _ => 0x100000000000 + tile * 2 ^ 36

/-- Bytes of a piece's space. -/
def spaceLimit (s : State) (t : Tensor) (tile : Nat) : Nat :=
  match t.space with
  | 0 => 2 ^ 22
  | 1 => scratchBytes s tile
  | 2 => 2 ^ 36
  | 3 => 24 * 2 ^ 36
  | _ => 2 ^ 36

/-- The tile that holds a tensor with MESH_ID 0xFF, as the placement names it; tile 0 where the placement names none (DESIGN
CHOICE, log entry 79). -/
def ownTile (s : State) (id : Nat) : Nat := ((s.job.tensorTile.find? fun p => p.1 == id).map (·.2)).getD 0

/-- Where a tensor's elements are: per holding device its ordinal, module, tile, and piece extents. -/
structure Holder where
  ord : Nat
  module : Nat
  tile : Nat
  mesh : Option (Mesh × Nat)
  deriving DecidableEq, Repr

/-- Every device that holds a piece of a tensor; an operand store tensor lies in the issuing core. -/
def holders (s : State) (t : Tensor) (tile : Nat) : List Holder :=
  if t.mesh = 0xFF then
    [{ ord := 0, module := moduleIndex s, tile := if t.space = 0 then tile else ownTile s t.id, mesh := none }]
  else
    match s.job.meshes[t.mesh]? with
    | none => []
    | some m => m.devices.mapIdx fun i d => { ord := i, module := d.1, tile := d.2, mesh := some (m, i) }

/-- A device's local index of a global index, where it holds that element. -/
def localIndex (t : Tensor) (h : Holder) (idx : List Nat) : Option (List Nat) :=
  match h.mesh with
  | none => some idx
  | some (m, ord) =>
    let ps := idx.mapIdx fun d i =>
      if (t.sh d).axis > 3 then (true, i)
      else
        let p := locate i (t.ext d) (t.sh d)
        (p.1 == heldShard m t ord d, p.2)
    if ps.all (·.1) then some (ps.map (·.2)) else none

/-- The place of a global index in a holder's piece. -/
def placeIn (t : Tensor) (h : Holder) (core : Nat) (idx : List Nat) : Option (Nat × Nat × Nat) :=
  (localIndex t h idx).map fun l =>
    tensorPlace t (spaceStart t h.tile core + t.elem) (spaceStart t h.tile core + t.scale) (localExts h.mesh t) l

/-- The axes that no dimension names equal the issuing device's coordinates (R140). -/
def sameReplica (t : Tensor) (m : Mesh) (a b : Nat) : Bool :=
  (List.range m.extents.length).all fun x =>
    (List.range t.rank).any (fun d => (t.sh d).axis == x) || coordOn m a x == coordOn m b x

/-- The replica that a gather reads an element from (R140): on the issuing module's board, in the issuing
device's place on every replicating axis, or else of lowest ordinal. Where COUNT is below the axis extent several devices
may match; the one of lowest ordinal is read (DESIGN CHOICE, log entry 75). -/
def readHolder (s : State) (t : Tensor) (hs : List Holder) (tile core : Nat) (idx : List Nat) :
    Option (Holder × (Nat × Nat × Nat)) :=
  let cs := (hs.filter fun h => onBoard s h.module).filterMap fun h => (placeIn t h core idx).map fun p => (h, p)
  let me := (hs.find? fun h => h.module == moduleIndex s && h.tile == tile).map (·.ord)
  let same := match me with
    | none => none
    | some o => cs.find? fun c => match c.1.mesh with
      | some (m, i) => sameReplica t m o i
      | none => true
  match same with
  | some c => some c
  | none => cs.head?

/-! ### The conditions of Table TEN-4 (R129) -/

/-- A sharded dimension's fields are in order. -/
def shardOk (m : Mesh) (t : Tensor) (d : Nat) : Bool :=
  let h := t.sh d
  if h.axis = 7 then h.count == 1
  else decide (h.axis < 4 ∧ h.axis < m.extents.length) && h.count != 0 && nthD 0 m.extents h.axis % h.count == 0 &&
    (d != t.axis || !isMx t.fmt || shardBlock (t.ext d) h % 32 == 0) &&
    (List.range t.rank).all fun k => k == d || (t.sh k).axis != h.axis

/-- The bytes of a tensor descriptor carry no reserved bit and no field at or above RANK (R122). -/
def tensorBitsOk (b : List Byte) (t : Tensor) : Bool :=
  b.length == 192 && t.id != 0xFFFF && decide (1 ≤ t.rank ∧ t.rank ≤ 6) && fmtOk t.fmt && t.layout != 3 && field b 3 1 / 64 == 0 && field b 4 1 / 8 == 0 &&
  field b 5 1 / 8 == 0 && decide (t.space ≤ 4) && (t.mesh == 0xFF || decide (t.mesh ≤ 15)) && field b 8 8 == 0 &&
  field b 23 1 == 0 && field b 31 1 == 0 && field b 152 40 == 0 &&
  (List.range 6).all (fun d =>
    bitsAt (field b (104 + 8 * d) 8) 3 5 == 0 && field b (111 + 8 * d) 1 == 0 && (t.layout == 1 || nthD 0 t.stride d == 0) &&
    (decide (d < t.rank) || (t.ext d == 0 && nthD 0 t.stride d == 0 && field b (104 + 8 * d) 8 == 0)))

/-- The unit of the strides of a strided tensor: an element, or the packed block of 32 elements that stride 0 applies to (R123). -/
def strideUnit (fmt : Nat) : Nat := if fmtBits fmt < 8 then packedBytes fmt 32 else fmtBits fmt / 8

/-- Strides of a strided tensor over a piece's extents (Table TEN-2). -/
def stridesOk (t : Tensor) (es : List Nat) : Bool :=
  let u := strideUnit t.fmt
  t.layout != 1 || (nthD 0 t.stride 0 == u && (List.range t.rank).all fun d =>
    nthD 0 t.stride d % u == 0 &&
      (d == 0 || decide (nthD 0 t.stride d ≥
        (if d = 1 then runBytes t (nthD 0 es 0) else nthD 0 t.stride (d - 1) * nthD 0 es (d - 1)))))

/-- Two address ranges share a byte. -/
def overlap (a n b m : Nat) : Bool := decide (n ≠ 0 ∧ m ≠ 0 ∧ a < b + m ∧ b < a + n)

/-- Every byte [off, off + n) of a stack's window lies in a stack-local region (R208, R210). -/
def stackLocal (s : State) (off n : Nat) : Bool :=
  decide (off + n ≤ 2 ^ 36) && (List.range 32).all fun r =>
    !bitAt (fget s HBM_MODE f_HBM_MODE_INTERLEAVE) r || !overlap off n (r * 2 ^ 31) (2 ^ 31)

/-- Every byte [a, a + n) of the HBM windows lies in an interleaved region (R208). -/
def interleaved (s : State) (a n : Nat) : Bool :=
  decide (a + n ≤ 24 * 2 ^ 36) && (List.range 768).all fun r =>
    bitAt (fget s HBM_MODE f_HBM_MODE_INTERLEAVE) (r % 32) || !overlap a n (r * 2 ^ 31) (2 ^ 31)

/-- A plane of a piece lies within its space: a tensor in SPACE 2 in stack-local regions, one in SPACE 3 in interleaved ones (Table TEN-1,
R129, R208, R210). The scratchpad partition of a
tile of another module is not known here, only its window. -/
def planeFits (s : State) (t : Tensor) (h : Holder) (off n : Nat) : Bool :=
  if t.space = 2 then stackLocal s off n
  else if t.space = 3 then interleaved s off n
  else if t.space = 1 ∧ h.module ≠ moduleIndex s then decide (off + n ≤ 2 ^ 28)
  else decide (off + n ≤ spaceLimit s t h.tile)

/-- No condition of Table TEN-4 holds for a descriptor, with meshes and tensor placement of the job. -/
def tensorLoadOk (s : State) (b : List Byte) : Bool :=
  let t := parseTensor b
  let packed := decide (2 ≤ t.fmt ∧ t.fmt ≤ 4)
  tensorBitsOk b t && (!isMx t.fmt || decide (t.blockAxis < t.rank)) &&
  (t.layout != 2 || (decide (1 ≤ t.planeDim ∧ t.planeDim < t.rank) && (!isMx t.fmt || t.blockAxis == 0))) &&
  (!packed || t.blockAxis == 0) && (t.mesh == 0xFF || t.space != 0) &&
  (if t.mesh = 0xFF then (List.range t.rank).all fun d => (t.sh d).axis == 7 && (t.sh d).count == 1
   else match s.job.meshes[t.mesh]? with
    | none => false
    | some m => (List.range t.rank).all (shardOk m t)) &&
  (holders s t (ownTile s t.id)).all fun h =>
    let es := localExts h.mesh t
    stridesOk t es && planeFits s t h t.elem (pieceSpan t es) &&
      (!isMx t.fmt || planeFits s t h t.scale (pieceScales t es))

/-- A mesh sets no reserved bit, and names no failed tile of this module and no device twice (R125, R129). -/
def meshOk (s : State) (m : Mesh) : Bool :=
  m.table.all (fun e => e.reserved == 0) &&
  decide (1 ≤ m.extents.length ∧ m.extents.length ≤ 4) && m.extents.all (fun e => decide (1 ≤ e ∧ e ≤ 65535)) &&
  m.devices.length == m.extents.foldl (· * ·) 1 && decide m.devices.Nodup &&
  m.devices.all fun d => decide (d.2 < 48) && (d.1 != moduleIndex s || !s.repair.failed.getLsbD d.2)

end Sys2Proof.Machine
end

