-- ==== Sys2Proof/Machine/Transfer.lean ====
section
/-! DEFINITION. The transfer descriptor, the elements it moves, conversion, skew and the strainer
(R228 to R247, R130 to R147). -/

namespace Sys2Proof.Machine

/-! ### Descriptors and records (Tables DMA-2, DMA-3, TEN-5, TEN-8) -/

/-- A transfer descriptor's fields. -/
structure Xfer where
  kind : Nat
  chain : Bool
  pulse : Bool
  skew : Nat
  srcFmt : Nat
  dstFmt : Nat
  strict : Bool
  strain : Nat
  rate : Nat
  ev : Nat
  hostEnv : Bool
  scrub : Bool
  tensor : Nat
  src : Nat
  dst : Nat
  aux : Nat
  srcScale : Nat
  dstScale : Nat
  next : Nat
  length : Nat
  skewLd : Nat
  deriving DecidableEq, Repr

/-- The transfer descriptor that 64 bytes hold. -/
def parseXfer (d : List Byte) : Xfer :=
  let sh := field d 1 1
  let o := field d 3 1
  let a := fun i => bitsAt (field d i 8) 0 56
  { kind := bitsAt sh 0 2, chain := bitAt sh 2, pulse := bitAt sh 3, skew := bitsAt sh 4 2
    srcFmt := bitsAt (field d 2 1) 0 4, dstFmt := bitsAt (field d 2 1) 4 4, strict := bitAt o 0
    strain := bitsAt o 1 2, rate := bitsAt o 3 2, ev := field d 4 1, hostEnv := bitAt (field d 5 1) 0
    scrub := bitAt (field d 5 1) 1, tensor := field d 6 2, src := a 8, dst := a 16, aux := a 24
    srcScale := a 32, dstScale := a 40, next := a 48, length := field d 56 4, skewLd := field d 60 4 }

/-- A stride record: rank, extents and the strides of each side. -/
structure StrideRec where
  rank : Nat
  ext : List Nat
  src : List Nat
  dst : List Nat
  deriving DecidableEq, Repr

def parseStrides (b : List Byte) : StrideRec :=
  let n := field b 0 1
  { rank := n, ext := ((List.range 6).map fun d => field b (8 + 4 * d) 4).take n
    src := 0 :: (List.range 5).map fun d => field b (32 + 8 * d) 8
    dst := 0 :: (List.range 5).map fun d => field b (72 + 8 * d) 8 }

/-- A block-list record. -/
structure BlockRec where
  list : Nat
  entries : Nat
  op : Nat
  policy : Nat
  strict : Bool
  tensor : Nat
  shape : List Nat
  dense : Nat
  denseScale : Nat
  deriving DecidableEq, Repr

def parseBlockRec (b : List Byte) : BlockRec :=
  { list := bitsAt (field b 0 8) 0 56, entries := field b 8 4, op := bitsAt (field b 12 1) 0 2
    policy := bitsAt (field b 12 1) 2 2, strict := bitAt (field b 12 1) 4, tensor := field b 14 2
    shape := (List.range 6).map fun d => field b (16 + 4 * d) 4
    dense := bitsAt (field b 40 8) 0 56, denseScale := bitsAt (field b 48 8) 0 56 }

/-- A window record. -/
structure WinRec where
  tensor : Nat
  mode : Nat
  value : Nat
  origin : List Nat
  count : List Nat
  lo : List Nat
  hi : List Nat
  deriving DecidableEq, Repr

def parseWinRec (b : List Byte) : WinRec :=
  let v := fun o => (List.range 6).map fun d => field b (o + 4 * d) 4
  { tensor := field b 0 2, mode := bitsAt (field b 2 1) 0 2, value := field b 4 4, origin := v 8, count := v 32
    lo := (v 56).map fun x => bitsAt x 0 16, hi := (v 56).map fun x => bitsAt x 16 16 }

/-- The stride record as it stands. -/
def stridesOf (s : State) (ag : Agent) (x : Xfer) : StrideRec :=
  if x.kind = 1 then parseStrides (readBytes s ag x.aux 128)
  else { rank := 1, ext := [x.length], src := [0], dst := [0] }

/-! ### The sides of a transfer (R228) -/

/-- A side: its layout as a tensor, its element and scale bases, and its extents. -/
structure Side where
  t : Tensor
  eb : Nat
  sb : Nat
  es : List Nat
  deriving DecidableEq, Repr

/-- A layout over given extents: strided where strides are given, else dense. -/
def layoutTensor (fmt axis : Nat) (es : List Nat) (strides : Option (List Nat)) : Tensor :=
  { id := 0xFFFF, rank := es.length, fmt := fmt, layout := if strides.isSome then 1 else 0, blockAxis := axis
    planeDim := 0, space := 3, mesh := 0xFF, elem := 0, scale := 0, extent := es
    stride := strides.getD [], shard := [] }

/-- Run address, element and scale address of an index on a side. -/
def Side.place (x : Side) (idx : List Nat) : Nat × Nat × Nat := tensorPlace x.t x.eb x.sb x.es idx

/-- Bytes from a side's first to its last element, and its scales. -/
def Side.span (x : Side) : Nat := pieceSpan x.t x.es
def Side.scales (x : Side) : Nat := if x.es.any (· == 0) then 0 else pieceScales x.t x.es

def srcSide (x : Xfer) (r : StrideRec) : Side :=
  ⟨layoutTensor x.srcFmt 0 r.ext (some r.src), x.src, x.srcScale, r.ext⟩

def dstSide (x : Xfer) (r : StrideRec) : Side :=
  ⟨layoutTensor x.dstFmt 0 r.ext (some r.dst), x.dst, x.dstScale, r.ext⟩

/-- Elements of the extents of a transfer. -/
def elemCount (es : List Nat) : Nat := es.foldl (· * ·) 1

/-- The place of an index on a skewed destination (R241): split-quadrant words or convolution rows. -/
def skewPlace (x : Xfer) (r : StrideRec) (idx : List Nat) : Nat × Nat :=
  let i := fun d => nthD 0 idx d
  let rest := fun (n : Nat) => ((List.range r.rank).filter fun d => decide (n ≤ d)).foldl
    (fun a d => a + i d * nthD 0 r.dst d) 0
  if x.skew = 1 then
    (x.dst + (i 0 / 32 * ((if r.rank < 2 then 1 else nthD 1 r.ext 1) + 31) + i 1 + i 0 % 32) * x.skewLd + rest 2,
      i 0 % 32)
  else (x.dst + i 1 * x.skewLd + rest 2, i 0 + i 2 % 32)

/-- Bytes from the first to the last written byte of a skewed destination. -/
def skewSpan (x : Xfer) (r : StrideRec) : Nat :=
  if r.ext.any (· == 0) then 0
  else
    let e := fun d => if d < r.rank then nthD 1 r.ext d else 1
    let rest := ((List.range r.rank).filter fun d => decide (2 ≤ d)).foldl
      (fun a d => a + (e d - 1) * nthD 0 r.dst d) 0
    if x.skew = 1 then (ceilDiv (e 0) 32 * (e 1 + 31) - 1) * x.skewLd + packedBytes x.dstFmt 32 + rest
    else (e 1 - 1) * x.skewLd + rest + packedBytes x.dstFmt (e 0 + min 31 (e 2 - 1))

/-! ### Elements, groups and units -/

/-- Where an element's value comes from. -/
inductive Src where
  /-- +0 -/
  | zero
  /-- an FP32 constant (R146) -/
  | const (v : Nat)
  /-- element `idx` of the packed run at `base`, with its scale byte's address -/
  | at_ (base idx scale : Nat)
  /-- a device of a module of the board, whose contents this model does not hold (log entry 78) -/
  | remote (module : Nat)
  deriving DecidableEq, Repr

/-- The module of the board that a source lies on, where it is another's. -/
def Src.module : Src → Option Nat
  | .remote m => some m
  | _ => none

/-- An element: its source, the runs and elements it is written to, whether it lies within the extents (R54)
and whether it is padding (R147). -/
structure Elem where
  src : Src
  dst : List (Nat × Nat)
  real : Bool
  pad : Bool
  /-- replicas on other modules of the board: module, run and element (R140, R141) -/
  far : List (Nat × Nat × Nat) := []
  deriving DecidableEq, Repr

/-- Elements that share a destination block, with the addresses of its scale, on this module and on others, and the earlier
group of the transfer whose read serves this one (R136). -/
structure Group where
  elems : List Elem
  scales : List Nat
  farScales : List (Nat × Nat) := []
  same : Option Nat := none
  deriving DecidableEq, Repr

/-- What a transfer completes as a whole (R238): its count of elements or entries, and its groups. -/
structure Unit_ where
  count : Nat
  groups : List Group
  deriving DecidableEq, Repr

/-- The indices of extents, dimension 0 fastest. -/
def indices : List Nat → List (List Nat)
  | [] => [[]]
  | e :: es => (indices es).flatMap fun r => (List.range e).map fun i => i :: r

/-- The indices of extents by destination group: blocks of 32 along an axis for an MX destination. -/
def groupIndices (fmt axis : Nat) (es : List Nat) : List (List (List Nat)) :=
  if isMx fmt then
    (indices (inBlocks axis (fun e => ceilDiv e 32) es)).map fun b =>
      (List.range 32).map fun j => inBlocks axis (fun i => 32 * i + j) b
  else (indices es).map fun i => [i]

/-- An index lies within the extents. -/
def within (es idx : List Nat) : Bool := (es.zip idx).all fun p => decide (p.2 < p.1)

/-- The units of a LINEAR or STRIDED transfer, in transfer order (R228, R241). -/
def plainUnits (x : Xfer) (r : StrideRec) (a b : Side) : List Unit_ :=
  if r.ext.any (· == 0) then []
  else
    (groupIndices x.dstFmt 0 r.ext).map fun g =>
      let es := g.map fun i =>
        let real := within r.ext i
        let p := a.place i
        let q := b.place i
        { src := if real || isMx x.srcFmt then .at_ p.1 p.2.1 p.2.2 else .zero
          dst := if x.skew = 0 then [(q.1, q.2.1)] else if real then [skewPlace x r i] else []
          real := real, pad := false : Elem }
      { count := (es.filter (·.real)).length
        groups := [{ elems := es, scales := match g with
          | i :: _ => if isMx x.dstFmt then [(b.place i).2.2] else []
          | [] => [] }] }

/-! ### Reading a source element -/

/-- An element as read: its code and scale, its value, and whether its block is poisoned. -/
structure Got where
  code : Nat
  scale : Nat
  v : Val
  bad : Bool
  deriving DecidableEq, Repr

/-- The value of a source code (R54, R63). -/
def srcVal (fmt : Nat) (strict : Bool) (scale code : Nat) : Val :=
  if isMx fmt then mxVal (fmtAt fmt) scale code else readVal (fmtAt fmt) strict code

/-- Bytes that a run's element touches. -/
def runKeys (s : State) (fmt base idx : Nat) : List Nat :=
  let lo := idx * fmtBits fmt
  (List.range ((lo % 8 + fmtBits fmt + 7) / 8)).map fun j => keyOf s (base + lo / 8 + j)

/-- Read an element. `written` are the keys that earlier elements of the same transfer write: a source byte among them may be
read before or after that write, so its value is free (log entry 15). -/
def getElem_ (s : State) (ag : Agent) (fmt : Nat) (strict : Bool) (bad : List (Nat × Nat)) (written : List Nat)
    (e : Src) : Got × State :=
  match e with
  | .zero => (⟨0, 127, Val.zero, false⟩, s)
  | .const v => (⟨0, 127, f32 v, false⟩, s)
  | .remote _ =>
    let f := takeFree s
    let code := f.1.toNat % 2 ^ fmtBits fmt
    let sc := if isMx fmt then f.1.toNat / 2 ^ 32 % 256 else 127
    (⟨code, sc, srcVal fmt strict sc code, f.1.getLsbD 63⟩, f.2)
  | .at_ base idx sa =>
    let own := (runKeys s fmt base idx).any written.contains
    let ownScale := isMx fmt && written.contains (keyOf s sa)
    let f := if own || ownScale then takeFree s else (0, s)
    let code := if own then f.1.toNat % 2 ^ fmtBits fmt else elemCode s ag fmt base idx
    let sc := if ownScale then f.1.toNat / 2 ^ 32 % 256 else scaleCode s ag fmt sa
    (⟨code, sc, srcVal fmt strict sc code, elemBad bad fmt base idx || (isMx fmt && touchesBad bad sa 1)⟩, f.2)

/-- Read a list of elements in order. -/
def getElems (s : State) (ag : Agent) (fmt : Nat) (strict : Bool) (bad : List (Nat × Nat)) (written : List Nat) :
    List Src → List Got × State
  | [] => ([], s)
  | e :: es =>
    let a := getElem_ s ag fmt strict bad written e
    let b := getElems a.2 ag fmt strict bad written es
    (a.1 :: b.1, b.2)

/-! ### Writing packed elements -/

/-- A value of `width` bits written at element `idx` of the run at `base`. -/
structure Put where
  base : Nat
  idx : Nat
  width : Nat
  code : Nat
  poison : Bool
  deriving DecidableEq, Repr

/-- First byte, bit within it, and bytes that a put touches. -/
def Put.at_ (p : Put) : Nat × Nat × Nat :=
  let lo := p.idx * p.width
  (p.base + lo / 8, lo % 8, (lo % 8 + p.width + 7) / 8)

/-- The bytes of a put, merged into the bytes held so far or into memory (R229, R232, R241). -/
def Put.apply (s : State) (m : List (Nat × Byte)) (p : Put) : List (Nat × Byte) :=
  let q := p.at_
  let old := leNat ((List.range q.2.2).map fun j => mapGet (byteAt s (keyOf s (q.1 + j))) m (q.1 + j))
  (leBytes q.2.2 (putBits old q.2.1 p.width p.code)).zipIdx.foldl (fun m b => mapInsert m (q.1 + b.2) b.1) m

/-- The puts that stand: of those to one element the last, so that an earlier one leaves no trace (R137). -/
def lastPuts : List Put → List Put
  | [] => []
  | p :: ps =>
    if ps.any fun q => q.base == p.base && q.idx == p.idx && q.width == p.width then lastPuts ps else p :: lastPuts ps

/-- Write puts in order: each element holds its last value, and a poisoned put poisons the bytes it touches. -/
def writePuts (s : State) (ag : Agent) (all : List Put) : State :=
  let ps := lastPuts all
  let m := ps.foldl (Put.apply s) []
  let bad := (ps.filter (·.poison)).flatMap fun p => (List.range p.at_.2.2).map fun j => p.at_.1 + j
  writeCells s ag (m.map fun b => (b.1, b.2, bad.contains b.1))

/-! ### Conversion (R239, R240, R146, R147) -/

/-- What a transfer makes of elements: puts, flags, elements counted under R261 and the largest magnitude. -/
structure Made where
  puts : List Put
  fl : Flags
  counted : Nat
  amax : Val
  /-- puts to replicas on other modules of the board -/
  far : List (Nat × Put) := []
  deriving DecidableEq, Repr

def Made.none : Made := { puts := [], fl := {}, counted := 0, amax := Val.zero }

def Made.or (a b : Made) : Made :=
  { puts := a.puts ++ b.puts, fl := a.fl.or b.fl, counted := a.counted + b.counted, amax := maxMag a.amax b.amax
    far := a.far ++ b.far }

/-- The puts of one element's code. -/
def elemPuts (fmt : Nat) (e : Elem) (code : Nat) (poison : Bool) : List Put :=
  e.dst.map fun d => ⟨d.1, d.2, fmtBits fmt, code, poison⟩

/-- The puts of one element's code to replicas on other modules. -/
def elemFar (fmt : Nat) (e : Elem) (code : Nat) (poison : Bool) : List (Nat × Put) :=
  e.far.map fun d => (d.1, ⟨d.2.1, d.2.2, fmtBits fmt, code, poison⟩)

/-- The puts of a group's scale code, here and on other modules. -/
def scalePutsOf (gr : Group) (code : Nat) (poison : Bool) : List Put × List (Nat × Put) :=
  (gr.scales.map fun a => ⟨a, 0, 8, code, poison⟩, gr.farScales.map fun a => (a.1, ⟨a.2, 0, 8, code, poison⟩))

/-- The puts to other modules that stand (R137). -/
def lastFar : List (Nat × Put) → List (Nat × Put)
  | [] => []
  | p :: ps =>
    if ps.any fun q => q.1 == p.1 && q.2.base == p.2.base && q.2.idx == p.2.idx && q.2.width == p.2.width then lastFar ps
    else p :: lastFar ps

/-- Send what a transfer writes on other modules of the board over Span (R141). -/
def sendFar (s : State) (ps : List (Nat × Put)) : State :=
  (lastFar ps).foldl (fun s p => sendSpan s (spanPortOf s p.1) (.spanWrite p.1 p.2.base p.2.idx p.2.width p.2.code p.2.poison)) s

/-- An element converted to BF16, FP16 or FP32; one that is not part of the tensor reports nothing (R132). -/
def makeFloat (fmt : Nat) (strict : Bool) (e : Elem) (g : Got) : Made :=
  let c := convertFloat (fmtAt fmt) strict g.v
  { puts := elemPuts fmt e c.code g.bad, fl := if e.real then c.fl.or { nanin := g.v.isNan } else {}
    counted := boolNat (c.counted && e.real), amax := Val.zero, far := elemFar fmt e c.code g.bad }

/-- A block converted to an MX format under a policy. -/
def makeBlock (fmt : Nat) (strict : Bool) (p : Policy) (gr : Group) (gs : List Got) : Made :=
  let ps := gr.elems.zip gs
  let rounded := (ps.filter (·.1.real)).map fun p => roundF32 strict p.2.v
  let q := quantise (fmtAt fmt) p strict (rounded.map (·.1))
  let poison := ps.any fun p => p.1.real && p.2.bad
  let codes := (ps.foldl (fun (a : List (Elem × Nat) × List Nat) p =>
    if p.1.real then (a.1 ++ [(p.1, a.2.headD 0)], a.2.tail) else (a.1 ++ [(p.1, 0)], a.2)) ([], q.codes)).1
  let scale := scalePutsOf gr q.scale poison
  { puts := (codes.flatMap fun c => elemPuts fmt c.1 c.2 poison) ++ scale.1
    far := (codes.flatMap fun c => elemFar fmt c.1 c.2 poison) ++ scale.2
    fl := (rounded.foldl (fun f r => f.or r.2) q.fl).or { nanin := ps.any fun p => p.1.real && p.2.v.isNan }
    counted := ((q.counted.zip rounded).filter fun r => r.1 || r.2.2.ovf).length
    amax := amaxOf (rounded.map (·.1)) }

/-- An MX block whose elements can be copied as they are: no padding, and one scale for all that are read. -/
def copyable (gr : Group) (gs : List Got) : Option Nat :=
  let rs := ((gr.elems.zip gs).filter fun p => p.1.src != .zero).map (·.2)
  match rs with
  | [] => none
  | r :: _ =>
    if (gr.elems.all fun e => !e.pad && (match e.src with | .const _ => false | _ => true)) &&
        rs.all fun x => x.scale == r.scale
    then some r.scale else none

/-- What a transfer makes of a group (R239, R240). -/
def makeGroup (x : Xfer) (p : Policy) (gr : Group) (gs : List Got) : Made :=
  let ps := gr.elems.zip gs
  if isMx x.dstFmt then
    match (if x.srcFmt = x.dstFmt then copyable gr gs else none) with
    | some sc =>
      let scale := scalePutsOf gr sc (ps.any fun p => p.1.real && p.2.bad)
      { puts := (ps.flatMap fun p => elemPuts x.dstFmt p.1 p.2.code p.2.bad) ++ scale.1
        far := (ps.flatMap fun p => elemFar x.dstFmt p.1 p.2.code p.2.bad) ++ scale.2
        fl := {}, counted := 0, amax := Val.zero }
    | none => makeBlock x.dstFmt x.strict p gr gs
  else
    ps.foldl (fun m p =>
      m.or (match p.1.src with
        | .const _ => makeFloat x.dstFmt x.strict p.1 p.2
        | _ =>
          if x.srcFmt = x.dstFmt then
            { Made.none with puts := elemPuts x.dstFmt p.1 p.2.code p.2.bad, far := elemFar x.dstFmt p.1 p.2.code p.2.bad }
          else makeFloat x.dstFmt x.strict p.1 p.2)) Made.none

/-- Addresses of the 512-byte blocks that a group's sources lie in. -/
def srcBlocks (fmt : Nat) (gr : Group) : List Nat :=
  gr.elems.flatMap fun e =>
    match e.src with
    | .at_ base idx sa =>
      let lo := idx * fmtBits fmt
      blocksOf (base + lo / 8) ((lo % 8 + fmtBits fmt + 7) / 8) ++ (if isMx fmt then blocksOf sa 1 else [])
    | _ => []

/-- Addresses of the first bytes that a group writes, elements and scales. -/
def dstAddrs (fmt : Nat) (gr : Group) : List Nat :=
  (gr.elems.flatMap fun e => e.dst.flatMap fun d =>
    let lo := d.2 * fmtBits fmt
    (List.range ((lo % 8 + fmtBits fmt + 7) / 8)).map fun j => d.1 + lo / 8 + j) ++ gr.scales

/-- A unit touches a retired range, on either side (R222, R236). -/
def unitFaults (s : State) (x : Xfer) (u : Unit_) : Bool :=
  u.groups.any fun g => (srcBlocks x.srcFmt g ++ dstAddrs x.dstFmt g).any fun a => retired s (keyOf s a)

/-- What the transfer's earlier groups read and write: elements read by group, and keys written. -/
structure Before where
  got : List (List Got)
  written : List Nat
  deriving DecidableEq, Repr

/-- The elements of a group as read: those of the earlier group whose read serves it, or its own read (R136). -/
def groupGot (s : State) (ag : Agent) (x : Xfer) (bad : List (Nat × Nat)) (b : Before) (g : Group) : List Got × State :=
  match g.same.bind fun i => b.got[i]? with
  | some got => (got, s)
  | none => getElems s ag x.srcFmt x.strict bad b.written (g.elems.map (·.src))

/-- Make the groups of units in order, reading from the state before the transfer writes. A group that an earlier one's read
serves takes its elements (R136). -/
def makeUnits (s : State) (ag : Agent) (x : Xfer) (p : Policy) (bad : List (Nat × Nat)) (b : Before) :
    List Group → Made × State
  | [] => (Made.none, s)
  | g :: gs =>
    let r := groupGot s ag x bad b g
    let m := makeUnits r.2 ag x p bad ⟨b.got ++ [r.1], b.written ++ (dstAddrs x.dstFmt g).map (keyOf s)⟩ gs
    ((makeGroup x p g r.1).or m.1, m.2)

/-! ### The strainer (R242 to R246) -/

/-- Code width of a rate, for BF16 (Table DMA-6); FP8 uses w = 3 at 2:1. -/
def strainWidth (fmt rate : Nat) : Nat := if fmt ≠ 8 then 3 else if rate = 0 then 7 else if rate = 1 then 5 else 3

/-- The effective rate: RATE, or the strainer mode of the format state; absent for mode 0 (R243). -/
def strainRate (x : Xfer) (rec_ : List Byte) : Option Nat :=
  if x.rate < 3 then some x.rate else if strainMode rec_ = 0 then none else some (strainMode rec_ - 1)

/-- Header and codes of a subblock of 16 elements (R244). -/
def strainSub (w : Nat) (vs : List Val) : Nat × List Nat :=
  if vs.any fun v => !v.isFin then (0x8000, vs.map fun _ => 0)
  else
    match amaxOf vs with
    | .fin _ 0 _ => (0, vs.map fun _ => 0)
    | .fin _ m e =>
      (encodeExact fmtBF16 false m e, vs.map fun v =>
        match v with
        | .fin s n f =>
          let q := min e f
          let z := (Val.toInt s n f q * (2 ^ (w - 1) : Nat)) / Val.toInt false m e q
          codeOf w (min z ((2 : Int) ^ (w - 1) - 1))
        | _ => 0)
    | _ => (0, vs.map fun _ => 0)

/-- The container of 128 elements (Table DMA-7), and whether a NaN or an infinity was read. -/
def strainEncode (w : Nat) (vs : List Val) : List Byte × Bool :=
  let subs := (List.range 8).map fun j => strainSub w ((vs.drop (16 * j)).take 16)
  let codes := (subs.flatMap (·.2)).foldr (fun x acc => x % 2 ^ w + 2 ^ w * acc) 0
  (subs.flatMap (fun h => leBytes 2 h.1) ++ leBytes (16 * w) codes, vs.any fun v => !v.isFin)

/-- The value of element i of a container (R245). -/
def strainDecode (w : Nat) (bs : List Byte) (i : Nat) : Val :=
  let h := field bs (2 * (i / 16)) 2
  let q := signed w (bitsAt (leNat (bs.drop 16)) (w * i) w)
  if bitAt h 15 || bitsAt h 7 8 == 0xFF then .nan
  else
    match decodeVal fmtBF16 h with
    | .fin _ 0 _ => Val.zero
    | .fin _ m e => Val.ofInt ((2 * q + 1) * m) (e - w) false
    | v => v

/-- The code of a decoded element in the destination format. -/
def strainCode (fmt : Nat) (v : Val) : Conv :=
  if isMx fmt then
    match v with
    | .nan => ⟨canonicalNan fmt, {}, true, false⟩
    | v => encodeElem (fmtAt fmt) true false v
  else convertFloat (fmtAt fmt) false v

/-- A container's bytes in the strainer's planes. -/
def containerBytes (w : Nat) : Nat := 16 + 16 * w

end Sys2Proof.Machine
end

