-- ==== Sys2Proof/Machine/Dma.lean ====
section
/-! DEFINITION. Transfers on the DMA channels: the conditions checked, the current descriptor of a channel,
chains, gathers, scatters, window loads, the strainer, scrubs and invalidates (R226 to R247, R130 to R147, R203,
R257, R469, R470). -/

namespace Sys2Proof.Machine

/-! ### Conditions of Table DMA-10 -/

/-- A range a transfer names lies within its space (R196); retirement is met during the transfer. -/
def rangeOk (s : State) (ag : Agent) (a n : Nat) : Bool := rangeMapped s ag a n

/-- The ranges of a side lie within their spaces. -/
def sideOk (s : State) (ag : Agent) (x : Side) : Bool :=
  rangeOk s ag x.eb x.span && (!isMx x.t.fmt || rangeOk s ag x.sb x.scales)

/-- The records a descriptor names, with their lengths (R469). -/
def recordRanges (x : Xfer) : List (Nat × Nat) :=
  match x.kind with
  | 1 | 3 => [(x.aux, 128)]
  | 2 => [(x.aux, 64)]
  | _ => []

/-- The bits of a transfer descriptor that no kind allows (R5, Table DMA-2). -/
def xferBitsOk (d : List Byte) : Bool :=
  let x := parseXfer d
  field d 0 1 == 0x20 && bitsAt (field d 1 1) 6 2 == 0 && x.skew != 3 && bitsAt (field d 3 1) 5 3 == 0 &&
  x.strain != 3 && bitsAt (field d 5 1) 2 6 == 0 && [15, 23, 31, 39, 47, 55].all (fun i => field d i 1 == 0) &&
  x.next % 64 == 0 && fmtOk x.srcFmt && fmtOk x.dstFmt && (x.skew != 0 || x.skewLd == 0) &&
  (x.kind == 0 || x.length == 0) && (x.kind != 0 || x.aux == 0) &&
  (x.kind != 2 || (x.src == 0 && x.dst == 0 && x.srcScale == 0 && x.dstScale == 0)) &&
  (x.kind != 3 || (x.src == 0 && x.srcScale == 0))

/-- The conditions on the strainer (R242, R243, R247). The rate of RATE 3 is that of the format state. -/
def strainOk (s : State) (x : Xfer) (r : StrideRec) : Bool :=
  let fp8 := x.srcFmt == 0 || x.srcFmt == 1
  x.strain == 0 ||
    ((x.srcFmt == 8 || fp8) && (x.dstFmt == x.srcFmt || (x.strain == 2 && x.srcFmt == 8 && x.dstFmt == 10)) &&
      !x.strict && x.skew == 0 && decide (x.kind < 2) && elemCount r.ext % 128 == 0 &&
      (if x.strain = 1 then r.dst else r.src).all (· == 0) &&
      (!fp8 || x.rate == 0 || (x.rate == 3 && decide (strainMode (formatRecord s x.tensor) ≤ 1))))

/-- Bytes of the compressed side of a strainer transfer. -/
def strainedBytes (s : State) (x : Xfer) (n : Nat) : Nat :=
  match strainRate x (formatRecord s x.tensor) with
  | some k => n / 128 * containerBytes (strainWidth x.srcFmt k)
  | none => packedBytes x.srcFmt n

/-- The stride record's own conditions (Table DMA-3). -/
def strideRecOk (b : List Byte) : Bool :=
  let n := field b 0 1
  decide (1 ≤ n ∧ n ≤ 6) && field b 1 7 == 0 && field b 112 16 == 0 &&
  (List.range 6).all fun d => decide (d < n) ||
    (field b (8 + 4 * d) 4 == 0 && field b (24 + 8 * d) 8 == 0 && field b (64 + 8 * d) 8 == 0)

/-- The host side of a HOST_ENV transfer: base, bytes in a row of dimension 0, rows' strides and span (R252). -/
structure HostSide where
  base : Nat
  row : Nat
  strides : List Nat
  span : Nat
  env : Nat
  fmt : Nat
  deriving DecidableEq, Repr

/-- The bytes of a side that the strainer may have compressed. -/
def hostSide (s : State) (x : Xfer) (r : StrideRec) : HostSide :=
  let n := elemCount r.ext
  if spaceOf x.src = .host then
    let whole := strainedBytes s x n
    if x.strain = 2 then ⟨x.src, whole, [], whole, x.srcScale, x.srcFmt⟩
    else ⟨x.src, runBytes (srcSide x r).t (nthD 0 r.ext 0), r.src, (srcSide x r).span, x.srcScale, x.srcFmt⟩
  else
    let whole := strainedBytes s x n
    if x.strain = 1 then ⟨x.dst, whole, [], whole, x.dstScale, x.dstFmt⟩
    else ⟨x.dst, runBytes (dstSide x r).t (nthD 0 r.ext 0), r.dst, (dstSide x r).span, x.dstScale, x.dstFmt⟩

/-- HOST_ENV keeps R252. -/
def hostEnvOk (s : State) (ag : Agent) (x : Xfer) (r : StrideRec) : Bool :=
  !x.hostEnv ||
    (let h := hostSide s x r
     decide (x.kind < 2) && ((spaceOf x.src == .host) != (spaceOf x.dst == .host)) && h.base % 512 == 0 &&
       h.row % 512 == 0 && h.strides.all (fun n => n % 512 == 0) && !isMx h.fmt &&
       rangeOk s ag h.env (4 * (h.span / 512)))

/-- The ranges of a LINEAR or STRIDED transfer. -/
def plainOk (s : State) (e : Engine) (x : Xfer) : Bool :=
  let ag := chAgent e
  let r := stridesOf s ag x
  let n := elemCount r.ext
  let a := srcSide x r
  let b := dstSide x r
  let scales := fun (y : Side) (envSide : Bool) => !isMx y.t.fmt || (x.hostEnv && envSide) || rangeOk s ag y.sb y.scales
  strainOk s x r && hostEnvOk s ag x r &&
  (x.skew == 0 || (spaceOf x.dst == .operand && x.skewLd % 64 == 0 &&
    decide (x.skewLd ≥ (if x.skew = 1 then packedBytes x.dstFmt 32 else packedBytes x.dstFmt (nthD 0 r.ext 0 + 31))))) &&
  (if x.strain = 2 then rangeOk s ag x.src (strainedBytes s x n) else rangeOk s ag x.src a.span) &&
  scales a (spaceOf x.src == .host) &&
  (x.scrub ||
    ((if x.strain = 1 then rangeOk s ag x.dst (strainedBytes s x n)
      else if x.skew ≠ 0 then rangeOk s ag x.dst (skewSpan x r)
      else rangeOk s ag x.dst b.span) && scales b (spaceOf x.dst == .host)))

/-- The core of a channel's operand store, core 0 for a channel that serves none. -/
def chHome (ch : Fin 32) : Nat := if ch.val < 16 then ch.val else 0

/-- The slot layout of a block list's dense side (R131). -/
def slotTensor (b : BlockRec) (t : Tensor) (fmt : Nat) : Tensor :=
  layoutTensor fmt t.axis (b.shape.take t.rank) none

def slotBytes (b : BlockRec) (t : Tensor) (fmt : Nat) : Nat :=
  pieceSpan (slotTensor b t fmt) (b.shape.take t.rank)

def slotScales (b : BlockRec) (t : Tensor) (fmt : Nat) : Nat :=
  pieceScales (slotTensor b t fmt) (b.shape.take t.rank)

/-- Shard k of a dimension of extent e holds an index of [a, b). -/
def shardMeets (e : Nat) (h : Shard) (k a b : Nat) : Bool :=
  let bl := max 1 (shardBlock e h)
  decide (a < b) && (List.range (min h.count ((b - 1) / bl - a / bl + 1))).any fun i => (a / bl + i) % h.count == k

/-- A holder's piece has an element of the box of global indices: [a, b) along each dimension. -/
def pieceMeets (t : Tensor) (h : Holder) (box : List (Nat × Nat)) : Bool :=
  (List.range t.rank).all fun d =>
    let r := nthD (0, 0) box d
    match h.mesh with
    | some (m, i) =>
      if (t.sh d).axis > 3 then decide (r.1 < r.2) else shardMeets (t.ext d) (t.sh d) (heldShard m t i d) r.1 r.2
    | none => decide (r.1 < r.2)

/-- No device off the board that holds a piece the transfer could name, one with an element of the box, lies along the axes that shard
the tensor from a device of the board (R141, Table TEN-7). A device that differs on a replicating axis holds a replica, which a gather
leaves to the board's own (R140); a scatter, which writes every replica, can name none off the board (DESIGN CHOICE, log entry 43). -/
def reachable (s : State) (t : Tensor) (hs : List Holder) (box : List (Nat × Nat)) (scatter : Bool) : Bool :=
  hs.all fun h => onBoard s h.module || !pieceMeets t h box ||
    (!scatter && !hs.any fun g => onBoard s g.module &&
      match g.mesh, h.mesh with
      | some (m, i), some (_, j) => sameReplica t m i j
      | _, _ => true)

/-- The global indices of a whole tensor: a block list may name any block. -/
def wholeBox (t : Tensor) : List (Nat × Nat) := (List.range t.rank).map fun d => (0, t.ext d)

/-- The conditions of Table TEN-7 on a BLOCK_LIST transfer of a tile channel. -/
def blockListOk (s : State) (tl : TileId) (ch : Fin 32) (x : Xfer) : Bool :=
  let ag := chAgent (.tile tl ch)
  let raw := readBytes s ag x.aux 64
  let b := parseBlockRec raw
  match tensorOf s b.tensor with
  | none => false
  | some t =>
    let dense := if b.op = 0 then x.dstFmt else x.srcFmt
    let hs := holders s t tl.val
    let n := b.entries * slotBytes b t dense
    let ns := b.entries * slotScales b t dense
    let shape := fun d => nthD 0 b.shape d
    b.op != 3 && b.policy != 3 && field raw 7 1 == 0 && bitsAt (field raw 12 1) 5 3 == 0 && field raw 13 1 == 0 &&
    field raw 47 1 == 0 && field raw 55 1 == 0 && field raw 56 8 == 0 && b.list % 4 == 0 &&
    (b.op != 2 || decide (8 ≤ x.dstFmt)) && (!b.strict || b.op == 2) &&
    (if b.op = 0 then x.srcFmt else x.dstFmt) == t.fmt &&
    (List.range 6).all (fun d => decide (shape d ≠ 0) == decide (d < t.rank)) &&
    (!isMx t.fmt || shape t.blockAxis % 32 == 0) &&
    (List.range t.rank).all (fun d => t.mesh == 0xFF || decide ((t.sh d).axis > 3) ||
      (shape d != 0 && shardBlock (t.ext d) (t.sh d) % shape d == 0)) &&
    reachable s t hs (wholeBox t) (b.op != 0) && rangeOk s ag b.list (4 * t.rank * b.entries) && rangeOk s ag b.dense n &&
    (!isMx dense || rangeOk s ag b.denseScale ns) &&
    [(b.dense, n), (b.denseScale, ns)].all (fun p => !overlap p.1 p.2 b.list (4 * t.rank * b.entries)) &&
    (hs.filter fun h => h.module == moduleIndex s && h.tile == tl.val).all fun h =>
      let es := localExts h.mesh t
      let home := spaceStart t h.tile (chHome ch)
      let piece := [(home + t.elem, pieceSpan t es), (home + t.scale, pieceScales t es)]
      [(b.dense, n), (b.denseScale, ns)].all fun p => piece.all fun q => !overlap p.1 p.2 q.1 q.2

/-- The padded window's extents. -/
def winExts (w : WinRec) (rank : Nat) : List Nat :=
  (List.range rank).map fun d => nthD 0 w.lo d + nthD 0 w.count d + nthD 0 w.hi d

/-- Positions between the data and the padding above it: along the block axis of an MX destination the data's last block is
completed as R54 says, because padded blocks hold only padding (R147; DESIGN CHOICE, log entry 80). -/
def winFill (fmt axis : Nat) (w : WinRec) (d : Nat) : Nat :=
  if isMx fmt && d == axis && nthD 0 w.hi d != 0 then roundUp (nthD 0 w.count d) 32 - nthD 0 w.count d else 0

/-- The extents that the window takes in the operand store. -/
def winStored (fmt axis : Nat) (w : WinRec) (rank : Nat) : List Nat :=
  (winExts w rank).mapIdx fun d e => e + winFill fmt axis w d

/-- The window index of a stored position, absent between the data and the padding above it. -/
def winIndex (fmt axis : Nat) (w : WinRec) (idx : List Nat) : Option (List Nat) :=
  let ps := idx.mapIdx fun d i =>
    let data := nthD 0 w.lo d + nthD 0 w.count d
    let f := winFill fmt axis w d
    (decide (i < data) || decide (data + f ≤ i), if i < data then i else i - f)
  if ps.all (·.1) then some (ps.map (·.2)) else none

/-- The global indices that a window reads: its data, and with edge-replicate and no data the edge. -/
def winBox (w : WinRec) (t : Tensor) : List (Nat × Nat) :=
  (List.range t.rank).map fun d =>
    let o := nthD 0 w.origin d
    if nthD 0 w.count d ≠ 0 ∨ w.mode ≠ 2 then (o, o + nthD 0 w.count d)
    else (if nthD 0 w.lo d ≠ 0 then 0 else t.ext d - 1, if nthD 0 w.hi d ≠ 0 then t.ext d else 1)

/-- The conditions on a WINDOW transfer (R143 to R147). -/
def windowRecOk (s : State) (tl : TileId) (ch : Fin 32) (x : Xfer) : Bool :=
  let ag := chAgent (.tile tl ch)
  let raw := readBytes s ag x.aux 128
  let w := parseWinRec raw
  match tensorOf s w.tensor with
  | none => false
  | some t =>
    let v := fun (l : List Nat) d => nthD 0 l d
    let es := winStored x.dstFmt t.axis w t.rank
    let side : Side := ⟨layoutTensor x.dstFmt t.axis es none, x.dst, x.dstScale, es⟩
    w.mode != 3 && bitsAt (field raw 2 1) 2 6 == 0 && field raw 3 1 == 0 && field raw 80 48 == 0 &&
    x.srcFmt == t.fmt && spaceOf x.dst == .operand &&
    (!isMx x.dstFmt || spaceOf x.dstScale == .operand) && sideOk s ag side &&
    (List.range 6).all (fun d => decide (d < t.rank) || (v w.count d == 0 && v w.lo d == 0 && v w.hi d == 0)) &&
    (List.range t.rank).all (fun d =>
      decide (v w.origin d + v w.count d ≤ t.ext d) && (v w.lo d == 0 || v w.origin d == 0) &&
      (v w.hi d == 0 || v w.origin d + v w.count d == t.ext d) &&
      (w.mode != 2 || t.ext d != 0)) &&
    (!isMx x.dstFmt ||
      (v w.lo t.axis % 32 == 0 && v w.hi t.axis % 32 == 0 && v w.origin t.axis % 32 == 0)) &&
    (es.any (· == 0) || reachable s t (holders s t tl.val) (winBox w t) false)

/-- NEXT is where R227 lets the channel fetch it: its own core's operand store or its own tile's scratchpad; a
mapped address for a base die; host memory for the host DMA. -/
def nextOk (s : State) (e : Engine) (x : Xfer) : Bool :=
  !x.chain ||
    (match e with
     | .tile t c =>
       (spaceOf x.next == .scratch && bitsAt x.next 28 6 == t.val && rangeOk s (chAgent e) x.next 64) ||
         (decide (c.val < 16) && spaceOf x.next == .operand && bitsAt x.next 22 10 == 16 * t.val + c.val)
     | .die .. => rangeOk s .other x.next 64
     | .host _ => spaceOf x.next == .host)

/-- What Table DMA-1 allows the engine. -/
def engineOk (e : Engine) (x : Xfer) : Bool :=
  match e with
  | .tile .. => true
  | .die .. => decide (x.kind < 2) && x.srcFmt == x.dstFmt && x.strain == 0 && x.skew == 0
  | .host _ => decide (x.kind < 2) && x.srcFmt == x.dstFmt && x.strain == 0 && x.skew == 0 && !x.strict && !x.scrub

/-- The engine can read the records the descriptor names. -/
def recordsOk (s : State) (e : Engine) (x : Xfer) : Bool :=
  (recordRanges x).all fun r => r.1 % 64 == 0 && rangeOk s (chAgent e) r.1 r.2

/-- No condition of Table DMA-10 holds that the descriptor shows without its records. -/
def transferBitsOk (s : State) (e : Engine) (d : List Byte) : Bool :=
  let x := parseXfer d
  xferBitsOk d && engineOk e x && nextOk s e x && recordsOk s e x && tensorOk s x.tensor &&
  (x.strain == 0 || decide (x.kind < 2)) && (x.skew == 0 || decide (x.kind < 2)) &&
  (!x.scrub || (x.dst == 0 && x.strain == 0 && x.rate == 0 && !x.strict && x.srcFmt == x.dstFmt)) &&
  (x.rate != 3 || x.tensor != 0xFFFF) &&
  (!x.hostEnv || decide (x.kind < 2)) && (x.kind != 0 || plainOk s e x)

/-- No condition of Table DMA-10 holds for a transfer descriptor (R257). -/
def transferOk (s : State) (e : Engine) (d : List Byte) : Bool :=
  let x := parseXfer d
  transferBitsOk s e d &&
  (x.kind != 1 || strideRecOk (readBytes s (chAgent e) x.aux 128)) &&
  match x.kind, e with
  | 2, .tile t c => blockListOk s t c x
  | 3, .tile t c => windowRecOk s t c x
  | 2, _ => false
  | 3, _ => false
  | _, _ => plainOk s e x

/-- No condition of R204 holds for an invalidate descriptor. -/
def invalidateOk (d : List Byte) : Bool :=
  field d 0 1 == 0x30 && field d 1 3 == 0 && field d 5 3 == 0 && field d 8 1 == 0 && field d 15 1 == 0 &&
  field d 16 8 % 256 == 0 && field d 24 40 == 0

/-- The poisoned blocks of a descriptor's own records; a list is verified as the transfer reaches it (R469). -/
def recordsBad (s : State) (e : Engine) (x : Xfer) : List (Nat × Nat) × State :=
  verifyAll s (chAgent e) ((recordRanges x).flatMap fun r => blocksOf r.1 r.2)

/-- Elements or entries that a descriptor counts in RESIDUE. -/
def wholeCount (s : State) (e : Engine) (d : List Byte) : Nat :=
  let x := parseXfer d
  let ag := chAgent e
  match x.kind with
  | 0 => x.length
  | 1 => elemCount (stridesOf s ag x).ext
  | 2 => (parseBlockRec (readBytes s ag x.aux 64)).entries
  | _ =>
    let w := parseWinRec (readBytes s ag x.aux 128)
    match tensorOf s w.tensor with
    | some t => elemCount (winExts w t.rank)
    | none => 0

/-! ### The current descriptor of a channel -/

/-- The address, bytes and format state record of the descriptor that a channel executes (R226). -/
def current (s : State) (e : Engine) : Option (Nat × List Byte × List Byte) :=
  let c := s.chan e
  if chHalted s e || c.next.isSome then none
  else
    match c.cur with
    | some (a, d) => some (a, d, c.format)
    | none =>
      match chCore e with
      | some k =>
        match nthD [] (s.seq k).queues 2 with
        | q :: _ => if q.done then none else some (q.addr, q.desc, q.format)
        | [] => none
      | none => none

/-- A descriptor that its ISSUE read from a poisoned block: of its bytes the queue holds none, only the KIND of the event (R469). -/
def unread (d : List Byte) : Bool := decide (d.length < 64)

/-- The current descriptor, of an opcode. One that could not be read is met by TRANSFER, which aborts its channel (log entry 43). -/
def currentOf (s : State) (e : Engine) (opcode : Nat) : Option (Nat × List Byte × List Byte) :=
  (current s e).filter fun c => field c.2.1 0 1 == opcode || unread c.2.1 && opcode == 0x20

/-- The channel executes a descriptor, or is about to fetch the next of its chain. -/
def executing (s : State) (e : Engine) : Bool := (current s e).isSome || (s.chan e).next.isSome

/-- A pulse of a channel reaches its counter: the core's own tile, or the tile of a host chain (Table HST-4).
Pulse fields are ignored on other channels (R227). -/
def channelPulse (s : State) (e : Engine) (ev : Nat) : State :=
  match e with
  | .tile t c => if c.val < 16 then pulseAt s t ev else s
  | .host _ =>
    match (s.chan e).pulseTile.bind tileOf? with
    | some t => pulseAt s t ev
    | none => s
  | .die .. => s

/-- The end of a host chain completes its COPY: DATA_POISONED where it read poisoned device blocks (R371, R470). -/
def copyEnds (s : State) (e : Engine) : State :=
  match e with
  | .host q =>
    let c := s.chan e
    if c.poisoned = 0 then completeRing s q 0 0 0 else completeRing s q 7 c.poisoned c.poisonAt
  | _ => s

/-- BYTES of a channel: the source bytes read for the current descriptor (R235). -/
def chRead (s : State) (e : Engine) (n : Nat) : State := fset s (chProgress e) f_DMA_CH_PROGRESS_BYTES n

/-- A descriptor has completed (R234, R235): progress, and the chain's next descriptor, the head of the queue
waiting for its pulse, or an idle channel. -/
def completeDesc (s : State) (e : Engine) (a : Nat) (d : List Byte) (bytes : Nat) : State :=
  let x := parseXfer d
  let chained := field d 0 1 == 0x20 && x.chain
  let r := chProgress e
  let s := chRead s e bytes
  let s := fset s r f_DMA_CH_PROGRESS_DONE (fget s r f_DMA_CH_PROGRESS_DONE + 1)
  let c := s.chan e
  if chained then
    (chBusy s e true a).setChan e { c with cur := some (a, d), next := some x.next, pulseDue := x.pulse }
  else
    let s := (chBusy s e false a).setChan e { c with cur := none, abortPending := false }
    match chCore e with
    | some k =>
      let q := s.seq k
      match nthD [] q.queues 2 with
      | h :: t => s.setSeq k { q with queues := setNth q.queues 2 ({ h with desc := d, done := true } :: t) }
      | [] => s
    | none => copyEnds (channelPulse s e (field d 4 1)) e

/-! ### Flags and progress -/

/-- Set DMA_FLAGS and count the clamps (R239). -/
def dmaFlags (s : State) (e : Engine) (fl : Flags) : State :=
  match e with
  | .tile t _ => mcTile (s.setReg (DMA_FLAGS t.val) (s.reg (DMA_FLAGS t.val) ||| fl.bits)) t 0x020 0x10 fl.clamps
  | _ => s

/-- Count the bytes a tile channel moves. -/
def dmaBytes (s : State) (e : Engine) (n : Nat) : State :=
  match e with
  | .tile t c => mcTile s t 0x060 c.val n
  | _ => s

/-- Poisoned blocks that a channel uses: a record for channels 0 to 15 (R256), the completion status of a host
chain (R470). -/
def dmaPoison (s : State) (e : Engine) (bad : List (Nat × Nat)) : State :=
  match e with
  | .tile t c => if c.val < 16 then integrityAll s t c.val 0 bad else s
  | .host _ =>
    let c := s.chan e
    match bad.filter fun b => spaceOf b.1 != .host with
    | [] => s
    | b :: bs => s.setChan e { c with
        poisoned := stick (2 ^ 32 - 1) (c.poisoned + bs.length + 1), poisonAt := if c.poisoned = 0 then b.1 else c.poisonAt }
  | .die .. => s

/-- Record what conversions report (R239, R259, R261). -/
def dmaMade (s : State) (e : Engine) (x : Xfer) (rec_ : List Byte) (m : Made) : State :=
  let s := mergeAmax (dmaFlags s e m.fl) x.tensor m.amax
  if gradOf rec_ then addNonfinite s m.counted else s

/-! ### HOST_ENV (R252) -/

/-- The 512-byte blocks of a host side, ascending, without those that the strides skip. -/
def hostBlocks (h : HostSide) (touched : List Nat) : List Nat :=
  (List.range (h.span / 512)).filterMap fun i =>
    if touched.contains (h.base + 512 * i) then some i else none

/-- The host blocks of a source whose supplied envelope does not verify, with their kinds. -/
def hostEnvBad (s : State) (ag : Agent) (h : HostSide) (touched : List Nat) : List (Nat × Nat) :=
  (hostBlocks h touched).filterMap fun i =>
    let a := h.base + 512 * i
    let crc := crc32c (readBytes s ag a 512)
    let env := readNat s ag (h.env + 4 * i) 4
    if env = crc then none else some (a, if env = 0xFFFFFFFF - crc then 2 else 1)

/-- Write the envelopes of a host destination, the inverse for a block that depends on a poisoned one. -/
def writeHostEnv (s : State) (ag : Agent) (h : HostSide) (touched poisoned : List Nat) : State :=
  (hostBlocks h touched).foldl (fun s i =>
    let a := h.base + 512 * i
    let crc := crc32c (readBytes s ag a 512)
    writeBytes s ag (h.env + 4 * i) (leBytes 4 (if poisoned.contains a then 0xFFFFFFFF - crc else crc)) false) s

/-! ### Running units -/

/-- The units that run: those before the first fault, within the elements an abort lets move. -/
def takeUnits (s : State) (x : Xfer) (limit : Option Nat) : Nat → List Unit_ → List Unit_ × Bool
  | _, [] => ([], false)
  | n, u :: us =>
    if (match limit with | some k => decide (k < n + u.count) | none => false) then ([], false)
    else if unitFaults s x u then ([], true)
    else
      let r := takeUnits s x limit (n + u.count) us
      (u :: r.1, r.2)

def unitCount (us : List Unit_) : Nat := (us.map (·.count)).sum

/-- Source bytes of units: element bytes, of an MX source whole blocks with their scales (log entry 43). -/
def unitBytes (x : Xfer) (us : List Unit_) : Nat :=
  let es := us.flatMap fun u => u.groups.flatMap fun g => g.elems.map (·.src)
  let remote := (es.filterMap Src.module).length
  let scales := (es.filterMap fun e => match e with
    | .at_ _ _ sa => some sa
    | _ => none)
  if isMx x.srcFmt then
    ceilDiv (remote * fmtBits x.srcFmt) 8 + scales.eraseDups.length * (packedBytes x.srcFmt 32 + 1)
  else ceilDiv ((remote + scales.length) * fmtBits x.srcFmt) 8

/-- Modules of the board that a group reads or writes. -/
def Group.modules (g : Group) : List Nat :=
  g.elems.filterMap (·.src.module) ++ (g.elems.flatMap fun e => e.far.map (·.1)) ++ g.farScales.map (·.1)

/-- What a tile's channel exchanges with another module of the board waits for a link of the mesh on the way to the east port die (R298,
R308). -/
def eastWaits (s : State) : Engine → Bool
  | .tile t _ => dieBlocked s t true
  | _ => false

/-- Some request could wait: a device holds requests, or a link of the mesh retrains. -/
def someWait (s : State) : Bool := anyHeld s || !s.links.retraining.isEmpty

/-- A request of the units waits: at a device that holds it (R216, R218), for a link of the mesh (R308), or for the Span port to a module
of the board (R309). -/
def unitsHeld (s : State) (e : Engine) (x : Xfer) (us : List Unit_) : Bool :=
  (us.any fun u => u.groups.any fun g => g.modules.any fun m => !peerOpen s m || m != moduleIndex s && eastWaits s e) ||
  someWait s && us.any fun u => u.groups.any fun g => requestsWait s e (srcBlocks x.srcFmt g ++ dstAddrs x.dstFmt g)

/-- The parity error in the data path of a channel, or of the host interface where that lies on it (R254). -/
def pathError (s : State) (e : Engine) (host : Bool) : Option ErrKind :=
  (ErrKind.channelPath (chanKey e) :: if host then [.hostPath] else []).find? (faulty s)

/-- A parity error in a transfer's data path: what it writes is poisoned, and the tile records the event (R254, Table DMA-9). -/
def pathBad (s : State) (e : Engine) (x : Xfer) (m : Made) : Made × State :=
  match pathError s e (spaceOf x.src == .host || spaceOf x.dst == .host), m.puts with
  | some k, p :: _ =>
    ({ m with puts := m.puts.map fun q => { q with poison := true }, far := m.far.map fun q => (q.1, { q.2 with poison := true }) },
      dmaPoison (clearErr s k) e [(p.at_.1 / 512 * 512, 3)])
  | _, _ => (m, s)

/-- Move units that meet no fault: verify the sources, make and write the results, and record what it reports. -/
def moveUnits (s : State) (e : Engine) (x : Xfer) (rec_ : List Byte) (host : Option HostSide) (us : List Unit_) : State :=
  let ag := chAgent e
  let gs := us.flatMap (·.groups)
  let blocks := (gs.flatMap (srcBlocks x.srcFmt)).eraseDups
  let v := verifyAll s ag blocks
  let addrs := gs.flatMap (dstAddrs x.dstFmt)
  let fromHost := spaceOf x.src == .host
  let bad := v.1 ++ (match host with
    | some h => if fromHost then hostEnvBad v.2 ag h blocks else []
    | none => [])
  let s := dmaPoison v.2 e bad
  let m := makeUnits s ag x (policyOf rec_ (fmtAt x.dstFmt)) bad ⟨[], []⟩ gs
  let m := pathBad m.2 e x m.1
  let s := sendFar (writePuts m.2 ag m.1.puts) m.1.far
  let s := match host with
    | some h =>
      if fromHost then s
      else writeHostEnv s ag h ((addrs.map fun a => a / 512 * 512).eraseDups)
        ((m.1.puts.filter (·.poison)).map fun p => p.at_.1 / 512 * 512)
    | none => s
  dmaBytes (dmaMade s e x rec_ m.1) e (unitBytes x us)

/-- Run a transfer's units to the end, to a fault, or to an abort's limit. -/
def runUnits (s : State) (e : Engine) (a : Nat) (d rec_ : List Byte) (limit : Option Nat) (us : List Unit_) : State :=
  let x := parseXfer d
  let n := unitCount us
  let host := if x.hostEnv then some (hostSide s x (stridesOf s (chAgent e) x)) else none
  let r := takeUnits s x limit 0 us
  if limit.isNone && unitsHeld s e x r.1 then s
  else
  let s := chRead (moveUnits s e x rec_ host r.1) e (unitBytes x r.1)
  if r.2 then abortChannel s e 2 (n - unitCount r.1) a
  else if r.1.length = us.length then completeDesc s e a d (unitBytes x us)
  else abortChannel s e 1 (n - unitCount r.1) a

/-! ### Waiting and fetching -/

/-- Host ports that a descriptor's sides, records and envelopes need. -/
def hostNeeds (x : Xfer) : List Nat :=
  let scale := fun f a => if isMx f || x.hostEnv then [a] else []
  (([x.src, x.dst, x.aux] ++ scale x.srcFmt x.srcScale ++ scale x.dstFmt x.dstScale).filter
    fun a => spaceOf a == .host).map hostPort

/-- Run `act` where every port of a list is up; otherwise the requests wait. -/
def withPorts (s : State) (e : Engine) (ps : List Nat) (act : State → State) : State :=
  match ps.find? fun p => !portUp s p with
  | some p => waitLink s p (.channel e)
  | none => act s

/-- Start a current descriptor: it is shown, and its own block and its records are verified (R469): the poisoned ones. -/
def startDesc (s : State) (e : Engine) (a : Nat) (d : List Byte) : List (Nat × Nat) × State :=
  let x := parseXfer d
  let s := chRead (chBusy s e true a) e 0
  let own := if unread d then ([(a / 512 * 512, field d 0 1)], s)
    else if (s.chan e).cur.isSome then ([], s) else verifyRange s (chAgent e) a 64
  let recs := if field d 0 1 = 0x20 then recordsBad own.2 e x else ([], own.2)
  (own.1 ++ recs.1, recs.2)

/-- A channel finds a parity error in its descriptor or state: it aborts with CAUSE 4 (R236, R254). -/
def channelParity (s : State) (e : Engine) (a : Nat) : State :=
  abortChannel (dmaPoison (clearErr s (.channel (chanKey e))) e [(a / 512 * 512, 3)]) e 4 0 a

/-- A record of the descriptor lies in a retired range (R196, R236). Its count is then unreadable, and RESIDUE reads zero as R238 has
it for CAUSE 4 (DESIGN CHOICE, log entry 86). -/
def recordsRetired (s : State) (d : List Byte) : Bool :=
  field d 0 1 == 0x20 && (recordRanges (parseXfer d)).any fun r => rangeRetired s r.1 r.2

/-- Run a current descriptor from its start; a poisoned block of its own (R469) or a parity error of the channel aborts it. -/
def withDesc (s : State) (e : Engine) (a : Nat) (d : List Byte) (act : State → State) : State :=
  let r := startDesc s e a d
  if faulty s (.channel (chanKey e)) then channelParity s e a
  else if recordsRetired s d then abortChannel s e 2 0 a
  else if r.1.isEmpty then act r.2 else abortChannel (dmaPoison r.2 e r.1) e 4 0 a

/-- The requests for the descriptor's own block and its records wait (R216, R218, R308). -/
def descHeld (s : State) (e : Engine) (a : Nat) (d : List Byte) : Bool :=
  someWait s && requestsWait s e (a :: (recordRanges (parseXfer d)).flatMap fun r => blocksOf r.1 r.2)

/-- Run the current transfer descriptor of a channel where `which` holds of it; it waits for a host port that is down (R363) and for
a device that holds requests. -/
def runCurrent (s : State) (e : Engine) (which : Xfer → Bool)
    (act : State → Nat → List Byte → List Byte → State) : State :=
  match currentOf s e 0x20 with
  | some (a, d, rec_) =>
    let x := parseXfer d
    if which x && !descHeld s e a d then withPorts s e (hostNeeds x) fun s => withDesc s e a d fun s => act s a d rec_ else s
  | none => s

/-! ### TRANSFER -/

/-- Run a LINEAR or STRIDED transfer. -/
def runPlain (s : State) (e : Engine) (limit : Option Nat) (a : Nat) (d rec_ : List Byte) : State :=
  let x := parseXfer d
  let r := stridesOf s (chAgent e) x
  runUnits s e a d rec_ limit (plainUnits x r (srcSide x r) (dstSide x r))

def isPlain (x : Xfer) : Bool := decide (x.kind < 2) && x.strain == 0 && !x.scrub

/-- TRANSFER: a channel moves a LINEAR or STRIDED transfer (R228 to R235, R239 to R241). -/
def execTransfer (e : Engine) (s : State) : Host.Outcome State Fault Refusal :=
  .next (runCurrent s e isPlain fun s a d r => runPlain s e none a d r)

/-! ### Block lists (R130 to R141) -/

/-- A block-list transfer in hand. -/
structure Listed where
  b : BlockRec
  t : Tensor
  hs : List Holder
  tile : Nat
  core : Nat
  deriving DecidableEq, Repr

/-- The block-list record of a channel's transfer, with its tensor. -/
def listedOf (s : State) (tl : TileId) (ch : Fin 32) (x : Xfer) : Option Listed :=
  let b := parseBlockRec (readBytes s (chAgent (.tile tl ch)) x.aux 64)
  (tensorOf s b.tensor).map fun t => ⟨b, t, holders s t tl.val, tl.val, chHome ch⟩

/-- Coordinates of an entry (R131). -/
def entryCoords (s : State) (ag : Agent) (l : Listed) (p : Nat) : List Int :=
  (List.range l.t.rank).map fun d => signed 32 (readNat s ag (l.b.list + 4 * (l.t.rank * p + d)) 4)

/-- Blocks along a dimension. -/
def blocksAlong (l : Listed) (d : Nat) : Nat := ceilDiv (l.t.ext d) (max 1 (nthD 1 l.b.shape d))

/-- A coordinate is in range. -/
def inRange (l : Listed) (d : Nat) (c : Int) : Bool := decide (0 ≤ c ∧ c < blocksAlong l d)

/-- What the policy makes of an entry (Table TEN-6, R135): block numbers, a skip, or a fault at a dimension. -/
inductive Entry where
  | block (c : List Nat)
  | skip
  | fault (dim : Nat) (c : Int)
  deriving DecidableEq, Repr

def resolveEntry (l : Listed) (cs : List Int) : Entry :=
  match cs.zipIdx.find? fun c => !inRange l c.2 c.1 with
  | none => .block (cs.map Int.toNat)
  | some (c, d) =>
    if l.b.policy = 1 then .skip
    else if l.b.policy = 2 && !cs.zipIdx.any fun c => blocksAlong l c.2 == 0 then
      .block (cs.mapIdx fun d c => (c % (blocksAlong l d : Int)).toNat)
    else .fault d c

/-- The entries of a list up to the first that stops the transfer: each entry's resolution, and the stop with
its position, a poisoned list block (R469), a list block in a retired range (R196) or a fault (R134). -/
structure Entries where
  run : List Entry
  stop : Option Entry
  poisoned : List (Nat × Nat)
  lost : Bool := false
  deriving DecidableEq, Repr

/-- Read entries from position p on, `n` of them at most. -/
def readEntries (s : State) (ag : Agent) (l : Listed) (bad : List (Nat × Nat)) (p : Nat) : Nat → Entries
  | 0 => ⟨[], none, [], false⟩
  | n + 1 =>
    let at_ := l.b.list + 4 * l.t.rank * p
    let hit := bad.filter fun b => overlap b.1 512 at_ (4 * l.t.rank)
    if rangeRetired s at_ (4 * l.t.rank) then ⟨[], none, [], true⟩
    else if !hit.isEmpty then ⟨[], none, hit, false⟩
    else
      match resolveEntry l (entryCoords s ag l p) with
      | .fault d c => ⟨[], some (.fault d c), [], false⟩
      | x =>
        let r := readEntries s ag l bad (p + 1) n
        { r with run := x :: r.run }

/-- The list's blocks verified, and its entries. -/
def listEntries (s : State) (ag : Agent) (l : Listed) : Entries × State :=
  let v := verifyRange s ag l.b.list (4 * l.t.rank * l.b.entries)
  (readEntries v.2 ag l v.1 0 l.b.entries, v.2)

/-- The place of an index within slot p of the dense side. -/
def slotPlace (l : Listed) (fmt p : Nat) (idx : List Nat) : Nat × Nat × Nat :=
  let t := slotTensor l.b l.t fmt
  tensorPlace t (l.b.dense + p * slotBytes l.b l.t fmt) (l.b.denseScale + p * slotScales l.b l.t fmt)
    (l.b.shape.take l.t.rank) idx

/-- The global index of an element of a block. -/
def globalIndex (l : Listed) (c idx : List Nat) : List Nat :=
  idx.mapIdx fun d i => nthD 0 c d * nthD 0 l.b.shape d + i

/-- The tensor's global extents. -/
def Listed.exts (l : Listed) : List Nat := (List.range l.t.rank).map fun d => l.t.ext d

/-- The source of a gathered element: its replica under R140, +0 beyond the extent (R132). -/
def gatherSrc (s : State) (l : Listed) (c idx : List Nat) : Src :=
  let g := globalIndex l c idx
  if !within l.exts g then .zero
  else
    match readHolder s l.t l.hs l.tile l.core g with
    | some (h, p) => if h.module = moduleIndex s then .at_ p.1 p.2.1 p.2.2 else .remote h.module
    | none => .remote (moduleIndex s)

/-- The places of a tensor's element on a module of the board: every replica that it holds (R140), none beyond the extent. -/
def replicas (l : Listed) (which : Holder → Bool) (c idx : List Nat) : List (Nat × Nat × Nat × Nat) :=
  let g := globalIndex l c idx
  if !within l.exts g then []
  else (l.hs.filter which).filterMap fun h => (placeIn l.t h l.core g).map fun p => (h.module, p)

/-- The places on this module. -/
def scatterDst (s : State) (l : Listed) (c idx : List Nat) : List (Nat × Nat × Nat) :=
  (replicas l (fun h => h.module == moduleIndex s) c idx).map (·.2)

/-- The places on other modules of the board, reached over Span (R141). -/
def scatterFar (s : State) (l : Listed) (c idx : List Nat) : List (Nat × Nat × Nat × Nat) :=
  replicas l (fun h => h.module != moduleIndex s && onBoard s h.module) c idx

/-- An entry's source bytes are not read again where one of the 63 entries before it names its block (R136). Entries that
are combined so chain: one that was itself served so serves the next 63 (DESIGN CHOICE, log entry 76). -/
def combinedAway (es : List Entry) (p : Nat) : Bool :=
  match es[p]? with
  | some (.block c) => ((es.take p).drop (p - 63)).contains (.block c)
  | _ => false

/-- The last entry before p that names its block, where it is among the 63 before it. -/
def combinedWith (es : List Entry) (p : Nat) : Option Nat :=
  if combinedAway es p then
    (((es.take p).zipIdx.filter fun e => some e.1 == es[p]?).getLast?).map (·.2)
  else none

/-- The unit of one gathered entry (R131, R132, R133); `rep` is the entry whose read serves it. -/
def gatherUnit (s : State) (l : Listed) (x : Xfer) (rep : Option Nat) (p : Nat) (e : Entry) : Unit_ :=
  let es := l.b.shape.take l.t.rank
  let gs := groupIndices x.dstFmt l.t.axis es
  { count := 1
    groups := gs.mapIdx fun k g =>
      { same := rep.map fun q => q * gs.length + k
        elems := g.map fun i =>
          let q := slotPlace l x.dstFmt p i
          { src := match e with
              | .block c => if within es i then gatherSrc s l c i else .zero
              | _ => .zero
            dst := [(q.1, q.2.1)], real := within es i, pad := false }
        scales := if isMx x.dstFmt then (g.take 1).map fun i => (slotPlace l x.dstFmt p i).2.2 else [] } }

/-- The unit of one scattered entry (R132, R137); a skipped entry writes nothing. -/
def scatterUnit (s : State) (l : Listed) (x : Xfer) (_ : Option Nat) (p : Nat) (e : Entry) : Unit_ :=
  match e with
  | .block c =>
    let es := l.b.shape.take l.t.rank
    { count := 1
      groups := (groupIndices x.dstFmt l.t.axis es).map fun g =>
        { elems := g.map fun i =>
            let q := slotPlace l x.srcFmt p i
            let ds := if within es i then scatterDst s l c i else []
            { src := .at_ q.1 q.2.1 q.2.2, dst := ds.map fun d => (d.1, d.2.1)
              real := within es i && within l.exts (globalIndex l c i), pad := false
              far := if within es i then (scatterFar s l c i).map fun d => (d.1, d.2.1, d.2.2.1) else [] }
          scales := if isMx x.dstFmt then
              ((g.take 1).flatMap fun i => scatterDst s l c i).map fun d => d.2.2
            else []
          farScales := if isMx x.dstFmt then
              ((g.take 1).flatMap fun i => scatterFar s l c i).map fun d => (d.1, d.2.2.2)
            else [] } }
  | _ => { count := 1, groups := [] }

/-- Count the skipped entries of a run (Table TEN-11). -/
def countSkips (s : State) (t : TileId) (es : List Entry) : State :=
  fadd s (TL_IDX_SKIP t.val) f_TL_IDX_SKIP_COUNT (es.filter (· == .skip)).length

/-- Record an index fault (R134, Tables TEN-9 and TEN-10). -/
def indexFault (s : State) (t : TileId) (ch : Fin 32) (p dim : Nat) (c : Int) : State :=
  let r := TL_IDX_FAULT t.val
  if fbit s r f_TL_IDX_FAULT_VALID then s
  else
    let s := fset (fset (fset (fset (fset s r f_TL_IDX_FAULT_POSITION p) r f_TL_IDX_FAULT_CHANNEL ch.val) r
      f_TL_IDX_FAULT_DIM dim) r f_TL_IDX_FAULT_NEGATIVE (boolNat (decide (c < 0)))) r f_TL_IDX_FAULT_VALID 1
    fset s (TL_IDX_COORD t.val) f_TL_IDX_COORD_COORD (codeOf 32 c)

/-- End a block-list transfer that performed `done` entries: the fault, the poisoned list, a retired range, an
abort, or completion. -/
def endList (s : State) (t : TileId) (ch : Fin 32) (a : Nat) (d : List Byte) (l : Listed) (es : Entries) (done : Nat)
    (faulted : Bool) (bytes : Nat) : State :=
  let e : Engine := .tile t ch
  let s := chRead s e bytes
  let left := l.b.entries - done
  if faulted || (es.lost && done == es.run.length) then abortChannel s e 2 left a
  else if done < es.run.length then abortChannel s e 1 left a
  else if !es.poisoned.isEmpty then
    abortChannel (dmaPoison s e es.poisoned) e 4 (if done = 0 then 0 else left) a
  else
    match es.stop with
    | some (.fault dim c) => abortChannel (indexFault s t ch done dim c) e 3 left a
    | _ => completeDesc s e a d bytes

/-- The requests for the list wait. -/
def listHeld (s : State) (e : Engine) (l : Listed) : Bool :=
  someWait s && requestsWait s e (blocksOf l.b.list (4 * l.t.rank * l.b.entries))

/-- Host ports that a list and its dense side need (R363). -/
def listPorts (l : Listed) : List Nat := ([l.b.list, l.b.dense, l.b.denseScale].filter fun a => spaceOf a == .host).map hostPort

/-- Run a gather or a scatter. -/
def runList (s : State) (t : TileId) (ch : Fin 32) (limit : Option Nat) (a : Nat) (d rec_ : List Byte)
    (mk : State → Listed → Xfer → Option Nat → Nat → Entry → Unit_) (gather : Bool) : State :=
  let x := parseXfer d
  match listedOf s t ch x with
  | none => s
  | some l =>
    withPorts s (.tile t ch) (listPorts l) fun s =>
    if limit.isNone && listHeld s (.tile t ch) l then s
    else
    let r := listEntries s (chAgent (.tile t ch)) l
    let us := r.1.run.mapIdx fun p e => mk r.2 l x (combinedWith r.1.run p) p e
    let k := takeUnits r.2 x limit 0 us
    if limit.isNone && unitsHeld s (.tile t ch) x k.1 then s
    else
    let s := r.2
    let done := k.1.length
    let s := countSkips (moveUnits s (.tile t ch) x rec_ none k.1) t (r.1.run.take done)
    let read := if gather then (k.1.zipIdx.filter fun u => !combinedAway r.1.run u.2).map (·.1) else k.1
    endList s t ch a d l r.1 done k.2 (unitBytes x read)

/-- The operation of a channel's block-list record; of the reserved code, which only a poisoned record can hold, SCATTER_ADD meets it. -/
def listOp (s : State) (e : Engine) (x : Xfer) : Nat := bitsAt (readNat s (chAgent e) (x.aux + 12) 1) 0 2

/-- GATHER: a channel copies listed blocks of a tensor into dense slots (R136). -/
def execGather (e : Engine) (s : State) : Host.Outcome State Fault Refusal :=
  match e with
  | .tile t c => .next (runCurrent s e (fun x => x.kind == 2 && !x.scrub && listOp s e x == 0) fun s a d r =>
      runList s t c none a d r gatherUnit true)
  | _ => .next s

/-- SCATTER: a channel writes dense slots into listed blocks of every replica (R137). -/
def execScatter (e : Engine) (s : State) : Host.Outcome State Fault Refusal :=
  match e with
  | .tile t c => .next (runCurrent s e (fun x => x.kind == 2 && !x.scrub && listOp s e x == 1) fun s a d r =>
      runList s t c none a d r scatterUnit false)
  | _ => .next s

/-! ### Scatter-add (R138) -/

/-- A running sum of an element of the tensor, on this module or, `far`, on another of the board; the `lead` replica's
conversion is the one counted. -/
structure Sum where
  lead : Bool
  far : Option Nat
  base : Nat
  idx : Nat
  acc : Acc
  bad : Bool
  deriving DecidableEq, Repr

/-- Add one slot element to the sum of one place, which starts from the element's current value. `conv` is STRICT of the descriptor,
for conversions, `strict` that of the record, for additions (log entry 43). -/
def sumInto (ag : Agent) (fmt : Nat) (conv strict : Bool) (bad : List (Nat × Nat)) (g : Got) (m : List Sum × State)
    (p : (Option Nat × Nat × Nat) × Nat) : List Sum × State :=
  let d := p.1
  let mine := fun (q : Sum) => q.far == d.1 && q.base == d.2.1 && q.idx == d.2.2
  let old := match m.1.find? mine with
    | some q => (q, m.2)
    | none =>
      let e := match d.1 with
        | none => ((⟨0, 127, elemVal m.2 ag fmt conv d.2.1 d.2.2, elemBad bad fmt d.2.1 d.2.2⟩ : Got), m.2)
        | some n => getElem_ m.2 ag fmt conv bad [] (.remote n)
      let r := roundF32 conv e.1.v
      (⟨p.2 == 0, d.1, d.2.1, d.2.2, { v := r.1, fl := r.2.or { nanin := e.1.v.isNan }, origin := none }, e.1.bad⟩, e.2)
  let r := roundF32 conv g.v
  let a := accAdd strict old.1.acc r.1 true
  ((m.1.filter fun q => !mine q) ++ [{ old.1 with acc := { a with fl := a.fl.or r.2 }, bad := old.1.bad || g.bad }], old.2)

/-- Add every slot element of the units, in list order. -/
def sumUnits (s : State) (e : Engine) (x : Xfer) (strict : Bool) (bad : List (Nat × Nat)) (us : List Unit_) :
    List Sum × State :=
  (us.flatMap fun u => u.groups.flatMap (·.elems)).foldl (fun m el =>
    let g := getElem_ m.2 (chAgent e) x.srcFmt x.strict bad [] el.src
    let places : List (Option Nat × Nat × Nat) :=
      (el.dst.map fun d => (none, d)) ++ el.far.map fun (d : Nat × Nat × Nat) => (some d.1, d.2)
    places.zipIdx.foldl (sumInto (chAgent e) x.dstFmt x.strict strict bad g.1) (m.1, g.2)) ([], s)

/-- The element blocks of a tensor that scatter-add reads. -/
def dstBlocks (fmt : Nat) (us : List Unit_) : List Nat :=
  us.flatMap fun u => u.groups.flatMap fun g => (dstAddrs fmt g).map fun a => a / 512 * 512

/-- Move the units of a scatter-add: each sum is converted once, after its last addition. -/
def addUnits (s : State) (e : Engine) (x : Xfer) (strict : Bool) (rec_ : List Byte) (us : List Unit_) : State :=
  let ag := chAgent e
  let gs := us.flatMap (·.groups)
  let v := verifyAll s ag ((gs.flatMap (srcBlocks x.srcFmt) ++ dstBlocks x.dstFmt us).eraseDups)
  let s := dmaPoison v.2 e v.1
  let m := sumUnits s e x strict v.1 us
  let made := m.1.foldl (fun a q =>
    let c := convertFloat (fmtAt x.dstFmt) x.strict q.acc.v
    let p : Put := ⟨q.base, q.idx, fmtBits x.dstFmt, c.code, q.bad⟩
    a.or { puts := if q.far.isNone then [p] else [], far := (q.far.map fun n => (n, p)).toList
           fl := q.acc.fl.or c.fl, counted := boolNat (q.lead && (c.counted || q.acc.fl.ovf)), amax := Val.zero }) Made.none
  let p := pathBad m.2 e x made
  dmaBytes (dmaMade (sendFar (writePuts p.2 ag p.1.puts) p.1.far) e x rec_ made) e (unitBytes x us)

/-- Run a scatter-add. -/
def runScatterAdd (s : State) (t : TileId) (ch : Fin 32) (limit : Option Nat) (a : Nat) (d rec_ : List Byte) : State :=
  let x := parseXfer d
  match listedOf s t ch x with
  | none => s
  | some l =>
    withPorts s (.tile t ch) (listPorts l) fun s =>
    if limit.isNone && listHeld s (.tile t ch) l then s
    else
    let r := listEntries s (chAgent (.tile t ch)) l
    let us := r.1.run.mapIdx fun p e => scatterUnit r.2 l x none p e
    let k := takeUnits r.2 x limit 0 us
    if limit.isNone && unitsHeld s (.tile t ch) x k.1 then s
    else
    let s := r.2
    let done := k.1.length
    let s := countSkips (addUnits s (.tile t ch) x l.b.strict rec_ k.1) t (r.1.run.take done)
    endList s t ch a d l r.1 done k.2 (unitBytes x k.1)

/-- SCATTER_ADD: a channel adds dense slots into listed blocks in ascending list order (R138). -/
def execScatterAdd (e : Engine) (s : State) : Host.Outcome State Fault Refusal :=
  match e with
  | .tile t c => .next (runCurrent s e (fun x => x.kind == 2 && !x.scrub && decide (2 ≤ listOp s e x)) fun s a d r =>
      runScatterAdd s t c none a d r)
  | _ => .next s

/-! ### Window loads (R143 to R147) -/

/-- The source of a position of a padded window (R146), and whether it is padding. -/
def windowSrc (s : State) (w : WinRec) (l : Listed) (idx : List Nat) : Src × Bool :=
  let g : List Int := idx.mapIdx fun d i => (nthD 0 w.origin d : Int) + i - nthD 0 w.lo d
  let inside := (g.mapIdx fun d i => decide (0 ≤ i ∧ i < (l.t.ext d : Int))).all id
  let at_ := fun (i : List Nat) =>
    match readHolder s l.t l.hs l.tile l.core i with
    | some (h, p) => if h.module = moduleIndex s then Src.at_ p.1 p.2.1 p.2.2 else .remote h.module
    | none => .remote (moduleIndex s)
  if inside then (at_ (g.map Int.toNat), false)
  else
    match w.mode with
    | 1 => (.const w.value, true)
    | 2 => (at_ (g.mapIdx fun d i => (min (max i 0) ((l.t.ext d : Int) - 1)).toNat), true)
    | _ => (.zero, true)

/-- The units of a window load. Padding and the zeros of a gather are written of an empty tensor too: R122's "moves nothing" is
taken of the tensor's elements (DESIGN CHOICE, log entry 77). -/
def windowUnits (s : State) (w : WinRec) (l : Listed) (x : Xfer) : List Unit_ :=
  let es := winStored x.dstFmt l.t.axis w l.t.rank
  if es.any (· == 0) then []
  else
    let side : Side := ⟨layoutTensor x.dstFmt l.t.axis es none, x.dst, x.dstScale, es⟩
    (groupIndices x.dstFmt l.t.axis es).map fun g =>
      let els := g.map fun i =>
        let q := side.place i
        let n := if within es i then winIndex x.dstFmt l.t.axis w i else none
        let r := match n with
          | some i => windowSrc s w l i
          | none => (.zero, false)
        { src := r.1, dst := if within es i || l.t.axis == 0 then [(q.1, q.2.1)] else [], real := n.isSome, pad := r.2 : Elem }
      { count := (els.filter (·.real)).length
        groups := [{ elems := els
                     scales := if isMx x.dstFmt then (g.take 1).map fun i => (side.place i).2.2 else [] }] }

/-- Run a window load. -/
def runWindow (s : State) (t : TileId) (ch : Fin 32) (limit : Option Nat) (a : Nat) (d rec_ : List Byte) : State :=
  let x := parseXfer d
  let w := parseWinRec (readBytes s (chAgent (.tile t ch)) x.aux 128)
  match tensorOf s w.tensor with
  | none => s
  | some tn =>
    let l : Listed := ⟨parseBlockRec [], tn, holders s tn t.val, t.val, chHome ch⟩
    runUnits s (.tile t ch) a d rec_ limit (windowUnits s w l x)

/-- WINDOW_LOAD: a channel loads a padded window of a tensor into the operand store (R144). -/
def execWindowLoad (e : Engine) (s : State) : Host.Outcome State Fault Refusal :=
  match e with
  | .tile t c => .next (runCurrent s e (fun x => x.kind == 3) fun s a d r => runWindow s t c none a d r)
  | _ => .next s

/-! ### The strainer (R242 to R246) -/

/-- Read bytes at addresses; one that the same transfer has written before is free (log entry 15). -/
def readOwn (s : State) (ag : Agent) (written : List Nat) : List Nat → List Byte × State
  | [] => ([], s)
  | a :: as =>
    let own := written.contains (keyOf s a)
    let f := if own then takeFree s else (0, s)
    let r := readOwn f.2 ag written as
    ((if own then BitVec.ofNat 8 f.1.toNat else readByte s ag a) :: r.1, r.2)

/-- Offsets in the scale plane of the blocks that the first n elements of an FP8 strainer transfer lie in. -/
def scaleOffsets (x : Xfer) (r : StrideRec) (n : Nat) : List Nat :=
  if isMx x.srcFmt then
    (((indices r.ext).take n).map fun i => ((srcSide x r).place i).2.2 - x.srcScale).eraseDups
  else []

/-- Copies of the scales of the first n elements (R238, R243). -/
def scalePuts (s : State) (ag : Agent) (x : Xfer) (r : StrideRec) (bad : List (Nat × Nat)) (n : Nat) : List Put :=
  (scaleOffsets x r n).map fun i =>
    ⟨x.dstScale + i, 0, 8, (readByte s ag (x.srcScale + i)).toNat, touchesBad bad (x.srcScale + i) 1⟩

/-- The blocks of those scales. -/
def scaleBlocks (x : Xfer) (r : StrideRec) (n : Nat) : List Nat :=
  (scaleOffsets x r n).map fun i => (x.srcScale + i) / 512 * 512

/-- A container's work: its elements' places on the uncompressed side and its own address. -/
structure Box where
  places : List (Nat × Nat)
  addr : Nat
  deriving DecidableEq, Repr

/-- The containers of a transfer, in order. -/
def boxes (side : Side) (base w : Nat) : List Box :=
  let ps := (indices side.es).map fun i => let p := side.place i; (p.1, p.2.1)
  (chunks 128 ps.length ps).mapIdx fun i b => ⟨b, base + i * containerBytes w⟩

/-- The addresses of the bytes of packed elements. -/
def placeBytes (fmt : Nat) (p : Nat × Nat) : List Nat :=
  let lo := p.2 * fmtBits fmt
  (List.range ((lo % 8 + fmtBits fmt + 7) / 8)).map fun j => p.1 + lo / 8 + j

/-- The device bytes of a container, its elements and, of an MX format, the scales at these offsets. -/
def boxBytes (x : Xfer) (fmt w : Nat) (b : Box) (scales : List Nat) : List Nat :=
  b.places.flatMap (placeBytes fmt) ++ (List.range (containerBytes w)).map (b.addr + ·) ++
    scales.flatMap fun i => [x.srcScale + i, x.dstScale + i]

/-- The bytes that container i of a transfer touches. -/
def boxTouches (x : Xfer) (r : StrideRec) (fmt w i : Nat) (b : Box) : List Nat :=
  boxBytes x fmt w b ((scaleOffsets x r (128 * (i + 1))).drop (scaleOffsets x r (128 * i)).length)

/-- A container, its elements or their scales touch a retired range (R222, R236). -/
def boxFaults (s : State) (as : List Nat) : Bool := as.any fun a => retired s (keyOf s a)

/-- The containers that run, and whether a fault stopped them. -/
def takeBoxes (s : State) (touched : Nat → Box → List Nat) (limit : Option Nat) : Nat → List Box → List Box × Bool
  | _, [] => ([], false)
  | n, b :: bs =>
    if (match limit with | some k => decide (k < n + 128) | none => false) then ([], false)
    else if boxFaults s (touched (n / 128) b) then ([], true)
    else
      let r := takeBoxes s touched limit (n + 128) bs
      (b :: r.1, r.2)

/-- A container's puts when it is written, and NANIN. -/
def compressBox (s : State) (ag : Agent) (fmt w : Nat) (bad : List (Nat × Nat)) (written : List Nat) (b : Box) : Made × State :=
  let g := getElems s ag fmt false bad written (b.places.map fun p => .at_ p.1 p.2 p.1)
  let r := strainEncode w (g.1.map fun x => readVal (fmtAt fmt) false x.code)
  let poison := b.places.any fun p => elemBad bad fmt p.1 p.2
  ({ puts := r.1.mapIdx fun i x => ⟨b.addr + i, 0, 8, x.toNat, poison⟩, fl := { nanin := r.2 }, counted := 0, amax := Val.zero }, g.2)

/-- The elements a container expands to. -/
def expandBox (s : State) (ag : Agent) (fmt w : Nat) (bad : List (Nat × Nat)) (written : List Nat) (b : Box) : Made × State :=
  let g := readOwn s ag written ((List.range (containerBytes w)).map (b.addr + ·))
  let poison := touchesBad bad b.addr (containerBytes w)
  (b.places.zipIdx.foldl (fun m p =>
    let v := strainDecode w g.1 p.2
    let c := strainCode fmt v
    m.or { puts := [⟨p.1.1, p.1.2, fmtBits fmt, c.code, poison⟩], fl := c.fl.or { nanin := v.isNan }
           counted := boolNat c.counted, amax := Val.zero }) Made.none, g.2)

/-- The keys that a container's work writes. -/
def boxKeys (s : State) (comp : Bool) (fmt w : Nat) (b : Box) : List Nat :=
  if comp then (List.range (containerBytes w)).map fun i => keyOf s (b.addr + i)
  else b.places.flatMap fun p => runKeys s fmt p.1 p.2

/-- Compress or expand containers in order; `written` are the keys that the containers before write. -/
def makeBoxes (s : State) (ag : Agent) (comp : Bool) (fmt w : Nat) (bad : List (Nat × Nat)) (written : List Nat) :
    List Box → Made × State
  | [] => (Made.none, s)
  | b :: bs =>
    let r := if comp then compressBox s ag fmt w bad written b else expandBox s ag fmt w bad written b
    let m := makeBoxes r.2 ag comp fmt w bad (written ++ boxKeys s comp fmt w b) bs
    (r.1.or m.1, m.2)

/-- The contiguous side of a strainer transfer that moves uncompressed. -/
def flatSide (r : StrideRec) (fmt base scale : Nat) : Side :=
  let ss := (List.range r.rank).foldl (fun (acc : List Nat) i =>
    acc ++ [if i = 0 then 0 else if i = 1 then rowBytes fmt (nthD 0 r.ext 0)
      else nthD 0 acc (i - 1) * nthD 0 r.ext (i - 1)]) []
  ⟨layoutTensor fmt 0 r.ext (some ss), base, scale, r.ext⟩

/-- With no rate the elements of a strainer transfer move uncompressed between the contiguous side and the other (R243). -/
def strainUnits (x : Xfer) (r : StrideRec) : List Unit_ :=
  plainUnits { x with skew := 0 } r (if x.strain = 2 then flatSide r x.srcFmt x.src x.srcScale else srcSide x r)
    (if x.strain = 1 then flatSide r x.dstFmt x.dst x.dstScale else dstSide x r)

/-- The containers of a strainer transfer at a rate (R244). -/
def strainBoxes (x : Xfer) (r : StrideRec) (k : Nat) : List Box :=
  if x.strain = 1 then boxes (srcSide x r) x.dst (strainWidth x.srcFmt k)
  else boxes (dstSide x r) x.src (strainWidth x.srcFmt k)

/-- Run a strainer transfer. -/
def runStrain (s : State) (e : Engine) (limit : Option Nat) (a : Nat) (d rec_ : List Byte) : State :=
  let x := parseXfer d
  let ag := chAgent e
  let r := stridesOf s ag x
  match strainRate x rec_ with
  | none => runUnits s e a d rec_ limit (strainUnits x r)
  | some k =>
    let w := strainWidth x.srcFmt k
    let comp := x.strain == 1
    let bs := strainBoxes x r k
    let fmt := if comp then x.srcFmt else x.dstFmt
    let t := takeBoxes s (boxTouches x r fmt w) limit 0 bs
    let n := 128 * bs.length
    let done := 128 * t.1.length
    if limit.isNone && someWait s && requestsWait s e (t.1.mapIdx fun i b => boxTouches x r fmt w i b).flatten then s
    else
    let host := if x.hostEnv then some (hostSide s x r) else none
    let blocks := ((if comp then t.1.flatMap fun b => b.places.flatMap fun p => (placeBytes fmt p).map fun a => a / 512 * 512
      else t.1.flatMap fun b => blocksOf b.addr (containerBytes w)) ++ scaleBlocks x r done).eraseDups
    let v := verifyAll s ag blocks
    let fromHost := spaceOf x.src == .host
    let bad := v.1 ++ (match host with
      | some h => if fromHost then hostEnvBad v.2 ag h blocks else []
      | none => [])
    let s := dmaPoison v.2 e bad
    let scales := scalePuts s ag x r bad done
    let m := makeBoxes s ag comp fmt w bad [] t.1
    let p := pathBad m.2 e x { m.1 with puts := scales ++ m.1.puts }
    let made := p.1
    let s := writePuts p.2 ag made.puts
    let s := match host with
      | some h =>
        if fromHost then s
        else writeHostEnv s ag h ((made.puts.map fun p => p.at_.1 / 512 * 512).eraseDups)
          ((made.puts.filter (·.poison)).map fun p => p.at_.1 / 512 * 512)
      | none => s
    let bytes := (if comp then ceilDiv (done * fmtBits fmt) 8 else t.1.length * containerBytes w) +
      scales.length
    let s := chRead (dmaBytes (dmaMade s e x rec_ made) e bytes) e bytes
    if t.2 then abortChannel s e 2 (n - done) a
    else if t.1.length = bs.length then completeDesc s e a d bytes
    else abortChannel s e 1 (n - done) a

/-- COMPRESS: the strainer encodes each block of 128 elements into a fixed-size container (R244). -/
def execCompress (e : Engine) (s : State) : Host.Outcome State Fault Refusal :=
  .next (runCurrent s e (fun x => decide (x.kind < 2) && x.strain == 1 && !x.scrub) fun s a d r =>
    runStrain s e none a d r)

/-- EXPAND: the strainer decodes containers back to elements (R245). -/
def execExpand (e : Engine) (s : State) : Host.Outcome State Fault Refusal :=
  .next (runCurrent s e (fun x => decide (x.kind < 2) && x.strain == 2 && !x.scrub) fun s a d r =>
    runStrain s e none a d r)

/-! ### SCRUB and INVALIDATE -/

/-- Units whose source is read and that write nothing. -/
def readOnly (us : List Unit_) : List Unit_ :=
  us.map fun u => { u with groups := u.groups.map fun g =>
    { elems := g.elems.map fun e => { e with dst := [], far := [] }, scales := [] } }

/-- Verify the source blocks of units, which lie on a host side or not. -/
def verifyUnits (s : State) (e : Engine) (x : Xfer) (host : Option HostSide) (us : List Unit_) : State :=
  let blocks := (us.flatMap fun u => u.groups.flatMap (srcBlocks x.srcFmt)).eraseDups
  let v := verifyAll s (chAgent e) blocks
  let bad := (host.map fun h => hostEnvBad v.2 (chAgent e) h blocks).getD []
  chRead (dmaBytes (dmaPoison v.2 e (v.1 ++ bad)) e (unitBytes x us)) e (unitBytes x us)

/-- A SCRUB of a block list verifies the list and what its entries read (R130, R230): a tensor's blocks, or the dense slots of a list
whose OP scatters. -/
def scrubList (s : State) (t : TileId) (ch : Fin 32) (limit : Option Nat) (a : Nat) (d : List Byte) : State :=
  let x := parseXfer d
  match listedOf s t ch x with
  | none => s
  | some l =>
    withPorts s (.tile t ch) (listPorts l) fun s =>
    if limit.isNone && listHeld s (.tile t ch) l then s
    else
      let r := listEntries s (chAgent (.tile t ch)) l
      let us := readOnly (r.1.run.mapIdx fun p e =>
        if l.b.op = 0 then gatherUnit r.2 l x none p e else scatterUnit r.2 l x none p e)
      let k := takeUnits r.2 x limit 0 us
      if limit.isNone && unitsHeld s (.tile t ch) x k.1 then s
      else
        let s := countSkips (verifyUnits r.2 (.tile t ch) x none k.1) t (r.1.run.take k.1.length)
        endList s t ch a d l r.1 k.1.length k.2 (unitBytes x k.1)

/-- Verify the source of a LINEAR or STRIDED scrub and write nothing (R230). -/
def scrubPlain (s : State) (e : Engine) (limit : Option Nat) (a : Nat) (d : List Byte) : State :=
  let x := parseXfer d
  let r := stridesOf s (chAgent e) x
  let us := readOnly (plainUnits x r (srcSide x r) (srcSide x r))
  let k := takeUnits s x limit 0 us
  if limit.isNone && unitsHeld s e x k.1 then s
  else
  let s := verifyUnits s e x (if x.hostEnv then some (hostSide s x r) else none) k.1
  let left := unitCount us - unitCount k.1
  if k.2 then abortChannel s e 2 left a
  else if k.1.length = us.length then completeDesc s e a d (unitBytes x us)
  else abortChannel s e 1 left a

/-- Run a scrub. -/
def runScrub (s : State) (e : Engine) (limit : Option Nat) (a : Nat) (d : List Byte) : State :=
  match (parseXfer d).kind, e with
  | 2, .tile t c => scrubList s t c limit a d
  | _, _ => scrubPlain s e limit a d

/-- SCRUB: a channel verifies every source envelope and writes nothing (R230). -/
def execScrub (e : Engine) (s : State) : Host.Outcome State Fault Refusal :=
  .next (runCurrent s e (·.scrub) fun s a d _ => runScrub s e none a d)

/-- Drop the lines of an invalidate descriptor's range (R203). -/
def runInvalidate (s : State) (c : CoreId) (a : Nat) (d : List Byte) : State :=
  let e : Engine := .tile c.tile ⟨c.core.val, by have := c.core.isLt; omega⟩
  let lo := bitsAt (field d 8 8) 0 56
  let n := field d 16 8
  let s :=
    if n = 0 then dropAll s c.tile
    else
      (blocksOf lo n).foldl (fun s b => dropBlock s c.tile (keyOf s b / 512)) s
  completeDesc s e a d 0

/-- INVALIDATE: the tile removes every cache line overlapping a range, or all lines when SIZE is 0 (R203). -/
def execInvalidate (c : CoreId) (s : State) : Host.Outcome State Fault Refusal :=
  let e : Engine := .tile c.tile ⟨c.core.val, by have := c.core.isLt; omega⟩
  match currentOf s e 0x30 with
  | some (a, d, _) => if descHeld s e a d then .next s else .next (withDesc s e a d fun s => runInvalidate s c a d)
  | none => .next s

/-! ### Chains, starts and aborts -/

/-- The checks of a descriptor that a channel fetches itself (R257). -/
def fetchOk (s : State) (e : Engine) (d : List Byte) : Bool :=
  if field d 0 1 = 0x30 then (chCore e).isSome && invalidateOk d else transferOk s e d

/-- The instruction index of the ISSUE whose chain a core's channel runs. -/
def chainPc (s : State) (k : CoreId) : Nat := ((nthD [] (s.seq k).queues 2).head?.map (·.pc)).getD 0

/-- A descriptor rejected at fetch: CAUSE 5, and a program fault on tile channels 0 to 15 (Table DMA-4). -/
def rejectFetched (s : State) (e : Engine) (a : Nat) : State :=
  let t := abortChannel s e 5 0 a
  match chCore e with
  | some k => programFault t k.tile 4 0 k.core.val (chainPc s k)
  | none => t

/-- Fetch a descriptor: verify it and its records, check it, and make it the channel's current one (R227,
R257, R469); an abort that waited takes it before its first burst (R236). -/
def fetchDesc (s : State) (e : Engine) (a : Nat) : State :=
  let ag := chAgent e
  let held := requestsWait s e [a] && rangeOk s ag a 64
  let s := chRead (chBusy s e true a) e 0
  if !rangeOk s ag a 64 || rangeRetired s a 64 then abortChannel s e 2 0 a
  else if faulty s (.channel (chanKey e)) then channelParity s e a
  else if held then s.setChan e { s.chan e with next := some a }
  else if hostDown s a then waitLink (s.setChan e { s.chan e with next := some a }) (hostPort a) (.channel e)
  else
    let v := verifyRange s ag a 64
    let d := readBytes v.2 ag a 64
    let x := parseXfer d
    let recs := if field d 0 1 = 0x20 ∧ v.1.isEmpty ∧ recordsOk v.2 e x then recordsBad v.2 e x else ([], v.2)
    let bad := v.1 ++ recs.1
    let s := recs.2
    if !bad.isEmpty then abortChannel (dmaPoison s e bad) e 4 0 a
    else if recordsRetired s d then abortChannel s e 2 0 a
    else if !fetchOk s e d then rejectFetched s e a
    else if (s.chan e).abortPending then abortChannel s e 1 (if field d 0 1 = 0x20 then wholeCount s e d else 0) a
    else
      let id := if field d 0 1 = 0x20 then x.tensor else 0xFFFF
      let f := verifyFormat s id
      if !f.1.isEmpty then abortChannel (dmaPoison f.2 e f.1) e 4 0 a
      else
        f.2.setChan e { f.2.chan e with cur := some (a, d), format := formatRecord f.2 id, next := none, pulseDue := false }

/-- The chain's next descriptor: the pulse due of the one before is emitted first (R227, R234). -/
def chainNext (s : State) (e : Engine) : State :=
  match (s.chan e).next with
  | none => s
  | some n =>
    let c := s.chan e
    let s := if c.pulseDue then
        channelPulse (s.setChan e { c with pulseDue := false }) e ((c.cur.map fun x => field x.2 4 1).getD 0)
      else s
    fetchDesc s e n

/-- CHAIN_NEXT_FETCH: a channel fetches and checks the next chained descriptor (R227). -/
def execChainNextFetch (e : Engine) (s : State) : Host.Outcome State Fault Refusal :=
  if chHalted s e then .next s else .next (chainNext s e)

/-- The channels that firmware starts (Table DMA-1). -/
def firmwareChannel : Engine → Bool
  | .tile _ c => decide (28 ≤ c.val)
  | .die _ c => c.val == 3
  | .host _ => false

/-- The group of MGS_HOST_WR of a channel's control register (Tables REG-2 and REG-3). -/
def chGroup : Engine → Option Nat
  | .tile _ c => if c.val < 28 then some grpTile else none
  | .die .. => none
  | .host _ => some grpTile

/-- FIRMWARE_CHANNEL_START: a write of HEAD and START. An idle firmware channel starts the chain at HEAD; START is
ignored elsewhere (R227, Table DMA-14). -/
def execFirmwareChannelStart (r : Requester) (e : Engine) (head : Word) (s : State) : Host.Outcome State Fault Refusal :=
  .next (guardedWrite s r (chCtl e) (chGroup e) fun s =>
    if firmwareChannel e then
      let s := fset s (chCtl e) f_DMA_CH_CTL_HEAD (head.toNat / 64)
      let c := s.chan e
      if chHalted s e || c.cur.isSome || c.next.isSome then s
      else fetchDesc s e (bitsAt head.toNat 6 50 * 64)
    else s)

/-- Run a channel's current transfer with an abort's limit. -/
def runLimited (s : State) (e : Engine) (a : Nat) (d rec_ : List Byte) (k : Nat) : State :=
  let x := parseXfer d
  if x.scrub then runScrub s e (some k) a d
  else
    match x.kind, e with
    | 2, .tile t c =>
      match listOp s e x with
      | 0 => runList s t c (some k) a d rec_ gatherUnit true
      | 1 => runList s t c (some k) a d rec_ scatterUnit false
      | _ => runScatterAdd s t c (some k) a d rec_
    | 3, .tile t c => runWindow s t c (some k) a d rec_
    | _, _ => if x.strain = 0 then runPlain s e (some k) a d rec_ else runStrain s e (some k) a d rec_

/-- An abort request meets the channel (R236): `moved` elements or entries have issued their bursts, `other` is the residue of a
descriptor that is no transfer. Between the descriptors of a chain it waits for the next one; an idle channel ignores it. -/
def requestAbort (s : State) (e : Engine) (moved other : Nat) : State :=
  let c := s.chan e
  if chHalted s e then s
  else if c.next.isSome then s.setChan e { c with abortPending := true }
  else
    match current s e with
    | none => s
    | some (a, d, rec_) =>
      if field d 0 1 ≠ 0x20 then abortChannel s e 1 other a
      else if moved ≥ wholeCount s e d then
        let s := if (parseXfer d).chain then s.setChan e { c with abortPending := true } else s
        withPorts s e (hostNeeds (parseXfer d)) fun s => withDesc s e a d fun s => runLimited s e a d rec_ moved
      else withDesc s e a d fun s => runLimited s e a d rec_ moved

end Sys2Proof.Machine
end

