-- ==== Sys2Proof/Machine/Collectives.lean ====
section
/-! DEFINITION. Collectives and their transport (R310 to R321). Contributions wait in the slots of STAGE as FP32 codes; the order of
the slots is not given (log entry 16). -/

namespace Sys2Proof.Machine

/-! ### The collective descriptor (Table LNK-5) -/

structure CollDesc where
  kind : Nat
  strict : Bool
  srcFmt : Nat
  dstFmt : Nat
  mesh : Nat
  axis : Nat
  tensor : Nat
  root : Nat
  id : Nat
  src : Nat
  dst : Nat
  count : Nat
  stage : Nat
  stageBytes : Nat
  deriving DecidableEq, Repr

def parseColl (d : List Byte) : CollDesc :=
  { kind := bitsAt (field d 1 1) 0 3, strict := bitAt (field d 1 1) 3, srcFmt := bitsAt (field d 2 1) 0 4
    dstFmt := bitsAt (field d 2 1) 4 4, mesh := field d 3 1, axis := bitsAt (field d 5 1) 0 2
    tensor := field d 6 2, root := field d 8 2, id := field d 12 4, src := bitsAt (field d 16 8) 0 56
    dst := bitsAt (field d 24 8) 0 56, count := field d 32 4, stage := bitsAt (field d 36 8) 12 44 * 4096
    stageBytes := field d 44 4 }

/-- Bytes of an element of the formats a collective moves. -/
def wide (fmt : Nat) : Nat := fmtBits fmt / 8

/-- The group of a device of a mesh along an axis: members by contributor index, and its own (R310). -/
def groupOn (m : Mesh) (axis ord : Nat) : List (Nat × Nat) × Nat :=
  let step := (m.extents.take axis).foldl (· * ·) 1
  let me := coordOn m ord axis
  ((List.range (nthD 1 m.extents axis)).map fun j => nthD (0, 0) m.devices (ord - me * step + j * step), me)

/-- A tile's ordinal in a mesh. -/
def ordinalOf (s : State) (m : Mesh) (t : TileId) : Option Nat := m.devices.findIdx? (· == (moduleIndex s, t.val))

/-- Elements a member supplies and receives (Table LNK-4). -/
def supplied (x : CollDesc) (p me : Nat) : Nat :=
  if x.kind = 1 then x.count / p else if x.kind = 3 ∧ x.root ≠ me then 0 else x.count

def received (x : CollDesc) (p : Nat) : Nat := if x.kind = 0 then x.count / p else x.count

/-- The format of what arrives at DST: DST_FMT of a sum; an all-gather and a broadcast copy bytes unchanged (R313). -/
def dstWidth (x : CollDesc) : Nat := if x.kind = 0 ∨ x.kind = 2 then x.dstFmt else x.srcFmt

/-- No condition of Table LNK-6 holds (R318). -/
def collectiveOk (s : State) (c : CoreId) (d : List Byte) : Bool :=
  let x := parseColl d
  let ag : Agent := .tile c.tile true
  let inRange := fun (f : Nat) => decide (8 ≤ f ∧ f ≤ 10)
  match s.job.meshes[x.mesh]? with
  | none => false
  | some m =>
    match ordinalOf s m c.tile with
    | none => false
    | some o =>
      let g := groupOn m x.axis o
      let p := g.1.length
      let ns := supplied x p g.2 * wide x.srcFmt
      let nd := received x p * wide (dstWidth x)
      let reduces := x.kind == 0 || x.kind == 2
      field d 0 1 == 0x21 && decide (x.kind < 4) && bitsAt (field d 1 1) 4 4 == 0 && bitsAt (field d 5 1) 2 6 == 0 &&
      field d 10 2 == 0 && field d 23 1 == 0 && field d 31 1 == 0 && field d 36 1 == 0 &&
      bitsAt (field d 37 1) 0 4 == 0 && field d 43 1 == 0 && field d 48 16 == 0 &&
      inRange x.srcFmt && inRange x.dstFmt && decide (x.mesh < 16 ∧ x.axis < m.extents.length) && p != 0 &&
      x.count % (max 1 p * 1024) == 0 && (if x.kind = 3 then decide (x.root < p) else x.root == 0) &&
      spaceOf x.src != .operand && spaceOf x.src != .host && spaceOf x.dst != .operand && spaceOf x.dst != .host &&
      rangeOk s ag x.src ns && rangeOk s ag x.dst nd &&
      spaceOf x.stage == .scratch && bitsAt x.stage 28 6 == c.tile.val && rangeOk s ag x.stage x.stageBytes &&
      (!reduces || decide (2 ≤ x.stageBytes / (p * 4096))) &&
      (!overlap x.src ns x.dst nd || (x.kind == 2 && x.src == x.dst && x.srcFmt == x.dstFmt)) &&
      !overlap x.src ns x.stage x.stageBytes && !overlap x.dst nd x.stage x.stageBytes &&
      tensorOk s x.tensor

/-! ### Segments (R311, R314) -/

/-- Segments of the whole vector and of a chunk. -/
def segments (x : CollDesc) : Nat := x.count / 1024
def chunkSegs (x : CollDesc) (p : Nat) : Nat := segments x / max 1 p

/-- The member whose chunk holds a segment: its owner. -/
def segOwner (x : CollDesc) (p seg : Nat) : Nat := seg / max 1 (chunkSegs x p)

/-- The segments that a member owns. -/
def ownSegs (x : CollDesc) (p me : Nat) : List Nat := (List.range (chunkSegs x p)).map fun i => me * chunkSegs x p + i

/-- Segments in flight that STAGE allows. -/
def inFlight (x : CollDesc) (p : Nat) : Nat := x.stageBytes / (max 1 p * 4096)

/-- The other members of a group. -/
def others (c : Coll) : List Nat := (List.range c.members.length).filter (· != c.me)

/-- What a member sends in all: receiver and segment (Table LNK-4, R313). -/
def dueSends (c : Coll) : List (Nat × Nat) :=
  let x := parseColl c.desc
  let p := c.members.length
  let all := List.range (segments x)
  let mine := (ownSegs x p c.me).flatMap fun g => (others c).map fun j => (j, g)
  let theirs := (all.filter fun g => segOwner x p g != c.me).map fun g => (segOwner x p g, g)
  match x.kind with
  | 0 => theirs
  | 1 => mine
  | 2 => theirs ++ mine
  | _ => if c.me = x.root then all.flatMap fun g => (others c).map fun j => (j, g) else []

/-- The segments a member receives at DST in all. -/
def dueGets (c : Coll) : List Nat :=
  let x := parseColl c.desc
  if x.kind = 0 then ownSegs x c.members.length c.me else List.range (segments x)

/-! ### Packets (Tables LNK-7, LNK-3) -/

/-- The bytes that a packet's CRC covers: header and payload, COUNT in the payload of the first segment. -/
def packetBytes (p : Packet) : List Byte :=
  [p.version, p.type] ++ leBytes 2 p.sender.toNat ++ leBytes 4 p.job.toNat ++ leBytes 4 p.collId.toNat ++
    leBytes 4 p.step.toNat ++ leBytes 2 p.from_.toNat ++ leBytes 2 p.to_.toNat ++ leBytes 4 p.segment.toNat ++
    leBytes 4 p.seq.toNat ++ [p.poison, p.kind, p.fmt, 0] ++
    (match p.count with | some n => leBytes 4 n.toNat | none => []) ++ p.payload

/-- The key of a peer on a plane. -/
def peerKey (peer plane : Nat) : Nat := 32 * peer + plane

/-- A packet of a collective, from member `me` to member `to`, without SEQ and payload. -/
def packetOf (s : State) (t : TileId) (c : Coll) (type dest seg : Nat) : Packet :=
  let dev := nthD (0, 0) c.members dest
  { version := 1, type := BitVec.ofNat 8 type, sender := BitVec.ofNat 16 (moduleIndex s)
    job := BitVec.ofNat 32 (fget s LNK_JOB f_LNK_JOB_JOB), collId := BitVec.ofNat 32 (parseColl c.desc).id
    step := BitVec.ofNat 32 (stepOf s t), from_ := BitVec.ofNat 16 c.me, to_ := BitVec.ofNat 16 dest
    segment := BitVec.ofNat 32 seg, seq := 0, poison := 0, kind := BitVec.ofNat 8 (field c.desc 1 1)
    fmt := BitVec.ofNat 8 (field c.desc 2 1), count := none, payload := [], crc := 0
    plane := routePlane s seg dev.1, tile := ⟨dev.2 % 48, Nat.mod_lt _ (by decide)⟩, ce := false }

/-- Give a DATA packet its SEQ on its plane, of 32 bits, and its CRC, keep it until it is acknowledged, and send it (R319, R320). -/
def sendNumbered (s : State) (src : TileId) (peer : Nat) (p : Packet) : State :=
  let k := peerKey peer p.plane
  let seq := mapGet 0 s.links.seqOut k
  let p := { p with seq := BitVec.ofNat 32 seq }
  let p := { p with crc := BitVec.ofNat 32 (crc32c (packetBytes p)) }
  let s := { s with links := { s.links with
    seqOut := mapSet 0 s.links.seqOut k ((seq + 1) % 2 ^ 32)
    unacked := s.links.unacked ++
      [{ tile := src, peer := peer, plane := p.plane, seq := seq, packet := p, sent := s.now, first := s.now, retx := 0 }] } }
  sendPacket s src peer p

/-- Send a DATA packet of a segment to a member. -/
def sendData (s : State) (t : TileId) (c : Coll) (dest seg : Nat) (payload : List Byte) (poison : Nat) : State :=
  let x := parseColl c.desc
  let first := if x.kind = 3 then seg == 0 else seg % max 1 (chunkSegs x c.members.length) == 0
  sendNumbered s t (nthD (0, 0) c.members dest).1 { packetOf s t c 0 dest seg with
    poison := BitVec.ofNat 8 poison, payload := payload
    count := if first then some (BitVec.ofNat 32 x.count) else none }

/-- Send a credit for a segment to a contributor (R314). -/
def sendCredit (s : State) (t : TileId) (c : Coll) (dest seg : Nat) : State :=
  sendPacket s t (nthD (0, 0) c.members dest).1 (packetOf s t c 2 dest seg)

/-- Bytes of a segment with the POISON bits of its blocks, verified by the sender (R250, R320); a parity error in the channel's data path
poisons all of them (R254). -/
def readSegment (s : State) (e : Engine) (a n : Nat) : List Byte × Nat × State :=
  let ag := chAgent e
  let v := verifyRange s ag a n
  let path := pathError v.2 e false
  let bad := v.1 ++ if path.isSome then (blocksOf a n).map fun b => (b, 3) else []
  let s := dmaPoison (path.elim v.2 (clearErr v.2)) e bad
  (readBytes s ag a n,
    ((List.range 8).map fun i => if i * 512 < n ∧ touchesBad bad (a + 512 * i) 512 then 2 ^ i else 0).sum, s)

/-- Count bytes of SRC that a collective has read for its descriptor (R235). -/
def chAdd (s : State) (e : Engine) (n : Nat) : State := chRead s e (fget s (chProgress e) f_DMA_CH_PROGRESS_BYTES + n)

/-- Address of a segment at SRC. -/
def srcSeg (c : Coll) (seg : Nat) : Nat :=
  let x := parseColl c.desc
  x.src + (if x.kind = 1 then seg - c.me * chunkSegs x c.members.length else seg) * 1024 * wide x.srcFmt

/-- Address of a segment at DST. -/
def dstSeg (c : Coll) (seg : Nat) : Nat :=
  let x := parseColl c.desc
  x.dst + (if x.kind = 0 then seg - c.me * chunkSegs x c.members.length else seg) * 1024 *
    wide (dstWidth x)

/-- Address of a contributor's place in the slot of a segment: slot after slot, a contributor's 4 KiB after another's (DESIGN CHOICE,
log entry 16). -/
def slotAddr (c : Coll) (slot from_ : Nat) : Nat := (parseColl c.desc).stage + (slot * c.members.length + from_) * 4096

/-- The slot of a segment in flight. -/
def slotOf (c : Coll) (seg : Nat) : Option Nat := (c.slots.find? fun q => q.1 == seg).map (·.2)

/-- Write a segment at DST: poison by 512-byte block of the payload. -/
def writeSegment (s : State) (e : Engine) (a : Nat) (bs : List Byte) (poison : Nat) : State :=
  writeCells s (chAgent e) (bs.mapIdx fun i b => (a + i, b, bitAt poison (i / 512)))

/-! ### Progress of a collective -/

/-- The collective of a channel. -/
def collOf (s : State) (e : Engine) : Option Coll := (s.chan e).coll

def setColl (s : State) (e : Engine) (c : Coll) : State := s.setChan e { s.chan e with coll := some c }

/-- What an aborted descriptor other than a transfer leaves: elements a collective has not received
at DST, or the frames of an intake not yet passed on. -/
def otherResidue (s : State) (e : Engine) : Nat :=
  match collOf s e, current s e with
  | some c, _ => ((dueGets c).length - c.got.length) * 1024
  | none, some (_, d, _) => if field d 0 1 = 0x21 then (parseColl d).count else if field d 0 1 = 0x22 then field d 28 4 else 0
  | none, none => 0

/-- Run a part of a collective still in progress that reads or writes a range; one in a retired range aborts the channel with CAUSE 2
(R196, R236). -/
def withSegment (s : State) (e : Engine) (a n : Nat) (act : State → Coll → State) : State :=
  match collOf s e, current s e with
  | some c, some (d, _) => if rangeRetired s a n then abortChannel s e 2 (otherResidue s e) d else act s c
  | _, _ => s

/-- Note a send. -/
def noteSent (s : State) (e : Engine) (dest seg : Nat) : State :=
  match collOf s e with
  | some c => setColl s e { c with sent := c.sent ++ [(dest, seg)] }
  | none => s

/-- Note a segment received or written at DST. -/
def noteGot (s : State) (e : Engine) (seg : Nat) : State :=
  match collOf s e with
  | some c => setColl s e { c with got := insertOnce seg c.got }
  | none => s

/-- A collective completes when every segment it sends has been acknowledged and every element it receives is
visible (R316). -/
def collCheck (s : State) (e : Engine) : State :=
  match collOf s e, current s e with
  | some c, some (a, d, _) =>
    let waiting := s.links.unacked.any fun u =>
      u.packet.collId.toNat == (parseColl c.desc).id && u.packet.from_.toNat == c.me
    if (dueGets c).all (fun g => c.got.contains g) && (dueSends c).all (fun x => c.sent.contains x) && !waiting then
      let x := parseColl c.desc
      completeDesc (s.setChan e { s.chan e with coll := none }) e a d
        (supplied x c.members.length c.me * wide x.srcFmt)
    else s
  | _, _ => s

/-- Send a segment of SRC to a member. -/
def sendSegment (s : State) (t : TileId) (e : Engine) (c : Coll) (dest seg : Nat) : State :=
  let n := 1024 * wide (parseColl c.desc).srcFmt
  withSegment s e (srcSeg c seg) n fun s _ =>
    let r := readSegment s e (srcSeg c seg) n
    noteSent (sendData r.2.2 t c dest seg r.1 r.2.1) e dest seg

/-- The blocks of a segment at SRC, and at DST. -/
def srcBlocksOf (c : Coll) (seg : Nat) : List Nat := blocksOf (srcSeg c seg) (1024 * wide (parseColl c.desc).srcFmt)
def dstBlocksOf (c : Coll) (seg : Nat) : List Nat := blocksOf (dstSeg c seg) (1024 * wide (dstWidth (parseColl c.desc)))

/-- A collective's requests to blocks wait, at a device that holds them or for a link of the mesh (R216, R218, R308). -/
def collWaits (s : State) (e : Engine) (as : List Nat) : Bool := someWait s && requestsWait s e as

/-- Hold a credit that cannot be used yet. -/
def holdCredit (s : State) (t : TileId) (id me seg : Nat) : State :=
  { s with links := { s.links with credits := insertOnce (t.val, id, me, seg) s.links.credits } }

/-- Send a contribution to the owner of a segment; while the reads of SRC wait, so does its credit. -/
def contribute (s : State) (t : TileId) (e : Engine) (seg : Nat) : State :=
  match collOf s e with
  | some c =>
    let x := parseColl c.desc
    let dest := segOwner x c.members.length seg
    if c.sent.contains (dest, seg) then s
    else if collWaits s e (srcBlocksOf c seg) then holdCredit s t x.id c.me seg
    else
      sendSegment (setColl (chAdd s e (1024 * wide x.srcFmt)) e { c with credits := insertOnce seg c.credits }) t e c dest seg
  | none => s

/-- Write a segment received or summed at DST. -/
def placeSegment (s : State) (e : Engine) (seg : Nat) (bs : List Byte) (poison : Nat) : State :=
  match collOf s e with
  | some c =>
    withSegment s e (dstSeg c seg) bs.length fun s c => noteGot (writeSegment s e (dstSeg c seg) bs poison) e seg
  | none => s

/-- Copy a member's own segments from SRC to DST. -/
def copyOwn (s : State) (e : Engine) (c : Coll) (segs : List Nat) : State :=
  let n := 1024 * wide (parseColl c.desc).srcFmt
  segs.foldl (fun s g =>
    withSegment s e (srcSeg c g) n fun s _ =>
      let r := readSegment (chAdd s e n) e (srcSeg c g) n
      placeSegment r.2.2 e g r.1 r.2.1) s

/-- Send segments of SRC to every other member. -/
def sendAll (s : State) (t : TileId) (e : Engine) (c : Coll) (segs : List Nat) : State :=
  segs.foldl (fun s g => (others c).foldl (fun s j => sendSegment s t e c j g) s) s

/-- The owner gives a segment a free slot and sends each contributor its credit (R314). -/
def openSlot (s : State) (t : TileId) (e : Engine) (seg slot : Nat) : State :=
  match collOf s e with
  | some c =>
    (others c).foldl (fun s j => sendCredit s t c j seg) (setColl s e { c with slots := c.slots ++ [(seg, slot)] })
  | none => s

/-- The owner's first slots, and the contributions whose credits are already here. -/
def startReduce (s : State) (t : TileId) (e : Engine) (c : Coll) : State :=
  let x := parseColl c.desc
  let p := c.members.length
  let s := ((ownSegs x p c.me).take (inFlight x p)).zipIdx.foldl (fun s g => openSlot s t e g.1 g.2) s
  let held := s.links.credits.filter fun k => k.1 == t.val && k.2.1 == x.id && k.2.2.1 == c.me
  let s := { s with links := { s.links with credits := s.links.credits.filter fun k => !held.contains k } }
  held.foldl (fun s k => contribute s t e k.2.2.2) s

/-- The blocks that the start of a collective reads and writes: what an all-gather, or a broadcast's root, copies. -/
def startBlocks (c : Coll) : List Nat :=
  let x := parseColl c.desc
  let segs := if x.kind = 1 then ownSegs x c.members.length c.me
    else if x.kind = 3 ∧ x.root = c.me then List.range (segments x) else []
  segs.flatMap fun g => srcBlocksOf c g ++ dstBlocksOf c g

/-- FP32 value of an element of a contribution as the reducer reads it. -/
def contribVal (fmt : Nat) (strict : Bool) (bs : List Byte) (i : Nat) : Val :=
  readVal (fmtAt fmt) strict (field bs (wide fmt * i) (wide fmt))

/-- The 512-byte blocks of a slot that hold an element of a poisoned payload block. -/
def slotPoison (fmt poison : Nat) : List Nat :=
  (List.range 8).filter fun b => (List.range 128).any fun i => bitAt poison ((128 * b + i) * wide fmt / 512)

/-- Store a contribution in its slot, converted to FP32 as it arrives, with the envelopes of Table DMA-8 and the poison it came with
(R312, R314, R320). -/
def storeContribution (s : State) (e : Engine) (c : Coll) (slot : Nat) (p : Packet) : State :=
  let x := parseColl c.desc
  let from_ := p.from_.toNat
  let a := slotAddr c slot from_
  withSegment s e a 4096 fun s c =>
    let blocks := slotPoison x.srcFmt p.poison.toNat
    let s := dmaPoison s e (blocks.map fun b => (a + 512 * b, 2))
    let bytes := (List.range 1024).flatMap fun i => leBytes 4 (f32Code (contribVal x.srcFmt x.strict p.payload i))
    let s := writeCells s (chAgent e) (bytes.mapIdx fun i b => (a + i, b, blocks.contains (i / 512)))
    setColl s e { c with present := c.present ++ [(p.segment.toNat, from_)] }

/-- How a contribution disagrees with its owner's descriptor: 0 where it does not. -/
def disagreement (c : Coll) (p : Packet) : Nat :=
  let x := parseColl c.desc
  if bitsAt p.kind.toNat 0 3 ≠ x.kind then 1
  else if p.count.any fun n => n.toNat != x.count then 2
  else if p.fmt.toNat ≠ field c.desc 2 1 then 3
  else if bitAt p.kind.toNat 3 ≠ x.strict then 4
  else 0

/-- A collective fault (R315, Table LNK-13). -/
def collFault (s : State) (t : TileId) (id from_ what : Nat) : State :=
  let r := TL_COLL_FAULT t.val
  let s := if fbit s r f_TL_COLL_FAULT_VALID then s
    else fset (fset (fset (fset s r f_TL_COLL_FAULT_COLL_ID id) r f_TL_COLL_FAULT_FROM from_) r
      f_TL_COLL_FAULT_WHAT what) r f_TL_COLL_FAULT_VALID 1
  faultStop s t (s.reg r)

/-- Poisoned blocks of a payload are recorded at the receiving tile (R256, R320). -/
def payloadPoison (s : State) (e : Engine) (a : Nat) (poison : Nat) : State :=
  dmaPoison s e (((List.range 8).filter fun i => bitAt poison i).map fun i => (a / 512 * 512 + 512 * i, 2))

/-- A packet is a contribution to a segment of its receiver, by the receiver's COUNT or by the one it carries: the packet's kind or the
receiver's sums. -/
def isContribution (c : Coll) (p : Packet) : Bool :=
  let x := parseColl c.desc
  let k := bitsAt p.kind.toNat 0 3
  let owned := fun (n : Nat) => segOwner { x with count := n } c.members.length p.segment.toNat == c.me
  (x.kind == 0 || x.kind == 2 || k == 0 || k == 2) && (owned x.count || p.count.any fun n => owned n.toNat)

/-- Take an accepted DATA packet for a collective of this tile: a contribution is compared (R315) and stored, or kept until its
segment has a slot; a result segment is written at DST, once its writes need not wait. A segment that is already here, sent again on another
plane, changes nothing. -/
def takeData (s : State) (p : Packet) (e : Engine) (c : Coll) : State :=
  let seg := p.segment.toNat
  let from_ := p.from_.toNat
  if isContribution c p then
    if disagreement c p ≠ 0 then collFault s p.tile (parseColl c.desc).id from_ (disagreement c p)
    else if c.present.contains (seg, from_) || c.folded.contains seg then s
    else
      match slotOf c seg with
      | some i => storeContribution s e c i p
      | none => { s with links := { s.links with early := s.links.early ++ [p] } }
  else if c.got.contains seg || !(dueGets c).contains seg then s
  else if collWaits s e (dstBlocksOf c seg) then { s with links := { s.links with early := s.links.early ++ [p] } }
  else collCheck (placeSegment (payloadPoison s e (dstSeg c seg) p.poison.toNat) e seg p.payload p.poison.toNat) e

/-- The packets kept for a collective of a tile reach it. -/
def deliverEarly (s : State) (t : TileId) (e : Engine) : State :=
  match collOf s e with
  | some c =>
    let mine := fun (p : Packet) => p.tile == t && p.collId.toNat == (parseColl c.desc).id && p.to_.toNat == c.me
    let ps := s.links.early.filter mine
    ps.foldl (fun s p => match collOf s e with
      | some c => takeData s p e c
      | none => s) { s with links := { s.links with early := s.links.early.filter fun p => !mine p } }
  | none => s

/-- Begin a collective of a kind on a core's channel, once what it copies need not wait (R310 to R317). -/
def startColl (s : State) (c : CoreId) (kind : Nat) : State :=
  let e : Engine := .tile c.tile ⟨c.core.val, by have := c.core.isLt; omega⟩
  match currentOf s e 0x21, collOf s e with
  | some (a, d, _), none =>
    let x := parseColl d
    if x.kind ≠ kind then s
    else
      match (s.job.meshes[x.mesh]?).bind fun m => (ordinalOf s m c.tile).map fun o => groupOn m x.axis o with
      | none => s
      | some (ms, me) =>
        let k : Coll :=
          { desc := d, members := ms, me := me, slots := [], present := [], folded := [], credits := [], sent := [], got := [] }
        if collWaits s e (startBlocks k) then s
        else withDesc s e a d fun s =>
          let s := setColl s e k
          let own := ownSegs x ms.length me
          let all := List.range (segments x)
          let s := match kind with
            | 1 => sendAll (copyOwn s e k own) c.tile e k own
            | 3 => if me = x.root then sendAll (copyOwn s e k all) c.tile e k all else s
            | _ => startReduce s c.tile e k
          collCheck (deliverEarly s c.tile e) e
  | _, _ => s

/-- REDUCE_SCATTER: a member begins the collective of KIND 0 at the head of its queue 2 (R312). -/
def execReduceScatter (c : CoreId) (s : State) : Host.Outcome State Fault Refusal := .next (startColl s c 0)

/-- ALL_GATHER: a member begins the collective of KIND 1 (R313). -/
def execAllGather (c : CoreId) (s : State) : Host.Outcome State Fault Refusal := .next (startColl s c 1)

/-- ALL_REDUCE: a member begins the collective of KIND 2 (R313). -/
def execAllReduce (c : CoreId) (s : State) : Host.Outcome State Fault Refusal := .next (startColl s c 2)

/-- BROADCAST: a member begins the collective of KIND 3 (R313). -/
def execBroadcast (c : CoreId) (s : State) : Host.Outcome State Fault Refusal := .next (startColl s c 3)

/-! ### The fold (R312, R118) -/

/-- The left fold over contributions in ascending contributor index (R118). -/
def foldContribs (strict : Bool) : List Val → Acc
  | [] => ⟨Val.zero, {}, none⟩
  | v :: vs => vs.foldl (fun a x => accAdd strict a x true)
      { v := v, fl := { nanin := v.isNan }, origin := if v.isNan then some 0 else none }

/-- Read every member's contribution to a segment in ascending contributor index: its own from SRC, the others' from their slots. Each
is its bytes, its poisoned blocks and the format they are in. -/
def readContributions (s : State) (e : Engine) (c : Coll) (seg slot : Nat) : List (List Byte × Nat × Nat) × State :=
  let x := parseColl c.desc
  (List.range c.members.length).foldl (fun r j =>
    let own := j == c.me
    let q := if own then readSegment r.2 e (srcSeg c seg) (1024 * wide x.srcFmt) else readSegment r.2 e (slotAddr c slot j) 4096
    (r.1 ++ [(q.1, q.2.1, if own then x.srcFmt else 10)], q.2.2)) ([], s)

/-- Fold a segment: the contributions by index as FP32 values, converted and written at DST with the poison of any block read, then
the freed slot to the next segment and, in an all-reduce, the result to every member (R312 to R314). -/
def foldSegment (s : State) (t : TileId) (e : Engine) (c : Coll) (seg slot : Nat) (rec_ : List Byte) : State :=
  let x := parseColl c.desc
  let p := c.members.length
  withSegment s e (srcSeg c seg) (1024 * wide x.srcFmt) fun s _ =>
  let r := readContributions (chAdd s e (1024 * wide x.srcFmt)) e c seg slot
  let s := r.2
  let sums := (List.range 1024).map fun i => foldContribs x.strict (r.1.map fun q => contribVal q.2.2 x.strict q.1 i)
  let bad := fun i => r.1.any fun q => bitAt q.2.1 (i * wide q.2.2 / 512)
  let conv := sums.map fun a => convertFloat (fmtAt x.dstFmt) x.strict a.v
  let bs := conv.flatMap fun k => leBytes (wide x.dstFmt) k.code
  let poison := ((List.range 8).map fun b =>
    if (List.range 1024).any fun i => i * wide x.dstFmt / 512 == b && bad i then 2 ^ b else 0).sum
  withSegment s e (dstSeg c seg) bs.length fun s c =>
  let s := writeSegment s e (dstSeg c seg) bs poison
  let fl := (sums.zip conv).foldl (fun f q => (f.or q.1.fl).or q.2.fl) Flags.none
  let s := mergeAmax (dmaFlags s e fl) x.tensor (amaxOf (sums.map (·.v)))
  let s := if gradOf rec_ then
      addNonfinite s ((sums.zip conv).filter fun q => q.2.counted || q.1.fl.ovf).length
    else s
  let s := setColl s e { c with
    slots := c.slots.filter fun q => q.1 != seg, present := c.present.filter fun q => q.1 != seg
    folded := insertOnce seg c.folded, got := insertOnce seg c.got }
  let s := match (ownSegs x p c.me)[inFlight x p + c.folded.length]? with
    | some g => openSlot s t e g slot
    | none => s
  let s := if x.kind = 2 then
      (others c).foldl (fun s j => noteSent (sendData s t c j seg bs poison) e j seg) s
    else s
  collCheck (deliverEarly s t e) e

/-- The blocks that a fold reads and writes. -/
def foldBlocks (c : Coll) (seg slot : Nat) : List Nat :=
  srcBlocksOf c seg ++ blocksOf (slotAddr c slot 0) (4096 * c.members.length) ++ dstBlocksOf c seg

/-- SEGMENT_FOLD: the owner folds a segment once all its contributions are present (R312, R313); the fold waits where its requests
do (R216, R218, R308). -/
def execSegmentFold (c : CoreId) (segment : Nat) (s : State) : Host.Outcome State Fault Refusal :=
  let e : Engine := .tile c.tile ⟨c.core.val, by have := c.core.isLt; omega⟩
  match collOf s e, current s e with
  | some k, some (_, _, rec_) =>
    match slotOf k segment with
    | some slot =>
      if ((others k).all fun j => k.present.contains (segment, j)) && !collWaits s e (foldBlocks k segment slot) then
        .next (foldSegment s c.tile e k segment slot rec_)
      else .next s
    | none => .next s
  | _, _ => .next s

/-! ### Arrivals (R315, R319, R320) -/

/-- The core channels of a tile with a collective in progress. -/
def collEngines (s : State) (t : TileId) : List (Engine × Coll) :=
  (List.finRange 32).filterMap fun c => (collOf s (.tile t c)).map fun k => (.tile t c, k)

/-- The channel of a tile that takes part in a collective as a member. -/
def collFor (s : State) (t : TileId) (id me : Nat) : Option (Engine × Coll) :=
  (collEngines s t).find? fun x => (parseColl x.2.desc).id == id && x.2.me == me

/-- Every slot of a collective's staging area is taken. -/
def stageFull (c : Coll) : Bool :=
  let x := parseColl c.desc
  (x.kind == 0 || x.kind == 2) &&
    decide (c.present.length ≥ min (inFlight x c.members.length)
      (chunkSegs x c.members.length - c.folded.length) * (c.members.length - 1)) &&
    !c.present.isEmpty

/-- Acknowledge a DATA packet to its sender (R319), on the mesh from its tile to the tile `back`. -/
def acknowledge (s : State) (p : Packet) (back : TileId) : State :=
  sendPacket s p.tile p.sender.toNat { p with
    type := 1, sender := BitVec.ofNat 16 (moduleIndex s), from_ := p.to_, to_ := p.from_, payload := []
    count := none, poison := 0, crc := 0, tile := back, ce := false }

/-- A recorded SEQ of a peer and plane still tells duplicates once a new one is accepted: SEQs come round after 2^32 packets, so one that
lies 2^31 or more behind is forgotten (DESIGN CHOICE, log entry 112). -/
def keptSeq (new old : Nat × Nat) : Bool :=
  let d := (new.2 + 2 ^ 32 - old.2) % 2 ^ 32
  new.1 != old.1 || decide (d < 2 ^ 31 ∨ 2 ^ 32 - 2 ^ 30 < d)

/-- Accept a DATA packet: record its SEQ and acknowledge it. -/
def acceptData (s : State) (p : Packet) (back : TileId) : State :=
  let key := (peerKey p.sender.toNat p.plane, p.seq.toNat)
  acknowledge { s with links := { s.links with accepted := s.links.accepted.filter (keptSeq key) ++ [key] } } p back

/-- A packet that came in through a port die waits there for the mesh (R298). -/
def packetDelayed (s : State) (p : Packet) : Bool := decide (p.plane < 19) && dieDelays s p.tile (decide (16 ≤ p.plane))

/-- A packet reaches its tile: one of the mesh is the first of its flow (R296), one of a Span port finds it open, one of an Ethernet
port finds it up; from either's port die it crosses the mesh (R298). With it comes the tile it was sent from, known on the mesh alone. -/
def arrive (s : State) (p : Packet) : Option (State × TileId) :=
  let cross := fun (s : State) => (if packetDelayed s p then s else passDie s p.tile (decide (16 ≤ p.plane)), p.tile)
  if p.plane = 19 then
    ((s.mesh.find? fun f => f.dst == p.tile && f.load == .packet p && s.mesh.find? (sameFlow f) == some f).bind fun f =>
      (takeFlight s f).map fun s => (s, f.src))
  else if p.plane < 16 then if planeUp s p.plane then some (cross s) else none
  else if spanOpen s (p.plane - 16) then some (cross (linkPassed s (192 + (p.plane - 16)))) else none

/-- A congestion mark that comes in on an Ethernet plane halves the transport's window for the peer on the plane (Table LNK-2). The window's
size and its growth are not given: the halvings are counted and hold no packet back (log entry 81). -/
def congestionOn (s : State) (ce : Bool) (peer plane : Nat) : State :=
  if ce && decide (plane < 16) then
    let k := peerKey peer plane
    { s with links := { s.links with windows := mapSet 0 s.links.windows k (mapGet 0 s.links.windows k + 1) } }
  else s

def congestion (s : State) (p : Packet) : State := congestionOn s p.ce p.sender.toNat p.plane

/-- The packet names this transport, this job and a type. -/
def packetFor (s : State) (p : Packet) (type : Nat) : Bool :=
  p.version == 1 && p.type.toNat == type && p.job.toNat == fget s LNK_JOB f_LNK_JOB_JOB

/-- Run `act` on a packet of a type that reaches its tile; behind a mesh link that retrains it waits at its port die. -/
def onPacket (s : State) (p : Packet) (type : Nat) (act : State → Packet → TileId → State) : State :=
  if packetFor s p type then
    match arrive s p with
    | some r =>
      let v := congestion r.1 p
      if packetDelayed r.1 p then { v with dieIn := v.dieIn ++ [(p.tile, decide (16 ≤ p.plane), .packet p)] } else act v p r.2
    | none => s
  else s

/-- An accepted DATA packet goes to its collective; one for a collective not yet begun is kept, or is a collective fault at a full
staging area (R315, Table LNK-13, log entry 17). -/
def deliverData (s : State) (p : Packet) : State :=
  match collFor s p.tile p.collId.toNat p.to_.toNat with
  | some (e, c) => takeData s p e c
  | none =>
    match (collEngines s p.tile).find? fun x => stageFull x.2 with
    | some (_, c) => collFault s p.tile (parseColl c.desc).id p.from_.toNat 5
    | none => { s with links := { s.links with early := s.links.early ++ [p] } }

/-- A parity error in the data path of the Span and Ethernet units poisons the payload that passes them (R254). -/
def linkParity (s : State) (p : Packet) : Packet × State :=
  if faulty s .linkPath && decide (p.plane < 19) then ({ p with poison := 0xFF }, clearErr s .linkPath) else (p, s)

/-- A DATA packet at its tile (R319, R320). -/
def dataTaken (s : State) (p : Packet) (back : TileId) : State :=
  if p.crc.toNat ≠ crc32c (packetBytes p) then
    if p.plane < 16 then fadd s (LNK_ETH_STATUS p.plane) f_LNK_ETH_STATUS_CRC_DROP 1 else s
  else if s.links.accepted.contains (peerKey p.sender.toNat p.plane, p.seq.toNat) then acknowledge s p back
  else
    let r := linkParity (acceptData s p back) p
    deliverData r.2 r.1

/-- DATA_PACKET: a receiver checks a transport DATA packet, stores its payload and acknowledges it (R319, R320). -/
def execDataPacket (p : Packet) (s : State) : Host.Outcome State Fault Refusal := .next (onPacket s p 0 dataTaken)

/-- A packet still unacknowledged makes its peer silent: LNK_SILENT.LIMIT beats have passed, or the retransmission limit is reached
(R322). -/
def overdue (s : State) (u : Unacked) : Bool :=
  decide (s.now ≥ u.first + fget s LNK_SILENT f_LNK_SILENT_LIMIT) || decide (u.retx ≥ fget s LNK_RTO f_LNK_RTO_RETX_LIMIT)

/-- Every collective with an identifier may complete. -/
def checkColls (s : State) (id : Nat) : State :=
  (List.finRange 48).foldl (fun s t =>
    (collEngines s t).foldl (fun s x => if (parseColl x.2.desc).id = id then collCheck s x.1 else s) s) s

/-- An acknowledgement at its tile; a peer with nothing overdue left is silent no longer (R319, R322). -/
def ackTaken (s : State) (p : Packet) (_ : TileId) : State :=
  let mine := fun (peer plane : Nat) => peer == p.sender.toNat && plane == p.plane
  let left := s.links.unacked.filter fun u => !(mine u.peer u.plane && u.seq == p.seq.toNat)
  let silent := if left.any fun u => mine u.peer u.plane && overdue s u then s.links.silent
    else s.links.silent.filter fun q => !mine q.peer q.plane
  checkColls { s with links := { s.links with unacked := left, silent := silent } } p.collId.toNat

/-- ACK_PACKET: a sender takes an acknowledgement for a DATA packet (R319). -/
def execAckPacket (p : Packet) (s : State) : Host.Outcome State Fault Refusal := .next (onPacket s p 1 ackTaken)

/-- A credit at its tile: the contributor sends the segment; one for a collective not yet begun is held for it (R314). -/
def creditTaken (s : State) (p : Packet) (_ : TileId) : State :=
  match collFor s p.tile p.collId.toNat p.to_.toNat with
  | some (e, _) => contribute s p.tile e p.segment.toNat
  | none => holdCredit s p.tile p.collId.toNat p.to_.toNat p.segment.toNat

/-- CREDIT_PACKET: a contributor takes a credit for a free segment slot and sends the segment (R314). -/
def execCreditPacket (p : Packet) (s : State) : Host.Outcome State Fault Refusal := .next (onPacket s p 2 creditTaken)

/-- What waited at a port die reaches its tile. -/
def takeLoad (s : State) (t : TileId) (load : Load) : State :=
  match load with
  | .pulse ev => pulseAt s t ev
  | .packet p => if p.type = 0 then dataTaken s p t else if p.type = 1 then ackTaken s p t else creditTaken s p t

/-- What waits at the port dies goes on, in order, where no link of its way retrains any longer (R298, R308). -/
def deliverDies (s : State) : State :=
  s.dieIn.foldl (fun s x => takeDie s x.1 x.2.1 x.2.2 fun s => takeLoad s x.1 x.2.2) { s with dieIn := [] }

/-- Collectives go on where their requests need not wait any longer: credits held, and segments kept. -/
def retryColls (s : State) : State :=
  let held := s.links.credits
  let s := held.foldl (fun s k =>
    match (tileOf? k.1).bind fun t => collFor s t k.2.1 k.2.2.1 with
    | some (e, _) =>
      contribute { s with links := { s.links with credits := s.links.credits.filter (· != k) } } ((tileOf? k.1).getD 0) e k.2.2.2
    | none => s) s
  (List.finRange 48).foldl (fun s t =>
    if s.links.early.any fun p => p.tile == t then (collEngines s t).foldl (fun s x => deliverEarly s t x.1) s else s) s

/-- VERDICT_PACKET: a module takes a VERDICT packet, folding its owned part or recording a summed part (R321). A congestion mark counts as
on any packet of the transport (Table LNK-2). -/
def execVerdictPacket (v : VerdictMsg) (s : State) : Host.Outcome State Fault Refusal :=
  let s := congestionOn s v.ce v.sender.toNat v.plane
  if v.job.toNat ≠ fget s LNK_JOB f_LNK_JOB_JOB then .next s
  else if v.summed then
    if (s.stp.sent.map (·.1)) = some v.step.toNat then .next (verdictComplete (recordSum s v.part)) else .next s
  else .next (verdictComplete (takePart s v.step.toNat v.sender.toNat v.part))

end Sys2Proof.Machine
end

