-- ==== Sys2Proof/Machine/Links.lean ====
section
/-! DEFINITION. Link retry and training, silent peers, served RDMA requests and address resolution (R299 to R309,
R319, R322 to R326, R363, R373, R425, R426). -/

namespace Sys2Proof.Machine

/-! ### What the ringmaster pushes (R425, R426) -/

/-- Send a push to every subscriber of a bit on every medium. -/
def pushAll (s : State) (bit : Nat) (mk : Medium → Byte → OutMsg) : State :=
  [Medium.vdmP0, .vdmP1, .i3c].foldl (fun s m =>
    (s.port m).subscribers.foldl (fun s x => if x.2.getLsbD bit then emit s (mk m x.1) else s) s) s

/-- The header of a datagram: TYPE, zero, the record's length, the sequence number and the Device Serial Number (R426). -/
def datagramHeader (seq kind length : Nat) : List Byte :=
  leBytes 1 kind ++ [0] ++ leBytes 2 length ++ leBytes 4 seq ++ leBytes 8 Config.serialNumber.toNat

/-- The ringmaster does not act: it restarts or is held in reset (R394, R415). -/
def blackout (s : State) : Bool := s.mgr.restarting || fbit s MGS_STATUS f_MGS_STATUS_RM_HELD

/-- Send a record to the collector's address and port while its stream is selected. -/
def netRecord (s : State) (bit kind : Nat) (rec_ : List Byte) : State :=
  if fbit s MGS_NET_CTL f_MGS_NET_CTL_ENABLE && bitAt (fget s MGS_NET_CTL f_MGS_NET_CTL_STREAMS) bit then
    emit { s with mgr := { s.mgr with netSeq := s.mgr.netSeq + 1 } }
      (.datagram (fget s MGS_NET_CTL f_MGS_NET_CTL_PORT)
        (BitVec.ofNat 128 (s.reg (MGS_NET_COLLECTOR 1) + 2 ^ 64 * s.reg (MGS_NET_COLLECTOR 0)))
        (datagramHeader s.mgr.netSeq kind rec_.length) rec_)
  else s

/-! ### Retry and training -/

/-- The number of a link: tile × 4 + direction, or 192 + port. -/
def linkKey : Link → Nat
  | .mesh t d => 4 * t.val + d.val
  | .span k => 192 + k.val

/-- RETRANSMIT_TIMEOUT: a DATA packet without acknowledgement after LNK_RTO beats is sent again (R319). -/
def execRetransmitTimeout (peer : BitVec 16) (plane : Nat) (seq : BitVec 32) (s : State) :
    Host.Outcome State Fault Refusal :=
  let hit := fun (u : Unacked) => u.peer == peer.toNat && u.plane == plane && u.seq == seq.toNat
  match s.links.unacked.find? hit with
  | none => .next s
  | some u =>
    if s.now < u.sent + fget s LNK_RTO f_LNK_RTO_RTO then .next s
    else
      let s := { s with links := { s.links with
        unacked := s.links.unacked.map fun v => if hit v then { v with sent := s.now, retx := v.retx + 1 } else v } }
      let s := if plane < 16 then mcModule s 0x122 plane 1 else s
      .next (sendPacket s u.tile u.peer u.packet)

/-- Replays of one flit after which its link retrains (Table LNK-3). -/
def flitRetries : Nat := 16

/-- FLIT_CRC_ERROR: a mesh or Span receiver discards a bad flit and those after it and asks for a replay (R307). Replays in succession
are of one flit until something crosses the link (DESIGN CHOICE, log entry 82). -/
def execFlitCrcError (l : Link) (s : State) : Host.Outcome State Fault Refusal :=
  let s := emit s (.replay (linkKey l))
  let s := { s with links := { s.links with flits := mapSet 0 s.links.flits (linkKey l) (mapGet 0 s.links.flits (linkKey l) + 1) } }
  match l with
  | .mesh t d =>
    let n := mapGet 0 s.links.meshReplays (linkKey l)
    .next (mcTile { s with links := { s.links with meshReplays := mapSet 0 s.links.meshReplays (linkKey l) (n + 1) } }
      t 0x050 d.val 1)
  | .span k => .next (mcModule (fadd s (LNK_SPAN_STATUS k.val) f_LNK_SPAN_STATUS_RETRIES 1) 0x110 k.val 1)

/-- The unit and register of a link's events. -/
def linkUnit (s : State) : Link → Nat × Nat
  | .mesh t _ => (t.val, 0)
  | .span k => (k.val, s.reg (LNK_SPAN_STATUS k.val))

/-- LINK_RETRAIN: a link whose flit reaches the retry limit retrains while its traffic waits (R308). -/
def execLinkRetrain (l : Link) (s : State) : Host.Outcome State Fault Refusal :=
  if mapGet 0 s.links.flits (linkKey l) < flitRetries then .next s
  else
    let s := linkPassed { s with links := { s.links with retraining := insertOnce (linkKey l) s.links.retraining } } (linkKey l)
    .next (post s .linkRetrain (linkUnit s l).1 (linkUnit s l).2)

/-- Note when a plane's port goes down (R324), or that it is up. -/
def notePort (s : State) (plane : Nat) (up : Bool) : State :=
  let old := mapGet 0 s.links.downSince plane
  let since := if up then 0 else if old = 0 then s.now else old
  { s with links := { s.links with downSince := mapSet 0 s.links.downSince plane since } }

/-- Traffic of the collective transport: a packet of a collective, or a VERDICT packet. -/
def transport : OutMsg → Bool
  | .packet .. | .verdict .. => true
  | _ => false

/-- Send anew to a peer what waited for a Span port that is down: credits and VERDICT packets. DATA packets are sent anew as unacknowledged
ones, and the acknowledgements of those that came in through the port have lost their use, since their senders do the same. -/
def sendAnew (s : State) (peer : Nat) : OutMsg → State
  | .packet _ p => if p.type = 2 then sendPacket s p.tile peer { p with plane := ethPlane s p.segment.toNat } else s
  | .verdict _ v => sendVerdict s peer v
  | _ => s

/-- Move a Span port's collective traffic onto the Ethernet planes (R309): each unacknowledged DATA packet is sent anew there, and so
are the credits and verdicts that wait; pulses, slews and writes go on waiting. No peer has unacknowledged data on the plane then, so none
is silent there (R322). -/
def moveToEthernet (s : State) (k : Nat) : State :=
  let gone := s.links.unacked.filter fun u => u.plane == 16 + k
  let held := (s.spanHeld.filter fun m => m.1 == k && transport m.2).map (·.2) ++
    (s.dieHeld.filter fun m => m.2.1 == 16 + k && transport m.2.2).map (·.2.2)
  let s := { s with
    links := { s.links with
      unacked := s.links.unacked.filter fun u => u.plane != 16 + k
      silent := s.links.silent.filter fun q => q.plane != 16 + k }
    spanHeld := s.spanHeld.filter fun m => m.1 != k || !transport m.2
    dieHeld := s.dieHeld.filter fun m => m.2.1 != 16 + k || !transport m.2.2 }
  let s := held.foldl (fun s m => sendAnew s ((spanPeer s k).getD 0) m) s
  gone.foldl (fun s u => sendNumbered s u.tile u.peer { u.packet with plane := ethPlane s u.packet.segment.toNat }) s

/-- A Span port goes down (R309). -/
def spanDown (s : State) (k : Fin 3) : State :=
  moveToEthernet (raiseAlert (notePort (fset s (LNK_SPAN_STATUS k.val) f_LNK_SPAN_STATUS_UP 0) (16 + k.val) false)
    f_MGS_ALERT_LINK) k.val

/-- A tile is marked failing in the repair map, and a hold is requested for its swap (R309, R328); in a band without a spare it
is marked failed (R9). -/
def markFailing (s : State) (t : Nat) : State :=
  let b := BitVec.ofNat 48 (2 ^ t)
  if nthD 13 s.repair.retired (t / 12) = 13 then
    fset (writePart { s with repair := { s.repair with failing := s.repair.failing ||| b } }) TBU_RESTART f_TBU_RESTART_HOLD_REQ 1
  else
    writePart { s with repair := { s.repair with failed := s.repair.failed ||| b }, job := { s.job with mapChanged := true } }

/-- The tile at the lower logical index of the two that link `dir` of a tile joins (R309). Which direction a link number has is free
(log entry 18); at the panel's edge the link joins the tile to no other. -/
def meshLower (t : TileId) (d : Fin 4) : Nat :=
  match (Config.meshDirection d).val with
  | 0 => if t.val < 12 then t.val else t.val - 12
  | 3 => if t.val % 12 = 0 then t.val else t.val - 1
  | _ => t.val

/-- What waited on the mesh on its way between the tiles and the port dies goes on (R298, R308). -/
def meshOpens (s : State) : State := deliverDies (releaseDies s)

/-- LINK_RETRAIN_COMPLETE: a retraining link is whole again, or its tile is marked failing, or its port is down
(R308, R309). -/
def execLinkRetrainComplete (l : Link) (ok : Bool) (s : State) : Host.Outcome State Fault Refusal :=
  if !s.links.retraining.contains (linkKey l) then .next s
  else
    let s := { s with links := { s.links with retraining := s.links.retraining.filter (· != linkKey l) } }
    match l, ok with
    | .mesh .., true => .next (meshOpens s)
    | .mesh t d, false => .next (meshOpens (markFailing s (meshLower t d)))
    | .span k, true => .next (releaseSpan (fset s (LNK_SPAN_STATUS k.val) f_LNK_SPAN_STATUS_RETRAIN 1) k.val)
    | .span k, false => .next (spanDown s k)

/-- A receive lane of a Span port trains: its signal is sound and comes from the peer's lane of the same number. The receiver corrects an
inverted lane; a crossed or a reversed one it does not (R445). -/
def laneTrains (r : SpanTraining) (l : Nat) : Bool := r.sound.getLsbD l && nthD l r.wiring l == l

/-- Every lane of a half trains (R301). -/
def lowHalf (r : SpanTraining) : Bool := (List.range 16).all (laneTrains r)
def highHalf (r : SpanTraining) : Bool := (List.range 16).all fun l => laneTrains r (16 + l)

/-- LINK_TRAINING: a Span port trains, first at 32 lanes and, where one fails, again at the 16 of a whole half, exchanges
positions and comes up whole, degraded or miswired (R299 to R301, R445). -/
def execLinkTraining (k : Fin 3) (r : SpanTraining) (s : State) : Host.Outcome State Fault Refusal :=
  let a := LNK_SPAN_STATUS k.val
  if s.pins.modrst then .next s
  else
    let pos := s.pins.boardPos
    let wrong := r.peerPos.toNat != (pos + k.val + 1) % 4 || r.peerPort.toNat != 2 - k.val || r.peerPos.toNat == pos
    let up := (lowHalf r || highHalf r) && !wrong
    let half := up && !(lowHalf r && highHalf r)
    let s := fset (fset (fset s a f_LNK_SPAN_STATUS_PEER_POS r.peerPos.toNat) a f_LNK_SPAN_STATUS_PEER_PORT
      r.peerPort.toNat) a f_LNK_SPAN_STATUS_MISWIRE (boolNat wrong)
    let s := fset (fset s a f_LNK_SPAN_STATUS_UP (boolNat up)) a f_LNK_SPAN_STATUS_DEGRADED (boolNat half)
    let s := { s with links := { s.links with
      retraining := s.links.retraining.filter (· != 192 + k.val)
      polarity := mapSet 0 s.links.polarity k.val r.inverted.toNat } }
    let s := if wrong then post s .miswire k.val (s.reg a) else s
    let s := if half then
        let s := fset s a f_LNK_SPAN_STATUS_RETRAIN 1
        post (post s .linkRetrain k.val (s.reg a)) .degraded k.val (s.reg a)
      else s
    if up then .next (releaseSpan (notePort (if half then raiseAlert s f_MGS_ALERT_LINK else s) (16 + k.val) true) k.val)
    else .next (spanDown s k)

/-- ETHERNET_LINK_DOWN: a port loses its link, and its plane leaves the plane selection (R309). -/
def execEthernetLinkDown (k : Fin 16) (s : State) : Host.Outcome State Fault Refusal :=
  if fbit s (LNK_ETH_STATUS k.val) f_LNK_ETH_STATUS_UP then
    .next (raiseAlert (notePort (fset s (LNK_ETH_STATUS k.val) f_LNK_ETH_STATUS_UP 0) k.val false) f_MGS_ALERT_LINK)
  else .next s

/-- ETHERNET_LINK_UP: a port completes link training, and its plane returns (R309). RETRAIN records it. -/
def execEthernetLinkUp (k : Fin 16) (s : State) : Host.Outcome State Fault Refusal :=
  if fbit s (LNK_ETH_STATUS k.val) f_LNK_ETH_STATUS_UP || s.pins.modrst then .next s
  else
    let s := fset (fset s (LNK_ETH_STATUS k.val) f_LNK_ETH_STATUS_UP 1) (LNK_ETH_STATUS k.val) f_LNK_ETH_STATUS_RETRAIN 1
    .next (post (notePort s k.val true) .linkRetrain k.val (s.reg (LNK_ETH_STATUS k.val)))

/-! ### Silent peers (R322 to R326) -/

/-- PEER_SILENT: a peer becomes silent after LNK_SILENT.LIMIT beats without acknowledgement or at the retransmission
limit (R322). The panel mesh reaches no peer. -/
def execPeerSilent (peer : BitVec 16) (plane : Nat) (s : State) : Host.Outcome State Fault Refusal :=
  let us := s.links.unacked.filter fun u => u.peer == peer.toNat && u.plane == plane
  let late := us.any fun u => decide (s.now ≥ u.first + fget s LNK_SILENT f_LNK_SILENT_LIMIT)
  if decide (plane < 19) && us.any (overdue s) && !(s.links.silent.any fun q => q.peer == peer.toNat && q.plane == plane) then
    .next { s with links := { s.links with
      silent := s.links.silent ++ [⟨peer.toNat, plane, s.now, if late then 1 else 2⟩] } }
  else .next s

/-- Every peer with unacknowledged data on a plane is silent there, and there are at least two (R324). -/
def ownPortSuspect (s : State) (plane : Nat) : Bool :=
  let peers := ((s.links.unacked.filter fun u => u.plane == plane).map (·.peer)).eraseDups
  decide (2 ≤ peers.length) && peers.all fun p => s.links.silent.any fun q => q.peer == p && q.plane == plane

/-- The record of Table LNK-8. -/
def silentRecord (s : State) (suspect plane reason first : Nat) (primary : Bool) : List Byte :=
  let waiting := ((s.links.unacked.find? fun u => u.plane == plane && (primary || u.peer == suspect)).map
    fun u => u.packet.collId.toNat).getD 0
  leBytes 2 (moduleIndex s) ++ leBytes 2 suspect ++ leBytes 1 (plane + 128 * boolNat primary) ++ leBytes 1 reason ++
    leBytes 2 0 ++ leBytes 4 (fget s LNK_FAULT_EPOCH f_LNK_FAULT_EPOCH_EPOCH) ++
    leBytes 4 (fget s TBU_STEP f_TBU_STEP_STEP) ++ leBytes 8 first ++ leBytes 8 waiting

/-- Send a silent-peer report through the ringmaster. -/
def sendReport (s : State) (rec_ : List Byte) (suspect : Nat) : State :=
  let s := fadd s LNK_REPORTS f_LNK_REPORTS_COUNT 1
  let s := raiseAlert (post s .silentPeer suspect (field rec_ 0 8)) f_MGS_ALERT_SILENT_PEER
  netRecord (pushAll s 1 fun m eid => .pushReport m eid rec_) 1 0x11 rec_

/-- SILENT_PEER_REPORT: after the hold-off a module sends one report per peer, or a PRIMARY report for its own port
(R323, R324). A port that is down is reported after the same hold-off, counted from the beat in which it went down (DESIGN CHOICE,
log entry 98). -/
def execSilentPeerReport (peer : BitVec 16) (plane : Nat) (s : State) : Host.Outcome State Fault Refusal :=
  let ready := fun (first : Nat) => decide (s.now ≥ max first s.links.epochBeat + fget s LNK_SILENT f_LNK_SILENT_HOLDOFF)
  let on := s.links.silent.filter fun q => q.plane == plane
  let since := mapGet 0 s.links.downSince plane
  let primary := fun (reason first : Nat) =>
    let s := { s with links := { s.links with primary := plane :: s.links.primary } }
    sendReport s (silentRecord s (moduleIndex s) plane reason first true) (moduleIndex s)
  if blackout s || s.links.primary.contains plane then .next s
  else if decide (plane < 19) && !planeUp s plane then if ready since then .next (primary 3 since) else .next s
  else if ownPortSuspect s plane && on.any (fun q => ready q.first) then
    .next (primary 4 ((on.head?.map (·.first)).getD 0))
  else
    match on.find? fun q => q.peer == peer.toNat && ready q.first with
    | some q =>
      if s.links.reported.contains q.peer then .next s
      else
        let s := { s with links := { s.links with reported := q.peer :: s.links.reported } }
        .next (sendReport s (silentRecord s q.peer plane q.reason q.first false) q.peer)
    | none => .next s

/-- LNK_FAULT_EPOCH: a write starts a new fault epoch and clears the record of reported peers (R326). -/
def execLnkFaultEpoch (r : Requester) (epoch : BitVec 32) (s : State) : Host.Outcome State Fault Refusal :=
  .next (guardedWrite s r LNK_FAULT_EPOCH (some grpLink) fun s =>
    let s := fset s LNK_FAULT_EPOCH f_LNK_FAULT_EPOCH_EPOCH epoch.toNat
    { s with links := { s.links with reported := [], primary := [], epochBeat := s.now } })

/-! ### RDMA and address resolution -/

/-- The region that an rkey names (R373). -/
def regionOf (s : State) (rkey : Nat) : Option Region :=
  let r := mapGet Region.empty s.regions (rkey / 256)
  if rkey / 256 < 1024 ∧ r.valid ∧ r.gen % 256 = rkey % 256 then some r else none

/-- A request lies in a region that can be reached. -/
def inRegion (s : State) (r : Region) (a n : Nat) : Bool :=
  decide (r.addr ≤ a ∧ a + n ≤ r.addr + r.size) && rangeMapped s .other a n && !rangeRetired s a n

/-- Answer a queue pair's peer: data, an acknowledgement, or a refusal (R306); the packet is marked as RoCEv2 traffic (R305). -/
def rdmaAnswer (s : State) (qpn : BitVec 12) (data : Option (List Byte)) : State :=
  emit s (.rdma (rdmaFrame s qpn.toNat (fget s LNK_DSCP f_LNK_DSCP_ROCE)) data)

/-- Perform a served request: a WRITE, or a READ. What a read of a poisoned block returns is not given: data or none, by a free
choice. -/
def performRdma (s : State) (qpn : BitVec 12) (op : RdmaOp) : State :=
  let answer := fun (s : State) (data : Option (List Byte)) => rdmaAnswer s qpn data
  match op with
  | .write a bs => answer (writeBytes s .other a bs false) (some [])
  | .read a n =>
    let v := verifyRange s .other a n
    let f := if v.1.isEmpty then (0, v.2) else takeFree v.2
    answer f.2 (if f.1.getLsbD 0 then none else some (readBytes f.2 .other a n))
  | .send _ =>
    let f := takeFree s
    answer f.2 (if f.1.getLsbD 0 then none else some [])

/-- The address of a served request, absent where no region serves it. -/
def servedAt (s : State) (rkey : BitVec 32) (op : RdmaOp) : Option Nat :=
  match op, regionOf s rkey.toNat with
  | .write a bs, some r => if r.write && inRegion s r a bs.length then some a else none
  | .read a n, some r => if r.read && inRegion s r a n then some a else none
  | _, _ => none

/-- Bytes that a served request moves. -/
def rdmaLength : RdmaOp → Nat
  | .write _ bs => bs.length
  | .read _ n => n
  | .send _ => 0

/-- Serve a peer's request inside a matching registered region, on a queue pair that is ready to receive (R373). A request to host
memory behind a port that is down waits for the link (R363), one to a device that holds requests for the device (R215, R216, R218). A SEND names no region and the spec gives it no receive buffer: it is
acknowledged or refused by a free choice (DESIGN CHOICE, log entry 83). -/
def serveRdma (s : State) (qpn : BitVec 12) (rkey : BitVec 32) (op : RdmaOp) : State :=
  let state := field (mapGet [] s.qps qpn.toNat) 0 1
  let send := match op with
    | .send _ => true
    | _ => false
  if state ≠ 2 ∧ state ≠ 3 then rdmaAnswer s qpn none
  else if send then performRdma s qpn op
  else
    match servedAt s rkey op with
    | none => rdmaAnswer s qpn none
    | some a =>
      if hostDown s a then waitLink s (hostPort a) (.rdma qpn rkey op)
      else if blocksHeld s (blocksOf a (rdmaLength op)) then
        { s with links := { s.links with served := s.links.served ++ [(qpn, rkey, op)] } }
      else performRdma s qpn op

/-- The requests of peers that waited for a device are tried again, in order. -/
def serveHeld (s : State) : State :=
  s.links.served.foldl (fun s x => serveRdma s x.1 x.2.1 x.2.2) { s with links := { s.links with served := [] } }

/-- RDMA_REQUEST: the module serves a peer's RDMA request (R306, R373); one that arrives with a congestion mark is answered with a
congestion notification packet too (Table LNK-2, R305). -/
def execRdmaRequest (qpn : BitVec 12) (rkey : BitVec 32) (op : RdmaPacket) (s : State) :
    Host.Outcome State Fault Refusal :=
  let s := if op.ce then emit s (.cnp (rdmaFrame s qpn.toNat (fget s LNK_DSCP f_LNK_DSCP_CNP))) else s
  .next (serveRdma s qpn rkey op.op)

/-- ARP_REQUEST: the module answers ARP or neighbour solicitation for its own addresses, on an Ethernet port, with the port's next hop and
tag (Table LNK-2), or on the management port (R303, R426). -/
def execArpRequest (port : Option (Fin 16)) (addr : BitVec 128) (s : State) : Host.Outcome State Fault Refusal :=
  match port with
  | some k =>
    if planeUp s k.val && addr.toNat == portAddress s k.val then .next (emit s (.arp (some (frameAt s k.val 0 0 [])) addr)) else .next s
  | none =>
    if addr.toNat = s.reg (MGS_NET_LOCAL 1) + 2 ^ 64 * s.reg (MGS_NET_LOCAL 0) then .next (emit s (.arp none addr))
    else .next s

/-! ### PCIe links (R363) -/

/-- The status bit of a PCIe port. -/
def portBit (p : Fin 2) : Fld := if p = 0 then f_HIF_STATUS_P0_UP else f_HIF_STATUS_P1_UP

/-- PCIE_LINK_DOWN: requests to the port start to wait (R363). -/
def execPcieLinkDown (port : Fin 2) (s : State) : Host.Outcome State Fault Refusal :=
  .next (fset s HIF_STATUS (portBit port) 0)

end Sys2Proof.Machine
end

