-- ==== Sys2Proof/Machine/EventLog.lean ====
section
/-! DEFINITION. The event log: numbering, the RAM ring, pushes and the flash ring (R419 to R421, R425, R426, R449). -/

namespace Sys2Proof.Machine

/-- The ringmaster and the units beside it are in reset; a pulse of MODRST_L during a shutdown resets nothing before STANDBY (R452). -/
def inReset (s : State) : Bool := s.pins.modrst && !(s.pins.lateReset && s.pwr.shutdownStage != 0)

/-- The ringmaster runs and answers: powered, out of reset, not restarting or held, and booted or in its recovery ROM (R385,
R394, R415; log entry 24). -/
def rmUp (s : State) : Bool :=
  s.pwr.applied && !inReset s && !blackout s &&
    (fget s PWR_STATE f_PWR_STATE_STATE != 1 || fbit s HIF_STATUS f_HIF_STATUS_RECOVERY)

/-! ### Entries (Tables MGT-2 and MGT-3) -/

/-- The class of an event. -/
def eventClass : EventKind → Nat
  | .restart | .lost | .updateState | .watchdog => 0
  | .tileStop | .nanCapture | .integrity | .dmaAbort => 1
  | .thermalLevel | .uncorrectable | .repair | .retirement | .repairExhausted => 2
  | .linkRetrain | .degraded | .miswire | .silentPeer => 3
  | .capChange | .throtEdge | .floorShort | .coolantDerate | .shutdownCause => 4
  | .syncSlip | .holdoverEntered | .holdoverLeft | .recordDropped => 5
  | .stepSkipped | .stepWithheld | .lateVerdict => 6
  | .thresholdCrossed => 7
  | .capture | .triggerIgnored => 8
  | .counterSaturated => 9

/-- The severity of an entry: 2 WARNING, 3 ERROR, 4 CRITICAL. -/
def LogEntry.severity (e : LogEntry) : Nat := (Config.eventSeverity e.kind).val

/-- The 32 bytes of an entry, with its CRC. -/
def logBytes (e : LogEntry) : List Byte :=
  let b := leBytes 8 e.beat ++ leBytes 4 e.seq ++ leBytes 2 (eventClass e.kind * 2 ^ 12 + (Config.eventNumber e.kind).toNat) ++
    leBytes 1 e.severity ++ leBytes 1 (boolNat e.boot) ++ leBytes 2 e.unit ++ leBytes 2 0 ++ leBytes 8 e.data
  b ++ leBytes 4 (crc32c b)

/-! ### The RAM log (R419, R425, R449) -/

/-- The ringmaster takes the queue's first entry, numbers it, appends it to the RAM log of 32,768 entries, and sends it where its
severity asks. -/
def appendEntry (s : State) : State :=
  match s.mgr.queue with
  | [] => s
  | q :: qs =>
    let n := fget s MGS_LOG_WP f_MGS_LOG_WP_SEQ
    let e := { q with seq := n, logged := s.now }
    let ram := s.mgr.ram ++ [e]
    let s := { s with mgr := { s.mgr with queue := qs, ram := ram.drop (ram.length - 32768) } }
    let s := fset s MGS_LOG_WP f_MGS_LOG_WP_SEQ (n + 1)
    let s := if e.severity ≥ 1 then emit s (.uart e) else s
    if e.severity ≥ 2 then netRecord (pushAll s 2 fun m a => .pushLog m a e) 2 0x12 (logBytes e) else s

/-- EVENT_LOG_APPEND: the ringmaster takes an event from the hardware queue (R419); queued events wait for the end of a warm restart
(R394). -/
def execEventLogAppend (s : State) : Host.Outcome State Fault Refusal :=
  if rmUp s then .next (appendEntry s) else .next s

/-! ### The flash log (R420) -/

/-- RAM entries not yet in flash, in SEQ order. -/
def unflashed (s : State) : List LogEntry := s.mgr.ram.filter fun e => decide (s.mgr.copied ≤ e.seq)

/-- Append one entry to the flash ring of 2,097,152 entries, whose oldest sector of 2,048 is erased when it is full. -/
def flashAppend (l : List LogEntry) (e : LogEntry) : List LogEntry :=
  (if l.length ≥ 2097152 then l.drop 2048 else l) ++ [e]

/-- Copy entries of the RAM log to flash. -/
def copyEntries (s : State) (es : List LogEntry) : State :=
  { s with flash := { s.flash with log := es.foldl flashAppend s.flash.log }
           mgr := { s.mgr with copied := es.foldl (fun n e => max n (e.seq + 1)) s.mgr.copied } }

/-- Copy every entry not yet in flash. -/
def flashCopy (s : State) : State := copyEntries s (unflashed s)

/-- Entries through the last of severity ERROR or CRITICAL. -/
def throughError (es : List LogEntry) : List LogEntry := (es.reverse.dropWhile fun e => decide (e.severity < 3)).reverse

/-- The entries that are due in flash: all where 4 KiB of those below ERROR have gathered or one of them is 10 s old since the ringmaster logged it, else those
through the last of severity ERROR or CRITICAL, in SEQ order (R420). -/
def flashDue (s : State) : List LogEntry :=
  let es := unflashed s
  let others := es.filter fun e => decide (e.severity < 3)
  if decide (128 ≤ others.length) || others.any fun e => decide (e.logged + 1000000000 ≤ s.now) then es else throughError es

/-- FLASH_LOG_COPY: the entries that are due are copied (R420). -/
def execFlashLogCopy (s : State) : Host.Outcome State Fault Refusal :=
  if rmUp s then .next (copyEntries s (flashDue s)) else .next s

end Sys2Proof.Machine
end

