-- ==== Sys2Proof/Machine/Sensors.lean ====
section
/-! DEFINITION. The sensor hub (R417, R418, Table MGT-1): the readings it keeps, their thresholds and the events they make. The commands
that bring the samovar and the base dies their readings bring them to the hub as well. -/

namespace Sys2Proof.Machine

/-- The digest of a section in force, zero where there is none. -/
def forceDigest (s : State) (t : Nat) : BitVec 384 :=
  ((s.upd.inForce.find? fun p => p.1 == t).map fun p => p.2.1).getD 0

/-- A sensor whose unit is °C (Table MGT-1). -/
def celsius (i : Nat) : Bool := decide (i ≤ 840) || (decide (841 ≤ i ∧ i < 1033) && (i - 841) % 3 == 2)

/-- A reading has fallen back below a threshold: by 2 °C, or by 2 % (R418). -/
def fallsBack (i : Nat) (v t : Int) : Bool := if celsius i then decide (v ≤ t - 2) else decide (v * 100 ≤ t * 98)

/-- A PlatformEventMessage goes to the registered event receiver; while the ringmaster does not answer it waits (R394, R418). -/
def platformEvent (s : State) (i : Nat) (v : Int) : State :=
  match s.mgr.receiver with
  | none => s
  | some r =>
    if rmUp s then emit s (.platformEvent s.mgr.receiverOn r i v) else { s with mgr := { s.mgr with events := s.mgr.events ++ [(i, v)] } }

/-- The events that waited are sent, in order. -/
def sendEvents (s : State) : State :=
  s.mgr.events.foldl (fun s x => platformEvent s x.1 x.2) { s with mgr := { s.mgr with events := [] } }

/-- A reading against one threshold: crossed upward it makes an entry and an event, and the critical one sets SENSOR. -/
def crossOne (s : State) (i : Nat) (v : Int) (k : Fin 3) : State :=
  let x := s.sensor i
  let t := Config.sensorThreshold (forceDigest s 7) (forceDigest s 8) i k
  if bitAt x.crossed k.val then
    if fallsBack i v t then s.setSensor i { x with crossed := putBits x.crossed k.val 1 0 } else s
  else if v > t then
    let s := post (s.setSensor i { x with crossed := putBits x.crossed k.val 1 1 }) .thresholdCrossed i (codeOf 64 v)
    let s := platformEvent s i v
    if k = 1 then raiseAlert s f_MGS_ALERT_SENSOR else s
  else s

/-- The hub takes a reading of a period, or none: the third missed on end sets SENSOR (R417). -/
def hubReading (s : State) (sensor : Nat) (value : Option Int) : State :=
  let x := s.sensor sensor
  match value with
  | none =>
    let s := s.setSensor sensor { x with missed := x.missed + 1 }
    if x.missed + 1 = 3 then raiseAlert s f_MGS_ALERT_SENSOR else s
  | some v =>
    let low := if x.last.isSome then min x.low v else v
    let high := if x.last.isSome then max x.high v else v
    let s := s.setSensor sensor { x with last := some v, low := low, high := high, missed := 0 }
    [0, 1, 2].foldl (fun s k => crossOne s sensor v k) s

/-- The hub takes the readings of a run of sensors. -/
def hubReadings (s : State) : Nat → List (Option Int) → State
  | _, [] => s
  | i, v :: vs => hubReadings (hubReading s i v) (i + 1) vs

end Sys2Proof.Machine
end

