-- ==== Sys2Proof/Machine/Turnstile.lean ====
section
/-! DEFINITION. The turnstile: intake descriptors, colour conversion, tokens and the status record (spec/14). A
clip is decoded as one command (log entry 19). -/

namespace Sys2Proof.Machine

/-! ### Descriptors (Tables VID-5, VID-6) -/

structure IntakeDesc where
  codec : Nat
  patch : Nat
  tstride : Nat
  fmt : Nat
  policy : Nat
  tensor : Nat
  src : Nat
  srcBytes : Nat
  ctx : Nat
  startPos : Nat
  frames : Nat
  cropX : Nat
  cropY : Nat
  cropW : Nat
  cropH : Nat
  dst : Nat
  dstScale : Nat
  param : Nat
  deriving DecidableEq, Repr

def parseIntake (d : List Byte) : IntakeDesc :=
  { codec := bitsAt (field d 1 1) 0 2, patch := if bitAt (field d 1 1) 2 then 16 else 8
    tstride := bitsAt (field d 1 1) 3 2 + 1, fmt := bitsAt (field d 2 1) 0 4, policy := bitsAt (field d 2 1) 4 2
    tensor := field d 6 2, src := bitsAt (field d 8 8) 0 56, srcBytes := field d 16 4
    ctx := bitsAt (field d 20 4) 0 20, startPos := field d 24 4, frames := field d 28 4
    cropX := field d 32 2, cropY := field d 34 2, cropW := field d 36 2, cropH := field d 38 2
    dst := bitsAt (field d 40 8) 0 56, dstScale := bitsAt (field d 48 8) 0 56, param := bitsAt (field d 56 8) 0 56 }

/-- Tokens of a frame group, elements of a token and bytes of a token (R356). -/
def IntakeDesc.tpg (x : IntakeDesc) : Nat := x.cropW / x.patch * (x.cropH / x.patch)
def IntakeDesc.len (x : IntakeDesc) : Nat := 3 * x.tstride * x.patch * x.patch
def IntakeDesc.tokenBytes (x : IntakeDesc) : Nat := packedBytes x.fmt x.len
def IntakeDesc.groups (x : IntakeDesc) : Nat := x.frames / x.tstride

/-- An intake parameter record. -/
structure IntakeParam where
  matrix : Nat
  range : Nat
  gain : List Nat
  bias : List Nat
  ptsStep : Nat
  pts0 : Nat
  tsList : Nat
  status : Nat
  deriving DecidableEq, Repr

def parseParam (b : List Byte) : IntakeParam :=
  { matrix := bitsAt (field b 0 1) 0 2, range := bitsAt (field b 0 1) 2 2
    gain := (List.range 3).map fun i => field b (4 + 4 * i) 4, bias := (List.range 3).map fun i => field b (16 + 4 * i) 4
    ptsStep := field b 28 4, pts0 := field b 32 8, tsList := bitsAt (field b 40 8) 0 56
    status := bitsAt (field b 48 8) 0 56 }

/-- A range within its space and outside the operand stores (R361). -/
def intakeRange (s : State) (a n : Nat) : Bool := (n == 0 || spaceOf a != .operand) && rangeOk s .other a n

/-- No condition of R361 holds that the descriptor itself shows. -/
def intakeDescOk (s : State) (d : List Byte) : Bool :=
  let x := parseIntake d
  let ok := intakeRange s
  field d 0 1 == 0x22 && bitsAt (field d 1 1) 5 3 == 0 && bitsAt (field d 2 1) 6 2 == 0 && x.policy != 3 &&
  field d 3 1 == 0 && field d 5 1 == 0 && field d 15 1 == 0 && field d 20 4 / 2 ^ 20 == 0 && x.dst % 64 == 0 &&
  field d 47 1 == 0 && field d 55 1 == 0 && x.param % 64 == 0 && field d 63 1 == 0 &&
  (x.fmt == 8 || x.fmt == 0) && (x.fmt == 0 || x.dstScale == 0) &&
  ok x.param 64 &&
  x.frames != 0 && x.frames % x.tstride == 0 && x.cropW != 0 && x.cropH != 0 && x.cropW % x.patch == 0 &&
  x.cropH % x.patch == 0 && x.startPos % (max 1 x.tpg) == 0 &&
  decide (x.startPos + x.groups * x.tpg ≤ 4194304) &&
  ok x.src x.srcBytes && ok x.dst (x.groups * x.tpg * x.tokenBytes) &&
  (x.fmt != 0 || ok x.dstScale (x.groups * x.tpg * (x.len / 32)))

/-- No condition of R361 holds that the parameter record shows. -/
def intakeParamOk (s : State) (d : List Byte) : Bool :=
  let x := parseIntake d
  let raw := readBytes s .other x.param 64
  let p := parseParam raw
  field raw 0 1 / 16 == 0 && p.range != 3 && field raw 1 3 == 0 && field raw 47 1 == 0 &&
  p.status % 16 == 0 && field raw 55 1 == 0 && field raw 56 8 == 0 &&
  (p.gain ++ p.bias).all (fun v => (f32 v).isFin) &&
  (p.tsList == 0 || intakeRange s p.tsList (8 * x.frames)) && intakeRange s p.status 16

/-- No condition of R361 holds. -/
def intakeOk (s : State) (d : List Byte) : Bool := intakeDescOk s d && intakeParamOk s d

/-! ### Supported streams (R354) -/

/-- A frame within the depth, chroma and size of Table VID-1 for its codec. -/
def frameSupported (codec : Nat) (f : Frame) : Bool :=
  let c420 := f.halfX && f.halfY && !f.mono
  decide (64 ≤ f.width ∧ f.width ≤ 4096 ∧ 64 ≤ f.height ∧ f.height ≤ 2304) &&
  match codec with
  | 0 => (f.depth == 8 || f.depth == 10) && (c420 || f.mono)
  | 1 => (f.depth == 8 || f.depth == 10) && c420
  | 2 => f.depth == 8 && c420
  | _ => f.depth == 8 && (f.mono || f.halfX || !f.halfY)

/-- The clip uses no feature outside Table VID-1. -/
def clipSupported (codec : Nat) (c : Clip) : Bool := c.supported && c.frames.all (frameSupported codec)

/-! ### Colour conversion (R355, Table VID-2) -/

/-- Kr and Kb in units of 1/10,000 of a matrix number. -/
def lumaWeights (m : Nat) : Int × Int :=
  match m with
  | 1 => (2990, 1140)
  | 3 => (2627, 593)
  | _ => (2126, 722)

/-- The FP32 value nearest a ratio of integers. -/
def ratio (n d : Int) : Val := (roundF32 true (Val.div (Val.ofInt n 0 false) (Val.ofInt d 0 false))).1

/-- The matrix and range in force for a clip. -/
def colourOf (codec : Nat) (p : IntakeParam) (c : Clip) : Nat × Bool :=
  if p.matrix ≠ 0 then (p.matrix, if p.range = 0 then c.full else p.range == 2)
  else if codec = 3 then (1, true)
  else (if c.matrix = 0 then 2 else c.matrix, if p.range = 0 then c.full else p.range == 2)

/-- RGB of a sample in FP32: fma chains over the coefficients of a matrix. -/
def toRgb (m : Nat) (full : Bool) (depth : Nat) (mono : Bool) (y cb cr : Nat) : List (Val × Flags) :=
  let k := lumaWeights m
  let kg := 10000 - k.1 - k.2
  let sc : Int := 2 ^ (depth - 8)
  let top : Int := 2 ^ depth - 1
  let half : Int := 2 ^ (depth - 1)
  let yn := if full then ratio y top else ratio ((y : Int) - 16 * sc) (219 * sc)
  let ch := fun (c : Nat) =>
    if mono then Val.zero else if full then ratio ((c : Int) - half) top else ratio ((c : Int) - 128 * sc) (224 * sc)
  let ar := ratio (2 * (10000 - k.1)) 10000
  let ab := ratio (2 * (10000 - k.2)) 10000
  let agb := ratio (-(2 * k.2 * (10000 - k.2))) (10000 * kg)
  let agr := ratio (-(2 * k.1 * (10000 - k.1))) (10000 * kg)
  let inner := fmaF32 true agr (ch cr) yn
  let g := fmaF32 true agb (ch cb) inner.1
  [fmaF32 true ar (ch cr) yn, (g.1, inner.2.or g.2), fmaF32 true ab (ch cb) yn]

/-- The RGB of a frame at a position; mid-grey where there is no frame. -/
def pixel (m : Nat) (full : Bool) (f : Option Frame) (px py : Nat) : List (Val × Flags) :=
  match f with
  | none => List.replicate 3 (Val.fin false 1 (-1), {})
  | some f =>
    let cw := if f.halfX then (f.width + 1) / 2 else f.width
    let ci := (if f.halfY then py / 2 else py) * cw + (if f.halfX then px / 2 else px)
    toRgb m full f.depth f.mono (nthD 0 f.y (py * f.width + px)) (nthD 0 f.cb ci) (nthD 0 f.cr ci)

/-! ### Tokens (R356, R359) -/

/-- What becomes of a frame group: the frames shown, how many were replaced, and the flags of its entry; none where
it is not written. -/
structure GroupOut where
  frames : List (Option Frame)
  concealed : Bool
  zeroed : Bool
  replaced : Nat
  deriving DecidableEq, Repr

/-- The last frame before index i that decoded without error. -/
def lastGood (fs : List Frame) (i : Nat) : Option Frame := ((fs.take i).filter fun f => !f.bad).getLast?

/-- Group g of a clip under an error policy. -/
def groupOut (x : IntakeDesc) (fs : List Frame) (g : Nat) : Option GroupOut :=
  let mine := (fs.drop (g * x.tstride)).take x.tstride
  if mine.length < x.tstride then none
  else
    let bad := (mine.filter (·.bad)).length
    if bad = 0 then some ⟨mine.map some, false, false, 0⟩
    else
      match x.policy with
      | 0 => some ⟨mine.mapIdx fun i f => if f.bad then lastGood fs (g * x.tstride + i) else some f, true, false, bad⟩
      | 1 => some ⟨mine.map some, false, true, x.tstride⟩
      | _ => none

/-- The element values of a token (R355, R356). -/
def tokenVals (x : IntakeDesc) (p : IntakeParam) (m : Nat) (full : Bool) (o : GroupOut) (tx ty : Nat) (poison : Bool) :
    List OutVal :=
  let n := x.patch
  (List.range 3).flatMap fun c =>
    (List.range x.tstride).flatMap fun f =>
      (List.range n).flatMap fun py =>
        (List.range n).map fun px =>
          if o.zeroed then { acc := ⟨Val.zero, {}, none⟩, poison := poison }
          else
            let rgb := nthD (Val.zero, {}) (pixel m full (nthD none o.frames f) (x.cropX + tx * n + px)
              (x.cropY + ty * n + py)) c
            let r := fmaF32 true rgb.1 (f32 (nthD 0 p.gain c)) (f32 (nthD 0 p.bias c))
            { acc := ⟨r.1, rgb.2.or r.2, none⟩, poison := poison }

/-- The tokens of a group, converted. -/
def groupTokens (x : IntakeDesc) (p : IntakeParam) (pol : Policy) (m : Nat) (full : Bool) (o : GroupOut) (g : Nat)
    (poison : Bool) : Drained :=
  let cols := x.cropW / x.patch
  (List.range x.tpg).foldl (fun d i =>
    let n := g * x.tpg + i
    d.or (drainRow (fmtAt x.fmt) pol false (x.dst + n * x.tokenBytes) (x.dstScale + n * (x.len / 32))
      (tokenVals x p m full o (i % cols) (i / cols) poison))) Drained.none

/-- The block that holds a group's timestamp of TS_LIST is verified before it is read; a poisoned one poisons the entry (R250, R255). -/
def verifyStamp (s : State) (x : IntakeDesc) (p : IntakeParam) (g : Nat) : Bool × State :=
  if p.tsList = 0 then (false, s)
  else
    let v := verifyRange s .other (p.tsList + 8 * (g * x.tstride)) 8
    (!v.1.isEmpty, v.2)

/-- The side table entry of a group (Table VID-3). -/
def entryBytes (s : State) (x : IntakeDesc) (p : IntakeParam) (o : GroupOut) (g engine : Nat) : List Byte :=
  let f := g * x.tstride
  let pts := if p.tsList ≠ 0 then readNat s .other (p.tsList + 8 * f) 8 else p.pts0 + f * p.ptsStep
  leBytes 4 (x.startPos + g * x.tpg) ++ leBytes 4 f ++ leBytes 8 pts ++ leBytes 8 s.now ++
    leBytes 1 (boolNat o.concealed + 2 * boolNat o.zeroed + 4) ++ leBytes 1 engine ++ leBytes 6 0

/-! ### Running a clip -/

/-- A clip's run: the state, frames written and replaced, flags, and how it ended. -/
structure ClipRun where
  s : State
  done : Nat
  replaced : Nat
  fl : Flags
  stopped : Bool
  faulted : Bool

/-- What a group writes, or the timestamp of TS_LIST that its entry reads, meets an address fault (R196). -/
def groupFaults (s : State) (x : IntakeDesc) (p : IntakeParam) (g : Nat) (ts : Option Nat) : Bool :=
  rangeRetired s (x.dst + g * x.tpg * x.tokenBytes) (x.tpg * x.tokenBytes) ||
    (x.fmt == 0 && rangeRetired s (x.dstScale + g * x.tpg * (x.len / 32)) (x.tpg * (x.len / 32))) ||
    (match ts with
     | some a => !mapped s .other a || rangeRetired s a 32 ||
         (p.tsList != 0 && !rangeAccessible s .other (p.tsList + 8 * (g * x.tstride)) 8)
     | none => false)

/-- Write the groups of a clip in order, `n` of them at most. -/
def runGroups (x : IntakeDesc) (p : IntakeParam) (pol : Policy) (m : Nat) (full : Bool) (fs : List Frame) (poison : Bool)
    (tsBase : Option Nat) (engine : Nat) : Nat → Nat → ClipRun → ClipRun
  | _, 0, r => r
  | g, n + 1, r =>
    let ts := tsBase.map fun a => a + 32 * ((x.startPos + g * x.tpg) / max 1 x.tpg)
    match groupOut x fs g with
    | none => { r with stopped := true }
    | some o =>
      if groupFaults r.s x p g ts then { r with faulted := true }
      else
        let d := groupTokens x p pol m full o g poison
        let s := mergeAmax (writeCells r.s .other d.cells) x.tensor d.amax
        let s := match ts with
          | some a =>
            let v := verifyStamp s x p g
            writeBytes v.2 .other a (entryBytes v.2 x p o g engine) v.1
          | none => s
        runGroups x p pol m full fs poison tsBase engine (g + 1) n
          { r with s := s, done := r.done + x.tstride, replaced := r.replaced + o.replaced, fl := r.fl.or d.fl }

/-- Of `n` groups, those before the first frame that the crop window leaves, which decoding finds (R361, log entry 63). -/
def fittingGroups (x : IntakeDesc) (fs : List Frame) (n : Nat) : Nat :=
  match fs.findIdx? fun f => decide (f.width < x.cropX + x.cropW ∨ f.height < x.cropY + x.cropH) with
  | some j => min n (j / x.tstride)
  | none => n

/-- The status record (Table VID-4). -/
def statusBytes (status : Nat) (fl : Flags) (noTs : Bool) (engine done replaced firstBad : Nat) : List Byte :=
  leBytes 1 status ++ leBytes 1 (fl.bits + 32 * boolNat noTs) ++ leBytes 1 engine ++ leBytes 1 0 ++ leBytes 4 done ++
    leBytes 4 replaced ++ leBytes 4 firstBad

/-- Show the engines at work and what waits (Table VID-7). -/
def showTurnstile (s : State) : State :=
  fset (fset s VID_BUSY f_VID_BUSY_BUSY (s.vid.running.foldl (fun m r => m ||| 2 ^ r.engine) 0)) VID_BUSY f_VID_BUSY_PENDING
    s.vid.waiting.length

/-- The channel's descriptor leaves the turnstile, whether it waits or an engine runs it. -/
def leaveTurnstile (s : State) (e : Engine) : State :=
  let s := s.setChan e { s.chan e with intake := false }
  showTurnstile { s with vid :=
    { waiting := s.vid.waiting.filter fun w => 32 * w.1 + w.2 != chanKey e
      running := s.vid.running.filter fun r => 32 * r.tile + r.chan != chanKey e } }

/-- Clamped elements of tokens count as those of the tile's DMA (R60, R355; DESIGN CHOICE, log entry 60). -/
def clampsOf (s : State) (e : Engine) (fl : Flags) : State :=
  match e with
  | .tile t _ => mcTile s t 0x020 0x10 fl.clamps
  | _ => s

/-- An engine runs an intake descriptor, with the context record `k` that it read at its start: the whole clip, or `limit` groups
before an abort, which writes no status record (R352 to R360). -/
def runIntake (s : State) (e : Engine) (engine a : Nat) (d rec_ k : List Byte) (limit : Option Nat) : State :=
  let x := parseIntake d
  let p := parseParam (readBytes s .other x.param 64)
  let tsValid := bitAt (field k 3 1) 0
  let finish := fun (s : State) (status : Nat) (fl : Flags) (done replaced firstBad : Nat) =>
    if limit.isSome then abortChannel (leaveTurnstile s e) e 1 (x.frames - done) a
    else if rangeRetired s p.status 16 then abortChannel (leaveTurnstile s e) e 2 (x.frames - done) a
    else
      let s := writeBytes s .other p.status (statusBytes status fl (!tsValid) engine done replaced firstBad) false
      let s := fadd s VID_ERRORS f_VID_ERRORS_ERR_FRAMES replaced
      let s := if status = 3 then fadd s VID_ERRORS f_VID_ERRORS_UNSUPPORTED 1 else s
      completeDesc (leaveTurnstile s e) e a d x.srcBytes
  if (parseCtx k).state = 0 then finish s 4 {} 0 0 0xFFFFFFFF
  else if rangeRetired s x.src x.srcBytes then abortChannel (leaveTurnstile s e) e 2 x.frames a
  else
    let v := verifyRange s .other x.src x.srcBytes
    let s := v.2
    let clip := Config.decodeClip x.codec (readBytes s .other x.src x.srcBytes)
    let fs := clip.frames.take x.frames
    if !clipSupported x.codec clip then finish s 3 {} 0 0 0xFFFFFFFF
    else
      let c := colourOf x.codec p clip
      let ts := if tsValid then some (bitsAt (field k 40 8) 0 56) else none
      let n := match limit with
        | some l => min l x.groups
        | none => x.groups
      let fits := fittingGroups x fs n
      let r := runGroups x p (policyOf rec_ (fmtAt x.fmt)) c.1 c.2 fs (!v.1.isEmpty) ts engine 0 fits
        ⟨s, 0, 0, {}, false, false⟩
      let s := clampsOf (mcModule r.s 0x150 engine r.done) e r.fl
      let firstBad := (fs.findIdx? (·.bad)).getD 0xFFFFFFFF
      if r.faulted then abortChannel (leaveTurnstile s e) e 2 (x.frames - r.done) a
      else
        finish s (if r.stopped then 2 else if fits < n then 3 else if r.replaced ≠ 0 then 1 else 0) r.fl r.done r.replaced
          (if firstBad < r.done + x.tstride then firstBad else 0xFFFFFFFF)

/-! ### The commands -/

/-- The channel of a core. -/
def coreChan (c : CoreId) : Engine := .tile c.tile ⟨c.core.val, by have := c.core.isLt; omega⟩

/-- Verify an intake descriptor and its parameter record as the channel takes it (R469). -/
def withIntake (s : State) (e : Engine) (a : Nat) (d : List Byte) (act : State → State) : State :=
  let x := parseIntake d
  withDesc s e a d fun s =>
    let v := verifyRange s (chAgent e) x.param 64
    if v.1.isEmpty then act v.2 else abortChannel (dmaPoison v.2 e v.1) e 4 0 a

/-- The requests for an intake descriptor and its parameter record wait. -/
def intakeHeld (s : State) (e : Engine) (a : Nat) (d : List Byte) : Bool :=
  someWait s && requestsWait s e (a :: blocksOf (parseIntake d).param 64)

/-- The turnstile's requests for a clip wait at a device (R216, R218): its stream, tokens, timestamps, side table and status record. -/
def clipHeld (s : State) (d k : List Byte) : Bool :=
  let x := parseIntake d
  let p := parseParam (readBytes s .other x.param 64)
  let n := x.groups * x.tpg
  let ts := if bitAt (field k 3 1) 0 then
      blocksOf (bitsAt (field k 40 8) 0 56 + 32 * (x.startPos / max 1 x.tpg)) (32 * x.groups) ++
        if p.tsList = 0 then [] else blocksOf p.tsList (8 * x.frames)
    else []
  anyHeld s && blocksHeld s (blocksOf x.src x.srcBytes ++ blocksOf x.dst (n * x.tokenBytes) ++
    (if x.fmt = 0 then blocksOf x.dstScale (n * (x.len / 32)) else []) ++ ts ++ blocksOf p.status 16)

/-- INTAKE: a tile channel passes an intake descriptor to the turnstile's waiting queue of 256 (R352). -/
def execIntake (c : CoreId) (s : State) : Host.Outcome State Fault Refusal :=
  let e := coreChan c
  match currentOf s e 0x22 with
  | some (a, d, _) =>
    if (s.chan e).intake || intakeHeld s e a d || !fbit s VID_CTL f_VID_CTL_ENABLE || decide (s.vid.waiting.length ≥ 256) then .next s
    else
      .next (withIntake s e a d fun s =>
        let s := s.setChan e { s.chan e with intake := true }
        let s := { s with vid := { s.vid with waiting := s.vid.waiting ++ [(c.tile.val, c.core.val)] } }
        fset s VID_BUSY f_VID_BUSY_PENDING s.vid.waiting.length)
  | none => .next s

/-- The lowest enabled engine that is idle. -/
def idleEngine (s : State) : Option Nat :=
  (List.range 32).find? fun i => bitAt (fget s VID_CTL f_VID_CTL_ENGINE_EN) i && !s.vid.running.any fun r => r.engine == i

/-- Host ports that an intake needs. -/
def intakeNeeds (s : State) (d : List Byte) : List Nat :=
  let x := parseIntake d
  let p := parseParam (readBytes s .other x.param 64)
  ([x.src, x.dst, x.dstScale, x.param, p.tsList, p.status].filter fun a => spaceOf a == .host).map hostPort

/-- An engine starts a descriptor: it reads the context record, once (R358), when its device lets it. One that meets an address fault
(R196) or is poisoned (log entry 92) aborts the channel. -/
def startEngine (s : State) (e : Engine) (i a : Nat) (d : List Byte) (w : Nat × Nat) : State :=
  let x := parseIntake d
  let v := verifyRange s .other (ctxAddr s x.ctx) 64
  if blocksHeld s [ctxAddr s x.ctx] then s
  else if !rangeAccessible s .other (ctxAddr s x.ctx) 64 then abortChannel (leaveTurnstile s e) e 2 x.frames a
  else
  let s := v.2
  if !v.1.isEmpty then abortChannel (leaveTurnstile s e) e 4 x.frames a
  else
    let run := EngineRun.mk i w.1 w.2 (readBytes s .other (ctxAddr s x.ctx) 64)
    showTurnstile { s with vid :=
      { waiting := s.vid.waiting.filter fun v => 32 * v.1 + v.2 != chanKey e, running := s.vid.running ++ [run] } }

/-- INTAKE_DISPATCH: the turnstile gives the first waiting descriptor to the lowest idle enabled engine, which then decodes the clip
(R352); the clip ends in some later beat (log entry 19). -/
def execIntakeDispatch (s : State) : Host.Outcome State Fault Refusal :=
  match s.vid.waiting, idleEngine s with
  | w :: ws, some i =>
    let e := coreChan (coreOf (16 * w.1 + w.2))
    match currentOf s e 0x22 with
    | some (a, d, _) =>
      .next (withPorts s e (intakeNeeds s d) fun s => startEngine s e i a d w)
    | none => .next (showTurnstile { s with vid := { s.vid with waiting := ws } })
  | _, _ => .next s

/-- An engine at work comes to the end of its clip. -/
def finishEngine (s : State) (r : EngineRun) : State :=
  let e := coreChan (coreOf (16 * r.tile + r.chan))
  match currentOf s e 0x22 with
  | some (a, d, rec_) =>
    if clipHeld s d r.record then s
    else withPorts s e (intakeNeeds s d) fun s => runIntake s e r.engine a d rec_ r.record none
  | none => showTurnstile { s with vid := { s.vid with running := s.vid.running.filter fun q => q.engine != r.engine } }

/-- In a beat one of the engines at work, or none, comes to the end of its clip: which is left open, a free value (R353, log entry
19). -/
def engineTick (s : State) : State :=
  if s.vid.running.isEmpty then s
  else
    let f := takeFree s
    match s.vid.running[f.1.toNat % (s.vid.running.length + 1)]? with
    | some r => finishEngine f.2 r
    | none => f.2

/-- An abort request meets an intake that the turnstile holds: an engine that has written `moved` frames stops at the next boundary
of a frame group; of a descriptor that still waits no frame is written (R360). -/
def abortIntake (s : State) (e : Engine) (moved : Nat) : State :=
  match currentOf s e 0x22, (s.chan e).intake with
  | some (a, d, rec_), true =>
    let x := parseIntake d
    match s.vid.running.find? fun r => 32 * r.tile + r.chan == chanKey e with
    | some r => runIntake s e r.engine a d rec_ r.record (some ((moved + x.tstride - 1) / x.tstride))
    | none => abortChannel (leaveTurnstile s e) e 1 x.frames a
  | _, _ => requestAbort s e moved 0

/-- ABORT_REQUEST: a write of DMA_CH_CTL.ABORT, with `moved` elements or entries whose bursts have been issued
(R236). -/
def execAbortRequest (r : Requester) (e : Engine) (moved : Nat) (s : State) : Host.Outcome State Fault Refusal :=
  .next (guardedWrite s r (chCtl e) (chGroup e) fun s =>
    if (s.chan e).intake then abortIntake s e moved
    else
      match streamOn s e with
      | some w => if chHalted s e then s else abortStream s w moved
      | none => requestAbort s e moved (otherResidue s e))

end Sys2Proof.Machine
end

