-- ==== Sys2Proof/Machine/StepControl.lean ====
section
/-! DEFINITION. The step controller's commands, checkpoint capture and fill, holds and halts, and the repair of a tile site
(R94, R266, R277, R289 to R293, R328 to R345). -/

namespace Sys2Proof.Machine

/-! ### The verdict -/

/-- VERDICT_WARN_EXPIRE: a verdict not arrived INF_VERDICT_WARN beats after the contribution sets VERDICT_LATE (R266). -/
def execVerdictWarnExpire (s : State) : Host.Outcome State Fault Refusal :=
  match s.stp.sent with
  | some (n, b) =>
    if s.now < b + fget s INF_VERDICT_WARN f_INF_VERDICT_WARN_BEATS || s.stp.late then .next s
    else
      let s := { s with stp := { s.stp with late := true } }
      .next (post (stepInterrupt (fset s INF_STATUS f_INF_STATUS_VERDICT_LATE 1)) .lateVerdict 0 n)
  | none => .next s

/-- ABANDON: the pending verdict is taken as arrived with WITHHELD 1, at this module only (R266). Its non-finite count is
not stated: a free value. -/
def execAbandon (r : Requester) (s : State) : Host.Outcome State Fault Refusal :=
  .next (guardedWrite s r INF_CTL (some grpStep) fun s =>
    if s.stp.sent.isSome then
      let f := takeFree s
      verdictArrives f.2 f.1.toNat 1 []
    else s)

/-- INFUSER_WALK_COMPLETE: every infuser has finished its walk (R277), which it has not while a walk waits for its device (R216). -/
def execInfuserWalkComplete (s : State) : Host.Outcome State Fault Refusal :=
  let s := if walkWaits s then walkDies s else s
  if walkWaits s then .next s
  else
    let s := { s with stp := { s.stp with walkDone := true } }
    .next ((List.finRange 24).foldl refreshBusy s)

/-! ### Capture -/

/-- CKPT_ARM: a write of ARM and ARM_STEP. No ARM is accepted from a capture's start to its RELEASE (R289, R293). -/
def execCkptArm (r : Requester) (step : BitVec 32) (s : State) : Host.Outcome State Fault Refusal :=
  .next (guardedWrite s r INF_CKPT_CTL (some grpStep) fun s =>
    let s := fset s INF_CKPT_CTL f_INF_CKPT_CTL_ARM_STEP step.toNat
    if fbit s INF_CKPT_STATUS f_INF_CKPT_STATUS_ACTIVE || fbit s INF_CKPT_STATUS f_INF_CKPT_STATUS_COMPLETE then s
    else fset s INF_CKPT_CTL f_INF_CKPT_CTL_ARM 1)

/-- CAPTURE_RECORD_COPY: a base die copies the record at its cursor (R291). -/
def execCaptureRecordCopy (h : StackId) (s : State) : Host.Outcome State Fault Refusal := .next (captureStep s h)

/-- CKPT_RELEASE: staging is free again (R293). -/
def execCkptRelease (r : Requester) (s : State) : Host.Outcome State Fault Refusal :=
  .next (guardedWrite s r INF_CKPT_CTL (some grpStep) fun s => fset s INF_CKPT_STATUS f_INF_CKPT_STATUS_COMPLETE 0)

/-! ### Holds and halts -/

/-- HOLD_REQ: a hold after the COMMIT phase of the current step (R328). -/
def execHoldReq (r : Requester) (s : State) : Host.Outcome State Fault Refusal :=
  .next (guardedWrite s r TBU_RESTART (some grpTimebase) fun s => fset s TBU_RESTART f_TBU_RESTART_HOLD_REQ 1)

/-- Every tile that runs no phase takes its first phase of step n next; one that runs a phase takes it once that ends (R329). -/
def resumeAt (s : State) (n : Nat) : State :=
  (List.finRange 48).foldl (fun s t =>
    if (s.tile t).active then s.setTile t { s.tile t with resume := some n }
    else
      let x := nextFrom s.car.entries t n 0
      s.setTile t { s.tile t with nextStep := x.1, nextPhase := x.2, reported := [] }) s

/-- Records of phases that some tile of TILES neither runs nor has ended: after a GO they never end on the module (R329, R468). -/
def dropOld (s : State) : State :=
  let open_ := fun (r : PhaseRec) (e : PhaseEntry) => (List.finRange 48).all fun t => !inTiles e.tiles t || r.ended.getLsbD t.val ||
    ((s.tile t).active && (s.tile t).nextStep == r.step && (s.tile t).nextPhase == r.phase)
  { s with car := { s.car with records := s.car.records.filter fun r => (entryAt s r.phase).any (open_ r) } }

/-- The counter is back on BEAT (R38). -/
def onBeat (s : State) : Bool := s.pins.beatPresent && !fbit s TBU_STATUS f_TBU_STATUS_HOLDOVER

/-- GO: ends a hold, and the carousel takes step STEP next (R329). Ignored while HELD is clear, and, in a hold for loss of
BEAT, until the counter is back on BEAT (R38). -/
def execGo (r : Requester) (s : State) : Host.Outcome State Fault Refusal :=
  .next (guardedWrite s r TBU_RESTART (some grpTimebase) fun s =>
    if !held s || (s.car.beatHold && !onBeat s) then s
    else
      let n := fget s TBU_RESTART f_TBU_RESTART_STEP
      let s := fset s TBU_RESTART f_TBU_RESTART_HELD 0
      let s := { s with car := { s.car with beatHold := false, startStep := some n, declared := [] }
                        pwr := { s.pwr with floorOff := false, envelopes := [] } }
      settle (resumeAt (newRun (dropOld s) n) n))

/-- A busy channel that HALT_JOB aborts; how far its bursts have come is left open. Its tile has stopped, so the abort fires no snapshot
(R330). -/
def haltChannel (s : State) (t : TileId) (ch : Fin 32) : State :=
  let e := Engine.tile t ch
  if !executing s e then s
  else
    let f := takeFree s
    let s := f.2
    match current s e with
    | some (_, d, _) =>
      let moved := f.1.toNat % (wholeCount s e d + 1)
      if (s.chan e).intake then abortIntake s e moved else requestAbort s e moved (otherResidue s e)
    | none => requestAbort s e 0 0

/-- Every tile stops and every busy tile channel of 0 to 15 aborts with CAUSE 1 (R330). -/
def haltAll (s : State) : State :=
  let s := (List.finRange 48).foldl (fun s t => stopTile s t 0) s
  (List.finRange 48).foldl (fun s t =>
    (List.finRange 16).foldl (fun s c => haltChannel s t ⟨c.val, by omega⟩) s) s

/-- HALT_JOB (R330). -/
def execHaltJob (r : Requester) (s : State) : Host.Outcome State Fault Refusal :=
  .next (guardedWrite s r TBU_RESTART (some grpTimebase) haltAll)

/-! ### Sites, widths and bypass (R8, R92, R94) -/

/-- The retired position of a band, 13 for none. -/
def retiredPos (s : State) (band : Nat) : Nat := nthD 13 s.repair.retired band

/-- The position of a logical tile in its band (R8). -/
def posOf (s : State) (t : Nat) : Nat := if t % 12 < retiredPos s (t / 12) then t % 12 else t % 12 + 1

/-- The site of a logical tile: band × 13 + position (R8). -/
def siteOf (s : State) (t : TileId) : Nat := 13 * (t.val / 12) + posOf s t.val

/-- The ringmaster selects, from the repair map, the vertical link that joins each logical tile to the one of its column in the next
band: the positions it joins (R10, Table FLT-4). -/
def selectVertical (s : State) : State :=
  { s with links := { s.links with vertical := (List.range 36).map fun t => (t, (posOf s t, posOf s (t + 12))) } }

/-- The key of an array in the repair map. -/
def arrayKey (site core a : Nat) : Nat := (site * 16 + core) * 4 + a

/-- The bypass mask of an array in the repair map. -/
def bypassOf (s : State) (key : Nat) : Nat := (mapGet 0 s.repair.bypass key : Word).toNat

/-- Columns [lo, lo + n) not bypassed. -/
def liveColumns (mask lo n : Nat) : Nat := ((List.range n).filter fun i => !bitAt mask (lo + i)).length

/-- WIDTH, LEFT_WIDTH and RIGHT_WIDTH of a bypass mask; a width below 32 disables the array (R92). -/
def widthsOf (mask : Nat) : Nat × Nat × Nat :=
  let l := liveColumns mask 0 32
  let r := liveColumns mask 32 32
  if l + r < 32 then (0, 0, 0) else (l + r, l, r)

/-- An array takes a bypass mask: ARR_WIDTH and ARR_BYPASS of its core. -/
def applyMask (s : State) (c : CoreId) (a mask : Nat) : State :=
  let w := widthsOf mask
  let r := ARR_WIDTH c.tile.val c.core.val a
  let s := s.setReg (ARR_BYPASS c.tile.val c.core.val a) mask
  fset (fset (fset s r f_ARR_WIDTH_WIDTH w.1) r f_ARR_WIDTH_LEFT_WIDTH w.2.1) r f_ARR_WIDTH_RIGHT_WIDTH w.2.2

/-- The four arrays of the 16 cores of a tile. -/
def tileArrays (t : TileId) : List (CoreId × Nat) := (tileCores t).flatMap fun c => (List.range 4).map fun a => (c, a)

/-- Every array of a tile takes the repair map's mask, at a load or at boot (R94). -/
def applyTileMasks (s : State) (t : TileId) : State :=
  (tileArrays t).foldl (fun s x =>
    let m := bypassOf s (arrayKey (siteOf s t) x.1.core.val x.2)
    let s := applyMask s x.1 x.2 m
    let s := s.setReg (ARR_BYPASS_PEND t.val x.1.core.val x.2) m
    fset s (ARR_WIDTH t.val x.1.core.val x.2) f_ARR_WIDTH_PENDING 0) s

/-- The sum of the widths of the 3,072 enabled arrays in the repair map (R14). -/
def usableWidths (s : State) : Nat :=
  ((List.finRange 48).flatMap fun t => (tileArrays t).map fun x =>
    (widthsOf (bypassOf s (arrayKey (siteOf s t) x.1.core.val x.2))).1).sum

/-- The ringmaster recomputes the usable peak (R14). -/
def computePeak (s : State) : State := { s with repair := { s.repair with peak := usableWidths s } }

/-- The usable peak that the module reports for a nominal rate of Table ARC-4 (R14). Where it reports it and how the quotient is rounded
is not given: it stays a function of the state, rounded down (DESIGN CHOICE, log entry 113). -/
def usablePeak (s : State) (nominal : Nat) : Nat := nominal * s.repair.peak / 196608

/-- FIELD_BYPASS_REQUEST: a write of ARR_BYPASS_PEND records the mask in the repair map at once (R94). -/
def execFieldBypassRequest (r : Requester) (c : CoreId) (a : Fin 4) (mask : Word) (s : State) :
    Host.Outcome State Fault Refusal :=
  .next (guardedWrite s r (ARR_BYPASS_PEND c.tile.val c.core.val a.val) none fun s =>
    let p := ARR_BYPASS_PEND c.tile.val c.core.val a.val
    let s := s.setReg p (s.reg p ||| mask.toNat)
    let k := arrayKey (siteOf s c.tile) c.core.val a.val
    let m := bypassOf s k ||| mask.toNat
    if m = bypassOf s k then s
    else
      fset (writePart (computePeak { s with
          repair := { s.repair with bypass := mapSet 0 s.repair.bypass k (BitVec.ofNat 64 m) }
          job := { s.job with mapChanged := true } }))
        (ARR_WIDTH c.tile.val c.core.val a.val) f_ARR_WIDTH_PENDING 1)

/-! ### Spare-site swap (R340, R341) -/

/-- The mask an array of a moving column meets at its new site: the applied mask of the column that held the site, or the
repair map's for the spare. -/
def movedMask (s : State) (band col core a : Nat) : Nat :=
  if col + 1 < 12 then s.reg (ARR_BYPASS (12 * band + col + 1) core a)
  else bypassOf s (arrayKey (13 * band + 12) core a)

/-- No moving tile meets arrays narrower than the job's recorded widths (R340). -/
def swapFits (s : State) (band pos : Nat) : Bool :=
  !s.job.loaded || (List.range 12).all fun col =>
    decide (col < pos) || (List.range 16).all fun core => (List.range 4).all fun a =>
      match s.job.widths.find? fun w => w.1 == arrayKey (13 * band + col + 1) core a with
      | some w => decide (w.2 ≤ (widthsOf (movedMask s band col core a)).1)
      | none => true

/-- SPARE_SITE_SWAP: while the carousel is held, the band's logical columns from the retired position on move one position
(R341), the vertical links are selected again (R10) and the usable peak is computed again (R14). What the sites hold follows the
logical index, so only the arrays, the links and the repair map change. A further failing tile of the band, which holds no spare from
now on, is failed (R9). -/
def execSpareSiteSwap (band : Fin 4) (pos : Fin 13) (s : State) : Host.Outcome State Fault Refusal :=
  if !held s || retiredPos s band.val != 13 || !swapFits s band.val pos.val then .next s
  else
    let moves := (List.finRange 12).filter fun c => decide (pos.val ≤ c.val)
    let masks := moves.flatMap fun col => (List.finRange 16).flatMap fun core => (List.range 4).map fun a =>
      (((⟨⟨12 * band.val + col.val, by omega⟩, core⟩ : CoreId), a), movedMask s band.val col.val core.val a,
        bypassOf s (arrayKey (13 * band.val + col.val + 1) core.val a))
    let s := masks.foldl (fun s m =>
      let s := applyMask s m.1.1 m.1.2 m.2.1
      let s := s.setReg (ARR_BYPASS_PEND m.1.1.tile.val m.1.1.core.val m.1.2) m.2.2
      fset s (ARR_WIDTH m.1.1.tile.val m.1.1.core.val m.1.2) f_ARR_WIDTH_PENDING (boolNat (m.2.1 != m.2.2))) s
    let gone := if pos.val < 12 then BitVec.ofNat 48 (2 ^ (12 * band.val + pos.val)) else 0
    let inBand := BitVec.ofNat 48 ((2 ^ 12 - 1) * 2 ^ (12 * band.val))
    let lost := s.repair.failing &&& inBand &&& ~~~gone
    .next (selectVertical (writePart (computePeak { s with
      repair := { s.repair with
        retired := setNth s.repair.retired band.val pos.val, failing := s.repair.failing &&& ~~~inBand
        failed := s.repair.failed ||| lost }
      job := { s.job with mapChanged := s.job.mapChanged || lost != 0 } })))

/-! ### Fill (R344, R345) -/

/-- The next read of a fill: 4 KiB, eight records from the confirmed one on. -/
def fillRequest (s : State) (h : StackId) : State :=
  emit s (.fillRead (fget s LNK_DSCP f_LNK_DSCP_ROCE) h.val (fget s (INF_FILL h.val) f_INF_FILL_CONFIRMED))

/-- FILL_START: FROM becomes the confirmed count and the fill runs (R344, Table FLT-9). -/
def execFillStart (r : Requester) (h : StackId) (s : State) : Host.Outcome State Fault Refusal :=
  .next (guardedWrite s r (INF_FILL_CTL h.val) (some grpStep) fun s =>
    let from_ := fget s (INF_FILL_CTL h.val) f_INF_FILL_CTL_FROM
    let s := fset (fset s (INF_FILL h.val) f_INF_FILL_CONFIRMED from_) (INF_FILL h.val) f_INF_FILL_ACTIVE 1
    let s := if from_ = 0 then fset s (INF_FILL h.val) f_INF_FILL_HEADER_DONE 0 else s
    fillRequest (s.setDie h { s.die h with fillBeat := s.now }) h)

/-- FILL_STOP: the fill ends (Table FLT-9). -/
def execFillStop (r : Requester) (h : StackId) (s : State) : Host.Outcome State Fault Refusal :=
  .next (guardedWrite s r (INF_FILL_CTL h.val) (some grpStep) fun s => fset s (INF_FILL h.val) f_INF_FILL_ACTIVE 0)

/-- The entry of the update list whose records hold a position of the walk order (R277). -/
def walkEntryAt (s : State) (h : StackId) (pos : Nat) : Nat :=
  let d := s.die h
  ((List.range (d.starts.length - 1)).filter fun i => decide (nthD 0 d.starts (i + 1) ≤ pos)).length

/-- The stack offset of the record at a position of the walk order (R277). -/
def walkOffset (s : State) (h : StackId) (pos : Nat) : Nat :=
  let e := walkEntryAt s h pos
  (entryOf s h e).recordAddr + 512 * (pos - nthD 0 (s.die h).starts e)

/-- Write bytes at a stack offset, block by block, envelopes made over them. -/
def writeStack (s : State) (h : StackId) (off : Nat) (bs : List Byte) : State :=
  (blocksOf off bs.length).foldl (fun s a =>
    let put := (bs.mapIdx fun i b => (off + i, b)).filter fun p => p.1 / 512 == a / 512
    writeBlock s .other (stackKey h a / 512) (put.map fun p => (p.1 % 512, p.2)) false) s

/-- Data of a fill reaches the base die: the header, or the next record in walk order, which is then confirmed. A record whose entry of
the update list is poisoned has no place: it is not taken (log entry 93). -/
def fillTake (s : State) (h : StackId) (item : FillItem) : State :=
  let r := INF_FILL h.val
  let s := s.setDie h { s.die h with fillBeat := s.now }
  match item with
  | .header list formats ls =>
    let s := writeStack s h (ulistBase s h) (list.take (64 * ulistCount s h))
    let s := writeBytes s .other (formatAddr s 0) (formats.take (128 * formatCount s)) false
    let s := fset s INF_LS_STATE f_INF_LS_STATE_EXP (bitsAt ls.toNat 0 8)
    let s := fset s INF_LS_STATE f_INF_LS_STATE_CLEAN (bitsAt ls.toNat 16 16)
    fset s r f_INF_FILL_HEADER_DONE 1
  | .record data =>
    let pos := fget s r f_INF_FILL_CONFIRMED
    let v := entryBad s h (walkEntryAt s h pos)
    if !fbit s r f_INF_FILL_HEADER_DONE || data.length != 512 || decide (mirrorTotal s h ≤ pos) then s
    else if v.1 then v.2
    else
      let s := v.2
      let s := fset (writeStack s h (walkOffset s h pos) data) r f_INF_FILL_CONFIRMED (pos + 1)
      if pos + 1 ≥ mirrorTotal s h then fset s r f_INF_FILL_ACTIVE 0
      else if (pos + 1 - fget s (INF_FILL_CTL h.val) f_INF_FILL_CTL_FROM) % 8 = 0 then fillRequest s h
      else s

/-- Fill data waits for a device that it is written to, or behind data that does (R215, R216, R218). -/
def fillWaits (s : State) (h : StackId) (item : FillItem) : Bool :=
  !(s.die h).fillHeld.isEmpty || match item with
    | .header list formats _ => dieHolds s h (ulistBase s h) (min list.length (64 * ulistCount s h))
        (blocksOf (formatAddr s 0) (min formats.length (128 * formatCount s)))
    | .record _ => dieHolds s h (walkOffset s h (fget s (INF_FILL h.val) f_INF_FILL_CONFIRMED)) 512 []

/-- Fill data is taken, or waits. -/
def fillOffer (s : State) (h : StackId) (item : FillItem) : State :=
  if fillWaits s h item then s.setDie h { s.die h with fillHeld := (s.die h).fillHeld ++ [item], fillBeat := s.now }
  else fillTake s h item

/-- FILL_DATA: fill data arrives (R344). -/
def execFillData (h : StackId) (item : FillItem) (s : State) : Host.Outcome State Fault Refusal :=
  if fbit s (INF_FILL h.val) f_INF_FILL_ACTIVE then .next (fillOffer s h item) else .next s

/-- Fill data that waited is taken where its device lets it. -/
def retryFill (s : State) (h : StackId) : State :=
  let items := (s.die h).fillHeld
  if items.isEmpty then s
  else items.foldl (fun s i => fillOffer s h i) (s.setDie h { s.die h with fillHeld := [] })

/-- What waits for a memory device goes on where the device lets it (R215, R216, R218): walks, fills, peers' requests and collectives. -/
def retryHeld (s : State) : State :=
  let s := if walkWaits s then walkDies s else s
  let s := if s.dies.any fun d => !d.2.fillHeld.isEmpty then (List.finRange 24).foldl retryFill s else s
  let s := if s.links.served.isEmpty then s else serveHeld s
  if s.links.credits.isEmpty && s.links.early.isEmpty then s else retryColls s

/-- SOURCE_LOST: no fill data for LNK_SILENT.LIMIT beats (R345). -/
def execSourceLost (h : StackId) (s : State) : Host.Outcome State Fault Refusal :=
  if fbit s (INF_FILL h.val) f_INF_FILL_ACTIVE &&
      decide (s.now ≥ (s.die h).fillBeat + fget s LNK_SILENT f_LNK_SILENT_LIMIT) then
    .next (fset s (INF_FILL h.val) f_INF_FILL_SOURCE_LOST 1)
  else .next s

/-! ### The NaN trap -/

/-- The registers of a core's NaN trap record. -/
def nanRegs (c : CoreId) : List Nat :=
  [CR_NAN_INFO c.tile.val c.core.val, CR_NAN_BEAT c.tile.val c.core.val, CR_NAN_OP c.tile.val c.core.val,
    CR_NAN_COORD c.tile.val c.core.val, CR_NAN_MORE c.tile.val c.core.val]

/-- NAN_TRAP_CLEAR: a write of one to CR_NAN_INFO.VALID clears the record and rearms the trap (R76). -/
def execNanTrapClear (r : Requester) (c : CoreId) (s : State) : Host.Outcome State Fault Refusal :=
  .next (guardedWrite s r (CR_NAN_INFO c.tile.val c.core.val) (some grpTile) fun s =>
    (nanRegs c).foldl (fun s a => s.setReg a 0) s)

end Sys2Proof.Machine
end

