-- ==== Sys2Proof/Machine/Timebase.lean ====
section
/-! DEFINITION. The timebase unit: the beat counter, SYNC, holdover and slews, the start and stop of the carousel, and a tick
of the block (R34 to R42, R48, R468). -/

namespace Sys2Proof.Machine

/-! ### The beat counter -/

/-- The counter takes a value; a window of 65,536 beats begins where it reaches or passes the window's first value (R40). -/
def setBeat (s : State) (n : Nat) : State :=
  { s with beat := BitVec.ofNat 64 n, windowStart := n / 65536 != s.now / 65536 }

/-- The signed remainder of slews. -/
def slewRemain (s : State) : Int := signed 32 (fget s TBU_SLEW f_TBU_SLEW_REMAIN)

/-- Show a remainder (Table PRG-14). -/
def setRemain (s : State) (n : Int) : State :=
  fset (fset s TBU_SLEW f_TBU_SLEW_REMAIN (codeOf 32 n)) TBU_SLEW f_TBU_SLEW_PENDING (boolNat (n != 0))

/-- A slew beat is due in this beat (R40). -/
def slewDue (s : State) : Bool := s.windowStart && slewRemain s != 0

/-- A beat in which the counter stays: what came before it came in an earlier beat (R40, R44, R47). -/
def heldBeat (s : State) : State :=
  { endsPass s with
    windowStart := false, stp := { s.stp with verdict := s.stp.verdict.map fun v => (v.1, v.2.1, min v.2.2 (s.now - 1)) } }

/-- The slew beat: two for a positive remainder, none for a negative one, and the remainder one nearer zero (R40); the phases of
stopped tiles that fall due in it end (R327). -/
def slewBeat (s : State) : State :=
  let r := slewRemain s
  let s := markPhases (setRemain s (if 0 < r then r - 1 else r + 1)) 0x100
  let s := sendDue (if 0 < r then setBeat s (s.now + 2) else heldBeat s)
  if s.car.running then settle s else s

/-- SLEW_BEAT (R40). -/
def execSlewBeat (s : State) : Host.Outcome State Fault Refusal := if slewDue s then .next (slewBeat s) else .next s

/-- SLEW: a write of TBU_SLEW.AMOUNT on the leader sends a slew over Span with its apply beat (R39). -/
def execSlew (r : Requester) (amount : BitVec 16) (s : State) : Host.Outcome State Fault Refusal :=
  .next (guardedWrite s r TBU_SLEW none fun s =>
    if s.pins.boardPos ≠ 0 then s
    else
      let a := signed 16 amount.toNat
      let t := s.now + 1024
      [0, 1, 2].foldl (fun s k => sendSpan s k (.slew k a t)) { s with slews := s.slews ++ [(a, t)] })

/-- SLEW_ADD: at the apply beat the slew joins the pending remainder (R39), a follower's with SLEW_FROM_SPAN set. -/
def execSlewAdd (amount : BitVec 16) (apply : Word) (s : State) : Host.Outcome State Fault Refusal :=
  let a := signed 16 amount.toNat
  let own := s.slews.contains (a, apply.toNat)
  let takes := if s.pins.boardPos = 0 then own else fbit s TBU_CTL f_TBU_CTL_SLEW_FROM_SPAN
  if s.now < apply.toNat || !takes then .next s
  else
    let s := { s with slews := s.slews.erase (a, apply.toNat) }
    let n := slewRemain s + a
    let s := setRemain s n
    .next (if n.natAbs > 1 then fset s TBU_STATUS f_TBU_STATUS_SLEW_SPREAD 1 else s)

/-! ### SYNC and BEAT -/

/-- A SYNC off its expected beat (R36). -/
def syncSlip (s : State) : State :=
  let s := fset s TBU_STATUS f_TBU_STATUS_SYNC_SLIP 1
  post (fadd s TBU_STATUS f_TBU_STATUS_SLIP_COUNT 1) .syncSlip 0 s.now

/-- The counter returns to BEAT (R37). -/
def leaveHoldover (s : State) : State :=
  if fbit s TBU_STATUS f_TBU_STATUS_HOLDOVER then
    post (fset s TBU_STATUS f_TBU_STATUS_HOLDOVER 0) .holdoverLeft 0 s.now
  else s

/-- SYNC: loads the counter when armed and idle, else relocks holdover and is checked against the period (R35 to R37). What ended on a
tile before a load ended in an earlier beat (R44). SYNC is not sampled while BEAT is absent. -/
def execSync (s : State) : Host.Outcome State Fault Refusal :=
  if !s.pins.beatPresent then .next s
  else if fbit s TBU_CTL f_TBU_CTL_SYNC_ARM && !s.car.running then
    let v := s.reg TBU_SYNC_VALUE
    let s := fset (fset (setBeat s v) TBU_CTL f_TBU_CTL_SYNC_ARM 0) TBU_STATUS f_TBU_STATUS_SYNC_SEEN 1
    .next (leaveHoldover (endsPass { s with syncBase := some v }))
  else
    let s := if fbit s TBU_CTL f_TBU_CTL_RELOCK_AT_SYNC then leaveHoldover s else s
    let p := faddr s TBU_SYNC_PERIOD f_TBU_SYNC_PERIOD_PERIOD
    match s.syncBase with
    | some b => .next (if p ≠ 0 ∧ ((s.now : Int) - b) % p ≠ 0 then syncSlip s else s)
    | none => .next s

/-- SYNC_ARM (R35). -/
def execSyncArm (r : Requester) (s : State) : Host.Outcome State Fault Refusal :=
  .next (guardedWrite s r TBU_CTL (some grpTimebase) fun s => fset s TBU_CTL f_TBU_CTL_SYNC_ARM 1)

/-- BEAT_LOSS: the counter runs on in holdover; with HOLDOVER_EN clear the carousel holds, and a hold that stands is one for loss of
BEAT from then on (R37, R38). -/
def execBeatLoss (s : State) : Host.Outcome State Fault Refusal :=
  if !s.pins.beatPresent then .next s
  else
    let s := fset { s with pins := { s.pins with beatPresent := false } } TBU_STATUS f_TBU_STATUS_BEAT_OK 0
    let s := markPhases (enterHoldover s) 0
    if !fbit s TBU_CTL f_TBU_CTL_HOLDOVER_EN && s.car.running then
      let s := if held s then s else hold s
      .next { s with car := { s.car with beatHold := true } }
    else .next s

/-- BEAT_RETURN: BEAT is present again; the counter returns to it at a SYNC (R37). -/
def execBeatReturn (s : State) : Host.Outcome State Fault Refusal :=
  .next (fset { s with pins := { s.pins with beatPresent := true } } TBU_STATUS f_TBU_STATUS_BEAT_OK 1)

/-- PTP_EVENT_MESSAGE: the PTP port timestamps an event message in beats with an 8-bit fraction, and the servo records the
offset it measures (R39, Table PRG-11). The delay request that the mechanism answers it with leaves the port, marked as PTP traffic (R305;
that each event message is answered by one is the model's choice, log entry 114). -/
def execPtpEventMessage (port : Fin 16) (frac : Byte) (offset : BitVec 32) (s : State) : Host.Outcome State Fault Refusal :=
  if port.val ≠ fget s TBU_CTL f_TBU_CTL_PTP_PORT then .next s
  else
    let s := ({ s with ptpStamp := s.now * 256 + frac.toNat }).setReg TBU_PTP_OFFSET offset.toNat
    .next (emit s (.delayRequest (frameAt s port.val (fget s LNK_DSCP f_LNK_DSCP_PTP) 319 [])))

/-! ### The carousel -/

/-- CAROUSEL_START: the idle carousel of a ready module starts at the first entry of step STEP (R42, R468). One that starts while BEAT
is absent with HOLDOVER_EN clear runs and grants, as R38 holds it in the beat of the loss alone (log entry 102). -/
def execCarouselStart (r : Requester) (s : State) : Host.Outcome State Fault Refusal :=
  .next (guardedWrite s r TBU_CTL (some grpTimebase) fun s =>
    if stepPeriod s = 0 then fset s TBU_STATUS f_TBU_STATUS_PERIOD_ERR 1
    else if s.car.running then
      -- a running carousel stays running; a stop that still waits for its phases is taken back
      fset { s with car := { s.car with stopping := false } } TBU_CTL f_TBU_CTL_CAROUSEL_RUN 1
    else if fget s PWR_STATE f_PWR_STATE_STATE ≠ 2 then s
    else
      let n := fget s TBU_RESTART f_TBU_RESTART_STEP
      let s := fset (fset s TBU_CTL f_TBU_CTL_CAROUSEL_RUN 1) TBU_STATUS f_TBU_STATUS_CAROUSEL_IDLE 0
      let s := fset s PWR_STATE f_PWR_STATE_STATE 3
      let s := { s with car := { s.car with running := true, stopping := false, startStep := some n, declared := [] }
                        pwr := { s.pwr with floorOff := false } }
      settle (seekStep (newRun s n) n))

/-- CAROUSEL_STOP: no further phase is granted, and the carousel idles once the granted phases have ended (R468). -/
def execCarouselStop (r : Requester) (s : State) : Host.Outcome State Fault Refusal :=
  .next (guardedWrite s r TBU_CTL (some grpTimebase) fun s =>
    if s.car.running then
      stopCheck (fset { s with car := { s.car with stopping := true } } TBU_CTL f_TBU_CTL_CAROUSEL_RUN 0)
    else s)

/-- The step of a phase's next declaration. -/
def declareStep (s : State) (p : Nat) : Nat :=
  match s.car.declared.find? fun d => d.2 == p with
  | some d => d.1 + 1
  | none => s.car.startStep.getD 0

/-- ENVELOPE_DECLARE: TBU_ENV_LEAD beats before a phase's earliest start its envelope reaches the samovar (R48). -/
def execEnvelopeDeclare (phase : BitVec 12) (s : State) : Host.Outcome State Fault Refusal :=
  let p := phase.toNat
  match entryAt s p with
  | none => .next s
  | some e =>
    let n := declareStep s p
    if s.car.running && !held s && decide (s.now + fget s TBU_ENV_LEAD f_TBU_ENV_LEAD_LEAD ≥ epochOf s n + e.earliest.toNat) then
      .next { s with
        car := { s.car with declared := (s.car.declared.filter fun d => d.2 != p) ++ [(n, p)] }
        pwr := { s.pwr with envelopes := s.pwr.envelopes ++ [(n, p, e.envelope.toNat, isCollective e)] } }
    else .next s

/-! ### A tick -/

/-- Monitoring sources that count a tile's beats (Table MGT-7): cores in WAIT_EV, a stalled edit. -/
def tickTile (s : State) (t : TileId) : State :=
  let s := (tileCores t).foldl (fun s c =>
    match (s.seq c).status with
    | .waitEv .. => mcTile s t 0x070 c.core.val 1
    | _ => s) s
  if (s.slice t).stalled.isSome then mcTile s t 0x071 0xFF 1 else s

/-- Whether any tile source could count: an enabled counter is listed. -/
def anyCounter (s : State) : Bool :=
  s.regs.any fun p => (decide (p.1 < 0x600000) && decide (p.1 % 0x20000 ≥ 0x1000 ∧ p.1 % 0x20000 < 0x1400)) ||
    decide (p.1 ≥ MGS_MC_SEL 0 ∧ p.1 < MGS_MC_SEL 128)

/-- Monitoring sources that count the module's beats: a stack above thermal level 0, the array clock stepped or gated. -/
def tickModule (s : State) : State :=
  let s := (List.range 24).foldl (fun s h =>
    if fget s (HBM_TEMP h) f_HBM_TEMP_LEVEL = 0 then s else mcModule s 0x102 h 1) s
  if fget s PWR_DRAW f_PWR_DRAW_CLOCK ≠ 0 ∨ fget s PWR_DRAW f_PWR_DRAW_GATED ≠ 0 then mcModule s 0x131 0xFF 1 else s

/-- SNAP_L is driven low for two beats from the capture beat (R435). -/
def releasePin (s : State) : State :=
  if s.pins.snapLow && s.snaps.driveFrom.all fun b => decide (b + 2 ≤ s.now) then
    { s with pins := { s.pins with snapLow := false } }
  else s

/-- A device's identity, read through IEEE 1500, is not the one stored with its training results (R383). -/
def identityDiffers (s : State) (d : Nat) : Bool := (mapGet Dev.empty s.devs d).identity != mapGet 0 s.flash.identities d

/-- Some channel of the module has no training results that its device's identity allows (R383). -/
def trainsCold (s : State) : Bool := !s.flash.untrained.isEmpty || (List.range 72).any (identityDiffers s)

/-- The boot stage after a number of beats (Table HST-13). -/
def bootStageAt (cold : Bool) (n : Nat) : Nat :=
  let trained := 2000 + if cold then 35000 else 2000
  if n < 300 * beatsPerMs then 1 else if n < 500 * beatsPerMs then 2 else if n < 2000 * beatsPerMs then 3
  else if n < trained * beatsPerMs then 4 else if n < (trained + 4000) * beatsPerMs then 5 else 6

/-- A beat of the boot: its stage follows Table HST-13, and PGOOD rises in stage 3, in a beat that is free (R451, log entry 115). A
module in its recovery ROM or without a module part goes no further (R374, R385). -/
def bootTick (s : State) : State :=
  if fget s PWR_STATE f_PWR_STATE_STATE ≠ 1 || s.pwr.shutdownStage ≠ 0 || fbit s HIF_STATUS f_HIF_STATUS_RECOVERY ||
      fbit s HIF_STATUS f_HIF_STATUS_RECORD_LOST then s
  else
    let n := s.mgr.bootBeats + 1
    let s := { s with mgr := { s.mgr with bootBeats := n } }
    let s := fset s HIF_STATUS f_HIF_STATUS_BOOT_STAGE (bootStageAt (trainsCold s) n)
    if n < 500 * beatsPerMs + Config.regulatorBeats.val then s else { s with pins := { s.pins with pgood := true } }

/-- One beat: the counter advances, by a slew beat where one is due (R34, R40), a contribution that is due is sent (R262), what waited
for a memory device is tried again (R216), the counters of waiting units add, and the phases of stopped tiles that fall due end (R327); an
engine of the turnstile may come to the end of its clip (R352), and a boot goes on (Table HST-13). Without input power nothing
happens. -/
def tick (s : State) : State :=
  if !s.pwr.applied then s
  else
    let s := retryHeld (releasePin (if slewDue s then slewBeat s else sendDue (setBeat s (s.now + 1))))
    let s := fset s TBU_STEP f_TBU_STEP_STEP (stepAt s)
    let s := if anyCounter s then tickModule ((List.finRange 48).foldl tickTile s) else s
    let s := if s.car.running then settle s else s
    bootTick (engineTick s)

end Sys2Proof.Machine
end

