-- ==== Sys2Proof/Machine/Power.lean ====
section
/-! DEFINITION. 36 V power, the samovar, THROT_L, coolant, parking and shutdown (R395 to R413, R443, R453, R447). Draws are in
10 W units unless a name says watts. -/

namespace Sys2Proof.Machine

/-! ### Loss of memory and of power -/

/-- Only host memory keeps its contents (R413, R452). -/
def loseMemory (s : State) : State :=
  { s with mem := s.mem.filter fun p => decide (2 ^ 55 ≤ p.1), env := s.env.filter fun p => decide (2 ^ 55 ≤ p.1 * 512)
           errs := [], tempRetired := [], tiles := s.tiles.map fun p => (p.1, { p.2 with cache := [] }) }

/-- Operand stores, scratchpads, caches and instruction RAM lose their contents (Table PWR-1). -/
def loseSram (s : State) : State :=
  let sram := fun (k : Nat) => decide (0x200000000000 ≤ k ∧ k < 0x300000000000)
  { s with mem := s.mem.filter fun p => !sram p.1, env := s.env.filter fun p => !sram (p.1 * 512), seqs := []
           errs := s.errs.filter fun e => !sram (e.block * 512)
           tiles := s.tiles.map fun p => (p.1, { p.2 with cache := [] }) }

/-- Span and Ethernet links are down, and what was under way on them is lost (Table PWR-1, Table PWR-7); a port that goes down sets
its alert (Table MGT-12). -/
def linksDown (s : State) : State :=
  let s := { s with
    mesh := [], spanHeld := [], dieHeld := [], dieIn := []
    links := { s.links with unacked := [], silent := [], retraining := [], early := [], credits := [], served := [], flits := [] } }
  let down := fun (r : Nat) (up : Fld) (plane : Nat) (s : State) =>
    if fbit s r up then raiseAlert (notePort (fset s r up 0) plane false) f_MGS_ALERT_LINK else s
  let s := (List.range 3).foldl (fun s k => down (LNK_SPAN_STATUS k) f_LNK_SPAN_STATUS_UP (16 + k) s) s
  (List.range 16).foldl (fun s k => down (LNK_ETH_STATUS k) f_LNK_ETH_STATUS_UP k s) s

/-- Rows used in the fuses: a soft repair is lost with the power or reset (R219, R221). -/
def dropSoft (used soft : List (Nat × Nat)) : List (Nat × Nat) :=
  soft.foldl (fun m x => mapSet 0 m x.1 (mapGet 0 m x.1 - 1)) used

/-- What survives a reset of everything: host memory, flash, fuses and hard repairs, repair map, the outside of the pins, the PCIe links, and
what the module has sent. -/
def coldState (s : State) : State :=
  let up := fun (p : Nat) => boolNat (portUp s p)
  let r := { State.reset with
    mem := (loseMemory s).mem, env := (loseMemory s).env
    devs := s.devs.foldl (fun m p => mapSet Dev.empty m p.1 { Dev.empty with
      used := dropSoft p.2.used p.2.soft, fused := p.2.fused, identity := p.2.identity }) []
    flash := s.flash, repair := s.repair, out := s.out
    free := s.free, pending := s.pending
    pins := { s.pins with
      pgood := false, alert := false, snapLow := false, waits := [], jtagOut := [], releaseWaits := false, lateReset := false
      msix := [false, false], msiPending := [] } }
  fset (fset r HIF_STATUS f_HIF_STATUS_P0_UP (up 0)) HIF_STATUS f_HIF_STATUS_P1_UP (up 1)

/-- STANDBY: the ringmaster, the security engine and the samovar are powered, everything else is lost (Table PWR-1). -/
def standbyState (s : State) : State :=
  let kept := s.regs.filter fun p => decide (0x904000 ≤ p.1 ∧ p.1 < 0x905000) || decide (0x908000 ≤ p.1 ∧ p.1 < 0x909000)
  let c := coldState s
  let c := { c with
    regs := kept.foldl (fun m p => mapSet (regReset p.1) m p.1 p.2) c.regs, mgr := s.mgr, upd := s.upd
    snaps := { Snaps.empty with latches := s.snaps.latches.filter fun x => x.1 == 73 }
    pwr := { Power.off with applied := true }
    pins := { c.pins with modrst := s.pins.modrst, releaseWaits := s.pins.releaseWaits } }
  refreshAlert (fset c PWR_STATE f_PWR_STATE_STATE 0)

/-! ### Windows of the draw (R401 to R404) -/

/-- A window's ballast adds to the energy that source 0x130 reports in units of 10 J: 100,000 windows of 10 W (Table MGT-7). -/
def ballastEnergy (s : State) (ballast : Nat) : State :=
  let n := s.pwr.energy + ballast
  mcModule { s with pwr := { s.pwr with energy := n % 100000 } } 0x130 0xFF (n / 100000)

/-- A window's average is taken. -/
def drawWindow (s : State) (draw ballast : Nat) (freeCycles : Bool) : State :=
  let last := drawNow s
  let s := ballastEnergy { s with pwr := { s.pwr with windows := (draw :: s.pwr.windows).take 100000 } } ballast
  let s := fset (fset (fset s PWR_DRAW f_PWR_DRAW_NOW draw) PWR_DRAW f_PWR_DRAW_BALLAST ballast) PWR_DRAW f_PWR_DRAW_PEAK
    (trailingPeak s)
  let s := markPhases s 0
  let target := ballastFor s (drawAim s last) draw ballast freeCycles
  let s := if draw < floorDraw s ∧ !freeCycles then
      let s := if fbit s PWR_STATUS f_PWR_STATUS_FLOOR_SHORT then s else post s .floorShort 0 (floorDraw s)
      raiseAlert (fset s PWR_STATUS f_PWR_STATUS_FLOOR_SHORT 1) f_MGS_ALERT_POWER
    else s
  -- the clock is chosen for the draw as the window shows it; the ballast then carries the draw to its aim
  let s := adjustClock s
  { s with pwr := { s.pwr with target := target, level := 1000 * (draw - ballast) + target } }

/-- DRAW_WINDOW: the average of a window of 1,000 beats, its ballast part, and whether array cycles are free (R401 to R404). -/
def execDrawWindow (draw ballast : BitVec 16) (freeCycles : Bool) (s : State) : Host.Outcome State Fault Refusal :=
  if s.pwr.applied then .next (drawWindow s draw.toNat (min ballast.toNat draw.toNat) freeCycles) else .next s

/-- CLOCK_STEP_UP: 5,000 beats after raising the core voltage the clock rises one step, where the limits still permit it (R404). -/
def execClockStepUp (s : State) : Host.Outcome State Fault Refusal :=
  match s.pwr.stepUpAt with
  | some b =>
    if s.now < b then .next s
    else
      let s := { s with pwr := { s.pwr with stepUpAt := none } }
      let cur := fget s PWR_DRAW f_PWR_DRAW_CLOCK
      .next (if (clockWanted s).1 < cur then setClock s (cur - 1) 0 else s)
  | none => .next s

/-- FLOOR_HOLD_LIMIT_EXPIRE: a hold longer than HOLD_LIMIT lets the floor go (R403). -/
def execFloorHoldLimitExpire (s : State) : Host.Outcome State Fault Refusal :=
  if held s && decide (s.now > s.car.heldSince + fget s PWR_FLOOR f_PWR_FLOOR_HOLD_LIMIT * beatsPerMs) then
    .next { s with pwr := { s.pwr with floorOff := true } }
  else .next s

/-! ### Forecast (R406) -/

/-- The beat at which a declared phase may start. -/
def envelopeStart (s : State) (n p : Nat) : Nat :=
  epochOf s n + ((entryAt s p).map fun e => e.earliest.toNat).getD 0

/-- The largest draw that planned envelopes, floor and caps allow in the i-th millisecond ahead. -/
def forecastSlot (s : State) (i : Nat) : Nat :=
  let last := s.now + (i + 1) * beatsPerMs
  let es := (s.pwr.envelopes.filter fun v => decide (envelopeStart s v.1 v.2.1 < last)).map fun v =>
    if v.2.2.1 = 0 then trailingPeak s else v.2.2.1
  let planned := if es.isEmpty then fget s PWR_DRAW f_PWR_DRAW_NOW else es.foldl max 0
  min (capInForce s) (max planned (floorDraw s))

/-- The 64 bytes of Table PWR-4; the mean heats and the outlet forecast, whose making is not stated, are free values. -/
def forecastRecord (s : State) : List Byte × State :=
  let h1 := takeFree s
  let h10 := takeFree h1.2
  let ot := takeFree h10.2
  let s := ot.2
  let flags := boolNat s.pins.throt + 2 * fget s PWR_STATUS f_PWR_STATUS_FLOOR_SHORT +
    4 * fget s PWR_STATUS f_PWR_STATUS_COOLANT_DERATE
  (leBytes 8 s.now ++ leBytes 2 (fget s PWR_DRAW f_PWR_DRAW_NOW) ++ leBytes 2 (fget s PWR_DRAW f_PWR_DRAW_BALLAST) ++
    leBytes 2 (capInForce s) ++
    leBytes 1 (fget s PWR_DRAW f_PWR_DRAW_CLOCK + 16 * fget s PWR_DRAW f_PWR_DRAW_GATED) ++ leBytes 1 flags ++
    ((List.range 16).flatMap fun i => leBytes 2 (forecastSlot s i)) ++ leBytes 2 h1.1.toNat ++ leBytes 2 h10.1.toNat ++
    leBytes 2 ot.1.toNat ++ leBytes 10 0, s)

/-- FORECAST: the record goes into PWR_FORECAST, and the ringmaster publishes it (R406, R425, R426), which it does not while it
restarts or is held (R394, R415). -/
def execForecast (s : State) : Host.Outcome State Fault Refusal :=
  if !s.pwr.applied then .next s
  else
    let r := forecastRecord s
    let ws := (List.range 8).map fun i => leNat ((r.1.drop (8 * i)).take 8)
    let s := (List.range 8).foldl (fun s i => s.setReg (PWR_FORECAST i) (nthD 0 ws i)) r.2
    if blackout s then .next s
    else
      let s := pushAll s 0 fun m e => .pushForecast m e (ws.map (BitVec.ofNat 64))
      .next (netRecord s 0 0x10 r.1)

/-! ### THROT_L (R407, R408) -/

/-- THROT_L_FALL: ballast stops at once, and the samovar steps down or gates to the cap (R407). Without input power only the pin
falls. -/
def execThrotFall (s : State) : Host.Outcome State Fault Refusal :=
  if s.pins.throt then .next s
  else if !s.pwr.applied then .next { s with pins := { s.pins with throt := true } }
  else
    let s := fset { s with pins := { s.pins with throt := true } } PWR_THROT f_PWR_THROT_ASSERTED 1
    let s := raiseAlert (post s .throtEdge 0 1) f_MGS_ALERT_POWER
    .next (adjustClock (stopBallast s))

/-- THROT_L_RISE: the ramp limit and the floor apply again from the draw as it stands (R408): the level that the windows under
THROT_L left. -/
def execThrotRise (s : State) : Host.Outcome State Fault Refusal :=
  if !s.pins.throt then .next s
  else if !s.pwr.applied then .next { s with pins := { s.pins with throt := false } }
  else
    let s := fset { s with pins := { s.pins with throt := false } } PWR_THROT f_PWR_THROT_ASSERTED 0
    .next (adjustClock (post s .throtEdge 0 0))

/-! ### Shutdown (R413) -/

/-- A shutdown begins: the cause is latched, ALERT_L asserted, ballast stops, every tile stops as under R330, and the clock
takes step 4. In STANDBY no tile is powered. One that has begun goes on (R413). -/
def beginShutdown (s : State) (cause : Nat) : State :=
  if s.pwr.shutdownStage ≠ 0 then s
  else
    let standby := fget s PWR_STATE f_PWR_STATE_STATE == 0
    let s := fset { s with pwr := { s.pwr with shutdownStage := 1, shutdownAt := s.now, stepUpAt := none } } PWR_STATUS
      f_PWR_STATUS_SHUTDOWN_CAUSE cause
    let s := refreshAlert (post s .shutdownCause 0 cause)
    setClock (stopBallast (if standby then s else haltAll s)) 4 0

/-- INPUT_SAMPLE: input voltage and current (R396). Beyond the absolute limits of Table CON-7 the module's behaviour is not
warranted (R443, R453): a fault. -/
def execInputSample (millivolts : Int) (centiamps : Nat) (s : State) : Host.Outcome State Fault Refusal :=
  if millivolts > 45000 ∨ millivolts < -500 then .fault .beyondAbsoluteLimits
  else if !s.pwr.applied then .next s
  else
    let since := fun (out : Bool) (old : Option Nat) => if out then some (old.getD s.now) else none
    .next { s with pwr := { s.pwr with
      millivolts := millivolts, centiamps := centiamps
      underSince := since (decide (millivolts < 31000)) s.pwr.underSince
      overSince := since (decide (millivolts > 41000)) s.pwr.overSince } }

/-- UNDERVOLT: below 31 V for 10,000 beats (R396). -/
def execUndervolt (s : State) : Host.Outcome State Fault Refusal :=
  match s.pwr.underSince with
  | some b => .next (if s.now ≥ b + 10000 then beginShutdown s 1 else s)
  | none => .next s

/-- OVERVOLT: above 41 V for 1,000 beats (R396). -/
def execOvervolt (s : State) : Host.Outcome State Fault Refusal :=
  match s.pwr.overSince with
  | some b => .next (if s.now ≥ b + 1000 then beginShutdown s 2 else s)
  | none => .next s

/-- SHUTDOWN_MEMORY_OFF: by 1,000 ms the ringmaster, if running, has written its log to flash; memories and links power down, and
their data is lost (R420, Table PWR-7). -/
def execShutdownMemoryOff (s : State) : Host.Outcome State Fault Refusal :=
  if s.pwr.shutdownStage = 1 ∧ s.now ≥ s.pwr.shutdownAt + 1000 * beatsPerMs then
    let s := if rmUp s then flashCopy s else s
    .next (linksDown (loseMemory { s with pwr := { s.pwr with shutdownStage := 2 } }))
  else .next s

/-- SHUTDOWN_REGULATORS_OFF: at 1,500 ms PGOOD falls (Table PWR-7). -/
def execShutdownRegulatorsOff (s : State) : Host.Outcome State Fault Refusal :=
  if s.pwr.shutdownStage = 2 ∧ s.now ≥ s.pwr.shutdownAt + 1500 * beatsPerMs then
    .next { s with pwr := { s.pwr with shutdownStage := 3 }, pins := { s.pins with pgood := false } }
  else .next s

/-! ### Heat and coolant (R409 to R412) -/

/-- The hottest diode, with its place in the list; the first of equals. -/
def hottest (ds : List Byte) : Nat × Nat :=
  (ds.mapIdx fun i d => (d.toNat, i)).foldl (fun a b => if a.1 < b.1 then b else a) (0, 0)

/-- TILE_THERMAL_READING: the 16 diodes of every tile in order (R409), whose readings the sensor hub takes too (R417). -/
def execTileThermalReading (diodes : List Byte) (s : State) : Host.Outcome State Fault Refusal :=
  if !s.pwr.applied then .next s
  else
    let s := hubReadings s 1 (diodes.map fun d => some (d.toNat : Int))
    let h := hottest diodes
    let limit := fget s PWR_TILE f_PWR_TILE_LIMIT
    let s := fset (fset s PWR_TILE f_PWR_TILE_MAX h.1) PWR_TILE f_PWR_TILE_TILE (h.2 / 16)
    if h.1 > 115 then .next (beginShutdown s 5)
    else
      let down := decide (h.1 > limit) || (s.pwr.heatDown && decide (h.1 > limit - 3))
      let n := if down then min 4 (max s.pwr.heatSteps (fget s PWR_DRAW f_PWR_DRAW_CLOCK) + 1)
        else if h.1 ≤ limit - 3 then s.pwr.heatSteps - 1 else s.pwr.heatSteps
      let s := { s with pwr := { s.pwr with heatSteps := n, heatDown := down } }
      .next (adjustClock (fset s PWR_STATUS f_PWR_STATUS_TILE_STEP (boolNat (n != 0))))

/-- The coolant cap for a flow (0.1 L/min) and an inlet (0.1 °C): 20 kW × flow / 34 L/min below 34 L/min, 2 kW less for each
degree above 40 °C (R411). -/
def coolantCapOf (flow : Nat) (inlet : Int) : Nat :=
  let c := if flow < 340 then 2000 * flow / 340 else 2000
  if inlet > 400 then c - (200 * (inlet - 400).toNat) / 10 else c

/-- The coolant cap of the last flow and inlet, and the beginning of a shutdown where they lie beyond their limits (R411, R412). -/
def coolantActs (s : State) : State :=
  let inlet := s.pwr.inlet
  let cap := coolantCapOf (fget s PWR_COOLANT f_PWR_COOLANT_FLOW) inlet
  let derate := boolNat (decide (cap < 2000))
  let s := { s with pwr := { s.pwr with coolantCap := cap } }
  let s := if derate = 1 ∧ !fbit s PWR_STATUS f_PWR_STATUS_COOLANT_DERATE then
      raiseAlert (post s .coolantDerate 0 cap) f_MGS_ALERT_POWER
    else s
  let s := fset s PWR_STATUS f_PWR_STATUS_COOLANT_DERATE derate
  if s.pwr.lowFlow ≥ 5 then beginShutdown s 3
  else if inlet > 450 then beginShutdown s 4
  else adjustClock s

/-- A flow reading (R411, R412). -/
def takeFlow (s : State) (flow : Nat) : State :=
  let low := if flow < fget s PWR_COOLANT f_PWR_COOLANT_FLOW_MIN then s.pwr.lowFlow + 1 else 0
  fset { s with pwr := { s.pwr with lowFlow := low } } PWR_COOLANT f_PWR_COOLANT_FLOW flow

/-- The module assigns the coolant sensors their dynamic addresses with SETDASA before it first reads them; which addresses is left
open (R447, log entry 103). -/
def assignSensors (s : State) : State :=
  if s.pwr.assigned then s
  else [0x48, 0x49, 0x4A].foldl (fun s a => emit s (.setdasa a (Config.dynamicAddress a).toNat))
    { s with pwr := { s.pwr with assigned := true } }

/-- COOLANT_READING: a sensor that gives no reading is absent. The third flow reading missed on end, and those after it, count
as zero, and before that the last flow stands; a missed inlet keeps the last valid one (R411, R412, R447). The sensor hub takes the same
readings (R417). -/
def execCoolantReading (flow inlet outlet : Option (BitVec 16)) (s : State) : Host.Outcome State Fault Refusal :=
  if !s.pwr.applied then .next s
  else
    let s := hubReadings (assignSensors s) 1036 [flow.map fun x => x.toNat, inlet.map BitVec.toInt, outlet.map BitVec.toInt]
    let missed := if flow.isSome then 0 else s.pwr.missedFlow + 1
    let temp := fun (x : BitVec 16) => (x.toInt : Int)
    let s := { s with pwr := { s.pwr with missedFlow := missed, inlet := (inlet.map temp).getD s.pwr.inlet } }
    let s := match inlet with
      | some x => fset s PWR_COOLANT f_PWR_COOLANT_INLET (codeOf 8 (x.toInt / 10))
      | none => s
    let s := match outlet with
      | some x => fset s PWR_COOLANT f_PWR_COOLANT_OUTLET (codeOf 8 (x.toInt / 10))
      | none => s
    let s := match flow with
      | some f => takeFlow s f.toNat
      | none => if missed ≥ 3 then takeFlow s 0 else s
    .next (coolantActs s)

/-! ### Parking (R399) -/

/-- The job is lost: its tables, tensors and phase schedule. -/
def dropJob (s : State) : State :=
  { s with job := Job.none, car := { s.car with entries := [], records := [], declared := [] } }

/-- PARK_REQUEST: PWR_STATE.REQ 1 (R399). -/
def execParkRequest (r : Requester) (s : State) : Host.Outcome State Fault Refusal :=
  .next (guardedWrite s r PWR_STATE (some grpPower) fun s =>
    if s.job.loaded || s.car.running then fset s PWR_STATUS f_PWR_STATUS_PARK_REFUSED 1
    else if fget s PWR_STATE f_PWR_STATE_STATE = 2 then
      fset (linksDown (dropJob (loseSram s))) PWR_STATE f_PWR_STATE_STATE 4
    else s)

/-- READY_REQUEST: PWR_STATE.REQ 2 starts a parked module's return (R399). -/
def execReadyRequest (r : Requester) (s : State) : Host.Outcome State Fault Refusal :=
  .next (guardedWrite s r PWR_STATE (some grpPower) fun s =>
    if fget s PWR_STATE f_PWR_STATE_STATE = 4 then { s with pwr := { s.pwr with readyAt := some s.now } } else s)

/-- UNPARK_COMPLETE: the parked module is back in IDLE_READY, its SRAMs cleared (R399). -/
def execUnparkComplete (s : State) : Host.Outcome State Fault Refusal :=
  if fget s PWR_STATE f_PWR_STATE_STATE = 4 ∧ s.pwr.readyAt.isSome then
    let s := loseSram s
    .next (fset { s with pwr := { s.pwr with readyAt := none } } PWR_STATE f_PWR_STATE_STATE 2)
  else .next s

/-! ### Input power (R397, R389) -/

/-- INPUT_POWER_APPLIED: 36 V at the clamps brings the module into STANDBY (R397, Table PWR-1). -/
def execInputPowerApplied (s : State) : Host.Outcome State Fault Refusal :=
  if s.pwr.applied then .next s
  else .next { coldState s with pwr := { Power.off with applied := true } }

/-- INPUT_POWER_LOSS: every powered state is lost; flash and fuses stay as an interrupted write left them (R389). -/
def execInputPowerLoss (s : State) : Host.Outcome State Fault Refusal :=
  let c := coldState s
  .next { fset (fset c HIF_STATUS f_HIF_STATUS_P0_UP 0) HIF_STATUS f_HIF_STATUS_P1_UP 0 with pwr := Power.off }

end Sys2Proof.Machine
end

