-- ==== Sys2Proof/Machine/Devices.lean ====
section
/-! DEFINITION. Heat, maintenance windows, repair and retirement of the stacks and packages (R213 to R225). -/

namespace Sys2Proof.Machine

/-! ### The registers of a device: stacks and packages hold the same (Table MEM-13) -/

def devTemp : MemDev → Nat
  | .stack h => HBM_TEMP h.val
  | .package h k => DTR_TEMP h.val k.val

def devRepair : MemDev → Nat
  | .stack h => HBM_REPAIR h.val
  | .package h k => DTR_REPAIR h.val k.val

def devMaint : MemDev → Nat
  | .stack h => HBM_MAINT h.val
  | .package h k => DTR_MAINT h.val k.val

/-- The unit number of a device's events: stack or package. -/
def devUnit : MemDev → Nat
  | .stack h => h.val
  | .package h k => 2 * h.val + k.val

/-! ### Heat -/

/-- The level after a reading (Table MEM-7, R213): up at once, down only to the level the reading has reached. -/
def nextLevel (cur temp : Nat) : Nat :=
  let up := if temp > 105 then 3 else if temp > 95 then 2 else if temp > 85 then 1 else 0
  let down := if temp ≤ 82 then 0 else if temp ≤ 92 then 1 else if temp ≤ 100 then 2 else 3
  if up > cur then up else min cur down

/-- A device's reading: its registers, level, thermal fault and event (R213, R216). -/
def takeReading (s : State) (d : MemDev) (temp : Nat) : State :=
  let r := devTemp d
  let old := fget s r f_HBM_TEMP_LEVEL
  let new := nextLevel old temp
  let s := fset (fset (fset s r f_HBM_TEMP_TEMP temp) r f_HBM_TEMP_PEAK (max (fget s r f_HBM_TEMP_PEAK) temp)) r
    f_HBM_TEMP_LEVEL new
  if new = old then s
  else
    let s := if new = 3 then raiseAlert (fset s r f_HBM_TEMP_FAULT 1) f_MGS_ALERT_MEM_FAULT else s
    let s := s.setDev d { s.dev d with level3 := if new = 3 then some s.now else none }
    markPhases (post s .thermalLevel (devUnit d) (s.reg r)) 0

/-- THERMAL_READING: a base die reads its stack and its two packages (R213), and the sensor hub takes the same readings (R417). -/
def execThermalReading (h : StackId) (stack pkg0 pkg1 : Byte) (s : State) : Host.Outcome State Fault Refusal :=
  if s.pwr.applied then
    let s := hubReadings s (769 + h.val) [some stack.toNat]
    let s := hubReadings s (793 + 2 * h.val) [some pkg0.toNat, some pkg1.toNat]
    .next (takeReading (takeReading (takeReading s (.stack h) stack.toNat) (.package h 0) pkg0.toNat) (.package h 1) pkg1.toNat)
  else .next s

/-- HALT_LIMIT_EXPIRE: longer than HALT_LIMIT milliseconds at level 3 (R216). -/
def execHaltLimitExpire (d : MemDev) (s : State) : Host.Outcome State Fault Refusal :=
  match (s.dev d).level3 with
  | some b =>
    .next (if s.now > b + fget s (HBM_THERM_CTL (devDie d).val) f_HBM_THERM_CTL_HALT_LIMIT * beatsPerMs then
      beginShutdown s 6 else s)
  | none => .next s

/-! ### Maintenance windows (R218) -/

/-- A window is armed or open on a device. -/
def windowTaken (s : State) (d : MemDev) : Bool :=
  fbit s (devMaint d) f_HBM_MAINT_ARM || (s.dev d).windowOpen.isSome

/-- The memory devices of the module. -/
def allDevices : List MemDev :=
  (List.finRange 24).flatMap fun h => [.stack h, .package h 0, .package h 1]

/-- A phase in which a maintenance window may open: no COLLECTIVE, no COMMIT, and 400,000 beats or more (R392). -/
def windowPhase (e : PhaseEntry) : Bool :=
  !isCollective e && !isCommit e && decide (400000 ≤ e.deadline.toNat - e.earliest.toNat)

/-- A START is the earliest start of a phase that leaves room, in some step from now on. -/
def windowStart (s : State) (start : Nat) : Bool :=
  let b := s.now + (start + 2 ^ 32 - s.now % 2 ^ 32) % 2 ^ 32
  s.car.entries.any fun e => windowPhase e && epochOf s (stepOn s (b - e.earliest.toNat)) + e.earliest.toNat == b

/-- Firmware may arm a window with a START (R392): no other window is armed or open in the module, and START is the earliest start of a
phase that leaves room; where the carousel holds no such phase, the carousel is idle or held. A write that asks for ARM otherwise arms
nothing (DEDUCED, log entry 85). -/
def armAllowed (s : State) (d : MemDev) (start : Nat) : Bool :=
  !(allDevices.any fun x => x != d && windowTaken s x) && (s.dev d).windowOpen.isNone &&
  (if s.car.entries.any windowPhase then windowStart s start else !s.car.running || held s)

/-- MAINT_ARM: a write of HBM_MAINT or DTR_MAINT. A reserved KIND arms nothing. -/
def execMaintArm (r : Requester) (d : MemDev) (value : Word) (s : State) : Host.Outcome State Fault Refusal :=
  .next (guardedWrite s r (devMaint d) none fun s =>
    let v := value.toNat
    let m := devMaint d
    let s := fset (fset (fset s m f_HBM_MAINT_CHANNEL (bitsAt v 0 5)) m f_HBM_MAINT_KIND (bitsAt v 5 2)) m
      f_HBM_MAINT_START (bitsAt v 32 32)
    let s := if bitAt v 8 then fset s m f_HBM_MAINT_DONE 0 else s
    let s := if bitAt v 9 then fset s m f_HBM_MAINT_INCOMPLETE 0 else s
    if bitAt v 7 && bitsAt v 5 2 != 3 && armAllowed s d (bitsAt v 32 32) then fset s m f_HBM_MAINT_ARM 1 else s)

/-- The beat counter's low 32 bits equal START (R218). -/
def startReached (s : State) (d : MemDev) : Bool := s.now % 2 ^ 32 == fget s (devMaint d) f_HBM_MAINT_START

/-- MAINTENANCE_WINDOW_OPEN (R218). -/
def execMaintenanceWindowOpen (d : MemDev) (s : State) : Host.Outcome State Fault Refusal :=
  if fbit s (devMaint d) f_HBM_MAINT_ARM && (s.dev d).windowOpen.isNone && startReached s d then
    .next (s.setDev d { s.dev d with windowOpen := some s.now, windowWork := false })
  else .next s

/-- A window ends, its operation complete or abandoned. -/
def closeWindow (s : State) (d : MemDev) (done : Bool) : State :=
  let m := devMaint d
  let s := s.setDev d { s.dev d with windowOpen := none, windowWork := false }
  fset (fset s m f_HBM_MAINT_ARM 0) m (if done then f_HBM_MAINT_DONE else f_HBM_MAINT_INCOMPLETE) 1

/-- MAINTENANCE_WINDOW_END: the operation is complete: a retraining, or the repair made in the window (R218). -/
def execMaintenanceWindowEnd (d : MemDev) (s : State) : Host.Outcome State Fault Refusal :=
  if (s.dev d).windowOpen.isSome && (fget s (devMaint d) f_HBM_MAINT_KIND == 0 || (s.dev d).windowWork) then
    .next (closeWindow s d true)
  else .next s

/-- MAINTENANCE_WINDOW_LIMIT: a window of 200,000 beats abandons an unfinished operation (R218). -/
def execMaintenanceWindowLimit (d : MemDev) (s : State) : Host.Outcome State Fault Refusal :=
  match (s.dev d).windowOpen with
  | some b => .next (if s.now ≥ b + 200000 then closeWindow s d (s.dev d).windowWork else s)
  | none => .next s

/-! ### Repair (R219 to R221) -/

/-- The key of a bank. -/
def bankKey (pc bank : BitVec 6) : Nat := 64 * pc.toNat + bank.toNat

/-- Spare rows left in a bank. -/
def sparesLeft (s : State) (d : MemDev) (k : Nat) : Nat :=
  (Config.spareRows (devKey d) k).val - mapGet 0 (s.dev d).used k

/-- The channel that holds a pseudo-channel: two to a channel in a stack, itself in a package. -/
def channelOf (d : MemDev) (pc : BitVec 6) : Nat :=
  match d with
  | .stack _ => pc.toNat / 2
  | .package .. => pc.toNat

/-- Inside a window of the kind on the channel, or in the boot before memory training, which is its stage 4 (R219, Table HST-13). -/
def repairOpen (s : State) (d : MemDev) (pc : BitVec 6) (kind : Nat) : Bool :=
  (fget s PWR_STATE f_PWR_STATE_STATE == 1 && decide (fget s HIF_STATUS f_HIF_STATUS_BOOT_STAGE < 4)) ||
    ((s.dev d).windowOpen.isSome && fget s (devMaint d) f_HBM_MAINT_KIND == kind &&
      fget s (devMaint d) f_HBM_MAINT_CHANNEL == channelOf d pc)

/-- The PC, BANK and ROW fields of a repair write. -/
def repairFields (s : State) (d : MemDev) (pc bank : BitVec 6) (row : Nat) : State :=
  let r := devRepair d
  fset (fset (fset s r f_HBM_REPAIR_PC pc.toNat) r f_HBM_REPAIR_BANK bank.toNat) r f_HBM_REPAIR_ROW row

/-- The blocks of a device whose errors lie in a row: in its channel, and in the 2 MiB range that holds the row (R210, R211). -/
def rowBlocks (s : State) (d : MemDev) (pc bank row : Nat) : List Nat :=
  (s.errs.filter fun e =>
    let k := e.block * 512
    let here := match d with
      | .stack h => decide (k / 2 ^ 36 = h.val)
      | .package .. => decide (0x100000000000 ≤ k ∧ k < 0x200000000000) && decide (bitsAt k 36 6 = devUnit d)
    here && (match e.kind with
      | .uncorrectable u b r => channelOfKey (k + 256 * (u % 2)) == pc && b == bank && r == row &&
          bitsAt k 21 15 == (Config.rowRange (devKey d) pc bank row).toNat
      | _ => false)).map (·.block)

/-- What a remapped row's failed blocks hold is not stated: free bytes under free envelopes. -/
def remapRow (s : State) (blocks : List Nat) : State :=
  let s := blocks.foldl (fun s b =>
    let m := takeFree s
    let s := (List.range 64).foldl (fun s i =>
      let f := takeFree s
      { f.2 with mem := putBytes f.2.mem (b * 512 + 8 * i) (leBytes 8 f.1.toNat) }) m.2
    setMismatch s b (BitVec.ofNat 32 m.1.toNat)) s
  { s with errs := s.errs.filter fun e => !blocks.contains e.block }

/-- A row takes a spare of its bank. -/
def useSpare (s : State) (d : MemDev) (k : Nat) : State :=
  let x := s.dev d
  s.setDev d { x with used := mapSet 0 x.used k (mapGet 0 x.used k + 1), windowWork := x.windowOpen.isSome }

/-- READ_SPARE_ROWS: HBM_REPAIR OP 1 (Table MEM-16). -/
def execReadSpareRows (r : Requester) (d : MemDev) (pc bank : BitVec 6) (s : State) : Host.Outcome State Fault Refusal :=
  .next (guardedWrite s r (devRepair d) none fun s =>
    let s := repairFields s d pc bank (fget s (devRepair d) f_HBM_REPAIR_ROW)
    fset (fset s (devRepair d) f_HBM_REPAIR_SPARE (sparesLeft s d (bankKey pc bank))) (devRepair d) f_HBM_REPAIR_STATUS 2)

/-- SPPR: a soft repair of a row inside a matching window (R219); firmware lists the row as pending hPPR (R220). -/
def execSppr (r : Requester) (d : MemDev) (pc bank : BitVec 6) (row : BitVec 18) (s : State) :
    Host.Outcome State Fault Refusal :=
  .next (guardedWrite s r (devRepair d) none fun s =>
    let s := repairFields s d pc bank row.toNat
    let k := bankKey pc bank
    if !repairOpen s d pc 1 || sparesLeft s d k == 0 || (s.dev d).soft.any (fun x => x.1 == k) then
      fset s (devRepair d) f_HBM_REPAIR_STATUS 3
    else
      let s := useSpare s d k
      let s := s.setDev d { s.dev d with soft := (s.dev d).soft ++ [(k, row.toNat)] }
      let s := remapRow s (rowBlocks s d pc.toNat bank.toNat row.toNat)
      let s := writePart { s with flash := { s.flash with
        repairList := s.flash.repairList ++ [(devKey d, pc.toNat, bank.toNat, row.toNat)] } }
      post (fset s (devRepair d) f_HBM_REPAIR_STATUS 2) .repair (devUnit d) (s.reg (devRepair d)))

/-- HPPR: a hard repair of a row inside a matching window or at boot (R219, R221). A bank's pending soft repair keeps its
spare and becomes permanent with the row's own hard repair. -/
def execHppr (r : Requester) (d : MemDev) (pc bank : BitVec 6) (row : BitVec 18) (s : State) :
    Host.Outcome State Fault Refusal :=
  .next (guardedWrite s r (devRepair d) none fun s =>
    let s := repairFields s d pc bank row.toNat
    let k := bankKey pc bank
    let soft := (s.dev d).soft.contains (k, row.toNat)
    if !repairOpen s d pc 2 || (sparesLeft s d k == 0 && !soft) then fset s (devRepair d) f_HBM_REPAIR_STATUS 3
    else
      let s := if soft then
          s.setDev d { s.dev d with
            soft := (s.dev d).soft.filter (fun x => x != (k, row.toNat)), windowWork := (s.dev d).windowOpen.isSome }
        else useSpare s d k
      let s := s.setDev d { s.dev d with fused := (s.dev d).fused ++ [(k, row.toNat)] }
      let s := remapRow s (rowBlocks s d pc.toNat bank.toNat row.toNat)
      let s := writePart { s with flash := { s.flash with
        repairList := s.flash.repairList.filter fun x => x != (devKey d, pc.toNat, bank.toNat, row.toNat) } }
      post (fset s (devRepair d) f_HBM_REPAIR_STATUS 2) .repair (devUnit d) (s.reg (devRepair d)))

/-! ### Retirement (R222 to R225) -/

/-- The bad-page list entry of a range (Table MEM-8); a range of an interleaved region goes in all 24 windows (R223). -/
def badPage (s : State) (d : MemDev) (range : BitVec 15) (cause : Byte) : Word :=
  let tier := match d with
    | .stack _ => 0
    | .package .. => 1
  let inter := match d with
    | .stack _ => bitAt (fget s HBM_MODE f_HBM_MODE_INTERLEAVE) (range.toNat / 1024)
    | .package .. => false
  BitVec.ofNat 64 (tier + 4 * boolNat inter + devUnit d * 2 ^ 8 + range.toNat * 2 ^ 16 + cause.toNat * 2 ^ 32)

/-- An entry retires a range of every window (R223). -/
def everyWindow (e : Word) : Bool := bitsAt e.toNat 0 2 == 0 && bitAt e.toNat 2

/-- The same tier and range of offsets. -/
def sameOffsets (a b : Word) : Bool := bitsAt a.toNat 0 2 == bitsAt b.toNat 0 2 && bitsAt a.toNat 16 16 == bitsAt b.toNat 16 16

/-- What one entry retires is retired by another as well. -/
def samePage (a b : Word) : Bool :=
  sameOffsets a b && (everyWindow b || (!everyWindow a && bitsAt a.toNat 8 8 == bitsAt b.toNat 8 8))

/-- The ranges that entries retire in their tier, summed over windows and each counted once: HBM and deep tier (Table MEM-12). -/
def retiredCounts (es : List Word) : Nat × Nat :=
  es.foldl (fun c e =>
    if bitsAt e.toNat 0 2 ≠ 0 then (c.1, c.2 + 1)
    else if !everyWindow e then (c.1 + boolNat (!es.any fun x => everyWindow x && sameOffsets e x), c.2)
    else (c.1 + 24, c.2)) (0, 0)

/-- Show the retired ranges. -/
def showRetired (s : State) : State :=
  let c := retiredCounts (s.repair.badPages ++ s.tempRetired)
  fset (fset s HBM_RETIRED f_HBM_RETIRED_HBM c.1) HBM_RETIRED f_HBM_RETIRED_DTR c.2

/-- RETIRE_RANGE: firmware retires a 2 MiB range (R222). A full list keeps it in the ringmaster's memory until power-down
(R225). -/
def execRetireRange (d : MemDev) (range : BitVec 15) (cause : BitVec 8) (s : State) : Host.Outcome State Fault Refusal :=
  let e := badPage s d range cause
  if (s.repair.badPages ++ s.tempRetired).any (samePage e) then .next s
  else
    let s := if s.repair.badPages.length ≥ 4096 then
        raiseAlert (post { s with tempRetired := s.tempRetired ++ [e] } .repairExhausted (devUnit d) e.toNat)
          f_MGS_ALERT_REPAIR_EXHAUSTED
      else writePart { s with repair := { s.repair with badPages := s.repair.badPages ++ [e] }, job := { s.job with mapChanged := true } }
    .next (showRetired (raiseAlert (post s .retirement (devUnit d) e.toNat) f_MGS_ALERT_MEM_FAULT))

end Sys2Proof.Machine
end

