-- ==== Sys2Proof/Machine/Boot.lean ====
section
/-! DEFINITION. Reset, start-up, the configuration image and its update, warm restarts (R363, R374 to R376, R383 to R391, R394,
R451, R452). -/

namespace Sys2Proof.Machine

/-! ### The image (R375, R376) -/

/-- Bytes from an offset. -/
def slice (bs : List Byte) (off n : Nat) : List Byte := (bs.drop off).take n

/-- An image read from its bytes: header, ECDSA key and signature, LMS key and signature, the rest of the signature block, and the
body (Table HST-10). -/
def parseImage (bs : List Byte) : ConfigImage :=
  { header := bs.take 1024, ecdsaKey := slice bs 1024 97, ecdsaSig := slice bs 1121 96, lmsKey := slice bs 1217 56
    lmsSig := slice bs 1273 1772, sigRest := slice bs 3045 27, body := bs.drop 3072 }

/-- The image's bytes. -/
def imageBytes (img : ConfigImage) : List Byte :=
  img.header ++ img.ecdsaKey ++ img.ecdsaSig ++ img.lmsKey ++ img.lmsSig ++ img.sigRest ++ img.body

/-- Fields of the image header (Table HST-10): the key slots, the security version, the number of sections and the image version. -/
def imageEcdsaSlot (img : ConfigImage) : Nat := field img.header 13 1 % 4
def imageLmsSlot (img : ConfigImage) : Nat := field img.header 13 1 / 4 % 4
def imageSvn (img : ConfigImage) : Nat := field img.header 14 1
def imageSections (img : ConfigImage) : Nat := field img.header 15 1
def imageBuild (img : ConfigImage) : Word := BitVec.ofNat 64 (field img.header 16 8)

/-- Section i of the header (Table HST-10); a digest is the number of its bytes, the lowest first. -/
def imageSection (img : ConfigImage) (i : Nat) : Section :=
  let e := slice img.header (64 + 64 * i) 64
  { type := field e 0 2, iface := BitVec.ofNat 16 (field e 2 2), digest := BitVec.ofNat 384 (field e 16 48)
    body := slice img.body (field e 4 4) (field e 8 4) }

/-- The sections of an image. -/
def imageSectionList (img : ConfigImage) : List Section := (List.range (min 15 (imageSections img))).map (imageSection img)

/-- Type, digest and IFACE of each section. -/
def sectionsOf (img : ConfigImage) : List (Nat × (BitVec 384 × BitVec 16)) :=
  (imageSectionList img).map fun x => (x.type, (x.digest, x.iface))

/-- A section's bytes have the digest of the header (R376). -/
def sectionOk (x : Section) : Bool := Config.sha384 x.body == x.digest

/-- The values that Table HST-10 fixes in a header besides those of R375: its zero bytes and bits, 1 to 15 sections that lie in the
body, a security version of at most 64 and BODY_LEN (log entry 87). -/
def headerForm (img : ConfigImage) : Bool :=
  let h := img.header
  h.length == 1024 && field h 13 1 / 16 == 0 && decide (imageSvn img ≤ 64) && decide (1 ≤ imageSections img ∧ imageSections img ≤ 15) &&
  field h 24 4 == img.body.length && (slice h 28 36).all (· == 0) && img.sigRest.all (· == 0) &&
  (List.range (imageSections img)).all fun i =>
    let e := slice h (64 + 64 * i) 64
    field e 12 4 == 0 && decide (field e 4 4 + field e 8 4 ≤ img.body.length)

/-- The detail of status SIGNATURE for an image (Table HST-6), 0 where the image is accepted (R375, R376). -/
def imageFault (s : State) (img : ConfigImage) : Nat :=
  let f := s.flash
  let h := img.header
  let digest := Config.sha384 h
  let ec := imageEcdsaSlot img
  let lm := imageLmsSlot img
  if field h 0 8 ≠ 0x4749464E4F435846 ∨ field h 8 2 ≠ 1 ∨ headerForm img = false then 1
  else if field h 10 2 ≠ 0x4836 ∨ field h 12 1 ≠ 2 then 6
  else if f.revokedEcdsa.getLsbD ec || Config.sha384 img.ecdsaKey != nthD 0 f.hashEcdsa ec ||
      !Config.ecdsaVerifies img.ecdsaKey img.ecdsaSig digest then 2
  else if f.revokedLms.getLsbD lm || Config.sha384 img.lmsKey != nthD 0 f.hashLms lm ||
      !Config.lmsVerifies img.lmsKey img.lmsSig digest then 3
  else if imageSvn img < f.svnFuses then 5
  else if !((imageSectionList img).all sectionOk) then 4
  else 0

/-- The bytes of the staged image as they now stand: in the staging range, or in the recovery ROM's own memory (R385, R386). -/
def stagedBytes (s : State) : Option (List Byte) :=
  s.upd.staged.map fun p => if fbit s HIF_STATUS f_HIF_STATUS_RECOVERY then s.upd.received else readBytes s .other p.1 p.2

/-- The staged image. -/
def stagedImage (s : State) : Option ConfigImage := (stagedBytes s).map parseImage

/-- The blocks of the staging range are verified as their bytes are read; none is poisoned (R206, R250). -/
def verifyStaged (s : State) : Bool × State :=
  match s.upd.staged with
  | some p =>
    if fbit s HIF_STATUS f_HIF_STATUS_RECOVERY then (true, s)
    else
      let r := verifyRange s .other p.1 p.2
      (r.1.isEmpty, r.2)
  | none => (true, s)

/-! ### Warm restart (R394, R414, R416) -/

/-- A warm restart begins with its cause; in PROVING the count of proven steps starts again, and SPDM
requests that waited go unanswered (R388, R394). -/
def warmRestart (s : State) (cause : Nat) : State :=
  let s := fset { s with mgr := { s.mgr with restarting := true, hssWaiting := [] } } HIF_STATUS f_HIF_STATUS_RM_BLACKOUT 1
  let s := post (fset s MGS_STATUS f_MGS_STATUS_LAST_RESTART cause) .restart 0 cause
  provingRestart (if cause ≤ 3 then raiseAlert s f_MGS_ALERT_RESTART else s)

/-! ### Updates (R386 to R391) -/

/-- The section types that apply while the module runs (Table HST-11). -/
def livePath (type : Nat) : Bool := type ≠ 2 && type ≠ 9

/-- Types of an image's sections that differ from those in force and apply while the module runs, ascending. -/
def changedTypes (s : State) (img : ConfigImage) : List Nat :=
  (List.range 16).filter fun t => livePath t && (imageSectionList img).any fun x =>
    x.type == t && (s.upd.inForce.find? fun p => p.1 == t).all fun p => p.2.1 != x.digest

/-- The image that an update applies: the staged one, or in a reversion the flash's. -/
def updateSource (s : State) : Option ConfigImage := if updState s = 5 then some s.flash.image else stagedImage s

/-- The section of a type that the update applies. -/
def pendingSection (s : State) (t : Nat) : Option Section :=
  (updateSource s).bind fun img => (imageSectionList img).find? fun x => x.type == t

/-- A section whose IFACE differs from the one in force waits for no job to be loaded (R387). -/
def needsIdle (s : State) (t : Nat) : Bool :=
  (pendingSection s t).any fun x => (s.upd.inForce.find? fun p => p.1 == t).any fun p => p.2.2 != x.iface

/-- Show NEED_IDLE and APPLIED. -/
def showUpdate (s : State) : State :=
  let idle := s.job.loaded && s.upd.waiting.any (needsIdle s)
  let applied := ((stagedImage s).map imageSectionList |>.getD []).foldl (fun n x =>
    if s.upd.inForce.any fun p => p.1 == x.type && p.2.1 == x.digest then n ||| 2 ^ x.type else n) 0
  fset (fset s HIF_UPD_STATUS f_HIF_UPD_STATUS_NEED_IDLE (boolNat idle)) HIF_UPD_STATUS f_HIF_UPD_STATUS_APPLIED applied

/-- The last changed section is in force: PROVING, which ends at once where no step is to be counted, or IDLE after a reversion, which FAILED
records (R387, R388, R390). -/
def updateCheck (s : State) : State :=
  let s := showUpdate s
  if !s.upd.waiting.isEmpty then s
  else if updState s = 2 then provenCheck (setUpdState (fset s HIF_UPD_STATUS f_HIF_UPD_STATUS_PROVEN_STEPS 0) 3)
  else if updState s = 5 then
    showUpdate (setUpdState { fset s HIF_UPD_STATUS f_HIF_UPD_STATUS_FAILED 1 with upd := { s.upd with staged := none } } 0)
  else s

/-- A section of a type is in force. -/
def sectionInForce (s : State) (t : Nat) : Bool := s.upd.inForce.any fun p => p.1 == t

/-- Section 8 in force writes the samovar's limits (text before Table PWR-8); what it holds is free (log entry 23). -/
def applyPolicy (s : State) : State :=
  let v := fun (i : Fin 7) => (Config.powerPolicy (forceDigest s 8) i).toNat
  [(PWR_CAP, f_PWR_CAP_CAP, v 0), (PWR_RAMP, f_PWR_RAMP_RATE, v 1), (PWR_FLOOR, f_PWR_FLOOR_PCT, v 2),
    (PWR_FLOOR, f_PWR_FLOOR_HOLD_LIMIT, v 3), (PWR_THROT, f_PWR_THROT_CAP, v 4), (PWR_TILE, f_PWR_TILE_LIMIT, v 5),
    (PWR_COOLANT, f_PWR_COOLANT_FLOW_MIN, v 6)].foldl (fun s x => fset s x.1 x.2.1 x.2.2) s

/-- Before READY firmware sets the grants from section 8, and SEAL where the section asks for it (text after Table REG-5). The
grants of a module that is sealed already stay (R461). -/
def applyGrants (s : State) : State :=
  let d := forceDigest s 8
  let s := if isSealed s then s else s.setReg MGS_HOST_WR (Config.hostGrants d).toNat
  if Config.sealAsked d then fset s MGS_SEAL f_MGS_SEAL_SEAL 1 else s

/-- A section is in force; section 8 then writes the samovar's limits. -/
def forceSection (s : State) (x : Section) : State :=
  let s := { s with upd := { s.upd with
    waiting := s.upd.waiting.filter (· != x.type)
    channels := if x.type = 5 then [] else s.upd.channels
    inForce := (s.upd.inForce.filter fun p => p.1 != x.type) ++ [(x.type, (x.digest, x.iface))] } }
  updateCheck (if x.type = 8 then applyPolicy s else s)

/-- The beat that firmware names for section 8 (Table HST-11), which the manual does not give: a free value. -/
def namePolicyBeat (s : State) : State :=
  let f := takeFree s
  { f.2 with upd := { f.2.upd with policyBeat := f.1.toNat } }

/-- REVERTING: every section of the flash image that differs from the one in force applies again (R390). -/
def startRevert (s : State) : State :=
  let s := namePolicyBeat (setUpdState s 5)
  updateCheck { s with upd := { s.upd with waiting := changedTypes s s.flash.image, channels := [] } }

/-- ACTION 0 on a staged image (R387). -/
def startApply (s : State) : State :=
  match stagedImage s with
  | some img =>
    let s := namePolicyBeat (setUpdState s 2)
    updateCheck { s with upd := { s.upd with waiting := changedTypes s img, channels := [] } }
  | none => s

/-- Channels of a device, each of which takes section 5 in a window of its own. -/
def channelCount : MemDev → Nat
  | .stack _ => 32
  | .package .. => 8

/-- Channels in an open maintenance window to which section 5 has not been applied: device and channel (Table HST-11). -/
def openChannels (s : State) : List (Nat × Nat) :=
  allDevices.filterMap fun d =>
    let x := (devKey d, fget s (devMaint d) f_HBM_MAINT_CHANNEL)
    if (s.dev d).windowOpen.isSome && decide (x.2 < channelCount d) && !s.upd.channels.contains x then some x else none

/-- Section 5 has been applied to every channel of the module. -/
def channelsDone (s : State) : Bool := (allDevices.map channelCount).sum == s.upd.channels.length

/-- The condition of a section's path (Table HST-11), besides a job for which its IFACE waits. -/
def pathOpen (s : State) (t : Nat) : Bool :=
  match t with
  | 3 => held s
  | 4 => s.car.records.any fun r => r.start == some s.now && (entryAt s r.phase).any isCommit
  | 5 => !(openChannels s).isEmpty
  | 8 => decide (s.now ≥ s.upd.policyBeat)
  | _ => true

/-- A waiting section need wait no longer: its path is open, and no job is loaded where its IFACE changes. -/
def sectionDue (s : State) (t : Nat) : Bool := pathOpen s t && !(s.job.loaded && needsIdle s t)

/-- A section whose check fails at its application fails the update, which then reverts; in a reversion the section is given up and the
one in force stays (R376, log entry 89). -/
def sectionFails (s : State) (t : Nat) : State :=
  let s := fset s HIF_UPD_STATUS f_HIF_UPD_STATUS_FAILED 1
  if updState s = 2 then startRevert s
  else updateCheck { s with upd := { s.upd with waiting := s.upd.waiting.filter (· != t) } }

/-- The blocks that the update's sections are read from are verified: those of the staging range, where they come from there. -/
def verifySource (s : State) : Bool × State := if updState s = 5 then (true, s) else verifyStaged s

/-- A section whose bytes have passed their check applies by its path: section 1 by a warm restart, section 5 to the channels in their
windows, and in force with the last of them, any other at once (Table HST-11). -/
def applySection (s : State) (x : Section) : State :=
  if x.type = 1 then warmRestart s 4
  else if x.type = 5 then
    let s := { s with upd := { s.upd with channels := s.upd.channels ++ openChannels s } }
    if channelsDone s then forceSection s x else s
  else forceSection s x

/-- SECTION_APPLY: a waiting section applies when its path opens, in ascending TYPE among those that need not wait, its digest checked
again (R376, R387). -/
def execSectionApply (type : Fin 16) (s : State) : Host.Outcome State Fault Refusal :=
  match s.upd.waiting.contains type.val, pendingSection s type.val with
  | true, some x =>
    if blackout s || !sectionDue s type.val || s.upd.waiting.any (fun t => decide (t < type.val) && sectionDue s t) then .next s
    else
      let r := verifySource s
      .next (if r.1 && sectionOk x then applySection r.2 x else sectionFails r.2 type.val)
  | _, _ => .next s

/-- The firmware section in force passes its check again, from the flash or from the staging range that it came from (R376, R414). -/
def firmwareSound (s : State) : Bool :=
  (s.upd.inForce.find? fun p => p.1 == 1).all fun p =>
    (imageSectionList s.flash.image ++ ((stagedImage s).map imageSectionList).getD []).any fun x =>
      x.type == 1 && x.digest == p.2.1 && sectionOk x

/-- The ringmaster is back, and sends the events that waited for it (R394). -/
def restartDone (s : State) : State :=
  sendEvents (fset { s with mgr := { s.mgr with restarting := false, kickBeat := s.now } } HIF_STATUS f_HIF_STATUS_RM_BLACKOUT 0)

/-- WARM_RESTART_COMPLETE: the ringmaster is back; a section 1 that the restart applies is checked as it is loaded and then in force (R376,
R394). Firmware whose check fails is not executed: the restart does not end (R414, log entry 33). -/
def execWarmRestartComplete (s : State) : Host.Outcome State Fault Refusal :=
  if !s.mgr.restarting || fbit s MGS_STATUS f_MGS_STATUS_RM_HELD then .next s
  else
    match fget s MGS_STATUS f_MGS_STATUS_LAST_RESTART == 4 && s.upd.waiting.contains 1, pendingSection s 1 with
    | true, some x =>
      let r := verifySource s
      .next (if r.1 && sectionOk x then forceSection (restartDone r.2) x else sectionFails (restartDone r.2) 1)
    | _, _ => .next (if firmwareSound s then restartDone s else s)

/-! ### Reset and start-up (R300, R374, R383 to R385, R452) -/

/-- One more than the highest SEQ in flash (R421). -/
def nextSeq (s : State) : Nat := s.flash.log.foldl (fun n e => max n (e.seq + 1)) 0

/-- The flash's image passes its checks (R375, R376, R385): the header and the sections of one that has changed since it last passed; of
one that has not, what the fuses may have changed, and the sections. -/
def imageSound (s : State) : Bool :=
  let img := s.flash.image
  if s.flash.checked = some img then
    !s.flash.revokedEcdsa.getLsbD (imageEcdsaSlot img) && !s.flash.revokedLms.getLsbD (imageLmsSlot img) &&
      decide (s.flash.svnFuses ≤ imageSvn img) && (imageSectionList img).all sectionOk
  else imageFault s img == 0

/-- The boot begins: straps, repair map, pending hard repairs, and the recovery ROM or a lost module part where the flash's
checks fail (R221, R374, R385, R446). -/
def bootStart (s : State) : State :=
  let s := { s with
    pins := { s.pins with modrst := false, releaseWaits := false, lateReset := false }
    upd := { Update.empty with inForce := sectionsOf s.flash.image }
    mgr := { Manager.empty with kickBeat := s.now } }
  let s := { s with mgr := { s.mgr with queue := [⟨s.now, 0, .restart, true, 0, 4 * s.pins.slotId + s.pins.boardPos, 0⟩] } }
  let s := fset s MGS_LOG_WP f_MGS_LOG_WP_SEQ (nextSeq s)
  let s := fset (fset s PWR_STATE f_PWR_STATE_STATE 1) HIF_STATUS f_HIF_STATUS_BOOT_STAGE 1
  let s := fset s TBU_STATUS f_TBU_STATUS_BEAT_OK (boolNat s.pins.beatPresent)
  let s := if s.pins.beatPresent then s else enterHoldover s
  let s := fset s PWR_THROT f_PWR_THROT_ASSERTED (boolNat s.pins.throt)
  let s := fset s TBU_CTL f_TBU_CTL_PTP_LEADER (boolNat (decide (s.pins.boardPos = 0)))
  -- no port is up yet, and THROT_L may be low (Table MGT-12)
  let s := raiseAlert s f_MGS_ALERT_LINK
  let s := if s.pins.throt then raiseAlert s f_MGS_ALERT_POWER else s
  if (!s.flash.headerA && !s.flash.headerB) || !imageSound s then
    interrupt (fset s HIF_STATUS f_HIF_STATUS_RECOVERY 1) 0
  else
    match newestPart s.flash with
    | none => fset s HIF_STATUS f_HIF_STATUS_RECORD_LOST 1
    | some part =>
    let s := readPart s part.body
    let s := (List.finRange 48).foldl applyTileMasks s
    let hard := fun (s : State) (x : Nat × Nat × Nat × Nat) =>
      let k := 64 * x.2.1 + x.2.2.1
      let d := mapGet Dev.empty s.devs x.1
      { s with devs := mapSet Dev.empty s.devs x.1 { d with
        used := mapSet 0 d.used k (mapGet 0 d.used k + 1), fused := d.fused ++ [(k, x.2.2.2)] } }
    let pend := s.flash.repairList
    let s := if pend.isEmpty then s else writePart (pend.foldl hard { s with flash := { s.flash with repairList := [] } })
    showRetired s

/-- MODRST_L_ASSERT: every tile stops and all contents are lost. A shutdown runs on (R452). -/
def execModrstAssert (s : State) : Host.Outcome State Fault Refusal :=
  if s.pwr.shutdownStage ≠ 0 ∨ !s.pwr.applied then
    .next { s with pins := { s.pins with
      modrst := true, releaseWaits := false, pgood := false, lateReset := s.pins.lateReset || !s.pins.modrst } }
  else
    let c := coldState s
    .next { c with pins := { c.pins with modrst := true }, pwr := { Power.off with applied := true } }

/-- MODRST_L_RELEASE: the straps are sampled and the boot starts, at STANDBY where a shutdown still runs (R300, R452). -/
def execModrstRelease (boardPos : BitVec 2) (slotId : BitVec 3) (s : State) : Host.Outcome State Fault Refusal :=
  if !s.pins.modrst then .next s
  else
    let s := { s with pins := { s.pins with boardPos := boardPos.toNat, slotId := slotId.toNat, jtagOut := [] } }
    if !s.pwr.applied then .next { s with pins := { s.pins with modrst := false } }
    else if s.pwr.shutdownStage ≠ 0 then .next { s with pins := { s.pins with releaseWaits := true } }
    else .next (bootStart s)

/-- STANDBY_REACHED: the shutdown ends; a MODRST_L pulse during it takes effect now (R413, R452). -/
def execStandbyReached (s : State) : Host.Outcome State Fault Refusal :=
  if s.pwr.shutdownStage ≠ 3 then .next s
  else if s.pins.modrst then
    let waits := s.pins.releaseWaits
    let c := { coldState s with pwr := { Power.off with applied := true } }
    .next (if waits then bootStart c else c)
  else .next (standbyState s)

/-- After a full training the module part holds the results of every channel, with the identities that the devices now tell (R383). -/
def storeTraining (s : State) : State :=
  let ids := (List.range 72).foldl (fun m d => mapSet 0 m d (mapGet Dev.empty s.devs d).identity) []
  writePart { s with flash := { s.flash with untrained := [], identities := ids } }

/-- READY: the end of start-up (R384); the vertical links are selected and the usable peak is computed (R10, R14). A channel
without stored results, one whose device has another identity than the one stored with them, or one of `failed`, whose read-write check
fails, is trained in full, and new results are kept after READY (R383). -/
def execReady (ms : BitVec 32) (failed : List (Nat × Nat)) (s : State) : Host.Outcome State Fault Refusal :=
  if fget s PWR_STATE f_PWR_STATE_STATE ≠ 1 || fbit s HIF_STATUS f_HIF_STATUS_RECOVERY ||
      fbit s HIF_STATUS f_HIF_STATUS_RECORD_LOST || s.pwr.shutdownStage ≠ 0 then .next s
  else
    let cold := !failed.isEmpty || trainsCold s
    let s := if sectionInForce s 8 then applyGrants (applyPolicy s) else s
    let s := fset (fset s HIF_STATUS f_HIF_STATUS_BOOT_STAGE 6) HIF_STATUS f_HIF_STATUS_BOOT_MS ms.toNat
    let s := fset (fset s HIF_STATUS f_HIF_STATUS_COLD_TRAINED (boolNat cold)) HIF_STATUS f_HIF_STATUS_READY 1
    let s := fset { s with pins := { s.pins with pgood := true } } PWR_STATE f_PWR_STATE_STATE 2
    let s := sendEvents (interrupt (selectVertical (computePeak s)) 0)
    .next (if cold then storeTraining s else s)

/-- PERST: an assertion resets the link and the configuration space of its own port, so MSI-X there is disabled (R363). -/
def execPerst (port : Fin 2) (s : State) : Host.Outcome State Fault Refusal :=
  .next { fset s HIF_STATUS (portBit port) 0 with pins := { s.pins with msix := setNth s.pins.msix port.val false } }

/-- FLASH_IMAGE_WRITE_COMPLETE: the image is written and checked as it stands in flash, then headers A and B are written; SVN fuses
are blown where BURN_SVN asks, but not by the recovery ROM, which writes under R385, and STATE is IDLE (R389, R391). The recovery ROM then restarts the module (R385). An image that fails
the check fails the update, and the boot headers stay erased (R376). -/
def execFlashImageWriteComplete (s : State) : Host.Outcome State Fault Refusal :=
  match updState s, stagedImage s with
  | 4, some img =>
    let r := verifyStaged s
    let s := r.2
    let ok := r.1 && imageFault s img == 0
    let burn := ok && fbit s HIF_UPD_CTL f_HIF_UPD_CTL_BURN_SVN && !fbit s HIF_STATUS f_HIF_STATUS_RECOVERY
    let f := { s.flash with
      image := img, headerA := ok, headerB := ok, checked := if ok then some img else none
      svnFuses := if burn then max s.flash.svnFuses (imageSvn img) else s.flash.svnFuses }
    let s := setUpdState { s with flash := f, upd := { s.upd with staged := none } } 0
    if !ok then .next (fset s HIF_UPD_STATUS f_HIF_UPD_STATUS_FAILED 1)
    else if fbit s HIF_STATUS f_HIF_STATUS_RECOVERY then .next (bootStart { coldState s with pwr := { Power.off with applied := true } })
    else .next s
  | _, _ => .next s

end Sys2Proof.Machine
end

