-- ==== Sys2Proof/Machine/JobLoad.lean ====
section
/-! DEFINITION. Job loads and resume loads: what the module checks of a job image and what it writes (R23, R24, R33, R43, R79, R94,
R129, R198, R258, R267, R275, R276, R294, R331, R332, R340). -/

namespace Sys2Proof.Machine

/-! ### The image -/

/-- The job that an image describes. -/
def jobOf (img : JobImage) : Job :=
  { loaded := true, digest := img.digest, stateDigest := img.stateDigest, mapChanged := false, tiles := img.tiles
    tensors := img.tensors.map parseTensor, tensorTile := img.tensorTile.map fun p => (p.1, p.2.val), meshes := img.meshes
    modules := img.modules, pinned := img.pinned, widths := img.widths }

/-- Module registers that a job load writes from the image: HBM_MODE, the SCU's, the step settings, LNK_JOB and LNK_PEER_BASE,
VID_DPB_BASE and HIF_UPD_STAGE (R209, R276, R386 and the text of the register tables). -/
def moduleSettings : List Nat :=
  [HBM_MODE, SCU_CTL, SCU_TABLE_BASE, SCU_QUAR_BASE, SCU_LAYOUT_BASE, INF_LS_CTL, INF_LS_STATE, INF_SEED, INF_FSTATE_BASE,
    INF_NORM_BASE, INF_NORM_CTL, INF_STEP_ADDR, INF_SCHED_BASE, INF_SCHED_LEN, LNK_JOB, LNK_PEER_BASE, VID_DPB_BASE,
    HIF_UPD_STAGE] ++ (List.range 16).flatMap fun n => [SCU_POOL_BASE n, SCU_POOL_CTL n]

/-- A register that a job load writes: one of the module's, CAD_NC0 to CAD_NC7 of a tile, or INF_ULIST_BASE or INF_CKPT_STAGE of a
base die. -/
def jobSetting (a : Nat) : Bool :=
  moduleSettings.contains a ||
  (decide (a < 0x600000) && decide (0x640 ≤ a % 0x20000 ∧ a % 0x20000 < 0x680)) ||
  (decide (0x800000 ≤ a ∧ a < 0x818000) && (a % 0x1000 == 0x200 || a % 0x1000 == 0x228))

/-- Registers that a resume load leaves unchanged though a job load writes them: the loss scale and the seed, and what places the SCU's
pools and quarantine (R331). -/
def resumeKeeps (a : Nat) : Bool :=
  ([INF_LS_STATE, INF_SEED, SCU_QUAR_BASE] ++ (List.range 16).flatMap fun n => [SCU_POOL_BASE n, SCU_POOL_CTL n]).contains a

/-- The RW fields of a register take a value. -/
def writeRw (s : State) (a v : Nat) : State :=
  match regRow a with
  | some r => s.setReg a ((r.fields.filter fun f => f.access == .rw).foldl (fun o f => putBits o f.lo f.width (bitsAt v f.lo f.width))
      (s.reg a))
  | none => s

/-- The settings and scratchpad steps of an image; a resume load keeps what R331 names. -/
def applySettings (s : State) (img : JobImage) (resume : Bool) : State :=
  let ws := img.settings.filter fun p => jobSetting p.1 && !(resume && resumeKeeps p.1)
  let s := ws.foldl (fun s p => writeRw s p.1 p.2.toNat) s
  img.scratch.foldl (fun s p => fset s (CAD_PART p.1.val) f_CAD_PART_SCRATCH_STEPS p.2) s

/-- The value an image gives a setting. -/
def settingOf (img : JobImage) (a : Nat) : Nat := ((img.settings.find? fun p => p.1 == a).map fun p => p.2.toNat).getD 0

/-- The tile whose scratchpad or operand store holds an address. -/
def tileAt (a : Nat) : Option Nat :=
  match spaceOf a with
  | .scratch => some ((a - 0x200000000000) / 2 ^ 28)
  | .operand => some ((a - 0x210000000000) / 2 ^ 26)
  | _ => none

/-- The tile one of whose registers has an offset. -/
def tileOfReg (a : Nat) : Option Nat := if a < 0x600000 then some (a / 0x20000) else none

/-- The logical tiles that an image uses: its owning tiles, and those of its code, scratchpads, tensors, preloads, pinned weights, phases,
settings and initial contexts (R9, R23, R173, R267). -/
def tilesNamed (img : JobImage) : BitVec 48 :=
  let at_ := img.preloads.filterMap (fun p => tileAt p.1) ++ img.pinned.flatMap fun p => [p.dest, p.scale].filterMap tileAt
  let others := img.settings.filterMap (fun p => tileOfReg p.1) ++ img.contexts.map fun c => (ownerOf c.1).val
  (img.code.map (fun p => p.1.tile.val) ++ img.scratch.map (·.1.val) ++ img.tensorTile.map (·.2.val) ++ at_ ++ others).foldl
    (fun m t => m ||| BitVec.ofNat 48 (2 ^ t)) (img.carousel.foldl (fun m e => m ||| e.tiles) img.tiles)

/-- The digest of the module's repair map (R23, R224). -/
def currentDigest (s : State) : BitVec 32 :=
  Config.repairDigest s.repair.retired s.repair.failed s.repair.failing s.repair.bypass s.repair.badPages

/-! ### What a load rejects -/

/-- One carousel entry (R43). -/
def entryLoadOk (s : State) (e : PhaseEntry) : Bool :=
  (e.deadline == 0xFFFFFFFF || decide (e.earliest.toNat < e.deadline.toNat)) && e.tiles != 0 &&
    (e.tiles &&& s.repair.failed) == 0 && decide (e.flags.toNat < 8) && e.reserved == 0

/-- The carousel (R43, R267) of at most 4,096 entries. -/
def carouselOk (s : State) (img : JobImage) : Bool :=
  img.period != 0 && decide (img.carousel.length ≤ 4096) && img.carousel.all (entryLoadOk s) &&
  match (img.carousel.zipIdx.filter fun e => isCommit e.1) with
  | [(e, i)] => i != 0 && (e.tiles &&& tilesNamed img) == tilesNamed img
  | _ => false

/-- The records and the gradient of an update entry, as stack ranges. -/
def entryRecords (e : UEntry) : Nat × Nat := (e.recordAddr, 512 * e.records)
def entryGradient (e : UEntry) : Nat × Nat := (e.gradAddr, (if e.bf16 then 64 else 128) * e.records)

/-- Reserved bits and codes and non-finite factors of an update entry (R276, R278). -/
def entryBitsOk (b : List Byte) : Bool :=
  let e := parseEntry b
  b.length == 64 && e.rule != 3 && field b 2 1 / 8 == 0 && field b 3 1 == 0 && e.records != 0 &&
  field b 8 8 == e.recordAddr && field b 16 8 == e.gradAddr && field b 54 2 == 0 && field b 60 4 == 0 &&
  [e.lr, e.beta1, e.beta2, e.eps, e.wd, e.clipMax].all Val.isFin

/-- The update list that an image gives a base die. -/
def listOf (img : JobImage) (h : StackId) : List (List Byte) := ((img.lists.find? fun l => l.1 == h).map (·.2)).getD []

/-- A base die's update list, and its staging area, which every base die has (Table STP-8, R289, R290). -/
def listOk (s : State) (img : JobImage) (h : StackId) (bs : List (List Byte)) : Bool :=
  let es := bs.map parseEntry
  let stage := settingOf img (INF_CKPT_STAGE h.val)
  let size := 2 ^ 24 + 512 * (es.map (·.records)).sum
  decide (bs.length < 65536) && bs.all entryBitsOk &&
  (es.zipIdx.all fun e =>
    let r := entryRecords e.1
    let g := entryGradient e.1
    stackLocal s r.1 r.2 && !overlap r.1 r.2 g.1 g.2 &&
    (es.zipIdx.all fun f => f.2 == e.2 || !overlap r.1 r.2 (entryRecords f.1).1 (entryRecords f.1).2) &&
    (e.1.clipSlot == 0xFFFF || decide (e.1.clipSlot < normSlots s))) &&
  (bs.isEmpty || fget s INF_SCHED_LEN f_INF_SCHED_LEN_LEN != 0) && stage % 512 == 0 && spaceOf stage == .deep &&
  spaceOf (stage + size - 1) == .deep && (stage - 0x100000000000) / 2 ^ 36 == (stage + size - 1 - 0x100000000000) / 2 ^ 36

/-- The loss-scale settings (R269). -/
def lossScaleOk (s : State) : Bool :=
  let lo := signed 8 (fget s INF_LS_CTL f_INF_LS_CTL_MIN_EXP)
  let hi := signed 8 (fget s INF_LS_CTL f_INF_LS_CTL_MAX_EXP)
  let e := signed 8 (fget s INF_LS_STATE f_INF_LS_STATE_EXP)
  decide (lo ≤ e ∧ e ≤ hi) && fget s INF_LS_CTL f_INF_LS_CTL_CLEAN_RUN != 0

/-- A format state record (R258, Table NUM-5). -/
def formatOk (b : List Byte) : Bool :=
  bitsAt (field b 0 1) 0 2 != 3 && field b 0 1 / 32 == 0 && field b 1 1 != 0x80

/-- The conditions of Table STP-8, R267 apart. -/
def stepOk (s : State) (img : JobImage) : Bool :=
  ((List.finRange 24).all fun h => listOk s img h (listOf img h)) && (img.formats.all fun f => formatOk f.2) && lossScaleOk s

/-- Everything that an image writes lies where the module maps memory, and its code fits the instruction RAM. -/
def placesOk (s : State) (img : JobImage) : Bool :=
  (img.preloads.all fun p => rangeMapped s .other p.1 p.2.length && !rangeRetired s p.1 p.2.length) &&
  (img.code.all fun p => decide (p.2.length ≤ 32768)) && (img.scratch.all fun p => decide (p.2 ≤ 16)) &&
  (img.formats.all fun f => f.2.length == 128) && (img.contexts.all fun c => c.2.length == 64)

/-- The module as it would stand under an image, for the checks. -/
def candidate (s : State) (img : JobImage) (resume : Bool) : State := { applySettings s img resume with job := jobOf img }

/-- The digests of a resume load (R332). -/
def resumeOk (s : State) (img : JobImage) : Bool :=
  img.stateDigest == s.job.stateDigest &&
    (img.digest == currentDigest s || (img.digest == s.job.digest && !s.job.mapChanged))

/-- The DETAIL with which a load is rejected, 0 where it is accepted (R23, R43, R129, R294, R332, Table HST-6). Where several
conditions hold, the first in the order 8, 1, 2, 7, 3, 4, 5, 6 is reported (DESIGN CHOICE, log entry 69). -/
def loadFault (s : State) (img : JobImage) (resume : Bool) : Nat :=
  let c := candidate s img resume
  if !img.readable then 8
  else if img.order ≠ 0x4836 ∨ img.modRev ≠ 2 then 1
  else if !resume && img.digest != currentDigest s then 2
  else if resume && !resumeOk s img then 7
  else if (tilesNamed img &&& s.repair.failed) ≠ 0 then 3
  else if !(img.meshes.all (meshOk c)) || decide (16 < img.meshes.length) || !(img.tensors.all (tensorLoadOk c)) then 4
  else if !carouselOk s img then 5
  else if !stepOk c img then 6
  else if !placesOk c img then 8
  else 0

/-! ### What a load clears -/

/-- Tile and core registers that a load clears: TL_PFAULT, TL_IDX_FAULT, TL_IDX_COORD, TL_IDX_SKIP, TL_INTEG, TL_PRECOND,
TL_COLL_FAULT, SCU_FAULT, SCU_FAULT_CTX, SCU_EMPTY_ROWS, CAD_PERR, DMA_FLAGS, DMA_IRQ, CR_NUM_FLAGS and the NaN trap record, and of
the base dies INF_FROZEN, INF_BAD_LANES and, at a job load, INF_CKPT_FWD (part of the capture state, R331). -/
def clearedAtLoad (resume : Bool) (a : Nat) : Bool :=
  if a < 0x600000 then
    if a % 0x20000 < 0x10000 then
      [0x408, 0x410, 0x418, 0x420, 0x428, 0x438, 0x440, 0x500, 0x508, 0x518, 0x608, 0x800, 0x810].contains (a % 0x20000)
    else [0x300, 0x310, 0x318, 0x320, 0x328, 0x330].contains (a % 0x1000)
  else decide (0x800000 ≤ a ∧ a < 0x818000) && ([0x218, 0x220].contains (a % 0x1000) || (!resume && a % 0x1000 == 0x238))

/-- Every channel of the module. -/
def allChannels : List Engine :=
  (List.finRange 48).flatMap (fun t => (List.finRange 32).map fun c => Engine.tile t c) ++
  (List.finRange 24).flatMap (fun h => (List.finRange 4).map fun c => Engine.die h c) ++
  (List.finRange 64).map Engine.host

/-- A register that some write has changed. -/
def listed (s : State) (a : Nat) : Bool := s.regs.any fun p => p.1 == a

/-- Every HALTED bit and DONE count is cleared; channels 0 to 15 of a tile lose what they executed for the job before (R33, R331). -/
def clearChannels (s : State) : State :=
  let s := (allChannels.filter fun e => listed s (chState e) || listed s (chProgress e)).foldl (fun s e =>
    let s := fset (fset s (chState e) f_DMA_CH_STATE_HALTED 0) (chProgress e) f_DMA_CH_PROGRESS_DONE 0
    match chCore e with
    | some _ => chBusy s e false 0
    | none => s) s
  { s with chans := s.chans.filter fun p => !(decide (p.1 < 1536) && decide (p.1 % 32 < 16)) }

/-- A request of the job before that waits for a port: those of tile channels 0 to 15, their abort records and SCU result words. -/
def jobWait (w : HostWait) : Bool :=
  match w.what with
  | .channel e => (chCore e).isSome
  | .abortRecord .. | .result .. => true
  | _ => false

/-- Registers and transient state that every load clears (R33, R71, R79). -/
def clearForLoad (s : State) (resume : Bool) : State :=
  let s := clearChannels (dropWaits { s with regs := s.regs.filter fun p => !clearedAtLoad resume p.1 } jobWait)
  let s := { s with
    tiles := []
    mesh := []
    vid := Turnstile.empty
    links := { s.links with credits := [], early := [] } }
  s.setReg VID_BUSY 0

/-! ### What a load writes -/

/-- Key ranges of memory become +0 with valid envelopes. -/
def zeroKeys (s : State) (lo hi : Nat) : State :=
  let hit := fun (k : Nat) => decide (lo ≤ k ∧ k < hi)
  { s with mem := s.mem.filter fun p => !hit p.1, env := s.env.filter fun p => !hit (p.1 * 512)
           errs := s.errs.filter fun e => !(e.kind.overwritten && hit (e.block * 512)) }

/-- Steps that turn from cache into scratchpad read +0 (R198). -/
def zeroSteps (old s : State) : State :=
  (List.range 48).foldl (fun s t =>
    if scratchBytes old t < scratchBytes s t then
      zeroKeys s (0x200000000000 + t * 2 ^ 28 + scratchBytes old t) (0x200000000000 + t * 2 ^ 28 + scratchBytes s t)
    else s) s

/-- Sequencers: a core with code starts at its first instruction; every other one is stopped (R24). -/
def startCores (s : State) (img : JobImage) : State :=
  let stopped := { s with seqs := s.seqs.map fun p => (p.1, { Seq.empty with code := p.2.code }) }
  img.code.foldl (fun s p => s.setSeq p.1 { Seq.empty with status := .running, code := p.2 }) stopped

/-- The records of an update list begin at these mirror positions, the total last (R337). -/
def mirrorStarts (bs : List (List Byte)) : List Nat :=
  bs.foldl (fun l b => l ++ [l.getLastD 0 + (parseEntry b).records]) [0]

/-- Write a base die's update list (R276); a capture of the job before is cancelled. -/
def writeList (img : JobImage) (s : State) (h : StackId) : State :=
  let bs := listOf img h
  let s := fset s (INF_ULIST_COUNT h.val) f_INF_ULIST_COUNT_COUNT bs.length
  let s := bs.zipIdx.foldl (fun s b => writeStack s h (ulistBase s h + 64 * b.2) b.1) s
  refreshBusy (s.setDie h { Die.empty with starts := mirrorStarts bs }) h

/-- A pool holds the groups that the image places in its ring; LOW follows FREE from here on (Table ATT-12). -/
def fillPool (s : State) (p : Nat × Nat) : State :=
  let s := { s with pools := mapSet (0, 0) s.pools p.1 (0, p.2) }
  fset (fset s (SCU_POOL_FREE p.1) f_SCU_POOL_FREE_FREE p.2) (SCU_POOL_FREE p.1) f_SCU_POOL_FREE_LOW p.2

/-- What both kinds of load write: settings, caches and scratchpads, preloads, instruction RAMs, bypass masks and the phase
table (R24, R94, R198). -/
def loadCommon (s : State) (img : JobImage) (resume : Bool) : State :=
  let t := zeroSteps s (applySettings (clearForLoad s resume) img resume)
  let t := img.preloads.foldl (fun s p => writeBytes s .other p.1 p.2 false) t
  let t := (List.finRange 48).foldl applyTileMasks (startCores t img)
  { t with job := jobOf img, car := { t.car with entries := img.carousel, records := [], declared := [], startStep := none } }

/-- A capture in progress is cancelled by a new job. -/
def cancelCapture (s : State) : State :=
  if fbit s INF_CKPT_STATUS f_INF_CKPT_STATUS_ACTIVE then
    fset (fset s INF_CKPT_STATUS f_INF_CKPT_STATUS_ACTIVE 0) INF_CKPT_STATUS f_INF_CKPT_STATUS_CANCELLED 1
  else s

/-- A job load (R23, R24, R258, R276): the tables of the image, empty slices and pools as the image places them, step 0 next. -/
def loadJob (s : State) (img : JobImage) : State :=
  let s := cancelCapture (loadCommon s img false)
  let s := { s with slices := [], moves := [], pools := []
                    stp := { StepCtl.empty with exp := signed 8 (fget s INF_LS_STATE f_INF_LS_STATE_EXP) } }
  let s := (List.finRange 48).foldl refreshQstat s
  let s := (List.range 16).foldl (fun s p => fillPool s (p, ((img.pools.find? fun q => q.1 == p).map (·.2)).getD 0)) s
  let s := (List.finRange 24).foldl (writeList img) s
  let s := img.formats.foldl (fun s f => writeBytes s .other (formatAddr s f.1) f.2 false) s
  let s := img.contexts.foldl (fun s c => writeBytes s .other (ctxAddr s c.1) c.2 false) s
  let s := fset (fset s INF_STATUS f_INF_STATUS_VERDICT_WAIT 0) TBU_STEP_PERIOD f_TBU_STEP_PERIOD_PERIOD img.period.toNat
  showUpdate (fset s TBU_RESTART f_TBU_RESTART_STEP 0)

/-- The address of a run's record r. -/
def pinnedRecord (p : Pinned) (r : Nat) : Nat := p.stack.val * 2 ^ 36 + p.offset + 512 * r

/-- The format into which record r of a run is converted: its FWD_FMT, or the image's where that is a reserved code (R275, log entry
94). -/
def pinnedFmt (s : State) (p : Pinned) (r : Nat) : Nat :=
  let c := bitsAt (readNat s .other (pinnedRecord p r + 6) 1) 0 4
  if (fmtOf c).isSome then c else p.fmt.toNat

/-- The 32 weights of a record as elements of the pinned run, in a format, from `off` bytes of the run on (R275). -/
def pinnedGroup (p : Pinned) (fmt r off : Nat) : Group :=
  { elems := (List.range 32).map fun j =>
      { src := .at_ (pinnedRecord p r + 64) j 0, dst := [(p.dest + off, j)], real := true, pad := false }
    scales := if isMx fmt then [p.scale + r] else [] }

/-- The flags of a run's conversion, and its saturations, go where those of a transfer of the tile whose memory takes the weights go (R71,
R239, log entry 94). -/
def pinnedFlags (s : State) (p : Pinned) (fl : Flags) : State :=
  match (tileAt p.dest).bind tileOf? with
  | some t => dmaFlags s (.tile t 28) fl
  | none => s

/-- Convert one run of pinned weights again from its parameter records, each into its FWD_FMT under the tensor's policy (R239, R275,
R331). A poisoned record, or format state, poisons what depends on it (R255). The format state table stays, so no amax is recorded
(R331). -/
def convertPinned (s : State) (p : Pinned) : State :=
  let v := verifyRange s .other (pinnedRecord p 0) (512 * p.records)
  let f := verifyFormat v.2 p.tensor.toNat
  let bad := if f.1.isEmpty then v.1 else (blocksOf (pinnedRecord p 0) (512 * p.records)).map fun b => (b, 1)
  let rec_ := formatRecord f.2 p.tensor.toNat
  let made := (List.range p.records).foldl (fun (m : Made × State × Nat) r =>
    let fmt := pinnedFmt f.2 p r
    let pol := policyOf rec_ (fmtAt fmt)
    let g := pinnedGroup p fmt r m.2.2
    let x := getElems m.2.1 .other 10 false bad [] (g.elems.map (·.src))
    let made := if isMx fmt then makeBlock fmt false pol g x.1
      else (g.elems.zip x.1).foldl (fun a e => a.or (makeFloat fmt false e.1 e.2)) Made.none
    (m.1.or made, x.2, m.2.2 + packedBytes fmt 32)) (Made.none, f.2, 0)
  writePuts (pinnedFlags made.2.1 p made.1.fl) .other made.1.puts

/-- A slice after a resume load: its walkers have ended with their descriptors, and a command that waited in it is gone; quarantine
and moves stand (R331). -/
def resumeSlice (x : Slice) : Slice := { x with walkers := [], stalled := x.stalled.filter fun n => decide (768 ≤ n) }

/-- A resume load (R331). -/
def resumeLoad (s : State) (img : JobImage) : State :=
  let s := loadCommon s img true
  let s := { s with slices := s.slices.map fun p => (p.1, resumeSlice p.2)
                    moves := s.moves.map fun m => { m with core := 768 } }
  img.pinned.foldl convertPinned ((List.finRange 48).foldl refreshQstat s)

end Sys2Proof.Machine
end

