-- ==== Sys2Proof/Machine/Rings.lean ====
section
/-! DEFINITION. The host rings and their commands (R363, R365 to R373, R386 to R391, R394; Tables HST-3 to HST-8). -/

namespace Sys2Proof.Machine

/-! ### Doorbells and ring control (R365, R368, R370) -/

/-- The host interface takes writes (R365). -/
def hostReady (s : State) : Bool := fbit s HIF_STATUS f_HIF_STATUS_READY

/-- SQ_DOORBELL: the last TAIL written is stored, whether or not the ring is enabled (R366, R368). -/
def execSqDoorbell (q : RingId) (tail : BitVec 16) (s : State) : Host.Outcome State Fault Refusal :=
  if hostReady s then .next (s.setRing q { s.ring q with tail := tail.toNat }) else .next s

/-- CQ_DOORBELL: the host has released the records before HEAD; a record that waited is written (R369). -/
def execCqDoorbell (q : RingId) (head : BitVec 16) (s : State) : Host.Outcome State Fault Refusal :=
  if hostReady s then
    let moved := head.toNat ≠ (s.ring q).cqHead
    let s := s.setRing q { s.ring q with cqHead := head.toNat }
    .next (flushRing (if moved then fset s (HIF_CQ_CTL q.val) f_HIF_CQ_CTL_FULL 0 else s) q)
  else .next s

/-- A write of HIF_SQ_CTL: ENABLE set again clears STOPPED (R370). -/
def writeSqCtl (s : State) (q : RingId) (v : Nat) : State :=
  let r := HIF_SQ_CTL q.val
  let was := fbit s r f_HIF_SQ_CTL_ENABLE
  let s := fset (fset s r f_HIF_SQ_CTL_LOG2_ENTRIES (bitsAt v 0 5)) r f_HIF_SQ_CTL_ENABLE (bitsAt v 8 1)
  let s := if bitAt v 8 || (s.ring q).cur.isSome then s else dropWaits s fun w => w.what == .ring q
  if !was && bitAt v 8 then fset s r f_HIF_SQ_CTL_STOPPED 0 else s

/-- RING_ENABLE: the host writes a ring's HIF_SQ_CTL (R368, R370). -/
def execRingEnable (q : RingId) (value : Word) (s : State) : Host.Outcome State Fault Refusal :=
  if hostReady s then .next (writeSqCtl s q value.toNat) else .next s

/-! ### Fetching (R366, R367, R370) -/

/-- The ring has a command that it may fetch; while its completion ring is full its commands wait (R369). -/
def fetchable (s : State) (q : RingId) : Bool :=
  let r := HIF_SQ_CTL q.val
  hostReady s && fbit s r f_HIF_SQ_CTL_ENABLE && !fbit s r f_HIF_SQ_CTL_STOPPED && sqSize s q != 0 && (s.ring q).cur.isNone &&
    !fbit s (HIF_CQ_CTL q.val) f_HIF_CQ_CTL_FULL &&
    fget s r f_HIF_SQ_CTL_HEAD != (s.ring q).tail % sqSize s q

/-- A failed command read stops the ring; HEAD names the command (R370). -/
def stopRing (s : State) (q : RingId) : State := interrupt (fset s (HIF_SQ_CTL q.val) f_HIF_SQ_CTL_STOPPED 1) 7

/-- ARG0 of a command. -/
def arg0 (cmd : List Byte) : Nat := field cmd 24 8
/-- ADDR and SIZE of a command. -/
def cmdAddr (cmd : List Byte) : Nat := bitsAt (field cmd 8 8) 0 56
def cmdSize (cmd : List Byte) : Nat := field cmd 16 8

/-- An argument of a command is out of range: the byte offset of its field (Table HST-4). -/
def badArgument (s : State) (cmd : List Byte) : Option Nat :=
  let a := cmdAddr cmd
  let arg := arg0 cmd
  match field cmd 0 1 with
  | 2 =>
    if spaceOf a != .host || a % 64 != 0 then some 8
    else if arg ≥ 48 ∧ arg ≠ 0xFF then some 24 else none
  | 3 | 4 => if arg ≥ 4096 then some 24 else none
  | 5 =>
    if cmdSize cmd = 0 then some 16
    else if !rangeMapped s .other a (cmdSize cmd) then some 8
    else if arg ≥ 4096 then some 24 else none
  | 6 => if arg ≥ 1024 then some 24 else none
  | 7 => if cmdSize cmd > 2 ^ 28 then some 16 else none
  | 8 => if arg ≥ 4 then some 24 else none
  | _ => none

/-- The byte offset of a command's first faulty field (Tables HST-3 and HST-6). -/
def badField (s : State) (cmd : List Byte) : Option Nat :=
  let op := field cmd 0 1
  if op > 8 then some 0
  else if field cmd 1 1 ≥ 4 ∨ (field cmd 1 1 % 2 = 1 ∧ op ≠ 1) then some 1
  else if field cmd 4 4 ≠ 0 then some 4
  else if field cmd 15 1 ≠ 0 then some 8
  else
    match badArgument s cmd with
    | some n => some n
    | none => if field cmd 32 32 ≠ 0 then some 32 else none

/-- COMMAND_FETCH: the ring fetches the command at HEAD; one with a faulty field completes with BAD_COMMAND. `failed` says that
the read returned an error completion or poisoned data (R370). -/
def execCommandFetch (q : RingId) (failed : Bool) (s : State) : Host.Outcome State Fault Refusal :=
  if !fetchable s q then .next s
  else
    let r := HIF_SQ_CTL q.val
    let head := fget s r f_HIF_SQ_CTL_HEAD
    let a := ringAddr s (HIF_SQ_BASE q.val) + 64 * head
    if hostDown s a then .next (waitLink s (hostPort a) (.ring q))
    else if failed then .next (stopRing s q)
    else
      let cmd := readBytes s .other a 64
      let s := fset s r f_HIF_SQ_CTL_HEAD ((head + 1) % sqSize s q)
      let s := s.setRing q { s.ring q with cur := some cmd, waiting := none }
      match badField s cmd with
      | some n => .next (completeRing s q 1 n 0)
      | none => .next s

/-- CQ_TIMER_EXPIRE: TIME after the first record not yet announced, while IRQ_EN is set (R372). -/
def execCqTimerExpire (q : RingId) (s : State) : Host.Outcome State Fault Refusal :=
  let r := s.ring q
  let t := fget s (HIF_CQ_MOD q.val) f_HIF_CQ_MOD_TIME
  if r.unannounced = 0 ∨ t = 0 ∨ !fbit s (HIF_CQ_CTL q.val) f_HIF_CQ_CTL_IRQ_EN ∨ s.now < r.firstBeat + 100 * t then .next s else .next (announce s q)

/-! ### Commands -/

/-- The command in execution of a ring, of an opcode. -/
def command (s : State) (q : RingId) (op : Nat) : Option (List Byte) :=
  if (s.ring q).waiting.isSome then none else (s.ring q).cur.filter fun c => field c 0 1 == op

/-- RESUME of a command. -/
def isResume (cmd : List Byte) : Bool := bitAt (field cmd 1 1) 0

/-- NOP: completes at once (Table HST-4). -/
def execNop (q : RingId) (s : State) : Host.Outcome State Fault Refusal :=
  match command s q 0 with
  | some _ => .next (completeRing s q 0 0 0)
  | none => .next s

/-- A ring's command has moved bytes on host channel r, whose PROGRESS shows them (R235, R367). -/
def ringMoved (s : State) (q : RingId) (bytes : Nat) : State :=
  fset s (chProgress (.host q)) f_DMA_CH_PROGRESS_BYTES bytes

/-- A ring's command that needs its host channel, halted by an abort, completes with that abort (R236, R367). -/
def haltedRing (s : State) (q : RingId) : State :=
  completeRing s q 4 (bitsAt (s.reg (chAbort (.host q))) 32 32) (s.reg (chAbort (.host q)))

/-- What a LOAD_JOB does once its image is fetched: it completes with DONE after every write, or with REJECTED before any (R371). -/
def runLoad (s : State) (q : RingId) (cmd : List Byte) (img : JobImage) (resume : Bool) : State :=
  let a := cmdAddr cmd
  if hostDown s a then waitLink s (hostPort a) (.ring q)
  else if !rangeMapped s .other a (cmdSize cmd) || rangeRetired s a (cmdSize cmd) then completeRing s q 3 8 0
  else
    let f := loadFault s img resume
    let s := ringMoved s q (cmdSize cmd)
    if f ≠ 0 then completeRing s q 3 f 0
    else completeRing (if resume then resumeLoad s img else loadJob s img) q 0 0 0

/-- LOAD_JOB: a job load, while the carousel is idle (R23, R24); a halt of the host channel, which a job load ends, does not hold it
(log entry 90). It waits in a blackout (R394) and in a module whose state is not
IDLE_READY (log entry 25). -/
def execLoadJob (q : RingId) (img : JobImage) (s : State) : Host.Outcome State Fault Refusal :=
  match (command s q 1).filter fun c => !isResume c with
  | some cmd =>
    if blackout s then .next s
    else if !fbit s TBU_STATUS f_TBU_STATUS_CAROUSEL_IDLE then .next (completeRing s q 2 1 0)
    else if fget s PWR_STATE f_PWR_STATE_STATE ≠ 2 then .next s
    else .next (runLoad s q cmd img false)
  | none => .next s

/-- RESUME_LOAD: LOAD_JOB with RESUME, while the carousel is held (R331, R332). -/
def execResumeLoad (q : RingId) (img : JobImage) (s : State) : Host.Outcome State Fault Refusal :=
  match (command s q 1).filter isResume with
  | some cmd =>
    if blackout s then .next s
    else if !held s then .next (completeRing s q 2 2 0)
    else .next (runLoad s q cmd img true)
  | none => .next s

/-- COPY: host channel r starts the chain at ADDR. It completes when its last descriptor does (R367, R371); a channel that an abort
has halted discards the chain, and the COPY completes with that abort (R236). -/
def execCopy (q : RingId) (s : State) : Host.Outcome State Fault Refusal :=
  match command s q 2 with
  | some cmd =>
    let e : Engine := .host q
    let c := s.chan e
    if chHalted s e then .next (haltedRing s q)
    else if c.cur.isSome || c.next.isSome then .next s
    else
      let t := arg0 cmd
      .next (fetchDesc (s.setChan e { Chan.empty with pulseTile := if t = 0xFF then none else some t }) e (cmdAddr cmd))
  | none => .next s

/-! ### Queue pairs and regions (R373) -/

/-- A fault of the data that a command moves on its host channel (R196, R367, R469). -/
def commandAbort (s : State) (q : RingId) (cause : Nat) (cmd : List Byte) : State :=
  abortChannel s (.host q) cause 0 (cmdAddr cmd)

/-- Reserved codes and bits of a queue-pair record (Table HST-8). -/
def qpRecordOk (b : List Byte) : Bool :=
  decide (field b 0 1 ≤ 4) && field b 1 1 / 16 == 0 && field b 2 1 / 8 == 0 &&
  decide (1 ≤ field b 3 1 ∧ field b 3 1 ≤ 31) && field b 7 1 == 0 && field b 11 1 == 0 && field b 15 1 == 0 && field b 32 32 == 0

/-- The transitions that QP_SET accepts. -/
def qpMoves (old new : Nat) : Bool := new == 4 || (old == 0 && new == 1) || (old == 1 && new == 2) || (old == 2 && new == 3)

/-- The state of a queue pair. -/
def qpState (s : State) (n : Nat) : Nat := field (mapGet [] s.qps n) 0 1

/-- QP_SET: creates or changes a queue pair from the record at ADDR (R373). -/
def execQpSet (q : RingId) (s : State) : Host.Outcome State Fault Refusal :=
  match command s q 3 with
  | some cmd =>
    let a := cmdAddr cmd
    if blackout s then .next s
    else if chHalted s (.host q) then .next (haltedRing s q)
    else if hostDown s a then .next (waitLink s (hostPort a) (.ring q))
    else if !rangeMapped s .other a 64 || rangeRetired s a 64 then .next (commandAbort s q 2 cmd)
    else
      let v := verifyRange s .other a 64
      let s := ringMoved v.2 q 64
      let b := readBytes s .other a 64
      if !v.1.isEmpty then .next (commandAbort s q 4 cmd)
      else if !qpRecordOk b then .next (completeRing s q 1 8 0)
      else if !qpMoves (qpState s (arg0 cmd)) (field b 0 1) then .next (completeRing s q 2 4 0)
      else .next (completeRing { s with qps := mapSet [] s.qps (arg0 cmd) b } q 0 0 0)
  | none => .next s

/-- QP_DESTROY: the queue pair returns to RESET. -/
def execQpDestroy (q : RingId) (s : State) : Host.Outcome State Fault Refusal :=
  match command s q 4 with
  | some cmd => .next (completeRing { s with qps := mapSet [] s.qps (arg0 cmd) [] } q 0 0 0)
  | none => .next s

/-- MR_SET: registers a region; VALUE returns its rkey, index × 256 + g. Every MR_SET of the index counts in g (R373). -/
def execMrSet (q : RingId) (s : State) : Host.Outcome State Fault Refusal :=
  match command s q 5 with
  | some cmd =>
    let i := bitsAt (arg0 cmd) 0 10
    let old := mapGet Region.empty s.regions i
    let g := (old.gen + 1) % 256
    if blackout s then .next s
    else if old.valid then
      .next (completeRing { s with regions := mapSet Region.empty s.regions i { old with gen := g } } q 6 0 0)
    else
      let new : Region := { valid := true, addr := cmdAddr cmd, size := cmdSize cmd, write := bitAt (arg0 cmd) 10
                            read := bitAt (arg0 cmd) 11, gen := g }
      .next (completeRing { s with regions := mapSet Region.empty s.regions i new } q 0 0 (i * 256 + g))
  | none => .next s

/-- MR_CLEAR: removes a region; its count of MR_SET commands stands. -/
def execMrClear (q : RingId) (s : State) : Host.Outcome State Fault Refusal :=
  match command s q 6 with
  | some cmd =>
    let old := mapGet Region.empty s.regions (arg0 cmd)
    .next (completeRing { s with
      regions := mapSet Region.empty s.regions (arg0 cmd) { Region.empty with gen := old.gen } } q 0 0 0)
  | none => .next s

/-! ### Images and updates (R386 to R390) -/

/-- Copy an image into the staging range and verify it there: the DETAIL of SIGNATURE, 0 where it is now staged (R376, R386). Bytes whose
source blocks are poisoned poison those of the range (R232, R255), and a poisoned block there fails its section's digest (R250). -/
def stageNow (s : State) (bs : List Byte) (poison : Nat → Bool) : Nat × State :=
  let base := faddr s HIF_UPD_STAGE f_HIF_UPD_STAGE_BASE
  let s := writeCells s .other ((bs.take (2 ^ 28)).mapIdx fun i b => (base + i, b, poison i))
  let r := verifyRange s .other base (min bs.length (2 ^ 28))
  let s := r.2
  let f := imageFault s (parseImage (readBytes s .other base (min bs.length (2 ^ 28))))
  let f := if f = 0 ∧ !r.1.isEmpty then 4 else f
  if f ≠ 0 then (f, fset s HIF_UPD_STATUS f_HIF_UPD_STATUS_FAILED 1)
  else (0, showUpdate (setUpdState { s with upd := { s.upd with staged := some (base, min bs.length (2 ^ 28)) } } 1))

/-- What the host has put into its memory at a command's ADDR, whose own writes no row of the table holds, is there from now on; an
empty list leaves its memory as it is (DESIGN CHOICE, log entry 100). -/
def hostPlaced (s : State) (cmd img : List Byte) : State :=
  if spaceOf (cmdAddr cmd) = .host then writeBytes s .other (cmdAddr cmd) (img.take (cmdSize cmd)) false else s

/-- STAGE_IMAGE: the image at ADDR, `img` where the host has just put it there, is staged and verified (R386). -/
def execStageImage (q : RingId) (img : List Byte) (s : State) : Host.Outcome State Fault Refusal :=
  match command s q 7 with
  | some cmd =>
    let a := cmdAddr cmd
    if blackout s then .next s
    else if updState s ≠ 0 ∨ s.upd.agent.isSome then .next (completeRing s q 6 0 0)
    else if chHalted s (.host q) then .next (haltedRing s q)
    else if hostDown s a then .next (waitLink s (hostPort a) (.ring q))
    else if !rangeMapped s .other a (cmdSize cmd) || rangeRetired s a (cmdSize cmd) then .next (commandAbort s q 2 cmd)
    else
      let s := hostPlaced s cmd img
      let v := verifyRange s .other a (cmdSize cmd)
      let r := stageNow (ringMoved v.2 q (cmdSize cmd)) (readBytes v.2 .other a (cmdSize cmd)) fun i => isBad v.1 (a + i)
      .next (completeRing r.2 q (if r.1 = 0 then 0 else 5) r.1 0)
  | none => .next s

/-- An UPDATE command of an action: `act` where the update state is one of `valid`, BAD_STATE 3 elsewhere. It waits in a
blackout (R394). -/
def runUpdate (s : State) (q : RingId) (action : Nat) (valid : List Nat) (act : State → State) : State :=
  match (command s q 8).filter fun c => arg0 c == action with
  | some _ =>
    if blackout s then s
    else if valid.contains (updState s) then completeRing (act s) q 0 0 0
    else completeRing s q 2 3 0
  | none => s

/-- UPDATE_APPLY (R387) -/
def execUpdateApply (q : RingId) (s : State) : Host.Outcome State Fault Refusal := .next (runUpdate s q 0 [1] startApply)

/-- UPDATE_DECLARE_PROVEN (R388) -/
def execUpdateDeclareProven (q : RingId) (s : State) : Host.Outcome State Fault Refusal :=
  .next (runUpdate s q 1 [3] startWriting)

/-- UPDATE_REVERT (R390) -/
def execUpdateRevert (q : RingId) (s : State) : Host.Outcome State Fault Refusal := .next (runUpdate s q 2 [2, 3] startRevert)

/-- UPDATE_DISCARD (R390) -/
def execUpdateDiscard (q : RingId) (s : State) : Host.Outcome State Fault Refusal :=
  .next (runUpdate s q 3 [1] fun s => showUpdate (setUpdState { s with upd := { s.upd with staged := none } } 0))

/-! ### PCIe links (R363) -/

/-- The options of Table HST-1 that hold state or fix a size: header type, class code, BAR0, payload, vectors and what the function
supports. -/
structure PcieFunction where
  number : Nat
  headerType : Nat
  classCode : BitVec 8
  barBytes : Nat
  barWide : Bool
  barPrefetchable : Bool
  lanes : Nat
  flit : Bool
  tagBits : Nat
  maxPayload : Nat
  maxReadRequest : Nat
  msixVectors : Nat
  intx : Bool
  msi : Bool
  ats : Bool
  pri : Bool
  pasid : Bool
  sriov : Bool
  flr : Bool
  aer : Bool
  serial : BitVec 64
  deriving DecidableEq, Repr

/-- The one function, of which P0 and P1 are two views (R362, Table HST-1). -/
def pcieFunction (_port : Fin 2) : PcieFunction :=
  { number := 0, headerType := 0, classCode := 0x12, barBytes := 64 * 2 ^ 20, barWide := true, barPrefetchable := false, lanes := 16
    flit := true, tagBits := 10, maxPayload := 512, maxReadRequest := 4096, msixVectors := 2048, intx := false, msi := false
    ats := false, pri := false, pasid := false, sriov := false, flr := false, aer := true, serial := Config.serialNumber }

/-- A request that waited for its port goes on. A channel's next burst is a command of its own. -/
def proceed (port : Nat) (s : State) (w : Waiting) : State :=
  match w with
  | .channel _ => s
  | .ring q => flushRing s q
  | .message v addr data => emit s (.msix port v addr data)
  | .record bytes => writeRecord s bytes
  | .abortRecord t c a bytes => writeAbort s t c a bytes
  | .result c a bytes => markDone (writeBytes s (.tile c.tile false) a bytes false) c 3
  | .rdma qpn rkey op => serveRdma s qpn rkey op

/-- A vector no longer masked on an enabled port sends the message that it holds pending (R372). -/
def sendPending (s : State) (vector : Nat) : State :=
  let p := MSIX_PBA (vector / 64)
  let port := mapGet 2 s.pins.msiPending vector
  if port < 2 && nthD false s.pins.msix port && !fbit s (MSIX_DATA vector) f_MSIX_DATA_MASK then
    let s := s.setReg p (putBits (s.reg p) (vector % 64) 1 0)
    msix { s with pins := { s.pins with msiPending := mapErase s.pins.msiPending vector } } port vector
  else s

/-- Whether software enables MSI-X in a port's configuration space once its link is up is left open: a free value (log entry 91). The
messages pending on an enabled port are sent (R372). -/
def configurePort (s : State) (port : Fin 2) : State :=
  let f := takeFree s
  let s := { f.2 with pins := { f.2.pins with msix := setNth f.2.pins.msix port.val (f.1.getLsbD 0) } }
  (s.pins.msiPending.map fun p => p.1).foldl sendPending s

/-- PCIE_LINK_UP: the port comes up, and the requests that waited for it proceed in their order (R363). A port whose MSI-X is disabled
may be given it by software now (log entry 91). -/
def execPcieLinkUp (port : Fin 2) (s : State) : Host.Outcome State Fault Refusal :=
  if !s.pwr.applied then .next s
  else
    let mine := s.pins.waits.filter fun w => w.port == port.val
    let s := dropWaits (fset s HIF_STATUS (portBit port) 1) (fun w => w.port == port.val)
    let s := if nthD false s.pins.msix port.val then s else configurePort s port
    .next (mine.foldl (fun s w => proceed port.val s w.what) s)

/-- An address is in host memory behind a port. -/
def behind (p a : Nat) : Bool := spaceOf a == .host && hostPort a == p

/-- Host ports that a descriptor in execution needs. -/
def channelNeeds (s : State) (e : Engine) (d : List Byte) : List Nat :=
  match field d 0 1 with
  | 0x20 =>
    let x := parseXfer d
    hostNeeds x ++ (match e with
      | .tile t c => ((listedOf s t c x).map listPorts).getD []
      | _ => [])
  | 0x22 => intakeNeeds s d
  | _ => []

/-- A channel whose next request needs a port fails with an address fault (R196, R236). -/
def failChannel (p : Nat) (s : State) (e : Engine) : State :=
  if chHalted s e then s
  else
    match (s.chan e).next with
    | some n => if behind p n then abortChannel s e 2 0 n else s
    | none =>
      match current s e with
      | some (a, d, _) =>
        if !(channelNeeds s e d).contains p then s
        else if field d 0 1 = 0x22 then abortChannel (leaveTurnstile s e) e 2 (parseIntake d).frames a
        else abortChannel s e 2 (wholeCount s e d) a
      | none => s

/-- A ring whose next request needs a port: its command read fails, its record is lost, or its command fails. -/
def failRing (p : Nat) (s : State) (q : RingId) : State :=
  match (s.ring q).cur with
  | none => if fetchable s q && behind p (ringAddr s (HIF_SQ_BASE q.val)) then stopRing s q else s
  | some cmd =>
    if (s.ring q).waiting.isSome then
      if behind p (ringAddr s (HIF_CQ_BASE q.val)) && !fbit s (HIF_CQ_CTL q.val) f_HIF_CQ_CTL_FULL then
        s.setRing q { s.ring q with cur := none, waiting := none }
      else s
    else if !behind p (cmdAddr cmd) then s
    else
      match field cmd 0 1 with
      | 1 => completeRing s q 3 8 0
      | 2 => if (s.chan (.host q)).cur.isSome || (s.chan (.host q)).next.isSome then s else commandAbort s q 2 cmd
      | 3 | 7 => commandAbort s q 2 cmd
      | _ => s

/-- A request fails as an address fault (R196, R363): a channel aborts, a ring's command fails, a record is dropped (R49), an abort
record is seen in its register only, a result word is lost and its pulse follows, a message is lost and an RDMA request is refused. -/
def failWait (port : Nat) (s : State) (w : Waiting) : State :=
  match w with
  | .channel e => failChannel port s e
  | .ring q => failRing port s q
  | .message .. => s
  | .record _ => dropRecord s
  | .abortRecord t c _ _ => abortSeen s t c
  | .result c _ _ => markDone s c 3
  | .rdma qpn .. => rdmaAnswer s qpn none

/-- A request has waited LINK_WAIT milliseconds. -/
def waitOver (s : State) (port : Nat) (w : HostWait) : Bool :=
  w.port == port && decide (w.since + fget s HIF_CTL f_HIF_CTL_LINK_WAIT * beatsPerMs ≤ s.now)

/-- LINK_WAIT_EXPIRE: the requests that have waited LINK_WAIT milliseconds on a port fail, each from its own first beat (R363). -/
def execLinkWaitExpire (port : Fin 2) (s : State) : Host.Outcome State Fault Refusal :=
  let due := s.pins.waits.filter (waitOver s port.val)
  if portUp s port.val || due.isEmpty then .next s
  else
    let s := fset (dropWaits s (waitOver s port.val)) HIF_STATUS f_HIF_STATUS_LINK_LOSS 1
    .next (due.foldl (fun s w => failWait port.val s w.what) s)

end Sys2Proof.Machine
end

