-- ==== Sys2Proof/Machine/Attestation.lean ====
section
/-! DEFINITION. Attestation over SPDM and the LMS leaf index (R377 to R382). -/

namespace Sys2Proof.Machine

/-- The ringmaster runs its recovery ROM (R385). -/
def inRecovery (s : State) : Bool := fbit s HIF_STATUS f_HIF_STATUS_RECOVERY

/-- Send a response on the medium of its request (R422). -/
def respond (s : State) (m : Medium) (r : Reply) : State := emit s (.reply m r)

/-- The SPDM responder answers on a medium that has an endpoint ID; the recovery ROM answers GET_VERSION only (R385, R394, R422). -/
def spdmOpen (s : State) (m : Medium) : Bool := rmUp s && (s.port m).eid.isSome

/-- Answer an SPDM request after version and algorithms are negotiated, an error before (log entry 26). -/
def spdmAnswer (s : State) (m : Medium) (act : State → State) : State :=
  if !spdmOpen s m || inRecovery s then s
  else if (s.port m).negotiated then act s else respond s m .spdmError

/-- 384 free bits: a transcript digest, whose messages the model does not hold (log entry 26). -/
def freeDigest (s : State) : BitVec 384 × State :=
  ((List.range 6).foldl (fun d i => d <<< 64 ||| (Config.freeValue (s.free + i)).setWidth 384) 0, { s with free := s.free + 6 })

/-- A signed response records its transcript digest for the connection (R379). -/
def signWith (s : State) (m : Medium) (mk : BitVec 384 → BitVec 768 → Reply) : State :=
  let d := freeDigest s
  let s := d.2.setPort m { d.2.port m with transcript := some d.1 }
  respond s m (mk d.1 (Config.aliasSign (forceDigest s 1) (forceDigest s 2) d.1))

/-- GET_VERSION: SPDM 1.3; a new connection begins (R378). -/
def execGetVersion (m : Medium) (s : State) : Host.Outcome State Fault Refusal :=
  if spdmOpen s m then
    .next (respond (s.setPort m { s.port m with negotiated := false, transcript := none }) m (.spdmVersion 1 3))
  else .next s

/-- GET_CAPABILITIES: certificates, challenges and signed measurements; no key exchange (R378). -/
def execGetCapabilities (m : Medium) (s : State) : Host.Outcome State Fault Refusal :=
  if spdmOpen s m && !inRecovery s then .next (respond s m (.spdmCapabilities true true true)) else .next s

/-- NEGOTIATE_ALGORITHMS: only ECDSA P-384 and SHA-384 are offered (R378). -/
def execNegotiateAlgorithms (m : Medium) (p384 sha384 : Bool) (s : State) : Host.Outcome State Fault Refusal :=
  if spdmOpen s m && !inRecovery s then
    .next (respond (s.setPort m { s.port m with negotiated := p384 && sha384 }) m (.spdmAlgorithms (p384 && sha384)))
  else .next s

/-- The chain of slot 0 under the sections in force (R377). -/
def certChain (s : State) : List Byte := Config.chain (forceDigest s 1) (forceDigest s 2)

/-- GET_DIGESTS (R378) -/
def execGetDigests (m : Medium) (s : State) : Host.Outcome State Fault Refusal :=
  .next (spdmAnswer s m fun s => respond s m (.spdmDigests (Config.sha384 (certChain s))))

/-- GET_CERTIFICATE: slot 0 holds the only chain (R378). -/
def execGetCertificate (m : Medium) (slot : Nat) (s : State) : Host.Outcome State Fault Refusal :=
  .next (spdmAnswer s m fun s => respond s m (if slot = 0 then .spdmCertificate (certChain s) else .spdmError))

/-- CHALLENGE: signed with the Alias key (R378). The nonce enters the transcript. -/
def execChallenge (m : Medium) (_nonce : BitVec 256) (s : State) : Host.Outcome State Fault Refusal :=
  .next (spdmAnswer s m fun s => signWith s m .spdmChallenge)

/-- GET_MEASUREMENTS: one block per section type, the SHA-384 of the section in force, signed with the Alias key (R378). -/
def execGetMeasurements (m : Medium) (_nonce : BitVec 256) (s : State) : Host.Outcome State Fault Refusal :=
  .next (spdmAnswer s m fun s => signWith s m (.spdmMeasurements (s.upd.inForce.map fun p => (p.1, p.2.1))))

/-! ### The LMS leaf index (R379 to R382) -/

/-- The bytes of an LMS state record (Table HST-12). -/
def lmsBytes (seq top bottom : Nat) : List Byte :=
  let b := leBytes 4 0x4C4D5353 ++ leBytes 4 seq ++ leBytes 4 top ++ leBytes 4 bottom ++ leBytes 12 0
  b ++ leBytes 4 (crc32c b)

/-- A record with its MAGIC and CRC. -/
def lmsOk (r : List Byte) : Bool := r.length == 32 && field r 0 4 == 0x4C4D5353 && field r 28 4 == crc32c (r.take 28)

/-- SEQ, TOP_Q and BOTTOM_Q of a record. -/
def lmsSeq (r : List Byte) : Nat := field r 4 4
def lmsTop (r : List Byte) : Nat := field r 8 4
def lmsBottom (r : List Byte) : Nat := field r 12 4

/-- The valid record of some with the highest SEQ. -/
def lmsHighest (rs : List (List Byte)) : Option (List Byte) :=
  rs.foldl (fun best r =>
    if !lmsOk r then best
    else match best with
      | some b => if lmsSeq b < lmsSeq r then some r else best
      | none => some r) none

/-- The current record (R380). -/
def lmsCurrent (f : Flash) : Option (List Byte) := lmsHighest (f.lmsA ++ f.lmsB)

/-- The current record lies in the second sector. -/
def lmsInB (f : Flash) : Bool := (lmsHighest f.lmsB).any fun b => lmsCurrent f == some b

/-- What a slot holds after a record is programmed into it: no record where the slot fails (log entry 26). -/
def lmsSlot (f : Flash) (sector : Nat) (rs : List (List Byte)) (r : List Byte) : List Byte :=
  if f.lmsBad.contains (sector, rs.length) then [] else r

/-- The sector that takes the next record, the second or not, and the slots it keeps: a full sector's successor is erased first (R380,
R381). -/
def lmsNext (f : Flash) : Bool × List (List Byte) :=
  let b := lmsInB f
  let rs := if b then f.lmsB else f.lmsA
  if rs.length < 2048 then (b, rs) else (!b, [])

/-- Program a record into the next free slot. -/
def lmsProgram (f : Flash) (r : List Byte) : Flash :=
  let n := lmsNext f
  let rs := n.2 ++ [lmsSlot f (boolNat n.1) n.2 r]
  if n.1 then { f with lmsB := rs } else { f with lmsA := rs }

/-- A new record with the next SEQ is programmed, and whether it reads back as it was written (R380). -/
def lmsStep (s : State) (cur : List Byte) (top bottom : Nat) : Bool × State :=
  let r := lmsBytes (lmsSeq cur + 1) top bottom
  let n := lmsNext s.flash
  (lmsSlot s.flash (boolNat n.1) n.2 r == r, { s with flash := lmsProgram s.flash r })

/-- Sign with the current record's leaf, after the record that moves past it is programmed; a record that does not read back leaves the
request without a signature, an error (R380, log entry 26). -/
def signLeaf (s : State) (m : Medium) (msg : BitVec 384) : State :=
  match lmsCurrent s.flash with
  | some cur =>
    let r := lmsStep s cur (lmsTop cur) (lmsBottom cur + 1)
    respond r.2 m (if r.1 then .hssSignature (List.ofFn (Config.hssSign (lmsTop cur) (lmsBottom cur) msg)) else .spdmError)
  | none => respond s m .spdmError

/-- The record advances TOP_Q before that top leaf signs the new bottom tree (R381). -/
def nextTree (s : State) (cur : List Byte) : Bool × State :=
  let r := lmsStep s cur (lmsTop cur + 1) 0
  (r.1, if r.1 then { r.2 with flash := { r.2.flash with treeReady := false, bottomTree := lmsTop cur + 1 } } else r.2)

/-- A signature over a message, or an SPDM error without a valid record or a leaf (R379 to R382). At the end of a bottom tree the
record first advances TOP_Q; while the next tree is not built, the request waits for it. -/
def hssSignature (s : State) (m : Medium) (d : BitVec 384) : State :=
  match lmsCurrent s.flash with
  | none => respond s m .spdmError
  | some cur =>
    if lmsBottom cur < 32768 then signLeaf s m d
    else if lmsTop cur + 1 ≥ 1024 then respond s m .spdmError
    else if !s.flash.treeReady then { s with mgr := { s.mgr with hssWaiting := s.mgr.hssWaiting ++ [(m, d)] } }
    else
      let n := nextTree s cur
      if n.1 then signLeaf n.2 m d else respond n.2 m .spdmError

/-- HSS_SIGNATURE_REQUEST: a signature over the last transcript digest of the connection; without one, an SPDM error (R379). -/
def execHssSignatureRequest (m : Medium) (s : State) : Host.Outcome State Fault Refusal :=
  if !spdmOpen s m || inRecovery s then .next s
  else
    match (s.port m).transcript with
    | some d => .next (hssSignature s m d)
    | none => .next (respond s m .spdmError)

/-- Signatures left of 33,554,432 (R379); none without a valid record (R382). -/
def signaturesLeft (s : State) : Nat :=
  match lmsCurrent s.flash with
  | some cur => 33554432 - (lmsTop cur * 32768 + lmsBottom cur)
  | none => 0

/-- SIGNATURES_LEFT_REQUEST (R379) -/
def execSignaturesLeftRequest (m : Medium) (s : State) : Host.Outcome State Fault Refusal :=
  if spdmOpen s m && !inRecovery s then .next (respond s m (.signaturesLeft (signaturesLeft s))) else .next s

/-- BOTTOM_TREE_BUILD_COMPLETE: the next bottom tree, built once the current one is half used, is ready, and the requests that
waited for it are answered in order where the ringmaster answers (R379, R381, R394). -/
def execBottomTreeBuildComplete (s : State) : Host.Outcome State Fault Refusal :=
  if s.pwr.applied && (lmsCurrent s.flash).any (fun cur => decide (lmsBottom cur ≥ 16384)) && !s.flash.treeReady then
    .next ((if rmUp s then s.mgr.hssWaiting else []).foldl (fun s w => hssSignature s w.1 w.2)
      { s with flash := { s.flash with treeReady := true }, mgr := { s.mgr with hssWaiting := [] } })
  else .next s

end Sys2Proof.Machine
end

