-- ==== Sys2Proof/Machine/Jtag.lean ====
section
/-! DEFINITION. The JTAG port (R448). -/

namespace Sys2Proof.Machine

/-- EXTEST and the other scans of the boundary register over the contacts of SB, HA and HB, while MODRST_L is asserted (R448, IEEE
1149.1): EXTEST and SAMPLE shift the captured levels out on TDO, every scan shifts new bits into the cells, and EXTEST drives the contacts
from them, which the others leave undriven. -/
def execExtest (scan : BoundaryScan) (s : State) : Host.Outcome State Fault Refusal :=
  if !(s.pwr.applied && s.pins.modrst) then .next s
  else
    let t := { s with pins := { s.pins with
      boundary := scan.shifted, jtagOut := if scan.op = .extest then scan.shifted else [] } }
    .next (if scan.op = .preload then t else emit t (.tdo scan.levels))

/-- BYPASS: TDI passes to TDO (R448). -/
def execBypass (tdi : Bool) (s : State) : Host.Outcome State Fault Refusal :=
  if s.pwr.applied then .next (emit s (.tdo [tdi])) else .next s

/-- The identification code (R448). -/
def idcodeValue : Nat := 0x248363EB

/-- IDCODE: the 32 bits, the lowest first (R448). -/
def execIdcode (s : State) : Host.Outcome State Fault Refusal :=
  if s.pwr.applied then .next (emit s (.tdo ((List.range 32).map (bitAt idcodeValue)))) else .next s

end Sys2Proof.Machine
end

