-- ==== Sys2Proof/Machine/Management.lean ====
section
/-! DEFINITION. Management messages: MCTP control, PLDM and vendor requests (R422 to R425). -/

namespace Sys2Proof.Machine

/-! ### MCTP control (R422) -/

/-- Answer a control message, which needs no endpoint ID. -/
def control (s : State) (m : Medium) (r : Reply) : State := if rmUp s then respond s m r else s

/-- SET_ENDPOINT_ID: the medium takes the ID. -/
def execSetEndpointId (m : Medium) (eid : Byte) (s : State) : Host.Outcome State Fault Refusal :=
  if rmUp s then .next (respond (s.setPort m { s.port m with eid := some eid }) m (.endpointId eid)) else .next s

/-- GET_ENDPOINT_ID: the medium's ID, 0 before it has one. -/
def execGetEndpointId (m : Medium) (s : State) : Host.Outcome State Fault Refusal :=
  .next (control s m (.endpointId ((s.port m).eid.getD 0)))

/-- GET_ENDPOINT_UUID: the same on all three media. -/
def execGetEndpointUuid (m : Medium) (s : State) : Host.Outcome State Fault Refusal :=
  .next (control s m (.endpointUuid Config.uuid))

/-- The MCTP message types that the endpoint supports. -/
def mctpTypes : List Nat := [0, 1, 5, 0x7E]

/-- GET_MCTP_VERSION_SUPPORT: for the base protocol (0xFF) and the supported types. -/
def execGetMctpVersionSupport (m : Medium) (type : Byte) (s : State) : Host.Outcome State Fault Refusal :=
  .next (control s m (.mctpVersion (type == 0xFF || mctpTypes.contains type.toNat)))

/-- GET_MESSAGE_TYPE_SUPPORT -/
def execGetMessageTypeSupport (m : Medium) (s : State) : Host.Outcome State Fault Refusal :=
  .next (control s m (.messageTypes mctpTypes))

/-! ### PLDM (R423, Table MGT-4) -/

/-- Answer a PLDM request of types 0 and 2, and vendor requests, where the medium has an ID; the recovery ROM answers none of them
(R385, R422). -/
def managed (s : State) (m : Medium) (act : State → State) : State :=
  if rmUp s && (s.port m).eid.isSome && !inRecovery s then act s else s

/-- Answer a PLDM type 5 request, which the recovery ROM answers too (R385). -/
def managed5 (s : State) (m : Medium) (act : State → State) : State :=
  if rmUp s && (s.port m).eid.isSome then act s else s

/-- GETTID -/
def execGetTid (m : Medium) (s : State) : Host.Outcome State Fault Refusal :=
  .next (managed s m fun s => respond s m (.tid s.mgr.tid))

/-- SETTID -/
def execSetTid (m : Medium) (tid : Byte) (s : State) : Host.Outcome State Fault Refusal :=
  .next (managed s m fun s => respond { s with mgr := { s.mgr with tid := tid } } m .done)

/-- The PLDM types of Table MGT-4. -/
def pldmTypes : List Nat := [0, 2, 5]

/-- GETPLDMTYPES -/
def execGetPldmTypes (m : Medium) (s : State) : Host.Outcome State Fault Refusal :=
  .next (managed s m fun s => respond s m (.pldmTypes pldmTypes))

/-- GETPLDMVERSION: of a type of Table MGT-4 (log entry 27). -/
def execGetPldmVersion (m : Medium) (type : Byte) (s : State) : Host.Outcome State Fault Refusal :=
  .next (managed s m fun s => respond s m
    (if pldmTypes.contains type.toNat then .pldmVersion type.toNat else .unsupportedPldmCommand))

/-- The commands of a PLDM type that Table MGT-4 lists, by the codes of DSP0240, DSP0248 and DSP0267 (log entry 27). -/
def pldmCommandsOf : Nat → List Nat
  | 0 => [0x01, 0x02, 0x03, 0x04, 0x05]
  | 2 => [0x04, 0x0A, 0x11, 0x50, 0x51]
  | 5 => [0x01, 0x02, 0x10, 0x13, 0x14, 0x15, 0x16, 0x17, 0x18, 0x1A, 0x1B, 0x1D]
  | _ => []

/-- GETPLDMCOMMANDS -/
def execGetPldmCommands (m : Medium) (type : Byte) (s : State) : Host.Outcome State Fault Refusal :=
  .next (managed s m fun s => respond s m
    (if pldmTypes.contains type.toNat then .pldmCommands (pldmCommandsOf type.toNat) else .unsupportedPldmCommand))

/-- Sensors of Table MGT-1: 1 to 1,039. -/
def validSensor (i : Nat) : Bool := decide (1 ≤ i ∧ i ≤ 1039)

/-- The reading under PLDM: unavailable after three missed periods (R417). -/
def sensorValue (s : State) (i : Nat) : Option Int := if (s.sensor i).missed ≥ 3 then none else (s.sensor i).last

/-- GETSENSORREADING -/
def execGetSensorReading (m : Medium) (sensor : Nat) (s : State) : Host.Outcome State Fault Refusal :=
  .next (managed s m fun s => respond s m (.sensor (if validSensor sensor then sensorValue s sensor else none)))

/-- GETPDRREPOSITORYINFO: one numeric sensor PDR per sensor. -/
def execGetPdrRepositoryInfo (m : Medium) (s : State) : Host.Outcome State Fault Refusal :=
  .next (managed s m fun s => respond s m (.pdrInfo 1039))

/-- GETPDR: the PDR of the sensor whose ID the record handle gives. -/
def execGetPdr (m : Medium) (handle : Nat) (s : State) : Host.Outcome State Fault Refusal :=
  .next (managed s m fun s => respond s m (.pdr (if validSensor handle then some handle else none)))

/-- SETEVENTRECEIVER -/
def execSetEventReceiver (m : Medium) (eid : Byte) (s : State) : Host.Outcome State Fault Refusal :=
  .next (managed s m fun s => respond { s with mgr := { s.mgr with receiver := some eid, receiverOn := m } } m .done)

/-! ### Firmware update (R385, R424) -/

/-- QUERYDEVICEIDENTIFIERS: ordering code and module revision. -/
def execQueryDeviceIdentifiers (m : Medium) (s : State) : Host.Outcome State Fault Refusal :=
  .next (managed5 s m fun s => respond s m (.identifiers 0x4836 2))

/-- GETFIRMWAREPARAMETERS: the flash image's BUILD and a staged one's. -/
def execGetFirmwareParameters (m : Medium) (s : State) : Host.Outcome State Fault Refusal :=
  .next (managed5 s m fun s => respond s m (.firmware (imageBuild s.flash.image) ((stagedImage s).map imageBuild)))

/-- Hold or end the update agency. -/
def setAgent (s : State) (a : Option Medium) : State := { s with upd := { s.upd with agent := a, received := [] } }

/-- REQUESTUPDATE: update mode, unless an update is in progress anywhere (R424). -/
def execRequestUpdate (m : Medium) (s : State) : Host.Outcome State Fault Refusal :=
  .next (managed5 s m fun s =>
    if updState s ≠ 0 ∨ s.upd.agent.isSome then respond s m .alreadyInUpdateMode
    else respond (setAgent s (some m)) m .done)

/-- Answer a request of the update agent's medium, or that no update is open there. -/
def agentOnly (s : State) (m : Medium) (act : State → State) : State :=
  managed5 s m fun s => if s.upd.agent = some m then act s else respond s m .notInUpdateMode

/-- PASSCOMPONENTTABLE: the one component, the whole image. -/
def execPassComponentTable (m : Medium) (s : State) : Host.Outcome State Fault Refusal :=
  .next (agentOnly s m fun s => respond s m .done)

/-- UPDATECOMPONENT: the transfer starts at offset 0. -/
def execUpdateComponent (m : Medium) (s : State) : Host.Outcome State Fault Refusal :=
  .next (agentOnly s m fun s => respond (setAgent s (some m)) m (.requestFirmwareData 0))

/-- The transfer is complete, which TransferComplete says (Table MGT-4): the image is staged and verified (R386); the recovery ROM
verifies it before it erases anything and programs the flash (R385). -/
def receiveImage (s : State) (m : Medium) : State :=
  let bs := s.upd.received
  if updState s ≠ 0 then respond s m .alreadyInUpdateMode
  else if inRecovery s then
    if imageFault s (parseImage bs) ≠ 0 then respond s m (.verifyComplete false)
    else
      respond (respond (startWriting { s with upd := { s.upd with staged := some (0, bs.length) } }) m (.verifyComplete true)) m
        .applyComplete
  else
    let r := stageNow s bs fun _ => false
    if r.1 ≠ 0 then respond r.2 m (.verifyComplete false)
    else respond (respond r.2 m (.verifyComplete true)) m .applyComplete

/-- REQUESTFIRMWAREDATA_RESPONSE: a block of image data; `last` says that it completes the image, whose size PLDM's own component
table gives. -/
def execRequestFirmwareDataResponse (m : Medium) (data : List Byte) (last : Bool) (s : State) :
    Host.Outcome State Fault Refusal :=
  .next (agentOnly s m fun s =>
    let s := { s with upd := { s.upd with received := s.upd.received ++ data } }
    if last then receiveImage (respond s m .transferComplete) m
    else respond s m (.requestFirmwareData s.upd.received.length))

/-- ACTIVATEFIRMWARE: with self-contained activation it performs UPDATE ACTION 0 (R424). -/
def execActivateFirmware (m : Medium) (selfContained : Bool) (s : State) : Host.Outcome State Fault Refusal :=
  .next (agentOnly s m fun s =>
    if inRecovery s then respond (setAgent s none) m .done
    else if updState s ≠ 1 then respond s m .notInUpdateMode
    else respond (setAgent (if selfContained then startApply s else s) none) m .done)

/-- GETSTATUS -/
def execGetStatus (m : Medium) (s : State) : Host.Outcome State Fault Refusal :=
  .next (managed5 s m fun s => respond s m (.updateStatus (updState s)))

/-- CANCELUPDATE: the agent's update ends, and an image it staged is discarded. -/
def execCancelUpdate (m : Medium) (s : State) : Host.Outcome State Fault Refusal :=
  .next (agentOnly s m fun s =>
    let s := if updState s = 1 then
        showUpdate (setUpdState { s with upd := { s.upd with staged := none } } 0)
      else s
    respond (setAgent s none) m .done)

/-! ### Vendor requests (R425) -/

/-- SUBSCRIBE: code 0x03 subscribes the endpoint to the records of `bits`, or unsubscribes it with none; each medium holds four. -/
def execSubscribe (m : Medium) (eid : Byte) (bits : BitVec 3) (s : State) : Host.Outcome State Fault Refusal :=
  .next (managed s m fun s =>
    let p := s.port m
    let others := p.subscribers.filter fun x => x.1 != eid
    if bits = 0 then respond (s.setPort m { p with subscribers := others }) m .done
    else if others.length ≥ 4 then respond s m .noRoom
    else respond (s.setPort m { p with subscribers := others ++ [(eid, bits)] }) m .done)

/-- READ_FLASH_LOG: code 0x04 returns 32 flash log entries from a given SEQ (R421). -/
def execReadFlashLog (m : Medium) (seq : BitVec 32) (s : State) : Host.Outcome State Fault Refusal :=
  .next (managed s m fun s => respond s m
    (.flashLog ((s.flash.log.filter fun e => decide (seq.toNat ≤ e.seq)).take 32)))

end Sys2Proof.Machine
end

