-- ==== Sys2Proof/Machine/Monitor.lean ====
section
/-! DEFINITION. The ringmaster's checks, the sensors and the monitoring counters (R414 to R418, R428 to R431). -/

namespace Sys2Proof.Machine

/-! ### Lockstep and watchdog (R414 to R416) -/

/-- A second lockstep mismatch within 10 s of the first (R415). -/
def secondMismatch (s : State) : Bool :=
  match s.mgr.mismatchBeat with
  | some b => decide (s.now ≤ b + 10000 * beatsPerMs)
  | none => false

/-- The processor pair executes: powered and not held in reset (R414, R415). -/
def pairRuns (s : State) : Bool :=
  s.pwr.applied && !inReset s && !fbit s MGS_STATUS f_MGS_STATUS_RM_HELD

/-- LOCKSTEP_MISMATCH: a mismatch, or with `parity` an SRAM parity error, restarts the ringmaster; a second mismatch within 10 s
holds the pair in reset (R414, R415). -/
def execLockstepMismatch (parity : Bool) (s : State) : Host.Outcome State Fault Refusal :=
  if !pairRuns s then .next s
  else if parity then .next (warmRestart s 2)
  else if secondMismatch s then
    .next (refreshAlert (post (fset { s with mgr := { s.mgr with hssWaiting := [] } } MGS_STATUS f_MGS_STATUS_RM_HELD 1) .restart 0 1))
  else .next (warmRestart { s with mgr := { s.mgr with mismatchBeat := some s.now } } 1)

/-- WATCHDOG_EXPIRE: no KICK for TIMEOUT milliseconds; in PROVING the restart also reverts the update (R390, R416). -/
def execWatchdogExpire (s : State) : Host.Outcome State Fault Refusal :=
  if rmUp s && decide (s.now ≥ s.mgr.kickBeat + fget s MGS_WDOG f_MGS_WDOG_TIMEOUT * beatsPerMs) then
    let proving := updState s == 3
    let s := warmRestart (post s .watchdog 0 3) 3
    .next (if proving then startRevert s else s)
  else .next s

/-- WATCHDOG_KICK: firmware writes MGS_WDOG.KICK (R416). -/
def execWatchdogKick (r : Requester) (s : State) : Host.Outcome State Fault Refusal :=
  .next (guardedWrite s r MGS_WDOG none fun s => { s with mgr := { s.mgr with kickBeat := s.now } })

/-! ### Sensors (R417, R418) -/

/-- SENSOR_READING: a reading of a period, or none (R417, R418). -/
def execSensorReading (sensor : Nat) (value : Option Int) (s : State) : Host.Outcome State Fault Refusal :=
  if !s.pwr.applied || !validSensor sensor then .next s else .next (hubReading s sensor value)

/-! ### Monitoring counters (R430) -/

/-- The codes of Table MGT-7 that are valid in a tile's counters and in the module's. -/
def tileSources : List Nat := [0x001, 0x010, 0x011, 0x012, 0x013, 0x014, 0x020, 0x030, 0x031, 0x032, 0x040, 0x050, 0x060, 0x070, 0x071]
def moduleSources : List Nat :=
  [0x100, 0x101, 0x102, 0x103, 0x104, 0x110, 0x120, 0x121, 0x122, 0x130, 0x131, 0x140, 0x141, 0x150]

/-- The counter at `a` adds what its source reports: enabled, not frozen, and with a source of its own scope (R428, R431, text after
Table MGT-7). -/
def mcCounts (s : State) (a : Nat) : Bool :=
  let src := fget s (a - 8) f_MGS_MC_SEL_SOURCE
  !fbit s MGS_MC_CTL f_MGS_MC_CTL_FREEZE && bitAt (s.reg (a - 8)) f_MGS_MC_SEL_ENABLE.lo &&
    (if a < 0x600000 then tileSources.contains src else moduleSources.contains src)

/-- A write of a counter at `a`, with the additions that its source reports in the same cycle: the written count plus those
additions, and a saturation of the cycle leaves OVF set (R429, R430). -/
def mcStore (s : State) (a : Nat) (value : Nat) (added : Nat) : State :=
  let sel := s.reg (a - 8)
  let s := if bitAt value f_MGS_MC_VAL_OVF.lo then fset s a f_MGS_MC_VAL_OVF 0 else s
  let s := fset s a f_MGS_MC_VAL_COUNT (bitsAt value 0 48)
  if added ≠ 0 ∧ mcCounts s a then mcBump s a sel added else s

/-- The value register of a tile's or the module's counter. -/
def mcReg (tile : Option TileId) (n : Fin 128) : Option Nat :=
  match tile with
  | some t => if n.val < 64 then some (TL_MC_VAL t.val n.val) else none
  | none => some (MGS_MC_VAL n.val)

/-- MC_WRITE: a write of a monitoring counter (R430). -/
def execMcWrite (r : Requester) (tile : Option TileId) (n : Fin 128) (value : Word) (added : Nat) (s : State) :
    Host.Outcome State Fault Refusal :=
  match mcReg tile n with
  | some a => .next (guardedWrite s r a (some grpMonitor) fun s => mcStore s a value.toNat added)
  | none => .next s

end Sys2Proof.Machine
end

