-- ==== Sys2Proof/Machine/Snapshots.lean ====
section
/-! DEFINITION. Snapshots: triggers, latches, their release and the dump (R432 to R438, Tables MGT-8, MGT-13 and MGT-14). -/

namespace Sys2Proof.Machine

/-! ### Triggers -/

/-- SNAPSHOT_FIRE: a write of MGS_SNAP_CTL.FIRE (R432). -/
def execSnapshotFire (r : Requester) (s : State) : Host.Outcome State Fault Refusal :=
  .next (guardedWrite s r MGS_SNAP_CTL (some grpSnapshot) fun s => fireSnapshot s 5 0)

/-- For four beats after the module begins to drive SNAP_L it ignores the pin (R435). -/
def pinIgnored (s : State) : Bool :=
  match s.snaps.driveFrom with
  | some b => decide (s.now < b + 4)
  | none => false

/-- SNAP_L_SAMPLED: a BEAT edge samples SNAP_L low (R435). -/
def execSnapLSampled (s : State) : Host.Outcome State Fault Refusal :=
  if fbit s MGS_SNAP_CTL f_MGS_SNAP_CTL_PIN_EN && !pinIgnored s then .next (fireSnapshot s 3 0) else .next s

/-- MATCH_ARM: a write of MGS_SNAP_CTL.MATCH_ARM (R436). -/
def execMatchArm (r : Requester) (s : State) : Host.Outcome State Fault Refusal :=
  .next (guardedWrite s r MGS_SNAP_CTL (some grpSnapshot) fun s => fset s MGS_SNAP_CTL f_MGS_SNAP_CTL_MATCH_ARM 1)

/-- BEAT_MATCH: armed, and the beat counter has reached MGS_SNAP_BEAT (R436). -/
def execBeatMatch (s : State) : Host.Outcome State Fault Refusal :=
  if fbit s MGS_SNAP_CTL f_MGS_SNAP_CTL_MATCH_ARM && decide (s.now ≥ s.reg MGS_SNAP_BEAT) then
    .next (fireSnapshot (fset s MGS_SNAP_CTL f_MGS_SNAP_CTL_MATCH_ARM 0) 4 0)
  else .next s

/-! ### The latched contents (Table MGT-8) -/

/-- Number of a block: tiles 0 to 47, base dies 48 to 71, then the five others. -/
def blockKey : SnapBlock → Nat
  | .tile t => t.val
  | .die h => 48 + h.val
  | .timebase => 72
  | .samovar => 73
  | .link => 74
  | .hostInterface => 75
  | .turnstile => 76

/-- SNAP_HDR of a block. -/
def blockHdr : SnapBlock → Nat
  | .tile t => TL_SNAP_HDR t.val
  | .die h => DIE_SNAP_HDR h.val
  | .timebase => TBU_SNAP_HDR
  | .samovar => PWR_SNAP_HDR
  | .link => LNK_SNAP_HDR
  | .hostInterface => HIF_SNAP_HDR
  | .turnstile => VID_SNAP_HDR

/-- Every block with a latch. -/
def snapBlocks : List SnapBlock :=
  (List.finRange 48).map SnapBlock.tile ++ (List.finRange 24).map SnapBlock.die ++
    [.timebase, .samovar, .link, .hostInterface, .turnstile]

/-- A sequencer's waiting instruction. -/
def statusWords : SeqStatus → List Nat
  | .stopped => [0]
  | .running => [1]
  | .halted => [2]
  | .waitQueue q _ => [3, q]
  | .waitEv ev count _ => [4, ev, count]
  | .waitBeat target => [5, target]
  | .waitPhase p => [6, p]
  | .waitEnd p => [7, p]
  | .waitDrain m => [8, m]

/-- A core's part: PC, loop state, waiting instruction and queue occupancy. -/
def coreWords (s : State) (c : CoreId) : List Nat :=
  let x := s.seq c
  [x.pc, x.loops.length] ++ (x.loops.flatMap fun l => [l.1, l.2]) ++ statusWords x.status ++ x.queues.map List.length

/-- What a block latches. The queue depths of a base die, of 64 pseudo-channels and twice 8 channels, are no state of the model: free
values. -/
def blockWords (s : State) : SnapBlock → List Nat
  | .tile t =>
    ((tileCores t).flatMap (coreWords s)) ++
    ((List.range 256).map fun i => (mapGet 0 (s.tile t).ev i).toNat) ++
    ((List.range 64).map fun n => s.reg (TL_MC_VAL t.val n)) ++
    ((List.range 32).flatMap fun c => [s.reg (DMA_CH_STATE t.val c), s.reg (DMA_CH_PROGRESS t.val c)]) ++
    [s.reg (TL_PFAULT t.val), s.reg (TL_INTEG t.val), s.reg (SCU_QSTAT t.val)]
  | .die h =>
    ((List.range 80).map fun i => (Config.freeValue (s.free + 80 * h.val + i)).toNat) ++
    [s.reg (HBM_TEMP h.val), s.reg (DTR_TEMP h.val 0), s.reg (DTR_TEMP h.val 1),
      s.reg (INF_CKPT_CURSOR h.val), s.reg (INF_FILL h.val), s.reg (INF_DIE_STATUS h.val)]
  | .timebase =>
    [s.now, s.reg TBU_STEP, s.reg TBU_STATUS] ++ (s.car.records.flatMap fun r => [r.step, r.phase, r.start.getD 0]) ++
    ((List.finRange 48).flatMap fun t => [boolNat (s.tile t).active, (s.tile t).nextStep, (s.tile t).nextPhase])
  | .samovar => [s.reg PWR_DRAW, s.reg PWR_STATUS, capInForce s]
  | .link =>
    ((List.range 3).map fun k => s.reg (LNK_SPAN_STATUS k)) ++ ((List.range 16).map fun k => s.reg (LNK_ETH_STATUS k)) ++
    (s.links.unacked.flatMap fun u => [u.peer, u.plane, u.seq])
  | .hostInterface =>
    (List.finRange 64).flatMap fun q =>
      [fget s (HIF_SQ_CTL q.val) f_HIF_SQ_CTL_HEAD, (s.ring q).tail, (s.ring q).cqHead,
        fget s (HIF_CQ_CTL q.val) f_HIF_CQ_CTL_TAIL, fget s (HIF_CQ_CTL q.val) f_HIF_CQ_CTL_FULL]
  | .turnstile =>
    s.reg VID_BUSY :: (s.vid.waiting ++ s.vid.running.map fun r => (r.tile, r.chan)).flatMap fun w =>
      match tileOf? w.1 with
      | some t => [w.1, w.2, leNat ((((s.chan (.tile t (Fin.ofNat 32 w.2))).cur.map (·.2)).getD []))]
      | none => []

/-! ### Latching (R432 to R435) -/

/-- A block meets a capture: an empty latch takes its contents, a full one counts the trigger (R433). The header of FULL, IGNORED
and BEAT is one register. -/
def latchBlock (old : State) (beat : Nat) (s : State) (b : SnapBlock) : State :=
  let h := blockHdr b
  if fbit s h f_TL_SNAP_HDR_FULL then fadd s h f_TL_SNAP_HDR_IGNORED 1
  else
    let s := fset (fset s h f_TL_SNAP_HDR_FULL 1) h f_TL_SNAP_HDR_BEAT beat
    { s with snaps := { s.snaps with latches := mapInsert s.snaps.latches (blockKey b) (blockWords old b) } }

/-- The trigger recorded among those of one beat: the lowest source, and of its tiles the lowest (R434). -/
def recordedTrigger (ts : List Trigger) : Trigger :=
  ts.foldl (fun a b => if b.source < a.source ∨ (b.source = a.source ∧ b.tile < a.tile) then b else a)
    (ts.headD ⟨0, 7, 0⟩)

/-- MGS_SNAP_CAUSE for a capture (Table MGT-14). -/
def setCause (s : State) (ts : List Trigger) (beat : Nat) : State :=
  let t := recordedTrigger ts
  let s := fset (fset s MGS_SNAP_CAUSE f_MGS_SNAP_CAUSE_SOURCE t.source) MGS_SNAP_CAUSE f_MGS_SNAP_CAUSE_MULTI
    (boolNat (decide (1 < ts.length)))
  let s := fset (fset s MGS_SNAP_CAUSE f_MGS_SNAP_CAUSE_TILE t.tile) MGS_SNAP_CAUSE f_MGS_SNAP_CAUSE_BEAT beat
  post s .capture 0 (s.reg MGS_SNAP_CAUSE)

/-- A trigger of another source than the pin drives SNAP_L low from the capture beat (R435). -/
def drivePin (s : State) (ts : List Trigger) (beat : Nat) : State :=
  if fbit s MGS_SNAP_CTL f_MGS_SNAP_CTL_DRIVE_PIN && ts.any (fun t => t.source != 3) then
    { s with snaps := { s.snaps with driveFrom := some beat }, pins := { s.pins with snapLow := true } }
  else s

/-- The capture of the triggers of one beat, at `beat`. -/
def capture (s : State) (ts : List Trigger) (beat : Nat) : State :=
  let full := snapBlocks.any fun b => fbit s (blockHdr b) f_TL_SNAP_HDR_FULL
  let open_ := snapBlocks.any fun b => !fbit s (blockHdr b) f_TL_SNAP_HDR_FULL
  let old := s
  let s := snapBlocks.foldl (latchBlock old beat) { s with free := s.free + 1920 }
  let s := if open_ then setCause s ts beat else s
  let s := if full then
      let s := fadd s MGS_SNAP_IGNORED f_MGS_SNAP_IGNORED_COUNT 1
      post s .triggerIgnored 0 (s.reg MGS_SNAP_IGNORED)
    else s
  drivePin s ts beat

/-- SNAPSHOT_LATCH: two beats after the beat of the earliest triggers, every block latches (R432, R434). -/
def execSnapshotLatch (s : State) : Host.Outcome State Fault Refusal :=
  match s.snaps.triggers with
  | [] => .next s
  | t :: _ =>
    if s.now < t.beat + 2 then .next s
    else
      let ts := s.snaps.triggers.filter fun x => x.beat == t.beat
      let rest := s.snaps.triggers.filter fun x => x.beat != t.beat
      .next (capture { s with snaps := { s.snaps with triggers := rest } } ts (t.beat + 2))

/-! ### Release and dump (R437, R438) -/

/-- Empty a block's latch (R437). -/
def releaseLatch (s : State) (b : SnapBlock) : State :=
  let s := fset s (blockHdr b) f_TL_SNAP_HDR_FULL 0
  { s with snaps := { s.snaps with latches := mapErase s.snaps.latches (blockKey b) } }

/-- A write of a host interface register takes effect from READY on, with no grant (R365, R460). -/
def interfaceWrite (s : State) (r : Requester) (act : State → State) : State :=
  if r = .firmware || hostReady s then act s else s

/-- LATCH_RELEASE: a write of one to SNAP_HDR.FULL (R437). -/
def execLatchRelease (r : Requester) (b : SnapBlock) (s : State) : Host.Outcome State Fault Refusal :=
  if b = .hostInterface then .next (interfaceWrite s r fun s => releaseLatch s b)
  else .next (guardedWrite s r (blockHdr b) (some grpSnapshot) fun s => releaseLatch s b)

/-- Every latch is emptied. -/
def releaseAll (s : State) : State := snapBlocks.foldl releaseLatch s

/-- RELEASE: a write of MGS_SNAP_CTL.RELEASE (R437). -/
def execRelease (r : Requester) (s : State) : Host.Outcome State Fault Refusal :=
  .next (guardedWrite s r MGS_SNAP_CTL (some grpSnapshot) releaseAll)

/-- SNAPSHOT_AUTO_SAVE: the ringmaster begins to copy the full latches (R438). -/
def execSnapshotAutoSave (s : State) : Host.Outcome State Fault Refusal :=
  if fbit s MGS_SNAP_CTL f_MGS_SNAP_CTL_AUTO_SAVE && !s.snaps.latches.isEmpty && !s.snaps.saving && rmUp s then
    .next { s with snaps := { s.snaps with saving := true } }
  else .next s

/-- Free bytes, in words of eight. -/
def freeBytes (s : State) (words : Nat) : List Byte × State :=
  ((List.range words).flatMap fun i => leBytes 8 (Config.freeValue (s.free + i)).toNat, { s with free := s.free + words })

/-- SNAPSHOT_DUMP_COMPLETE: the copy is in the dump area, in a form that the manual does not give, and the latches are released
(R438). -/
def execSnapshotDumpComplete (s : State) : Host.Outcome State Fault Refusal :=
  if s.snaps.saving && rmUp s then
    let a := faddr s MGS_SNAP_DUMP f_MGS_SNAP_DUMP_BASE
    let f := freeBytes s 65536
    let s := if rangeMapped s .other a 524288 then writeBytes f.2 .other a f.1 false else s
    .next (releaseAll { s with snaps := { s.snaps with saving := false, dump := some (s.reg MGS_SNAP_CAUSE, s.snaps.latches) } })
  else .next s

end Sys2Proof.Machine
end

