-- ==== Sys2Proof/Machine/Registers.lean ====
section
/-! DEFINITION. The register region: rights, access codes, sealing, 32-bit accesses, and what a write starts (R4 to R6, R365, R427,
R455 to R462). -/

namespace Sys2Proof.Machine

/-! ### Rights (R455, R457, R460, Tables REG-2 and REG-3) -/

/-- A register of the host interface block. -/
def isHif (a : Nat) : Bool := decide (0xA00000 ≤ a ∧ a < 0xA40000)

/-- The group of MGS_HOST_WR that lets the host write a register of a tile, by tile offset. -/
def tileGroup (o : Nat) : Option Nat :=
  if 0x10000 ≤ o then
    if o % 0x1000 ≥ 0x400 ∧ (o % 0x1000 - 0x400) % 0x40 = 0x10 then none else some grpTile
  else if 0x1000 ≤ o ∧ o < 0x1400 then some grpMonitor
  else if o = 0x2000 then some grpSnapshot
  else if 0xC90 ≤ o ∧ (o - 0x910) % 0x20 = 0 then none
  else some grpTile

/-- The group that lets the host write a register; none for the rows of Table REG-3 and for registers that no group names. -/
def regGroup (a : Nat) : Option Nat :=
  let o := a % 0x1000
  if a < 0x600000 then tileGroup (a % 0x20000)
  else if a < 0x900000 then
    if o = 0x008 then some grpMemory
    else if o = 0x250 then some grpStep
    else if o = 0x800 then some grpSnapshot
    else none
  else
    match a / 0x1000 with
    | 0x900 => if o = 0 then some grpMemory else none
    | 0x901 => some grpScu
    | 0x902 => some grpStep
    | 0x903 => if o = 0x018 ∨ o = 0x028 then none else if o = 0x800 then some grpSnapshot else some grpTimebase
    | 0x904 => if o = 0x800 then some grpSnapshot else some grpPower
    | 0x905 => if o = 0x800 then some grpSnapshot else some grpLink
    | 0x906 => if o = 0x800 then some grpSnapshot else some grpVideo
    | 0x907 => if o % 0x20 = 0x10 then some grpTile else none
    | 0x908 =>
      if o = 0x080 ∨ 0x400 ≤ o then some grpMonitor else if 0x100 ≤ o ∧ o < 0x128 then some grpSnapshot else none
    | _ => none

/-- Host interface registers that the host writes before READY (R365). -/
def openEarly (a : Nat) : Bool := a == HIF_ID || a == HIF_STATUS || decide (0xA20000 ≤ a ∧ a < 0xA28100)

/-! ### Field writes (R4, R5, R458, R461) -/

/-- The halves that byte enables name: low, high. Enables that cover part of a half name none (R458). -/
def halvesOf (enables : Byte) : Option (Bool × Bool) :=
  if enables = 0xFF then some (true, true)
  else if enables = 0x0F then some (true, false)
  else if enables = 0xF0 then some (false, true)
  else none

/-- A field of the register crosses bit 32. -/
def crosses (r : RegRow) : Bool := r.fields.any fun f => decide (f.lo < 32 ∧ 32 < f.lo + f.width)

/-- A field lies in a half that is written. -/
def inHalves (h : Bool × Bool) (f : FieldRow) : Bool := if f.lo < 32 then h.1 else h.2

/-- The value that a write of some halves asks for: fields of the other half keep an RW value and write no one elsewhere. -/
def askedValue (old : Nat) (h : Bool × Bool) (v : Nat) : List FieldRow → Nat
  | [] => 0
  | f :: fs =>
    let x := if inHalves h f then bitsAt v f.lo f.width
      else if f.access = .rw ∨ f.access = .rwl then bitsAt old f.lo f.width else 0
    x * 2 ^ f.lo + askedValue old h v fs

/-- A field after a write that asks for `v`: RW and, until sealed, RWL fields take their bits, W1C fields lose the ones written; the
others keep their value here (Table SCP-3). -/
def fieldAfter (sealed_ : Bool) (old v : Nat) (f : FieldRow) : Nat :=
  let o := bitsAt old f.lo f.width
  let w := bitsAt v f.lo f.width
  match f.access with
  | .rw => w
  | .rwl => if sealed_ then o else w
  | .w1c => o &&& (2 ^ f.width - 1 - w)
  | .ro | .wo | .w1s => o

/-- A register after a write that asks for `v`. -/
def valueAfter (sealed_ : Bool) (old v : Nat) : List FieldRow → Nat
  | [] => 0
  | f :: fs => fieldAfter sealed_ old v f * 2 ^ f.lo + valueAfter sealed_ old v fs

/-- The write of a register's RW, RWL and W1C fields. -/
def plainWrite (s : State) (a : Nat) (row : RegRow) (v : Nat) : State :=
  s.setReg a (valueAfter (isSealed s) (s.reg a) v row.fields)

/-- The write of a register whose record is rearmed when its VALID is cleared: the count of what came since then is 0 again (Tables
MEM-10, DMA-12 and FLT-7). -/
def rearm (s : State) (a : Nat) (valid count : Fld) : State := if fbit s a valid then s else fset s a count 0

/-! ### What a write starts -/

/-- Go on with the state that a command answers. -/
def commandState (s : State) (o : Host.Outcome State Fault Refusal) : State :=
  match o with
  | .next t => t
  | _ => s

/-- Run a command of firmware when `b` holds: the rights of the write are checked before. -/
def runIf (b : Bool) (s : State) (c : State → Host.Outcome State Fault Refusal) : State :=
  if b then commandState s (c s) else s

/-- ABORT at a channel: how far its bursts have come is left open, a free value (R236). -/
def abortNow (s : State) (e : Engine) : State :=
  let f := takeFree s
  match current s e with
  | some (_, d, _) => commandState s (execAbortRequest .firmware e (f.1.toNat % (wholeCount s e d + 1)) f.2)
  | none =>
    if (streamOn s e).isSome then commandState s (execAbortRequest .firmware e f.1.toNat f.2)
    else commandState s (execAbortRequest .firmware e 0 s)

/-- A write of DMA_CH_CTL (Table DMA-14): ABORT, then HEAD and START of a firmware channel. -/
def writeChCtl (s : State) (e : Engine) (v : Nat) : State :=
  let s := if bitAt v 0 then abortNow s e else s
  if !firmwareChannel e then s
  else if bitAt v 1 then commandState s (execFirmwareChannelStart .firmware e (BitVec.ofNat 64 v) s)
  else fset s (chCtl e) f_DMA_CH_CTL_HEAD (bitsAt v 6 50)

/-- A write of HBM_REPAIR or DTR_REPAIR (Table MEM-16). -/
def writeRepair (s : State) (d : MemDev) (v : Nat) : State :=
  let pc := BitVec.ofNat 6 (bitsAt v 4 6)
  let bank := BitVec.ofNat 6 (bitsAt v 10 6)
  let row := BitVec.ofNat 18 (bitsAt v 16 18)
  let s := repairFields s d pc bank row.toNat
  match bitsAt v 0 3 with
  | 1 => commandState s (execReadSpareRows .firmware d pc bank s)
  | 2 => commandState s (execSppr .firmware d pc bank row s)
  | 3 => commandState s (execHppr .firmware d pc bank row s)
  | _ => s

/-- A write of a tile register, by tile offset. -/
def writeTile (s : State) (t : TileId) (o a : Nat) (row : RegRow) (v : Nat) : State :=
  if 0x10000 ≤ o then
    let c : CoreId := ⟨t, Fin.ofNat 16 ((o - 0x10000) / 0x1000)⟩
    let k := o % 0x1000
    if k = 0x310 then runIf (bitAt v 0) s (execNanTrapClear .firmware c)
    else if 0x400 ≤ k ∧ (k - 0x400) % 0x40 = 0x10 then
      commandState s (execFieldBypassRequest .firmware c (Fin.ofNat 4 ((k - 0x410) / 0x40)) (BitVec.ofNat 64 v) s)
    else plainWrite s a row v
  else if 0x910 ≤ o ∧ o < 0xD00 ∧ (o - 0x910) % 0x20 = 0 then writeChCtl s (.tile t (Fin.ofNat 32 ((o - 0x910) / 0x20))) v
  else if 0x1000 ≤ o ∧ o < 0x1400 ∧ o % 0x10 = 8 then mcStore s a v 0
  else if o = 0x2000 then if bitAt v 0 then releaseLatch s (.tile t) else s
  else if o = 0x428 then rearm (plainWrite s a row v) a f_TL_INTEG_VALID f_TL_INTEG_COUNT
  else if o = 0x608 then rearm (plainWrite s a row v) a f_CAD_PERR_VALID f_CAD_PERR_COUNT
  else plainWrite s a row v

/-- A write of a base-die register, by base-die offset. -/
def writeDie (s : State) (h : StackId) (o a : Nat) (row : RegRow) (v : Nat) : State :=
  if o = 0x018 then writeRepair s (.stack h) v
  else if o = 0x058 then writeRepair s (.package h 0) v
  else if o = 0x098 then writeRepair s (.package h 1) v
  else if o = 0x020 then commandState s (execMaintArm .firmware (.stack h) (BitVec.ofNat 64 v) s)
  else if o = 0x060 then commandState s (execMaintArm .firmware (.package h 0) (BitVec.ofNat 64 v) s)
  else if o = 0x0A0 then commandState s (execMaintArm .firmware (.package h 1) (BitVec.ofNat 64 v) s)
  else if o = 0x250 then
    let s := runIf (bitAt v 32) (plainWrite s a row v) (execFillStart .firmware h)
    runIf (bitAt v 33) s (execFillStop .firmware h)
  else if 0x410 ≤ o ∧ o < 0x480 ∧ (o - 0x410) % 0x20 = 0 then writeChCtl s (.die h (Fin.ofNat 4 ((o - 0x410) / 0x20))) v
  else if o = 0x800 then if bitAt v 0 then releaseLatch s (.die h) else s
  else if o = 0x240 then rearm (plainWrite s a row v) a f_INF_POISON_VALID f_INF_POISON_COUNT
  else plainWrite s a row v

/-- A write of a step-controller register. -/
def writeStep (s : State) (a : Nat) (row : RegRow) (v : Nat) : State :=
  let s := plainWrite s a row v
  if a = INF_CTL then runIf (bitAt v 1) s (execAbandon .firmware)
  else if a = INF_CKPT_CTL then
    let s := runIf (bitAt v 33) s (execCkptRelease .firmware)
    runIf (bitAt v 32) s (execCkptArm .firmware (BitVec.ofNat 32 (bitsAt v 0 32)))
  else s

/-- A write of a timebase register. The running carousel ignores writes of its period and epoch base (R42); a write that sets
ENABLE of the phase clock log starts SEQ again (R49). -/
def writeTimebase (s : State) (a : Nat) (row : RegRow) (v : Nat) : State :=
  if a = TBU_CTL then
    let run := fget s a f_TBU_CTL_CAROUSEL_RUN
    let s := fset (plainWrite s a row v) a f_TBU_CTL_CAROUSEL_RUN run
    let s := runIf (bitAt v 0) s (execSyncArm .firmware)
    if bitAt v 8 then commandState s (execCarouselStart .firmware s) else commandState s (execCarouselStop .firmware s)
  else if a = TBU_SLEW then runIf (bitsAt v 0 16 != 0) s (execSlew .firmware (BitVec.ofNat 16 v))
  else if a = TBU_RESTART then
    let s := runIf (bitAt v 33) (plainWrite s a row v) (execHoldReq .firmware)
    let s := runIf (bitAt v 36) s (execHaltJob .firmware)
    runIf (bitAt v 35) s (execGo .firmware)
  else if a = TBU_STEP_PERIOD ∨ a = TBU_EPOCH_BASE then
    if s.car.running && !held s then s else plainWrite { s with car := { s.car with changes := [] } } a row v
  else if a = TBU_PERIOD_CHANGE then plainWrite (keepChange s) a row v
  else if a = TBU_PLOG_CTL then
    let s := plainWrite s a row v
    if bitAt v 8 then { s with car := { s.car with seq := 0 } } else s
  else if a = TBU_SNAP_HDR then if bitAt v 0 then releaseLatch s .timebase else s
  else plainWrite s a row v

/-- A write of a samovar register: a park or ready request, or a cap that the clock then follows (R399, R400). -/
def writePower (s : State) (a : Nat) (row : RegRow) (v : Nat) : State :=
  if a = PWR_STATE then
    match bitsAt v 0 3 with
    | 1 => commandState s (execParkRequest .firmware s)
    | 2 => commandState s (execReadyRequest .firmware s)
    | _ => s
  else if a = PWR_SNAP_HDR then if bitAt v 0 then releaseLatch s .samovar else s
  else
    let t := plainWrite s a row v
    if a = PWR_CAP ∧ t.reg a ≠ s.reg a then adjustClock (post t .capChange 0 (t.reg a))
    else if a = PWR_THROT then adjustClock t
    else t

/-- A write of a link-block register. -/
def writeLink (s : State) (a : Nat) (row : RegRow) (v : Nat) : State :=
  if a = LNK_FAULT_EPOCH then commandState s (execLnkFaultEpoch .firmware (BitVec.ofNat 32 v) s)
  else if a = LNK_SNAP_HDR then if bitAt v 0 then releaseLatch s .link else s
  else plainWrite s a row v

/-! ### Alerts (R427) -/

/-- A port is down, DEGRADED or MISWIRE. -/
def linkAlert (s : State) : Bool :=
  (List.range 3).any (fun k => !fbit s (LNK_SPAN_STATUS k) f_LNK_SPAN_STATUS_UP ||
    fbit s (LNK_SPAN_STATUS k) f_LNK_SPAN_STATUS_DEGRADED || fbit s (LNK_SPAN_STATUS k) f_LNK_SPAN_STATUS_MISWIRE) ||
  (List.range 16).any (fun k => !fbit s (LNK_ETH_STATUS k) f_LNK_ETH_STATUS_UP)

/-- The conditions of Table MGT-12 that may still hold, with their bits. -/
def standingAlerts (s : State) : List (Bool × Fld) :=
  [(s.mgr.sensors.any (fun p => decide (p.2.missed ≥ 3) || bitAt p.2.crossed 1), f_MGS_ALERT_SENSOR),
   (s.devs.any (fun p => p.2.level3.isSome), f_MGS_ALERT_MEM_FAULT),
   (linkAlert s, f_MGS_ALERT_LINK),
   (s.pins.throt || fbit s PWR_STATUS f_PWR_STATUS_FLOOR_SHORT || fbit s PWR_STATUS f_PWR_STATUS_COOLANT_DERATE,
    f_MGS_ALERT_POWER)]

/-- A write of MGS_ALERT: a condition that still holds sets its cleared bit again. -/
def writeAlert (s : State) (row : RegRow) (v : Nat) : State :=
  (standingAlerts s).foldl (fun s x => if x.1 && bitAt v x.2.lo then raiseAlert s x.2 else s)
    (refreshAlert (plainWrite s MGS_ALERT row v))

/-- A write of MGS_SNAP_CTL (Table MGT-13). -/
def writeSnapCtl (s : State) (row : RegRow) (v : Nat) : State :=
  let s := runIf (bitAt v 4) (plainWrite s MGS_SNAP_CTL row v) (execRelease .firmware)
  let s := runIf (bitAt v 1) s (execMatchArm .firmware)
  runIf (bitAt v 0) s (execSnapshotFire .firmware)

/-- SEAL: the seal (R461). -/
def sealNow (s : State) : State := fset s MGS_SEAL f_MGS_SEAL_SEAL 1

/-- A write of a management register. -/
def writeManagement (s : State) (a : Nat) (row : RegRow) (v : Nat) : State :=
  let o := a % 0x1000
  if a = MGS_ALERT then writeAlert s row v
  else if a = MGS_ALERT_EN then refreshAlert (plainWrite s a row v)
  else if a = MGS_WDOG then runIf (bitAt v 16) (plainWrite s a row v) (execWatchdogKick .firmware)
  else if a = MGS_SNAP_CTL then writeSnapCtl s row v
  else if a = MGS_SEAL then if bitAt v 0 then sealNow s else s
  else if 0x400 ≤ o ∧ o % 0x10 = 8 then mcStore s a v 0
  else plainWrite s a row v

/-! ### The host interface (R365 to R372) -/

/-- A write of a host interface register (R367, R368, R372). -/
def writeInterface (s : State) (a : Nat) (row : RegRow) (v : Nat) : State :=
  let o := a - 0xA00000
  let q : RingId := Fin.ofNat 64 (o % 0x1000 / 0x40)
  if o = 0x800 then if bitAt v 0 then releaseLatch s .hostInterface else s
  else if 0x1000 ≤ o ∧ o < 0x2000 then
    if o % 0x40 = 8 then writeSqCtl s q v
    else
      let s := plainWrite s a row v
      if o % 0x40 = 0x18 then flushRing s q else s
  else if 0x10000 ≤ o ∧ o < 0x20000 then
    let q : RingId := Fin.ofNat 64 ((o - 0x10000) / 0x10)
    if o % 0x10 = 0 then commandState s (execSqDoorbell q (BitVec.ofNat 16 v) s)
    else commandState s (execCqDoorbell q (BitVec.ofNat 16 v) s)
  else
    let s := plainWrite s a row v
    if 0x20000 ≤ o ∧ o < 0x28000 then sendPending s ((o - 0x20000) / 0x10)
    else if a = HIF_UPD_CTL then provenCheck s
    else s

/-! ### The commands -/

/-- A write of a register that takes effect, by block. -/
def writeReg (s : State) (a : Nat) (row : RegRow) (v : Nat) : State :=
  if a < 0x600000 then
    match tileOf? (a / 0x20000) with
    | some t => writeTile s t (a % 0x20000) a row v
    | none => s
  else if a < 0x900000 then writeDie s (Fin.ofNat 24 ((a - 0x800000) / 0x1000)) (a % 0x1000) a row v
  else
    match a / 0x1000 with
    | 0x902 => writeStep s a row v
    | 0x903 => writeTimebase s a row v
    | 0x904 => writePower s a row v
    | 0x905 => writeLink s a row v
    | 0x906 => if a = VID_SNAP_HDR then (if bitAt v 0 then releaseLatch s .turnstile else s) else plainWrite s a row v
    | 0x907 => if a % 0x20 = 0x10 then writeChCtl s (.host (Fin.ofNat 64 ((a - 0x907000) / 0x20))) v else s
    | 0x908 => writeManagement s a row v
    | _ => if isHif a then writeInterface s a row v else plainWrite s a row v

/-- The blocks that read as zero through the host's window and ignore its writes there: the host interface firmware view and the
security engine (R457). -/
def windowClosed (a : Nat) : Bool := decide (0xA00000 ≤ a ∧ a < 0xB10000)

/-- Some field that software writes lies in a half that is written; a write without one changes nothing (R5, R458). -/
def writesField (row : RegRow) (h : Bool × Bool) : Bool := row.fields.any fun f => inHalves h f && f.access != .ro

/-- REGISTER_WRITE: a write of the register at an offset under rights, byte enables and access codes (R4, R365, R455 to R462). The
host reaches the host interface registers at their own BAR0 offsets; through the window their writes are ignored. A request wider than
64 bits is its 64-bit accesses, one command each in ascending address order (R458, log entry 49). -/
def execRegisterWrite (r : Requester) (reg : Nat) (enables : Byte) (value : Word) (s : State) :
    Host.Outcome State Fault Refusal :=
  match regRow reg, halvesOf enables with
  | some row, some h =>
    if reg % 8 ≠ 0 || ((!h.1 || !h.2) && crosses row) || (r = .window && windowClosed reg) then .next s
    else
      let act := fun s =>
        if writesField row h then writeReg s reg row (askedValue (s.reg reg) h value.toNat row.fields) else s
      if r = .host && isHif reg then .next (if hostReady s || openEarly reg then act s else s)
      else .next (guardedWrite s r reg (regGroup reg) act)
  | _, _ => .next s

/-- SEAL: a write of one to MGS_SEAL.SEAL, which only firmware makes (R461, Table REG-3). -/
def execSeal (r : Requester) (s : State) : Host.Outcome State Fault Refusal := .next (guardedWrite s r MGS_SEAL none sealNow)

/-- A word of the event log window: the entry with number SEQ lies at 32 × (SEQ mod 32,768) (R419, Table REG-1). -/
def logWindow (s : State) (o : Nat) : Nat :=
  match s.mgr.ram.reverse.find? fun e => e.seq % 32768 == o / 32 with
  | some e => field (logBytes e) (o % 32) 8
  | none => 0

/-- The block in whose snapshot window an offset lies behind SNAP_HDR, by number, and the word there (Table MGT-8). -/
def snapWindow (a : Nat) : Option (Nat × Nat) :=
  let o := a % 0x1000
  let within := fun (block size : Nat) => if 0x800 < o ∧ o < 0x800 + size then some (block, (o - 0x800) / 8) else none
  if a < 0x600000 then
    if 0x2000 < a % 0x20000 ∧ a % 0x20000 < 0x2800 then some (a / 0x20000, (a % 0x20000 - 0x2000) / 8) else none
  else if a < 0x800000 then none
  else if a < 0x818000 then within (48 + (a - 0x800000) / 0x1000) 0x200
  else
    match a / 0x1000 with
    | 0x903 => within 72 0x100
    | 0x904 => within 73 0x80
    | 0x905 => within 74 0x400
    | 0xA00 => within 75 0x200
    | 0x906 => within 76 0x100
    | _ => none

/-- A word of a snapshot window, whose layout the manual does not give: a free function of the latched contents; 0 of an empty latch (log
entry 51). -/
def latchedWord (s : State) (block word : Nat) : Nat :=
  match s.snaps.latches.find? fun x => x.1 == block with
  | some x => (Config.snapWord block word x.2).toNat
  | none => 0

/-- The value of a register: the beat counter at TBU_BEAT, an entry in the event log window, a word of a snapshot window, else the
register held. -/
def regValue (s : State) (a : Nat) : Nat :=
  if a = TBU_BEAT then s.now
  else if 0xC00000 ≤ a ∧ a < 0xD00000 then logWindow s (a - 0xC00000)
  else
    match snapWindow a with
    | some w => latchedWord s w.1 w.2
    | none => s.reg a

/-- What a 64-bit read of the host returns at a BAR0 offset (R365, R457, Table HST-2): before READY zero but at HIF_ID, HIF_STATUS and
the MSI-X tables; then the host interface registers at their own offsets, and every other block but the security engine from
0x0100_0000 on. -/
def barRead (s : State) (o : Nat) : Nat :=
  let a := if o < 0x40000 then 0xA00000 + o else o - 0x1000000
  if !hostReady s && !(decide (o < 0x40000) && openEarly a) then 0
  else if o < 0x40000 then regValue s a
  else if o < 0x1000000 ∨ 0x4000000 ≤ o ∨ windowClosed a then 0
  else regValue s a

/-- What a 32-bit read of the host returns: the low half, or the high half as its low half's read has latched it (R458). -/
def barReadHalf (s : State) (o : Nat) (high : Bool) : Nat :=
  let v := barRead s o
  if !high then v % 2 ^ 32
  else if !hostReady s then v / 2 ^ 32
  else ((s.halves.find? fun p => p.1 == o - 0x1000000 + 1).map fun p => p.2.toNat).getD (v / 2 ^ 32)

/-- The registers whose low half latches the high one: TBU_BEAT, every MC_VAL and every DMA_CH_PROGRESS (R458). -/
def latchesHalf (a : Nat) : Bool :=
  let o := a % 0x20000
  if a < 0x600000 then
    decide (0x1000 ≤ o ∧ o < 0x1400 ∧ o % 0x10 = 8) || decide (0x908 ≤ o ∧ o < 0xD00 ∧ (o - 0x908) % 0x20 = 0)
  else if a < 0x818000 then decide (0x800000 ≤ a ∧ 0x408 ≤ a % 0x1000 ∧ a % 0x1000 < 0x480 ∧ (a % 0x1000 - 0x408) % 0x20 = 0)
  else if a < 0x908000 then a == TBU_BEAT || decide (0x907000 ≤ a ∧ a % 0x20 = 8)
  else decide (a < 0x909000 ∧ 0x400 ≤ a % 0x1000 ∧ a % 0x1000 < 0xC00 ∧ a % 0x10 = 8)

/-- The key of a requester's latched half of a register. -/
def halfKey (r : Requester) (a : Nat) : Nat := a + boolNat (r != .firmware)

/-- HALF_READ_LATCH: a 32-bit read of a low half latches the high half for the requester's next read of it; the 32-bit read of the
high half, at the offset 4 above, returns the latched value and ends the latch (R458). Before READY the host reads zero and nothing is
latched (R365). -/
def execHalfReadLatch (r : Requester) (reg : Nat) (s : State) : Host.Outcome State Fault Refusal :=
  if r ≠ .firmware && !hostReady s then .next s
  else if reg % 8 = 4 then .next { s with halves := mapErase s.halves (halfKey r (reg - 4)) }
  else if latchesHalf reg then
    .next { s with halves := mapInsert s.halves (halfKey r reg) (BitVec.ofNat 32 (bitsAt (regValue s reg) 32 32)) }
  else .next s

end Sys2Proof.Machine
end

