-- ==== Sys2Proof/Machine/Sequencer.lean ====
section
/-! DEFINITION. The core sequencers: instructions, waits, queues, event counters, phases and completion pulses
(R24 to R33, R44 to R47, R464 to R467). -/

namespace Sys2Proof.Machine

/-! ### Executing an instruction -/

/-- The opcode of an instruction is one of Table PRG-2. -/
def definedOpcode (w : Word) : Bool := [1, 2, 3, 4, 5, 6, 7, 8, 9, 0xF].contains (bitsAt w.toNat 56 8)

/-- The instruction at a sequencer's PC lies in the loaded image and has a defined opcode (R465). Which instruction it is, with its
operands, comes with the command (DESIGN CHOICE, log entry 65). -/
def instrOk (q : Seq) : Bool := (q.code[q.pc]?).any definedOpcode

/-- Run an instruction of a running sequencer; an index beyond the loaded image and an undefined opcode are illegal instructions
(R465). -/
def onCore (s : State) (c : CoreId) (act : State → Seq → State) : State :=
  let q := s.seq c
  if q.status ≠ .running then s
  else if !instrOk q then programFault s c.tile 3 0 c.core.val q.pc
  else act s q

/-- An illegal instruction (R465). -/
def illegal (s : State) (c : CoreId) : State := programFault s c.tile 3 0 c.core.val (s.seq c).pc

/-- A descriptor rejected at issue (R466). -/
def rejectIssue (s : State) (c : CoreId) : State := programFault s c.tile 4 0 c.core.val (s.seq c).pc

/-- The next instruction. -/
def advance (s : State) (c : CoreId) : State :=
  let q := s.seq c
  s.setSeq c { q with status := .running, pc := q.pc + 1 }

/-- Wait with a status. -/
def waitAs (s : State) (c : CoreId) (st : SeqStatus) : State := s.setSeq c { s.seq c with status := st }

/-! ### ISSUE (R25, R466, R469) -/

/-- The opcode of a descriptor in its queue: CTRL [3:0] for queue 0, byte 0 for the others. -/
def opcodeIn (queue : Nat) (d : List Byte) : Nat := if queue = 0 then field d 0 1 % 16 else field d 0 1

/-- The TENSOR_ID of a descriptor, 0xFFFF where it names none. -/
def descTensor (queue : Nat) (d : List Byte) : Nat :=
  match queue, opcodeIn queue d with
  | 0, _ | 1, 0x40 | 1, 0x41 | 1, 0x42 | 2, 0x20 | 2, 0x21 | 2, 0x22 => field d 6 2
  | 3, 0x10 => field d 10 2
  | _, _ => 0xFFFF

/-- The records that a queue 2 descriptor names hold no poisoned block; their blocks are verified at execution. -/
def recordsSound (s : State) (c : CoreId) (d : List Byte) : Bool :=
  let e := coreChan c
  match opcodeIn 2 d with
  | 0x20 => let x := parseXfer d
            !recordsOk s e x || (recordsBad s e x).1.isEmpty
  | 0x22 => (verifyRange s .other (parseIntake d).param 64).1.isEmpty
  | _ => true

/-- No condition of the descriptor's family holds, and its opcode is one of the queue (R466, R99, R115, R163, R183,
R192, R204, R257, R318, R361). -/
def descOk (s : State) (c : CoreId) (queue : Nat) (d : List Byte) : Bool :=
  match queue, opcodeIn queue d with
  | 0, 1 => matrixOk s c d
  | 0, 2 => convolutionOk s c d
  | 1, 0x40 => combineOk s c d
  | 1, 0x41 => poolingOk s c d
  | 1, 0x42 => mergeOk s c d
  | 1, 0x44 => preconditionOk s c d
  | 2, 0x20 => transferBitsOk s (coreChan c) d && (!recordsSound s c d || transferOk s (coreChan c) d)
  | 2, 0x21 => collectiveOk s c d
  | 2, 0x22 => intakeDescOk s d && (!recordsSound s c d || intakeParamOk s d)
  | 2, 0x30 => invalidateOk d
  | 3, 0x10 => attentionOk s c d
  | 3, 1 | 3, 2 | 3, 3 | 3, 4 | 3, 5 | 3, 6 | 3, 7 | 3, 8 => scuOk d
  | _, _ => false

/-- The blocks of a descriptor's length table (R469). -/
def tableBlocks (s : State) (c : CoreId) (queue : Nat) (d : List Byte) : List Nat :=
  if queue = 3 ∧ opcodeIn 3 d = 0x10 ∧ attentionOk s c d then
    blocksOf (storeBase c + (parseAtt d).ltAddr) (16 * (parseAtt d).entries)
  else []

/-- Verify a descriptor of queue 0, 1 or 3 and the length table it names, at issue (R469). -/
def verifyIssue (s : State) (c : CoreId) (queue a : Nat) (d : List Byte) : List (Nat × Nat) × State :=
  if queue = 2 then ([], s) else verifyAll s (.tile c.tile false) (blocksOf a 64 ++ tableBlocks s c queue d)

/-- The KIND of the event where the block of a descriptor is poisoned, of Table DMA-12. -/
def descPoisoned (s : State) (c : CoreId) (a : Nat) : Option Nat := (verifyRange s (.tile c.tile false) a 64).1.head?.map (·.2)

/-- What queue 2 holds of a descriptor: one whose block is poisoned goes unread to its channel, which aborts with CAUSE 4 as it meets it
(R469). -/
def descRead (s : State) (c : CoreId) (queue a : Nat) : List Byte :=
  match queue, descPoisoned s c a with
  | 2, some k => leBytes 1 k
  | _, _ => readBytes s (.tile c.tile false) a 64

/-- Place an entry in a queue and go on, or stall on a full queue (R25). -/
def enqueue (s : State) (c : CoreId) (queue : Nat) (e : QEntry) : State :=
  let q := s.seq c
  let l := nthD [] q.queues queue
  if l.length ≥ 16 then waitAs s c (.waitQueue queue e)
  else
    advance (s.setSeq c { q with
      queues := setNth q.queues queue (l ++ [e])
      issued := setNth q.issued queue (nthD 0 q.issued queue + 1) }) c

/-- Issue a descriptor: the conditions, the verification and the place in the queue. A descriptor that stalls on a full queue is read,
verified and checked here, once, and not again when room comes (DESIGN CHOICE, log entry 66). The format state is read here (R258),
and a poisoned record rejects the descriptor as R469 has it for its other records (DESIGN CHOICE, log entry 93). -/
def issueDesc (s : State) (c : CoreId) (queue : Nat) (scratch : Bool) (off : Nat) : State :=
  let a := spaceBase c scratch + off
  if off % 64 ≠ 0 ∨ off + 64 > spaceSize s c scratch then rejectIssue s c
  else
    let d := descRead s c queue a
    let v := verifyIssue s c queue a d
    if !v.1.isEmpty then rejectIssue (integrityAll v.2 c.tile 23 c.core.val v.1) c
    else if !unread d && !descOk v.2 c queue d then rejectIssue v.2 c
    else
      let f := verifyFormat v.2 (descTensor queue d)
      let q := f.2.seq c
      if !f.1.isEmpty then rejectIssue (integrityAll f.2 c.tile 23 c.core.val f.1) c
      else
        enqueue f.2 c queue
          { desc := d, addr := a, pc := q.pc, index := nthD 0 q.issued queue
            format := formatRecord f.2 (descTensor queue d), done := false }

/-- ISSUE: a core places the descriptor at an offset of its operand store or scratchpad in a queue (R25, R466). -/
def execIssue (c : CoreId) (queue : BitVec 4) (space : Bool) (offset : BitVec 32) (s : State) :
    Host.Outcome State Fault Refusal :=
  .next (onCore s c fun s _ =>
    if queue.toNat ≥ 4 then illegal s c else issueDesc s c queue.toNat space offset.toNat)

/-- ISSUE_QUEUE_ROOM: a stalled ISSUE goes on once its queue has room (R25). -/
def execIssueQueueRoom (c : CoreId) (s : State) : Host.Outcome State Fault Refusal :=
  match (s.seq c).status with
  | .waitQueue queue e =>
    if (nthD [] (s.seq c).queues queue).length ≥ 16 then .next s else .next (enqueue s c queue e)
  | _ => .next s

/-! ### Event counters (R27 to R31) -/

/-- WAIT_EV: a core waits until a counter holds COUNT and subtracts it (R28, R29). -/
def execWaitEv (c : CoreId) (ev : BitVec 8) (count : BitVec 16) (s : State) : Host.Outcome State Fault Refusal :=
  .next (onCore s c fun s _ =>
    if count = 0 then advance s c
    else grantWaits (waitAs s c (.waitEv ev.toNat count.toNat s.now)) c.tile ev.toNat)

/-- WAIT_EV_GRANT: the waits on a counter are granted in ascending core number (R28, R29). -/
def execWaitEvGrant (t : TileId) (ev : BitVec 8) (s : State) : Host.Outcome State Fault Refusal :=
  .next (grantWaits s t ev.toNat)

/-- PULSE: a core sends one pulse to its own tile, another tile or another module of the board (Table PRG-2). -/
def execPulse (c : CoreId) (ev : BitVec 8) (target : BitVec 2) (pos : BitVec 2) (tile : BitVec 6) (s : State) :
    Host.Outcome State Fault Refusal :=
  .next (onCore s c fun s _ =>
    if target = 3 ∨ (target ≠ 0 ∧ tile.toNat ≥ 48) ∨ (target = 2 ∧ pos.toNat = s.pins.boardPos) then illegal s c
    else
      let s := advance s c
      match target.toNat with
      | 0 => pulseAt s c.tile ev.toNat
      | 1 => sendMesh s { src := c.tile, dst := ⟨tile.toNat % 48, Nat.mod_lt _ (by decide)⟩, response := false, load := .pulse ev.toNat }
      | _ =>
        let k := spanPortTo s pos.toNat
        sendPort s c.tile (16 + k) (.pulse k pos.toNat tile.toNat ev.toNat))

/-- PULSE_ARRIVE: a pulse reaches a tile's counter (R27, R30): one from a tile over the panel mesh, in the order in which the two
tiles' packets were sent (R296), or one from another module of the board through the east port die (R298). -/
def execPulseArrive (t : PulseWay) (ev : BitVec 8) (s : State) : Host.Outcome State Fault Refusal :=
  match t.src with
  | some a =>
    match takeFlight s { src := a, dst := t.tile, response := false, load := .pulse ev.toNat } with
    | some s => .next (pulseAt s t.tile ev.toNat)
    | none => .next s
  | none => .next (takeDie s t.tile true (.pulse ev.toNat) fun s => pulseAt s t.tile ev.toNat)

/-- EV_WAIT_LIMIT_EXPIRE: a wait longer than the tile's limit is a program fault (R31). The age is the difference of the counter's
values, so a SYNC load during the wait changes it (DESIGN CHOICE, log entry 68). -/
def execEvWaitLimitExpire (c : CoreId) (s : State) : Host.Outcome State Fault Refusal :=
  match (s.seq c).status with
  | .waitEv ev _ since =>
    let limit := fget s (TL_EV_WDOG c.tile.val) f_TL_EV_WDOG_LIMIT
    if limit ≠ 0 ∧ s.now > since + limit * 1024 then .next (programFault s c.tile 2 ev c.core.val (s.seq c).pc)
    else .next s
  | _ => .next s

/-! ### The beat (R467) -/

/-- The counter has reached the epoch of a core's step plus an offset; a core without a step yet waits for the start (R467). -/
def beatReached (s : State) (c : CoreId) (offset : Nat) : Bool :=
  (grantedStep s c).any fun n => decide (s.now ≥ epochOf s n + offset)

/-- WAIT_BEAT: a core waits until the counter reaches its step's epoch plus OFFSET (R467). -/
def execWaitBeat (c : CoreId) (offset : BitVec 32) (s : State) : Host.Outcome State Fault Refusal :=
  .next (onCore s c fun s _ =>
    if beatReached s c offset.toNat then advance s c else waitAs s c (.waitBeat offset.toNat))

/-- WAIT_BEAT_RELEASE: the counter has reached a waiting core's beat. -/
def execWaitBeatRelease (c : CoreId) (s : State) : Host.Outcome State Fault Refusal :=
  match (s.seq c).status with
  | .waitBeat offset => if beatReached s c offset then .next (advance s c) else .next s
  | _ => .next s

/-! ### Phases (R44 to R47) -/

/-- The next phase of a core: step and index (R465). -/
def coreNext (s : State) (c : CoreId) : Nat × Nat :=
  match (s.seq c).granted with
  | some (n, p) => nextFrom s.car.entries c.tile n (p + 1)
  | none => nextFrom s.car.entries c.tile (s.car.startStep.getD 0) 0

/-- PHASE_BEGIN: a core waits for the carousel to grant its next phase (Table PRG-2, R465). -/
def execPhaseBegin (c : CoreId) (phase : BitVec 12) (s : State) : Host.Outcome State Fault Refusal :=
  .next (onCore s c fun s q =>
    if q.inPhase || (coreNext s c).2 != phase.toNat then illegal s c
    else waitAs s c (.waitPhase phase.toNat))

/-- Every core of a tile has reached PHASE_BEGIN for a phase. -/
def tileReady (s : State) (t : TileId) (phase : Nat) : Bool :=
  (tileCores t).all fun c => (s.seq c).status == .waitPhase phase

/-- Note the grant of a phase on a tile in its record: the first beat of a grant, and LATE_DATA where it came after the
earliest start (Tables PRG-8 and PRG-9). -/
def noteGrant (s : State) (n p : Nat) (e : PhaseEntry) : State :=
  let r := phaseRec s n p
  let late := decide (s.now > epochOf s n + e.earliest.toNat)
  markPhases (setPhaseRec s { r with
    start := r.start <|> some s.now, flags := r.flags ||| (2 * boolNat late) }) 0

/-- Grant a phase to a tile (R44). The first grant of a phase brings the array clock under its ENVELOPE (R404); that of a COMMIT phase with
OUTCOME 0 starts the infusers' walk (R277). -/
def grantPhase (s : State) (t : TileId) (e : PhaseEntry) : State :=
  let x := s.tile t
  let n := x.nextStep
  let p := x.nextPhase
  let first := (phaseRec s n p).start.isNone
  let s := noteGrant s n p e
  let s := if first then adjustClock s else s
  let s := s.setTile t { x with active := true, reported := [] }
  let s := (tileCores t).foldl (fun s c =>
    let q := s.seq c
    s.setSeq c { q with status := .running, pc := q.pc + 1, granted := some (n, p), inPhase := true }) s
  match s.stp.verdict with
  | some (m, 0, _) => if isCommit e && first && m == n then infuserWalk s n else s
  | _ => s

/-- PHASE_GRANT: the carousel grants a tile its next phase once every condition of R44 and R47 holds. -/
def execPhaseGrant (t : TileId) (phase : BitVec 12) (s : State) : Host.Outcome State Fault Refusal :=
  let s := settle s
  match entryAt s (s.tile t).nextPhase with
  | some e =>
    if (s.tile t).nextPhase = phase.toNat ∧ phaseDue s t ∧ !(s.tile t).stopped ∧ tileReady s t phase.toNat then
      .next (grantPhase s t e)
    else .next s
  | none => .next s

/-- Every queue of a core in a mask is empty. -/
def queuesEmpty (q : Seq) (mask : Nat) : Bool := (List.range 4).all fun i => !bitAt mask i || (nthD [] q.queues i).isEmpty

/-- A core's end of its phase completes once its queues are empty and, in a COMMIT phase, the infusers have walked
(Table PRG-2, R277); the tile's phase ends with its last core (R45). -/
def tryPhaseEnd (s : State) (c : CoreId) (phase : Nat) : State :=
  let q := s.seq c
  let commit := (entryAt s phase).any isCommit
  if queuesEmpty q 15 && (!commit || s.stp.walkDone) then
    let s := s.setSeq c { q with status := .running, pc := q.pc + 1, inPhase := false }
    let x := s.tile c.tile
    let s := s.setTile c.tile { x with reported := insertOnce c.core.val x.reported }
    if (List.range 16).all fun i => (s.tile c.tile).reported.contains i then
      tilePhaseEnds s c.tile x.nextStep x.nextPhase 0
    else s
  else waitAs s c (.waitEnd phase)

/-- PHASE_END: a core waits until its queues are empty and reports its end of the phase (R45). -/
def execPhaseEnd (c : CoreId) (phase : BitVec 12) (s : State) : Host.Outcome State Fault Refusal :=
  match (s.seq c).status with
  | .waitEnd p => if p = phase.toNat then .next (settle (tryPhaseEnd s c p)) else .next s
  | _ =>
    .next (onCore s c fun s q =>
      if q.inPhase && (q.granted.map (·.2)) == some phase.toNat then settle (tryPhaseEnd s c phase.toNat)
      else illegal s c)

/-! ### LOOP, JUMP, DRAIN and HALT (R464) -/

/-- Go to an instruction. -/
def jumpTo (s : State) (c : CoreId) (target : Nat) : State := s.setSeq c { s.seq c with pc := target }

/-- LOOP: the loop stack of R464. -/
def execLoop (c : CoreId) (count : BitVec 16) (target : BitVec 15) (s : State) : Host.Outcome State Fault Refusal :=
  .next (onCore s c fun s q =>
    let push := fun (_ : Unit) =>
      if count = 1 then advance s c
      else if q.loops.length ≥ 4 then illegal s c
      else jumpTo (s.setSeq c { q with loops := (q.pc, count.toNat - 1) :: q.loops }) c target.toNat
    if count = 0 ∨ target.toNat ≥ q.code.length then illegal s c
    else
      match q.loops with
      | (i, n) :: rest =>
        if i = q.pc then
          if n ≤ 1 then advance (s.setSeq c { q with loops := rest }) c
          else jumpTo (s.setSeq c { q with loops := (i, n - 1) :: rest }) c target.toNat
        else push ()
      | [] => push ())

/-- JUMP: to TARGET within the loaded image (R465). -/
def execJump (c : CoreId) (target : BitVec 15) (s : State) : Host.Outcome State Fault Refusal :=
  .next (onCore s c fun s q => if target.toNat ≥ q.code.length then illegal s c else jumpTo s c target.toNat)

/-- DRAIN: a core waits until every masked queue is empty (Table PRG-2). -/
def execDrain (c : CoreId) (mask : BitVec 4) (s : State) : Host.Outcome State Fault Refusal :=
  .next (onCore s c fun s q =>
    if queuesEmpty q mask.toNat then advance s c else waitAs s c (.waitDrain mask.toNat))

/-- DRAIN_RELEASE: the masked queues of a draining core are empty. -/
def execDrainRelease (c : CoreId) (s : State) : Host.Outcome State Fault Refusal :=
  match (s.seq c).status with
  | .waitDrain mask => if queuesEmpty (s.seq c) mask then .next (advance s c) else .next s
  | _ => .next s

/-- HALT: the sequencer stops until the next job load (Table PRG-2). -/
def execHalt (c : CoreId) (s : State) : Host.Outcome State Fault Refusal :=
  .next (onCore s c fun s _ => waitAs s c .halted)

/-! ### COMPLETION_PULSE (R25, R27) -/

/-- COMPLETION_PULSE: the head descriptor of a queue, its writes all visible, pulses its counter and frees its
entry (R25, R27). -/
def execCompletionPulse (c : CoreId) (queue : Fin 4) (s : State) : Host.Outcome State Fault Refusal :=
  let q := s.seq c
  match nthD [] q.queues queue.val with
  | e :: rest =>
    if e.done then
      let s := s.setSeq c { q with
        queues := setNth q.queues queue.val rest, weights := if queue.val = 0 then Weights.empty else q.weights }
      .next (pulseAt s c.tile (field e.desc 4 1))
    else .next s
  | [] => .next s

end Sys2Proof.Machine
end

