-- ==== Sys2Proof/Machine/Dispatch.lean ====
section
/-! DEFINITION. One arm per command: a direct call of its meaning. -/

namespace Sys2Proof.Machine
open Sys2Proof

def exec (i : Instr) (s : State) : Host.Outcome State Fault Refusal :=
  match i with
  -- Programs, beats and phases
  | .issue c queue space offset => Sys2Proof.Machine.execIssue c queue space offset s
  | .issueQueueRoom c => Sys2Proof.Machine.execIssueQueueRoom c s
  | .waitEv c ev count => Sys2Proof.Machine.execWaitEv c ev count s
  | .waitEvGrant t ev => Sys2Proof.Machine.execWaitEvGrant t ev s
  | .pulse c ev target pos tile => Sys2Proof.Machine.execPulse c ev target pos tile s
  | .pulseArrive t ev => Sys2Proof.Machine.execPulseArrive t ev s
  | .evWaitLimitExpire c => Sys2Proof.Machine.execEvWaitLimitExpire c s
  | .waitBeat c offset => Sys2Proof.Machine.execWaitBeat c offset s
  | .waitBeatRelease c => Sys2Proof.Machine.execWaitBeatRelease c s
  | .phaseBegin c phase => Sys2Proof.Machine.execPhaseBegin c phase s
  | .phaseGrant t phase => Sys2Proof.Machine.execPhaseGrant t phase s
  | .phaseEnd c phase => Sys2Proof.Machine.execPhaseEnd c phase s
  | .loop c count target => Sys2Proof.Machine.execLoop c count target s
  | .jump c target => Sys2Proof.Machine.execJump c target s
  | .drain c mask => Sys2Proof.Machine.execDrain c mask s
  | .drainRelease c => Sys2Proof.Machine.execDrainRelease c s
  | .halt c => Sys2Proof.Machine.execHalt c s
  | .completionPulse c queue => Sys2Proof.Machine.execCompletionPulse c queue s
  | .sync => Sys2Proof.Machine.execSync s
  | .syncArm r => Sys2Proof.Machine.execSyncArm r s
  | .beatLoss => Sys2Proof.Machine.execBeatLoss s
  | .beatReturn => Sys2Proof.Machine.execBeatReturn s
  | .slew r amount => Sys2Proof.Machine.execSlew r amount s
  | .slewAdd amount apply => Sys2Proof.Machine.execSlewAdd amount apply s
  | .slewBeat => Sys2Proof.Machine.execSlewBeat s
  | .ptpEventMessage port frac offset => Sys2Proof.Machine.execPtpEventMessage port frac offset s
  | .carouselStart r => Sys2Proof.Machine.execCarouselStart r s
  | .carouselStop r => Sys2Proof.Machine.execCarouselStop r s
  | .envelopeDeclare phase => Sys2Proof.Machine.execEnvelopeDeclare phase s
  -- Arithmetic
  | .nanTrapClear r c => Sys2Proof.Machine.execNanTrapClear r c s
  | .matrixOperation c => Sys2Proof.Machine.execMatrixOperation c s
  | .weightTileSwap c => Sys2Proof.Machine.execWeightTileSwap c s
  | .convolution c => Sys2Proof.Machine.execConvolution c s
  | .combine c => Sys2Proof.Machine.execCombine c s
  | .maxPooling c => Sys2Proof.Machine.execMaxPooling c s
  | .averagePooling c => Sys2Proof.Machine.execAveragePooling c s
  | .merge c => Sys2Proof.Machine.execMerge c s
  | .precondition c => Sys2Proof.Machine.execPrecondition c s
  | .attention c => Sys2Proof.Machine.execAttention c s
  -- Contexts
  | .walkerStart c entry => Sys2Proof.Machine.execWalkerStart c entry s
  | .scuOpen c => Sys2Proof.Machine.execScuOpen c s
  | .scuClose c => Sys2Proof.Machine.execScuClose c s
  | .scuAppend c => Sys2Proof.Machine.execScuAppend c s
  | .scuTruncate c => Sys2Proof.Machine.execScuTruncate c s
  | .scuAdvance c => Sys2Proof.Machine.execScuAdvance c s
  | .scuPark c => Sys2Proof.Machine.execScuPark c s
  | .scuResume c => Sys2Proof.Machine.execScuResume c s
  | .scuSet c => Sys2Proof.Machine.execScuSet c s
  | .pageMoveComplete ctx => Sys2Proof.Machine.execPageMoveComplete ctx s
  | .stalledEditApply t => Sys2Proof.Machine.execStalledEditApply t s
  | .quarantineRelease t => Sys2Proof.Machine.execQuarantineRelease t s
  -- DMA
  | .transfer e => Sys2Proof.Machine.execTransfer e s
  | .gather e => Sys2Proof.Machine.execGather e s
  | .scatter e => Sys2Proof.Machine.execScatter e s
  | .scatterAdd e => Sys2Proof.Machine.execScatterAdd e s
  | .windowLoad e => Sys2Proof.Machine.execWindowLoad e s
  | .compress e => Sys2Proof.Machine.execCompress e s
  | .expand e => Sys2Proof.Machine.execExpand e s
  | .scrub e => Sys2Proof.Machine.execScrub e s
  | .invalidate c => Sys2Proof.Machine.execInvalidate c s
  | .chainNextFetch e => Sys2Proof.Machine.execChainNextFetch e s
  | .firmwareChannelStart r e head => Sys2Proof.Machine.execFirmwareChannelStart r e head s
  | .abortRequest r e moved => Sys2Proof.Machine.execAbortRequest r e moved s
  -- Collectives and links
  | .reduceScatter c => Sys2Proof.Machine.execReduceScatter c s
  | .allGather c => Sys2Proof.Machine.execAllGather c s
  | .allReduce c => Sys2Proof.Machine.execAllReduce c s
  | .broadcast c => Sys2Proof.Machine.execBroadcast c s
  | .segmentFold c segment => Sys2Proof.Machine.execSegmentFold c segment s
  | .dataPacket p => Sys2Proof.Machine.execDataPacket p s
  | .ackPacket p => Sys2Proof.Machine.execAckPacket p s
  | .creditPacket p => Sys2Proof.Machine.execCreditPacket p s
  | .verdictPacket v => Sys2Proof.Machine.execVerdictPacket v s
  | .retransmitTimeout peer plane seq => Sys2Proof.Machine.execRetransmitTimeout peer plane seq s
  | .flitCrcError l => Sys2Proof.Machine.execFlitCrcError l s
  | .linkRetrain l => Sys2Proof.Machine.execLinkRetrain l s
  | .linkTraining k r => Sys2Proof.Machine.execLinkTraining k r s
  | .peerSilent peer plane => Sys2Proof.Machine.execPeerSilent peer plane s
  | .silentPeerReport peer plane => Sys2Proof.Machine.execSilentPeerReport peer plane s
  | .lnkFaultEpoch r epoch => Sys2Proof.Machine.execLnkFaultEpoch r epoch s
  | .rdmaRequest qpn rkey op => Sys2Proof.Machine.execRdmaRequest qpn rkey op s
  | .arpRequest port addr => Sys2Proof.Machine.execArpRequest port addr s
  -- The step
  | .verdictWarnExpire => Sys2Proof.Machine.execVerdictWarnExpire s
  | .abandon r => Sys2Proof.Machine.execAbandon r s
  | .infuserWalkComplete => Sys2Proof.Machine.execInfuserWalkComplete s
  | .ckptArm r step => Sys2Proof.Machine.execCkptArm r step s
  | .captureRecordCopy st => Sys2Proof.Machine.execCaptureRecordCopy st s
  | .ckptRelease r => Sys2Proof.Machine.execCkptRelease r s
  | .holdReq r => Sys2Proof.Machine.execHoldReq r s
  | .go r => Sys2Proof.Machine.execGo r s
  | .haltJob r => Sys2Proof.Machine.execHaltJob r s
  | .spareSiteSwap band pos => Sys2Proof.Machine.execSpareSiteSwap band pos s
  | .fillStart r st => Sys2Proof.Machine.execFillStart r st s
  | .fillStop r st => Sys2Proof.Machine.execFillStop r st s
  | .fillData st item => Sys2Proof.Machine.execFillData st item s
  | .sourceLost st => Sys2Proof.Machine.execSourceLost st s
  | .fieldBypassRequest r c a mask => Sys2Proof.Machine.execFieldBypassRequest r c a mask s
  -- Memory
  | .thermalReading st stack pkg0 pkg1 => Sys2Proof.Machine.execThermalReading st stack pkg0 pkg1 s
  | .haltLimitExpire d => Sys2Proof.Machine.execHaltLimitExpire d s
  | .maintArm r d value => Sys2Proof.Machine.execMaintArm r d value s
  | .maintenanceWindowOpen d => Sys2Proof.Machine.execMaintenanceWindowOpen d s
  | .maintenanceWindowEnd d => Sys2Proof.Machine.execMaintenanceWindowEnd d s
  | .maintenanceWindowLimit d => Sys2Proof.Machine.execMaintenanceWindowLimit d s
  | .readSpareRows r d pc bank => Sys2Proof.Machine.execReadSpareRows r d pc bank s
  | .sppr r d pc bank row => Sys2Proof.Machine.execSppr r d pc bank row s
  | .hppr r d pc bank row => Sys2Proof.Machine.execHppr r d pc bank row s
  | .retireRange d range cause => Sys2Proof.Machine.execRetireRange d range cause s
  -- Host rings
  | .sqDoorbell q tail => Sys2Proof.Machine.execSqDoorbell q tail s
  | .cqDoorbell q head => Sys2Proof.Machine.execCqDoorbell q head s
  | .ringEnable q value => Sys2Proof.Machine.execRingEnable q value s
  | .commandFetch q failed => Sys2Proof.Machine.execCommandFetch q failed s
  | .cqTimerExpire q => Sys2Proof.Machine.execCqTimerExpire q s
  | .nop q => Sys2Proof.Machine.execNop q s
  | .loadJob q img => Sys2Proof.Machine.execLoadJob q img s
  | .resumeLoad q img => Sys2Proof.Machine.execResumeLoad q img s
  | .copy q => Sys2Proof.Machine.execCopy q s
  | .qpSet q => Sys2Proof.Machine.execQpSet q s
  | .qpDestroy q => Sys2Proof.Machine.execQpDestroy q s
  | .mrSet q => Sys2Proof.Machine.execMrSet q s
  | .mrClear q => Sys2Proof.Machine.execMrClear q s
  | .stageImage q img => Sys2Proof.Machine.execStageImage q img s
  | .updateApply q => Sys2Proof.Machine.execUpdateApply q s
  | .updateDeclareProven q => Sys2Proof.Machine.execUpdateDeclareProven q s
  | .updateRevert q => Sys2Proof.Machine.execUpdateRevert q s
  | .updateDiscard q => Sys2Proof.Machine.execUpdateDiscard q s
  | .sectionApply type => Sys2Proof.Machine.execSectionApply type s
  | .flashImageWriteComplete => Sys2Proof.Machine.execFlashImageWriteComplete s
  | .perst port => Sys2Proof.Machine.execPerst port s
  | .linkWaitExpire port => Sys2Proof.Machine.execLinkWaitExpire port s
  | .modrstAssert => Sys2Proof.Machine.execModrstAssert s
  | .modrstRelease boardPos slotId => Sys2Proof.Machine.execModrstRelease boardPos slotId s
  | .ready ms failed => Sys2Proof.Machine.execReady ms failed s
  -- Attestation
  | .getVersion m => Sys2Proof.Machine.execGetVersion m s
  | .getCapabilities m => Sys2Proof.Machine.execGetCapabilities m s
  | .negotiateAlgorithms m p384 sha384 => Sys2Proof.Machine.execNegotiateAlgorithms m p384 sha384 s
  | .getDigests m => Sys2Proof.Machine.execGetDigests m s
  | .getCertificate m slot => Sys2Proof.Machine.execGetCertificate m slot s
  | .challenge m nonce => Sys2Proof.Machine.execChallenge m nonce s
  | .getMeasurements m nonce => Sys2Proof.Machine.execGetMeasurements m nonce s
  | .hssSignatureRequest m => Sys2Proof.Machine.execHssSignatureRequest m s
  | .signaturesLeftRequest m => Sys2Proof.Machine.execSignaturesLeftRequest m s
  | .bottomTreeBuildComplete => Sys2Proof.Machine.execBottomTreeBuildComplete s
  -- Management
  | .setEndpointId m eid => Sys2Proof.Machine.execSetEndpointId m eid s
  | .getEndpointId m => Sys2Proof.Machine.execGetEndpointId m s
  | .getEndpointUuid m => Sys2Proof.Machine.execGetEndpointUuid m s
  | .getMctpVersionSupport m type => Sys2Proof.Machine.execGetMctpVersionSupport m type s
  | .getMessageTypeSupport m => Sys2Proof.Machine.execGetMessageTypeSupport m s
  | .getTid m => Sys2Proof.Machine.execGetTid m s
  | .setTid m tid => Sys2Proof.Machine.execSetTid m tid s
  | .getPldmVersion m type => Sys2Proof.Machine.execGetPldmVersion m type s
  | .getPldmTypes m => Sys2Proof.Machine.execGetPldmTypes m s
  | .getPldmCommands m type => Sys2Proof.Machine.execGetPldmCommands m type s
  | .getSensorReading m sensor => Sys2Proof.Machine.execGetSensorReading m sensor s
  | .getPdrRepositoryInfo m => Sys2Proof.Machine.execGetPdrRepositoryInfo m s
  | .getPdr m handle => Sys2Proof.Machine.execGetPdr m handle s
  | .setEventReceiver m eid => Sys2Proof.Machine.execSetEventReceiver m eid s
  | .queryDeviceIdentifiers m => Sys2Proof.Machine.execQueryDeviceIdentifiers m s
  | .getFirmwareParameters m => Sys2Proof.Machine.execGetFirmwareParameters m s
  | .requestUpdate m => Sys2Proof.Machine.execRequestUpdate m s
  | .passComponentTable m => Sys2Proof.Machine.execPassComponentTable m s
  | .updateComponent m => Sys2Proof.Machine.execUpdateComponent m s
  | .requestFirmwareDataResponse m data last => Sys2Proof.Machine.execRequestFirmwareDataResponse m data last s
  | .activateFirmware m selfContained => Sys2Proof.Machine.execActivateFirmware m selfContained s
  | .getStatus m => Sys2Proof.Machine.execGetStatus m s
  | .cancelUpdate m => Sys2Proof.Machine.execCancelUpdate m s
  | .subscribe m eid bits => Sys2Proof.Machine.execSubscribe m eid bits s
  | .readFlashLog m seq => Sys2Proof.Machine.execReadFlashLog m seq s
  -- Power
  | .inputSample millivolts centiamps => Sys2Proof.Machine.execInputSample millivolts centiamps s
  | .undervolt => Sys2Proof.Machine.execUndervolt s
  | .overvolt => Sys2Proof.Machine.execOvervolt s
  | .drawWindow draw ballast freeCycles => Sys2Proof.Machine.execDrawWindow draw ballast freeCycles s
  | .clockStepUp => Sys2Proof.Machine.execClockStepUp s
  | .floorHoldLimitExpire => Sys2Proof.Machine.execFloorHoldLimitExpire s
  | .forecast => Sys2Proof.Machine.execForecast s
  | .parkRequest r => Sys2Proof.Machine.execParkRequest r s
  | .readyRequest r => Sys2Proof.Machine.execReadyRequest r s
  | .unparkComplete => Sys2Proof.Machine.execUnparkComplete s
  | .throtFall => Sys2Proof.Machine.execThrotFall s
  | .throtRise => Sys2Proof.Machine.execThrotRise s
  | .tileThermalReading diodes => Sys2Proof.Machine.execTileThermalReading diodes s
  | .coolantReading flow inlet outlet => Sys2Proof.Machine.execCoolantReading flow inlet outlet s
  | .shutdownMemoryOff => Sys2Proof.Machine.execShutdownMemoryOff s
  | .shutdownRegulatorsOff => Sys2Proof.Machine.execShutdownRegulatorsOff s
  | .standbyReached => Sys2Proof.Machine.execStandbyReached s
  -- Ringmaster, counters and snapshots
  | .lockstepMismatch parity => Sys2Proof.Machine.execLockstepMismatch parity s
  | .watchdogExpire => Sys2Proof.Machine.execWatchdogExpire s
  | .watchdogKick r => Sys2Proof.Machine.execWatchdogKick r s
  | .warmRestartComplete => Sys2Proof.Machine.execWarmRestartComplete s
  | .sensorReading sensor value => Sys2Proof.Machine.execSensorReading sensor value s
  | .eventLogAppend => Sys2Proof.Machine.execEventLogAppend s
  | .flashLogCopy => Sys2Proof.Machine.execFlashLogCopy s
  | .mcWrite r tile n value added => Sys2Proof.Machine.execMcWrite r tile n value added s
  | .snapshotFire r => Sys2Proof.Machine.execSnapshotFire r s
  | .snapLSampled => Sys2Proof.Machine.execSnapLSampled s
  | .matchArm r => Sys2Proof.Machine.execMatchArm r s
  | .beatMatch => Sys2Proof.Machine.execBeatMatch s
  | .snapshotLatch => Sys2Proof.Machine.execSnapshotLatch s
  | .latchRelease r b => Sys2Proof.Machine.execLatchRelease r b s
  | .release r => Sys2Proof.Machine.execRelease r s
  | .snapshotAutoSave => Sys2Proof.Machine.execSnapshotAutoSave s
  | .seal r => Sys2Proof.Machine.execSeal r s
  | .halfReadLatch r reg => Sys2Proof.Machine.execHalfReadLatch r reg s
  | .registerWrite r reg enables value => Sys2Proof.Machine.execRegisterWrite r reg enables value s
  -- Turnstile
  | .intake c => Sys2Proof.Machine.execIntake c s
  | .intakeDispatch => Sys2Proof.Machine.execIntakeDispatch s
  -- JTAG, input power and link events
  | .extest contacts => Sys2Proof.Machine.execExtest contacts s
  | .bypass tdi => Sys2Proof.Machine.execBypass tdi s
  | .idcode => Sys2Proof.Machine.execIdcode s
  | .inputPowerApplied => Sys2Proof.Machine.execInputPowerApplied s
  | .inputPowerLoss => Sys2Proof.Machine.execInputPowerLoss s
  | .ethernetLinkDown k => Sys2Proof.Machine.execEthernetLinkDown k s
  | .ethernetLinkUp k => Sys2Proof.Machine.execEthernetLinkUp k s
  | .pcieLinkDown port => Sys2Proof.Machine.execPcieLinkDown port s
  | .pcieLinkUp port => Sys2Proof.Machine.execPcieLinkUp port s
  | .linkRetrainComplete l ok => Sys2Proof.Machine.execLinkRetrainComplete l ok s
  | .snapshotDumpComplete => Sys2Proof.Machine.execSnapshotDumpComplete s

end Sys2Proof.Machine
end

