-- ==== Sys2Proof/Safety.lean ====
section
/-! DEFINITION. What counts as a safe run, in the terms that statements use. -/

namespace Sys2Proof.Machine

/-- Memory, envelopes and registers have their canonical form: keys strictly rising and no entry equal to what an unlisted one
reads as, so that equal contents are equal data. -/
def State.Canonical (s : State) : Prop :=
  mapWf regReset s.regs = true ∧ Memory.wf s.mem = true ∧ mapWf (fun _ => (0 : BitVec 32)) s.env = true

/-- A core's sequencer runs, and the word at its PC lies in the loaded image and has a defined opcode (R465). -/
def Runs (s : State) (c : CoreId) : Prop := (s.seq c).status = .running ∧ instrOk (s.seq c) = true

/-- The sequencer of a core goes on at the next instruction. -/
def Seq.goOn (q : Seq) : Seq := { q with status := .running, pc := q.pc + 1 }

/-- A core is the last of its tile to end the phase that it and its tile run, its queues are empty, no tile is stopped and no write of zero
waits to idle the carousel. -/
def LastToEnd (s : State) (c : CoreId) (n p : Nat) (e : PhaseEntry) : Prop :=
  let x := s.tile c.tile
  (∀ u, (s.tile u).stopped = false) ∧ Runs s c ∧ entryAt s p = some e ∧ (s.seq c).inPhase = true ∧ (s.seq c).granted = some (n, p) ∧
    queuesEmpty (s.seq c) 15 = true ∧ x.active = true ∧ x.nextStep = n ∧ x.nextPhase = p ∧ x.resume = none ∧
    (∀ d : CoreId, d.tile = c.tile → d ≠ c → d.core.val ∈ x.reported) ∧ s.car.stopping = false

/-- With its end on a tile, a phase has ended on every tile of its TILES (R45). -/
def EndsOnModule (s : State) (t : TileId) (n p : Nat) (e : PhaseEntry) : Prop :=
  ((phaseRec s n p).ended ||| BitVec.ofNat 48 (2 ^ t.val)) &&& e.tiles = e.tiles

/-- The phase clock log makes a record of a phase: the ring is enabled and of a legal size, and the entry asks for one (R49). -/
def MakesRecord (s : State) (e : PhaseEntry) : Prop :=
  noLog e = false ∧ fbit s TBU_PLOG_CTL f_TBU_PLOG_CTL_ENABLE = true ∧
    8 ≤ fget s TBU_PLOG_CTL f_TBU_PLOG_CTL_LOG2_ENTRIES ∧ fget s TBU_PLOG_CTL f_TBU_PLOG_CTL_LOG2_ENTRIES ≤ 24

/-- A record of the phase clock log has been made (R49): SEQ has counted it; a full ring drops and counts it; else, where its place can be
written at once, it stands at WP, which moves on. -/
def RecordMade (s u : State) (n p : Nat) (e : PhaseEntry) : Prop :=
  let wp := fget s TBU_PLOG_WP f_TBU_PLOG_WP_WP
  let size := 2 ^ fget s TBU_PLOG_CTL f_TBU_PLOG_CTL_LOG2_ENTRIES
  let a := faddr s TBU_PLOG_BASE f_TBU_PLOG_BASE_BASE + 32 * wp
  u.car.seq = s.car.seq + 1 ∧
  ((wp + 1) % size = fget s TBU_PLOG_RP f_TBU_PLOG_RP_RP → u.mem = s.mem ∧ fget u TBU_PLOG_WP f_TBU_PLOG_WP_WP = wp ∧
    fget u TBU_PLOG_DROP f_TBU_PLOG_DROP_COUNT = min f_TBU_PLOG_DROP_COUNT.max (fget s TBU_PLOG_DROP f_TBU_PLOG_DROP_COUNT + 1) ∧
    fbit u TBU_STATUS f_TBU_STATUS_PLOG_DROP = true) ∧
  ((wp + 1) % size ≠ fget s TBU_PLOG_RP f_TBU_PLOG_RP_RP → rangeMapped s .other a 32 = true → rangeRetired s a 32 = false →
    recordWaits s = none → hostDown s a = false → (∀ i < 32, ∀ j < 32, i ≠ j → keyOf s (a + i) ≠ keyOf s (a + j)) →
    fget u TBU_PLOG_WP f_TBU_PLOG_WP_WP = (wp + 1) % size ∧
    (∃ r : PhaseRec, r.step = n ∧ r.phase = p ∧ r.start = (phaseRec s n p).start ∧
      ∀ i < 32, byteAt u (keyOf s (a + i)) = nthD 0 (recordBytes s r e (s.car.seq + 1)) i) ∧
    ∀ k, (∀ i < 32, k ≠ keyOf s (a + i)) → byteAt u k = byteAt s k)

/-- A state from which the next step does not stop. -/
def State.Goes (s : State) : Prop := ∃ t, step s = .next t

/-- Every state of the first `n` steps goes on. -/
def SafeRun : Nat → State → Prop
  | 0, _ => True
  | n + 1, s => ∃ t, step s = .next t ∧ SafeRun n t

/-- Every register outside a list reads as before. -/
def KeepsRegsBut (l : List Nat) (s t : State) : Prop := ∀ a, a ∉ l → t.reg a = s.reg a

/-- Every byte of memory, every envelope and every error present in a memory is as before. -/
def KeepsMemory (s t : State) : Prop := t.mem = s.mem ∧ t.env = s.env ∧ t.errs = s.errs

/-- Every sequencer, tile, context slice and channel is as before. -/
def KeepsUnits (s t : State) : Prop :=
  t.seqs = s.seqs ∧ t.tiles = s.tiles ∧ t.slices = s.slices ∧ t.pools = s.pools ∧ t.moves = s.moves ∧ t.chans = s.chans

/-- The job, the carousel, the step controller and the repair map are as before. -/
def KeepsJob (s t : State) : Prop := t.job = s.job ∧ t.car = s.car ∧ t.stp = s.stp ∧ t.repair = s.repair

/-- An operation of a core has written its results: memory is that of its output bytes `cells` written to the state `o` after
its operands were read, the four bytes of the tensor's STEP_AMAX apart (R259); its descriptor waits for its completion pulse
alone; the carousel and the job are as before. -/
def ResultsWritten (s o : State) (c : CoreId) (queue tensor : Nat) (cells : List (Nat × Byte × Bool)) (t : State) : Prop :=
  (∀ k, (tensor = 0xFFFF ∨ ∀ i < 4, k ≠ keyOf s (formatAddr s tensor + 4 + i)) →
    byteAt t k = byteAt (writeCells o (.tile c.tile false) cells) k) ∧
  (∀ k, byteAt o k = byteAt s k) ∧
  t.seqs = (markDone s c queue).seqs ∧ t.car = s.car ∧ t.job = s.job

/-- The context record as the unit reads it. -/
def ctxOf (s : State) (ctx : Nat) : Ctx := parseCtx (ctxRecord s ctx)

/-- The state after the unit has verified a context's record for a core. -/
def ctxVerified (s : State) (c : CoreId) (ctx : Nat) : State :=
  (sliceVerify s c.tile c.core.val ctx [(ctxAddr s ctx, 64)]).2

/-- The slice that owns its context hears the command of an opcode at the head of a core's queue 3: no move, edit of another core,
result word, held device or retraining link stands in its way, the record can be reached, and the result word meets no host link that is
down. -/
def ScuHeard (s : State) (c : CoreId) (opcode : Nat) (e : QEntry) : Prop :=
  let k := parseScu e.desc
  headOf s c 3 8 opcode = some e ∧ moving s c = false ∧ resultWaits s c = false ∧
  ((s.slice (ownerOf k.ctx)).stalled = none ∨ (s.slice (ownerOf k.ctx)).stalled = some (coreNumber c)) ∧
  tablesHeld s k.ctx (ctxOf s k.ctx) (scuReads s opcode k (ctxOf s k.ctx)) = false ∧
  rangesWait s k.ctx (scuWrites s opcode k (ctxOf s k.ctx)) = false ∧
  (sliceVerify s c.tile c.core.val k.ctx [(ctxAddr s k.ctx, 64)]).1 = true ∧ hostDown s k.result = false

/-- The slice takes the command: CHECK_GEN passes, the tables it needs can be read, which leaves `u`, and the pages it writes can be reached
(R189 to R192, R196). -/
def ScuTakes (s : State) (c : CoreId) (opcode : Nat) (e : QEntry) (u : State) : Prop :=
  let k := parseScu e.desc
  let v := ctxVerified s c k.ctx
  ScuHeard s c opcode e ∧ (k.checkGen = true → k.expect = (ctxOf v k.ctx).gen) ∧
  readTables v c.tile c.core.val k.ctx (ctxOf v k.ctx) (scuReads v opcode k (ctxOf v k.ctx)) = (true, u) ∧
  sliceReaches u k.ctx (scuWrites u opcode k (ctxOf v k.ctx)) = true

/-- A command's result word lies apart from its context's record. -/
def ResultApart (s : State) (k : ScuCmd) : Prop :=
  ∀ i < 8, ∀ j < 64, keyOf s (k.result + i) ≠ keyOf s (ctxAddr s k.ctx + j)

/-- A slice after an edit: its items in the window that closes, the next window open, nothing waiting (R188, R189). -/
def Slice.edited (x : Slice) (items : List (Nat × Nat × Nat)) : Slice :=
  { x with windows := setNth x.windows x.current (nthD [] x.windows x.current ++ items.map fun i => (i.1, i.2.1))
           current := (x.current + 1) % 8, stalled := none }

/-- A channel's current transfer descriptor starts: its ports are up, its requests do not wait, its channel state, block and records are
sound, and it runs on `u`. -/
def TransferStarts (s : State) (e : Engine) (a : Nat) (d rec_ : List Byte) (u : State) : Prop :=
  currentOf s e 0x20 = some (a, d, rec_) ∧ (∀ p ∈ hostNeeds (parseXfer d), portUp s p = true) ∧ descHeld s e a d = false ∧
    faulty s (.channel (chanKey e)) = false ∧ recordsRetired s d = false ∧ startDesc s e a d = ([], u)

/-- The descriptor of a channel has completed (R227, R234, R235): the channel counts it and is at the fetch of the chain's next,
or idle with the head of its core's queue waiting for the completion pulse. -/
def DescCompleted (s t : State) (e : Engine) (d : List Byte) : Prop :=
  fget t (chProgress e) f_DMA_CH_PROGRESS_DONE = (fget s (chProgress e) f_DMA_CH_PROGRESS_DONE + 1) % 2 ^ 24 ∧
  ((parseXfer d).chain = true →
    (t.chan e).next = some (parseXfer d).next ∧ (t.chan e).pulseDue = (parseXfer d).pulse) ∧
  ((parseXfer d).chain = false → (t.chan e).cur = none ∧ ∀ k, chCore e = some k → ∀ h tl,
    nthD [] (s.seq k).queues 2 = h :: tl → nthD [] (t.seq k).queues 2 = { h with desc := d, done := true } :: tl)

/-- A transfer without HOST_ENV on a tile or base-die channel has written the bytes at `dst` and a tensor's STEP_AMAX alone. -/
def WroteOnly (s t : State) (e : Engine) (x : Xfer) (dst : List Nat) : Prop :=
  (∀ h, e ≠ .host h) → x.hostEnv = false → ∀ k, (∀ b ∈ dst, keyOf s b ≠ k) →
    (x.tensor = 0xFFFF ∨ ∀ i < 4, k ≠ keyOf s (formatAddr s x.tensor + 4 + i)) → byteAt t k = byteAt s k

/-- The addresses that the units of a transfer write. -/
def unitDst (x : Xfer) (us : List Unit_) : List Nat := (us.flatMap (·.groups)).flatMap (dstAddrs x.dstFmt)

/-- A channel's fetch of a transfer descriptor at an address meets no fault: the descriptor, and the state with it verified. -/
def FetchesSound (s : State) (e : Engine) (a : Nat) (d : List Byte) (u : State) : Prop :=
  let s1 := chRead (chBusy s e true a) e 0
  let v := verifyRange s1 (chAgent e) a 64
  let w := (recordsBad v.2 e (parseXfer d)).2
  rangeOk s1 (chAgent e) a 64 = true ∧ rangeRetired s1 a 64 = false ∧ faulty s1 (.channel (chanKey e)) = false ∧
  requestsWait s e [a] = false ∧ hostDown s1 a = false ∧ v.1 = [] ∧
  d = readBytes v.2 (chAgent e) a 64 ∧ field d 0 1 = 0x20 ∧ recordsOk v.2 e (parseXfer d) = true ∧
  (recordsBad v.2 e (parseXfer d)).1 = [] ∧ recordsRetired w d = false ∧ fetchOk w e d = true ∧
  (w.chan e).abortPending = false ∧ verifyFormat w (parseXfer d).tensor = ([], u)

/-- A transport packet for a module is under way: it is on its way from its tile to the port die (R298), has left an Ethernet port in a
frame, left a Span port or waits in its queue (R308, R309), or is on the panel mesh from a tile (R295). -/
def Sent (t : State) (src : TileId) (p : Packet) : Prop :=
  (p.plane < 19 ∧ ∃ f, (src, p.plane, OutMsg.packet f p) ∈ t.dieHeld) ∨
  (p.plane < 16 ∧ ∃ f : EthFrame, OutMsg.packet (some f) p ∈ t.out) ∨
  (16 ≤ p.plane ∧ p.plane < 19 ∧ (OutMsg.packet none p ∈ t.out ∨ (p.plane - 16, OutMsg.packet none p) ∈ t.spanHeld)) ∨
  (19 ≤ p.plane ∧ ({ src := src, dst := p.tile, response := p.type == 1, load := .packet p } : Flight) ∈ t.mesh)

/-- A tile's cached copy of a block, where it has one, holds what memory does. -/
def CacheAgrees (s : State) (t : TileId) (b : Nat) : Prop := ∀ l, cached s t b = some l → l.bytes = blockBytes s b

/-- The blocks of a range outside host memory verify, and no error lies in them (R250). -/
def BlocksSound (s : State) (a n : Nat) : Prop :=
  ∀ b ∈ blocksOf a n, spaceOf b = .host ∨ (mismatchOf s (keyOf s b / 512) = 0 ∧ ∀ e ∈ s.errs, e.block ≠ keyOf s b / 512)

/-- The blocks that hold the staged image are sound. -/
def StagedSound (s : State) : Prop := ∀ p, s.upd.staged = some p → BlocksSound s p.1 p.2

/-- The peer table's entries of this module and of others verify, and lie in other blocks than the bytes at `written` (R250). -/
def EntriesSound (s : State) (peers written : List Nat) : Prop :=
  ∀ m ∈ moduleIndex s :: peers, ∀ a ∈ blocksOf (faddr s LNK_PEER_BASE f_LNK_PEER_BASE_BASE + 256 * m) 256,
    mismatchOf s (keyOf s a / 512) = 0 ∧ (∀ e ∈ s.errs, e.block ≠ keyOf s a / 512) ∧ ∀ z ∈ written, keyOf s z / 512 ≠ keyOf s a / 512

/-- The same for the members of a collective's group. -/
def PeersSound (s : State) (k : Coll) (written : List Nat) : Prop := EntriesSound s (k.members.map (·.1)) written

/-- Bytes of a segment at SRC, and of one at DST. -/
def segBytes (k : Coll) : Nat := 1024 * wide (parseColl k.desc).srcFmt
def resultBytes (k : Coll) : Nat := 1024 * wide (dstWidth (parseColl k.desc))

/-- The addresses of segments at DST. -/
def resultAddrs (k : Coll) (segs : List Nat) : List Nat := segs.flatMap fun g => (List.range (resultBytes k)).map (dstSeg k g + ·)

/-- What a copy of segments from SRC to DST moves lies at distinct places, DST apart from SRC, and a tile reads SRC as memory holds it. -/
def CopiesApart (s : State) (tl : TileId) (k : Coll) (segs : List Nat) : Prop :=
  ((resultAddrs k segs).map (keyOf s)).Nodup ∧
  ∀ g ∈ segs, ∀ i < segBytes k, CacheAgrees s tl (keyOf s (srcSeg k g + i) / 512) ∧
    ∀ z ∈ resultAddrs k segs, keyOf s z ≠ keyOf s (srcSeg k g + i)

/-- A member has copied its own segments from SRC to DST and sent each to every other member that is due it (Table LNK-4, R313). -/
def SegmentsCopied (s t : State) (tl : TileId) (k : Coll) (segs : List Nat) : Prop :=
  (∀ g ∈ segs, ∀ i < segBytes k, byteAt t (keyOf s (dstSeg k g + i)) = byteAt s (keyOf s (srcSeg k g + i))) ∧
  (∀ z, (∀ a ∈ resultAddrs k segs, keyOf s a ≠ z) → byteAt t z = byteAt s z) ∧
  ∀ w ∈ dueSends k, ∃ p : Packet, Sent t tl p ∧ p.type = 0 ∧ p.to_ = BitVec.ofNat 16 w.1 ∧ p.segment = BitVec.ofNat 32 w.2 ∧
    p.payload = (List.range (segBytes k)).map fun i => byteAt s (keyOf s (srcSeg k w.2 + i))

/-- A collective's descriptor has completed (R234, R235, R316): the channel counts it and is idle, and its core's queue waits for the
completion pulse alone. -/
def CollectiveCompleted (s t : State) (e : Engine) (d : List Byte) : Prop :=
  fget t (chProgress e) f_DMA_CH_PROGRESS_DONE = (fget s (chProgress e) f_DMA_CH_PROGRESS_DONE + 1) % 2 ^ 24 ∧ (t.chan e).cur = none ∧
  ∀ c, chCore e = some c → ∀ h tl, nthD [] (s.seq c).queues 2 = h :: tl →
    nthD [] (t.seq c).queues 2 = { h with desc := d, done := true } :: tl

/-- Element i of the sum of a segment (R312, R118): the left fold, in ascending contributor index, of the member's own segment at SRC and
the contributions that the slot holds as FP32. -/
def segmentSum (s : State) (e : Engine) (k : Coll) (seg slot i : Nat) : Val :=
  let x := parseColl k.desc
  (foldContribs x.strict ((List.range k.members.length).map fun j =>
    if j = k.me then contribVal x.srcFmt x.strict (readBytes s (chAgent e) (srcSeg k seg) (segBytes k)) i
    else contribVal 10 x.strict (readBytes s (chAgent e) (slotAddr k slot j) 4096) i)).v

/-- The verdict of step `n`, with its summed non-finite and WITHHELD counts, has come: EXP, CLEAN and the outcome of Table
STP-3, the limits of R269, the counts of Table STP-14, and no byte outside the step record and the format records changed. -/
def Judged (s t : State) (n nf wh : Nat) : Prop :=
  let exp := signed 8 (fget s INF_LS_STATE f_INF_LS_STATE_EXP)
  let clean := fget s INF_LS_STATE f_INF_LS_STATE_CLEAN
  let lo := signed 8 (fget s INF_LS_CTL f_INF_LS_CTL_MIN_EXP)
  let hi := signed 8 (fget s INF_LS_CTL f_INF_LS_CTL_MAX_EXP)
  let run := fget s INF_LS_CTL f_INF_LS_CTL_CLEAN_RUN
  let after := fun (outcome : Nat) (e : Int) (c : Nat) =>
    fget t INF_LAST f_INF_LAST_OUTCOME = outcome ∧ signed 8 (fget t INF_LS_STATE f_INF_LS_STATE_EXP) = e ∧
      fget t INF_LS_STATE f_INF_LS_STATE_CLEAN = c ∧ t.stp.verdict = some (n, outcome, s.now)
  (wh ≠ 0 → after 2 exp clean ∧
    fget t INF_SKIPPED f_INF_SKIPPED_WITHHELD = min f_INF_SKIPPED_WITHHELD.max (fget s INF_SKIPPED f_INF_SKIPPED_WITHHELD + 1)) ∧
  (wh = 0 → nf ≠ 0 → after 1 (if lo < exp then exp - 1 else exp) 0 ∧
    (exp ≤ lo → fbit t INF_STATUS f_INF_STATUS_LS_FLOOR = true) ∧
    fget t INF_SKIPPED f_INF_SKIPPED_SKIPPED = min f_INF_SKIPPED_SKIPPED.max (fget s INF_SKIPPED f_INF_SKIPPED_SKIPPED + 1)) ∧
  (wh = 0 → nf = 0 → clean + 1 < run → after 0 exp (clean + 1) ∧ t.reg INF_SKIPPED = s.reg INF_SKIPPED) ∧
  (wh = 0 → nf = 0 → run ≤ clean + 1 → after 0 (if exp < hi then exp + 1 else exp) 0 ∧
    (hi ≤ exp → fbit t INF_STATUS f_INF_STATUS_LS_CEIL = true) ∧ t.reg INF_SKIPPED = s.reg INF_SKIPPED) ∧
  t.stp.sent = none ∧ fbit t INF_STATUS f_INF_STATUS_VERDICT_WAIT = false ∧ fget t INF_LAST f_INF_LAST_STEP = n % 2 ^ 32 ∧
  (∀ k, (∀ i < 64, k ≠ keyOf s (faddr s INF_STEP_ADDR f_INF_STEP_ADDR_ADDR + i)) →
    (∀ d ∈ s.job.tensors, ∀ i < 128, k ≠ keyOf s (formatAddr s d.id + i)) → byteAt t k = byteAt s k) ∧
  t.seqs = s.seqs ∧ t.tiles = s.tiles ∧ t.chans = s.chans ∧ t.car = s.car ∧ t.job = s.job

/-- A shutdown of a cause has begun, where none ran (R413); in STANDBY no tile is powered that could stop. -/
def ShutsDown (s t : State) (cause : Nat) : Prop :=
  s.pwr.shutdownStage = 0 →
    t.pwr.shutdownStage = 1 ∧ t.pwr.shutdownAt = s.now ∧ fget t PWR_STATUS f_PWR_STATUS_SHUTDOWN_CAUSE = cause ∧
      t.pins.alert = true ∧ t.pwr.target = 0 ∧ fget t PWR_DRAW f_PWR_DRAW_BALLAST = 0 ∧
      fget t PWR_DRAW f_PWR_DRAW_CLOCK = 4 ∧ (fget s PWR_STATE f_PWR_STATE_STATE ≠ 0 → ∀ k : TileId, (t.tile k).stopped = true)

/-- Where the next completion record of a ring is written. -/
def cqSlot (s : State) (q : RingId) : Nat :=
  ringAddr s (HIF_CQ_BASE q.val) + 32 * (fget s (HIF_CQ_CTL q.val) f_HIF_CQ_CTL_TAIL % cqSize s q)

/-- The completion queue of a ring takes a record now: enabled, not full, its host port up (R363, R369). -/
def CqTakes (s : State) (q : RingId) : Prop :=
  cqSize s q ≠ 0 ∧ fbit s (HIF_CQ_CTL q.val) f_HIF_CQ_CTL_ENABLE = true ∧
    fbit s (HIF_CQ_CTL q.val) f_HIF_CQ_CTL_FULL = false ∧ hostDown s (cqSlot s q) = false

/-- A ring's command has completed, over the memory of `s` (R367, R369): its record of Table HST-5 is the only change of memory
and TAIL has moved, or it waits until the completion queue takes it. -/
def Completed (s t : State) (q : RingId) (cmd : List Byte) (status detail value : Nat) : Prop :=
  (CqTakes s q → (t.ring q).cur = none ∧
    fget t (HIF_CQ_CTL q.val) f_HIF_CQ_CTL_TAIL = (fget s (HIF_CQ_CTL q.val) f_HIF_CQ_CTL_TAIL + 1) % cqSize s q ∧
    ∀ k, byteAt t k = byteAt (writeBytes s .other (cqSlot s q) (completionBytes s q cmd status detail value) false) k) ∧
  (¬ CqTakes s q → (t.ring q).cur = some cmd ∧ (t.ring q).waiting = some (status, detail, value) ∧ ∀ k, byteAt t k = byteAt s k)

end Sys2Proof.Machine
end

