-- ==== Sys2Proof/Certificates/Slice0/Obligations.lean ====
section
/-! DEFINITION. The statements for the provers, family by family. -/

open Sys2Proof Sys2Proof.Machine

/-! ### The sequencer (spec/02) -/

/-- JUMP, LOOP, HALT, DRAIN and WAIT_BEAT of Table PRG-2 (R464, R465, R467): the next state differs from the old one in this core's
sequencer alone. -/
def Obligations.SequencerTransfersOfControl : Prop :=
  ∀ (s : State) (c : CoreId), Runs s c →
    let q := s.seq c
    (∀ target : BitVec 15, target.toNat < q.code.length →
      exec (.jump c target) s = .next (s.setSeq c { q with pc := target.toNat })) ∧
    (∀ (count : BitVec 16) (target : BitVec 15), count ≠ 0 → target.toNat < q.code.length →
      (∀ n rest, q.loops = (q.pc, n) :: rest → exec (.loop c count target) s =
        .next (s.setSeq c (if n ≤ 1 then { q with loops := rest, pc := q.pc + 1 }
          else { q with loops := (q.pc, n - 1) :: rest, pc := target.toNat }))) ∧
      (q.loops.head?.map (·.1) ≠ some q.pc → count = 1 → exec (.loop c count target) s =
        .next (s.setSeq c { q with pc := q.pc + 1 })) ∧
      (q.loops.head?.map (·.1) ≠ some q.pc → count ≠ 1 → q.loops.length < 4 → exec (.loop c count target) s =
        .next (s.setSeq c { q with loops := (q.pc, count.toNat - 1) :: q.loops, pc := target.toNat }))) ∧
    exec (.halt c) s = .next (s.setSeq c { q with status := .halted }) ∧
    (∀ mask : BitVec 4, exec (.drain c mask) s =
      .next (s.setSeq c (if (List.range 4).all fun i => !bitAt mask.toNat i || (nthD [] q.queues i).isEmpty then
        q.goOn else { q with status := .waitDrain mask.toNat }))) ∧
    (∀ offset : BitVec 32, exec (.waitBeat c offset) s =
      .next (s.setSeq c (if (grantedStep s c).any fun n => decide (epochOf s n + offset.toNat ≤ s.now) then q.goOn
        else { q with status := .waitBeat offset.toNat })))

/-- R464 and R465: each illegal instruction answers the program fault of CAUSE 3 on the state as it was. That the command names the instruction,
the word at the PC only its opcode, is the model's choice, log entry 65. -/
def Obligations.IllegalInstructionsAreProgramFaults : Prop :=
  ∀ (s : State) (c : CoreId), (s.seq c).status = .running →
    let fault := Host.Outcome.next (φ := Fault) (ρ := Refusal) (programFault s c.tile 3 0 c.core.val (s.seq c).pc)
    (∀ queue space offset, 4 ≤ BitVec.toNat queue → exec (.issue c queue space offset) s = fault) ∧
    (∀ ev target pos tile, target = 3 ∨ (target ≠ 0 ∧ 48 ≤ BitVec.toNat tile) ∨ (target = 2 ∧ BitVec.toNat pos = s.pins.boardPos) →
      exec (.pulse c ev target pos tile) s = fault) ∧
    (∀ count target, count = 0 ∨ (s.seq c).code.length ≤ BitVec.toNat target → exec (.loop c count target) s = fault) ∧
    (∀ count target, (s.seq c).loops.head?.map (·.1) ≠ some (s.seq c).pc → 4 ≤ (s.seq c).loops.length → count ≠ 1 →
      exec (.loop c count target) s = fault) ∧
    (∀ target, (s.seq c).code.length ≤ BitVec.toNat target → exec (.jump c target) s = fault) ∧
    (∀ phase, (s.seq c).inPhase = true ∨ (coreNext s c).2 ≠ BitVec.toNat phase → exec (.phaseBegin c phase) s = fault) ∧
    (∀ phase, (s.seq c).inPhase = false ∨ (s.seq c).granted.map (·.2) ≠ some (BitVec.toNat phase) → exec (.phaseEnd c phase) s = fault) ∧
    (((s.seq c).code.length ≤ (s.seq c).pc ∨ (s.seq c).code[(s.seq c).pc]?.any definedOpcode = false) →
      (∀ queue space offset, exec (.issue c queue space offset) s = fault) ∧
      (∀ ev count, exec (.waitEv c ev count) s = fault) ∧ (∀ ev target pos tile, exec (.pulse c ev target pos tile) s = fault) ∧
      (∀ phase, exec (.phaseBegin c phase) s = fault ∧ exec (.phaseEnd c phase) s = fault) ∧
      (∀ offset, exec (.waitBeat c offset) s = fault) ∧ (∀ count target, exec (.loop c count target) s = fault) ∧
      (∀ target, exec (.jump c target) s = fault) ∧ (∀ mask, exec (.drain c mask) s = fault) ∧ exec (.halt c) s = fault)

/-- COMPLETION_PULSE, DRAIN_RELEASE, WAIT_BEAT_RELEASE and ISSUE_QUEUE_ROOM. That the stalled descriptor is placed without being checked
again is the model's choice, log entry 66. -/
def Obligations.WaitsOfACoreAreReleased : Prop :=
  ∀ (s : State) (c : CoreId),
    (∀ (queue : Fin 4) (e : QEntry) (rest : List QEntry), nthD [] (s.seq c).queues queue.val = e :: rest → e.done = true →
      exec (.completionPulse c queue) s = .next (pulseAt (s.setSeq c { s.seq c with
        queues := setNth (s.seq c).queues queue.val rest
        weights := if queue.val = 0 then Weights.empty else (s.seq c).weights }) c.tile (field e.desc 4 1))) ∧
    (∀ mask, (s.seq c).status = .waitDrain mask →
      ((List.range 4).all fun i => !bitAt mask i || (nthD [] (s.seq c).queues i).isEmpty) = true →
      exec (.drainRelease c) s = .next (s.setSeq c (s.seq c).goOn)) ∧
    (∀ offset, (s.seq c).status = .waitBeat offset → beatReached s c offset = true →
      exec (.waitBeatRelease c) s = .next (s.setSeq c (s.seq c).goOn)) ∧
    (∀ queue e, (s.seq c).status = .waitQueue queue e → (nthD [] (s.seq c).queues queue).length < 16 →
      ∃ t, exec (.issueQueueRoom c) s = .next t ∧
        t.seq c = { (s.seq c).goOn with
          queues := setNth (s.seq c).queues queue (nthD [] (s.seq c).queues queue ++ [e])
          issued := setNth (s.seq c).issued queue (nthD 0 (s.seq c).issued queue + 1) } ∧
        (∀ d, d ≠ c → t.seq d = s.seq d) ∧ t.regs = s.regs ∧ t.mem = s.mem ∧ t.tiles = s.tiles)

/-- R28 and R29 over WAIT_EV_GRANT. -/
def Obligations.GrantsOfACounterConserveItsCount : Prop :=
  ∀ (s : State) (t : TileId) (ev : BitVec 8), ∃ u, exec (.waitEvGrant t ev) s = .next u ∧
    evCount s t ev.toNat = evCount u t ev.toNat +
      (((waiters s t ev.toNat).filter fun w => (u.seq w.1).status == .running).map (·.2)).sum ∧
    (∀ w ∈ waiters s t ev.toNat, u.seq w.1 = (s.seq w.1).goOn ∨ (u.seq w.1 = s.seq w.1 ∧ evCount u t ev.toNat < w.2)) ∧
    (∀ e, e ≠ ev.toNat → evCount u t e = evCount s t e) ∧ u.regs = s.regs ∧ u.mem = s.mem

/-- R28, R30 and R31 over WAIT_EV, EV_WAIT_LIMIT_EXPIRE, PULSE and PULSE_ARRIVE. The age of a wait as a difference of counter values is the
model's choice, log entry 68; the order of what the mesh carries and its ways are read into the manual, log entry 40; that an arrival of
what was not sent leaves the state is log entry 5. -/
def Obligations.WaitsAndPulsesMeetAtTheCounter : Prop :=
  ∀ s : State,
    (∀ (c : CoreId) (ev : BitVec 8), Runs s c → exec (.waitEv c ev 0) s = .next (s.setSeq c (s.seq c).goOn) ∧
      ∀ count : BitVec 16, count ≠ 0 → exec (.waitEv c ev count) s =
        .next (grantWaits (s.setSeq c { s.seq c with status := .waitEv ev.toNat count.toNat s.now }) c.tile ev.toNat)) ∧
    (∀ (c : CoreId) e n since, (s.seq c).status = .waitEv e n since →
      fget s (TL_EV_WDOG c.tile.val) f_TL_EV_WDOG_LIMIT ≠ 0 →
      since + fget s (TL_EV_WDOG c.tile.val) f_TL_EV_WDOG_LIMIT * 1024 < s.now →
      exec (.evWaitLimitExpire c) s = .next (programFault s c.tile 2 e c.core.val (s.seq c).pc)) ∧
    (∀ (c : CoreId) (ev : BitVec 8) (pos : BitVec 2) (tile : BitVec 6), Runs s c → tile.toNat < 48 →
      exec (.pulse c ev 1 pos tile) s =
        .next { s.setSeq c (s.seq c).goOn with mesh := s.mesh ++ [
          { src := c.tile, dst := ⟨tile.toNat % 48, Nat.mod_lt _ (by decide)⟩, response := false, load := .pulse ev.toNat }] } ∧
      (pos.toNat ≠ s.pins.boardPos → let k := spanPortTo s pos.toNat
        let m : OutMsg := .pulse k pos.toNat tile.toNat ev.toNat
        let u := s.setSeq c (s.seq c).goOn
        let behind := dieBlocked s c.tile true || s.dieHeld.any fun x => x.1 == c.tile && decide (16 ≤ x.2.1)
        (behind = true → exec (.pulse c ev 2 pos tile) s = .next { u with dieHeld := s.dieHeld ++ [(c.tile, 16 + k, m)] }) ∧
        (behind = false → spanOpen s k = true → exec (.pulse c ev 2 pos tile) s = .next (emit (passDie u c.tile true) m)) ∧
        (behind = false → spanOpen s k = false → exec (.pulse c ev 2 pos tile) s =
          .next { passDie u c.tile true with spanHeld := s.spanHeld ++ [(k, m)] }))) ∧
    (∀ (t : TileId) (ev : BitVec 8),
      (dieDelays s t true = true → exec (.pulseArrive ⟨none, t⟩ ev) s =
        .next { s with dieIn := s.dieIn ++ [(t, true, .pulse ev.toNat)] }) ∧
      (dieDelays s t true = false → waiters s t ev.toNat = [] → evCount s t ev.toNat = 0xFFFF →
        exec (.pulseArrive ⟨none, t⟩ ev) s = .next (programFault (passDie s t true) t 1 ev.toNat 0 0))) ∧
    (∀ (a t : TileId) (ev : BitVec 8), let f : Flight := { src := a, dst := t, response := false, load := .pulse ev.toNat }
      (s.mesh.find? (sameFlow f) ≠ some f ∨ meshBlocked s a t = true → exec (.pulseArrive ⟨some a, t⟩ ev) s = .next s) ∧
      (s.mesh.find? (sameFlow f) = some f → meshBlocked s a t = false →
        ∃ v, takeFlight s f = some v ∧ v.mesh = s.mesh.erase f ∧ exec (.pulseArrive ⟨some a, t⟩ ev) s = .next (pulseAt v t ev.toNat)))

/-- R27, where no wait is granted in the cycle and the counter is not saturated. That a PULSE to its own tile acts at once, and which of the
pulses on the mesh arrives next, is read into the manual, log entry 40. -/
def Obligations.PulseAddsOneToItsCounter : Prop :=
  ∀ (s : State) (t : TileId) (ev : BitVec 8),
    (∀ src, waiters s t ev.toNat = [] → evCount s t ev.toNat < 0xFFFF → (src = none → dieDelays s t true = false) →
      (∀ a, src = some a → (takeFlight s { src := a, dst := t, response := false, load := .pulse ev.toNat }).isSome = true) →
      ∃ u, exec (.pulseArrive ⟨src, t⟩ ev) s = .next u ∧ evCount u t ev.toNat = evCount s t ev.toNat + 1 ∧
        (∀ e, e ≠ ev.toNat → evCount u t e = evCount s t e) ∧ u.regs = s.regs ∧ u.seqs = s.seqs ∧ u.mem = s.mem) ∧
    (∀ c : CoreId, c.tile = t → Runs s c → waiters s t ev.toNat = [] → evCount s t ev.toNat < 0xFFFF →
      ∀ pos tile, ∃ u, exec (.pulse c ev 0 pos tile) s = .next u ∧
        evCount u t ev.toNat = evCount s t ev.toNat + 1 ∧ u.seq c = (s.seq c).goOn ∧ u.regs = s.regs ∧ u.mem = s.mem)

/-- R25 and R466 for a descriptor that is accepted at once. -/
def Obligations.IssuePlacesTheDescriptor : Prop :=
  ∀ (s : State) (c : CoreId) (queue : BitVec 4) (space : Bool) (offset : BitVec 32), Runs s c →
    queue.toNat < 4 → offset.toNat % 64 = 0 → offset.toNat + 64 ≤ spaceSize s c space →
    let a := spaceBase c space + offset.toNat
    let d := readBytes s (.tile c.tile false) a 64
    let v := verifyIssue s c queue.toNat a d
    v.1 = [] → descPoisoned s c a = none → descOk v.2 c queue.toNat d = true → (verifyFormat v.2 (descTensor queue.toNat d)).1 = [] →
    (nthD [] (s.seq c).queues queue.toNat).length < 16 →
    ∃ t e, exec (.issue c queue space offset) s = .next t ∧
      t.seq c = { (s.seq c).goOn with
        queues := setNth (s.seq c).queues queue.toNat (nthD [] (s.seq c).queues queue.toNat ++ [e])
        issued := setNth (s.seq c).issued queue.toNat (nthD 0 (s.seq c).issued queue.toNat + 1) } ∧
      e.desc = d ∧ e.addr = a ∧ e.pc = (s.seq c).pc ∧ e.index = nthD 0 (s.seq c).issued queue.toNat ∧ e.done = false

/-- R44, R45, R49, R262, R277, R328 and R465 over PHASE_BEGIN, PHASE_GRANT and PHASE_END. The tile's next phase may begin in the beat after
its end, log entry 5. -/
def Obligations.PhasesBeginAndEndPerCore : Prop :=
  ∀ (s : State),
    (∀ (c : CoreId) (phase : BitVec 12), Runs s c → (s.seq c).inPhase = false → (coreNext s c).2 = phase.toNat →
      exec (.phaseBegin c phase) s = .next (s.setSeq c { s.seq c with status := .waitPhase phase.toNat })) ∧
    (∀ (t : TileId) (phase : BitVec 12) (e : PhaseEntry), (∀ u, (s.tile u).stopped = false) →
      entryAt s phase.toNat = some e → isCommit e = false → (s.tile t).nextPhase = phase.toNat →
      phaseDue s t = true → tileReady s t phase.toNat = true →
      ∃ u, exec (.phaseGrant t phase) s = .next u ∧ (u.tile t).active = true ∧
        (∀ c : CoreId, c.tile = t → (u.seq c).status = .running ∧ (u.seq c).pc = (s.seq c).pc + 1 ∧
          (u.seq c).granted = some ((s.tile t).nextStep, phase.toNat) ∧ (u.seq c).inPhase = true) ∧
        (∀ c : CoreId, c.tile ≠ t → u.seq c = s.seq c) ∧ u.mem = s.mem) ∧
    (∀ (c d : CoreId) (phase : BitVec 12) (e : PhaseEntry), (∀ u, (s.tile u).stopped = false) → Runs s c →
      entryAt s phase.toNat = some e → isCommit e = false → (s.seq c).inPhase = true →
      (s.seq c).granted.map (·.2) = some phase.toNat → queuesEmpty (s.seq c) 15 = true →
      d.tile = c.tile → d ≠ c → d.core.val ∉ (s.tile c.tile).reported →
      exec (.phaseEnd c phase) s = .next ((s.setSeq c { (s.seq c).goOn with inPhase := false }).setTile c.tile
        { s.tile c.tile with reported := insertOnce c.core.val (s.tile c.tile).reported })) ∧
    (∀ (t : TileId) (phase : BitVec 12) (e : PhaseEntry), (∀ u, (s.tile u).stopped = false) →
      entryAt s phase.toNat = some e → isCommit e = true → (s.tile t).nextPhase = phase.toNat →
      phaseDue s t = true → tileReady s t phase.toNat = true →
      let n := (s.tile t).nextStep
      ∃ u, exec (.phaseGrant t phase) s = .next u ∧ (u.tile t).active = true ∧
        (∀ c : CoreId, c.tile = t → (u.seq c).status = .running ∧ (u.seq c).pc = (s.seq c).pc + 1 ∧
          (u.seq c).granted = some (n, phase.toNat) ∧ (u.seq c).inPhase = true) ∧
        (∀ o b, s.stp.verdict = some (n, o, b) → o ≠ 0 ∨ (phaseRec s n phase.toNat).start.isSome = true →
          u.mem = s.mem ∧ u.stp = s.stp ∧ u.dies = s.dies) ∧
        (∀ b, s.stp.verdict = some (n, 0, b) → (phaseRec s n phase.toNat).start.isSome = false →
          u.stp = { s.stp with walkDone := false } ∧ ∃ v, u = infuserWalk v n ∧ v.mem = s.mem ∧ v.dies = s.dies)) ∧
    (∀ (c : CoreId) (n : Nat) (phase : BitVec 12) (e : PhaseEntry), LastToEnd s c n phase.toNat e →
      (isCommit e = true → s.stp.walkDone = true) →
      ∃ u, exec (.phaseEnd c phase) s = .next u ∧ u.seq c = { (s.seq c).goOn with inPhase := false } ∧
        u.tile c.tile = { s.tile c.tile with active := false, reported := [], endBeat := s.now + 1
                                             nextStep := (nextFrom s.car.entries c.tile n (phase.toNat + 1)).1
                                             nextPhase := (nextFrom s.car.entries c.tile n (phase.toNat + 1)).2 } ∧
        (¬ EndsOnModule s c.tile n phase.toNat e → u.car.seq = s.car.seq ∧ u.stp = s.stp ∧ u.regs = s.regs ∧ u.mem = s.mem) ∧
        (EndsOnModule s c.tile n phase.toNat e →
          (isCommit e = false → u.stp =
            (if (entryAt s (phase.toNat + 1)).any isCommit then { s.stp with due := some n } else s.stp)) ∧
          (isCommit e = false → MakesRecord s e → RecordMade s u n phase.toNat e) ∧
          (isCommit e = true → ∀ o b, s.stp.verdict = some (n, o, b) → held u = (held s ||
            fbit s TBU_RESTART f_TBU_RESTART_HOLD_REQ || (fbit s TBU_RESTART f_TBU_RESTART_HOLD_ON_WITHHELD && o == 2)))))


/-! ### The block: its queue and its tick -/

/-- A step of the block. The empty queue is log entry 1. -/
def Obligations.AStepRunsTheCommandInFront : Prop :=
  (∀ (s : State) (c : Instr), step { s with pending := c :: s.pending } = exec c s) ∧
  (∀ s : State, s.pending = [] → s.pwr.applied = true → slewDue s = false → s.now + 1 < 2 ^ 64 →
    ∃ t, step s = .next t ∧ t.now = s.now + 1)

/-- What stops a run: one fault, and no refusal. Where the manual is silent it states
the model's own reading or choice, log entry 28. -/
def Obligations.NoCommandIsRefused : Prop :=
  ∀ (c : Instr) (s : State), (∃ t, exec c s = .next t) ∨
    (exec c s = .fault .beyondAbsoluteLimits ∧ ∃ mv ca, c = .inputSample mv ca ∧ (mv < -500 ∨ 45000 < mv))

/-- The reset state, the manual's values and those of log entries 3 and 4. -/
def Obligations.ResetIsTheStateOfTheManual : Prop :=
  (∀ a, State.reset.reg a = (regReset a).toNat) ∧ fget State.reset PWR_STATE f_PWR_STATE_STATE = 0 ∧
  State.reset.pins.modrst = true ∧ State.reset.pending = [] ∧ State.reset.job.loaded = false ∧ State.reset.car.running = false ∧
  fbit State.reset TBU_STATUS f_TBU_STATUS_CAROUSEL_IDLE = true ∧ fget State.reset TBU_CTL f_TBU_CTL_CAROUSEL_RUN = 0 ∧
  (∀ c, (State.reset.seq c).status = .stopped ∧ (State.reset.seq c).queues = [[], [], [], []]) ∧
  (∀ t ev, evCount State.reset t ev = 0)

/-- The invariant of StepsKeepTheCanonicalForm holds at reset. -/
def Obligations.ResetIsCanonical : Prop := State.reset.Canonical

/-- The invariant over every command and every tick. -/
def Obligations.StepsKeepTheCanonicalForm : Prop :=
  ∀ s t : State, s.Canonical → step s = .next t → t.Canonical

/-! ### The timebase unit (spec/02) -/

/-- SYNC and SYNC_ARM. Where the manual is silent it states
the model's own reading or choice, log entry 56. -/
def Obligations.SyncLoadsTheBeatCounter : Prop :=
  ∀ s : State,
    (∀ r, mayWrite s r (some grpTimebase) = true → exec (.syncArm r) s = .next (fset s TBU_CTL f_TBU_CTL_SYNC_ARM 1)) ∧
    (s.pins.beatPresent = true → fbit s TBU_CTL f_TBU_CTL_SYNC_ARM = true → s.car.running = false →
      ∃ t, exec .sync s = .next t ∧ t.now = s.reg TBU_SYNC_VALUE ∧ fbit t TBU_CTL f_TBU_CTL_SYNC_ARM = false ∧
        fbit t TBU_STATUS f_TBU_STATUS_SYNC_SEEN = true ∧ fbit t TBU_STATUS f_TBU_STATUS_HOLDOVER = false ∧
        (∀ k : TileId, t.tile k = { s.tile k with endBeat := min (s.tile k).endBeat t.now }) ∧
        KeepsMemory s t ∧ KeepsUnits { s with tiles := t.tiles } t ∧ KeepsJob s t) ∧
    (s.pins.beatPresent = true → fbit s TBU_CTL f_TBU_CTL_SYNC_ARM = false → fbit s TBU_STATUS f_TBU_STATUS_HOLDOVER = false →
      (s.syncBase = none → exec .sync s = .next s) ∧
      (∀ b, s.syncBase = some b →
        let p := faddr s TBU_SYNC_PERIOD f_TBU_SYNC_PERIOD_PERIOD
        ((p = 0 ∨ ((s.now : Int) - b) % p = 0) → exec .sync s = .next s) ∧
        (p ≠ 0 → ((s.now : Int) - b) % p ≠ 0 → ∃ t, exec .sync s = .next t ∧ t.beat = s.beat ∧
          fbit t TBU_STATUS f_TBU_STATUS_SYNC_SLIP = true ∧
          fget t TBU_STATUS f_TBU_STATUS_SLIP_COUNT = min 0xFFFF (fget s TBU_STATUS f_TBU_STATUS_SLIP_COUNT + 1) ∧
          KeepsMemory s t ∧ KeepsUnits s t ∧ KeepsJob s t)))

/-- BEAT_LOSS and BEAT_RETURN. Where the manual is silent it states
the model's own reading or choice, log entries 35 and 56. -/
def Obligations.BeatLossHoldsOrRunsOn : Prop :=
  ∀ s : State,
    (s.pins.beatPresent = true → ∃ t, exec .beatLoss s = .next t ∧ t.pins.beatPresent = false ∧
      fbit t TBU_STATUS f_TBU_STATUS_BEAT_OK = false ∧ fbit t TBU_STATUS f_TBU_STATUS_HOLDOVER = true ∧
      (s.car.running = true → held s = false → held t = !fbit s TBU_CTL f_TBU_CTL_HOLDOVER_EN) ∧
      (s.car.running = true → fbit s TBU_CTL f_TBU_CTL_HOLDOVER_EN = false → held t = true ∧ t.car.beatHold = true) ∧
      t.beat = s.beat ∧ KeepsMemory s t ∧ KeepsUnits s t) ∧
    (∃ t, exec .beatReturn s = .next t ∧ t.pins.beatPresent = true ∧ fbit t TBU_STATUS f_TBU_STATUS_BEAT_OK = true ∧
      fget t TBU_STATUS f_TBU_STATUS_HOLDOVER = fget s TBU_STATUS f_TBU_STATUS_HOLDOVER ∧
      KeepsRegsBut [TBU_STATUS] s t ∧ KeepsMemory s t ∧ KeepsUnits s t ∧ KeepsJob s t)

/-- SLEW, SLEW_ADD, SLEW_BEAT and PTP_EVENT_MESSAGE. Where the manual is silent it states
the model's own reading or choice, log entries 56 and 114. -/
def Obligations.SlewsMoveTheCounterOneBeatAWindow : Prop :=
  ∀ s : State,
    (∀ amount, s.pins.boardPos = 0 → exec (.slew .firmware amount) s =
      let a := signed 16 (BitVec.toNat amount)
      let m := fun k => OutMsg.slew k a (s.now + 1024)
      .next { s with slews := s.slews ++ [(a, s.now + 1024)]
                     out := s.out ++ (([0, 1, 2].filter fun k => spanOpen s k).map m)
                     spanHeld := s.spanHeld ++ ([0, 1, 2].filter fun k => !spanOpen s k).map fun k => (k, m k) }) ∧
    (∀ (amount : BitVec 16) (apply : Word), apply.toNat ≤ s.now →
      (s.pins.boardPos = 0 ∧ s.slews.contains (signed 16 amount.toNat, apply.toNat) = true ∨
        s.pins.boardPos ≠ 0 ∧ fbit s TBU_CTL f_TBU_CTL_SLEW_FROM_SPAN = true) →
      -2 ^ 31 ≤ slewRemain s + signed 16 amount.toNat → slewRemain s + signed 16 amount.toNat < 2 ^ 31 →
      ∃ t, exec (.slewAdd amount apply) s = .next t ∧ slewRemain t = slewRemain s + signed 16 amount.toNat ∧
        t.beat = s.beat ∧ KeepsRegsBut [TBU_SLEW, TBU_STATUS] s t ∧ KeepsMemory s t ∧ KeepsUnits s t ∧ KeepsJob s t) ∧
    (s.windowStart = true → slewRemain s ≠ 0 → s.now + 2 < 2 ^ 64 → ∃ t, exec .slewBeat s = .next t ∧
      t.now = (if 0 < slewRemain s then s.now + 2 else s.now) ∧
      slewRemain t = (if 0 < slewRemain s then slewRemain s - 1 else slewRemain s + 1) ∧
      (s.stp.due = none → (∀ k, (s.tile k).stopped = false) →
        KeepsRegsBut [TBU_SLEW] s t ∧ KeepsMemory s t ∧ KeepsUnits { s with tiles := t.tiles } t ∧
        ∀ k : TileId, t.tile k = if 0 < slewRemain s then s.tile k else { s.tile k with endBeat := min (s.tile k).endBeat s.now })) ∧
    (∀ (port : Fin 16) (frac : Byte) (offset : BitVec 32), port.val = fget s TBU_CTL f_TBU_CTL_PTP_PORT →
      ∃ t, exec (.ptpEventMessage port frac offset) s = .next t ∧ t.reg TBU_PTP_OFFSET = offset.toNat ∧
        t.out = s.out ++ [.delayRequest (frameAt s port.val (fget s LNK_DSCP f_LNK_DSCP_PTP) 319 [])] ∧
        KeepsRegsBut [TBU_PTP_OFFSET] s t ∧ KeepsMemory s t ∧ KeepsUnits s t ∧ KeepsJob s t)

/-- CAROUSEL_START, CAROUSEL_STOP and ENVELOPE_DECLARE. Where the manual is silent it states
the model's own reading or choice, log entries 35, 67 and 102. -/
def Obligations.TheCarouselStartsAndStops : Prop :=
  ∀ (s : State) (r : Requester),
    (mayWrite s r (some grpTimebase) = true →
      (stepPeriod s = 0 → exec (.carouselStart r) s = .next (fset s TBU_STATUS f_TBU_STATUS_PERIOD_ERR 1)) ∧
      (stepPeriod s ≠ 0 → s.car.running = true → exec (.carouselStart r) s =
        .next (fset { s with car := { s.car with stopping := false } } TBU_CTL f_TBU_CTL_CAROUSEL_RUN 1)) ∧
      (stepPeriod s ≠ 0 → s.car.running = false → fget s PWR_STATE f_PWR_STATE_STATE = 2 → (∀ u, (s.tile u).stopped = false) →
        ∃ t, exec (.carouselStart r) s = .next t ∧ t.car.running = true ∧
          t.car.startStep = some (fget s TBU_RESTART f_TBU_RESTART_STEP) ∧
          (∀ v, t.stp.verdict = some v → v.1 < fget s TBU_RESTART f_TBU_RESTART_STEP) ∧
          (∀ v, t.stp.sent = some v → v.1 < fget s TBU_RESTART f_TBU_RESTART_STEP) ∧
          fbit t TBU_CTL f_TBU_CTL_CAROUSEL_RUN = true ∧ fbit t TBU_STATUS f_TBU_STATUS_CAROUSEL_IDLE = false ∧
          fget t PWR_STATE f_PWR_STATE_STATE = 3 ∧
          (∀ u, ((t.tile u).nextStep, (t.tile u).nextPhase) =
            nextFrom s.car.entries u (fget s TBU_RESTART f_TBU_RESTART_STEP) 0 ∧ (t.tile u).active = false) ∧
          KeepsRegsBut [TBU_CTL, TBU_STATUS, PWR_STATE, INF_STATUS] s t ∧ KeepsMemory s t ∧ t.seqs = s.seqs)) ∧
    (mayWrite s r (some grpTimebase) = true → s.car.running = true →
      ∃ t, exec (.carouselStop r) s = .next t ∧ fbit t TBU_CTL f_TBU_CTL_CAROUSEL_RUN = false ∧
        ((∃ u, (s.tile u).active = true) → t.car = { s.car with stopping := true } ∧ KeepsRegsBut [TBU_CTL] s t) ∧
        ((∀ u, (s.tile u).active = false) → t.car.running = false ∧ fbit t TBU_STATUS f_TBU_STATUS_CAROUSEL_IDLE = true) ∧
        KeepsMemory s t ∧ KeepsUnits s t) ∧
    (∀ (phase : BitVec 12) (e : PhaseEntry), entryAt s phase.toNat = some e → s.car.running = true → held s = false →
      epochOf s (declareStep s phase.toNat) + e.earliest.toNat ≤ s.now + fget s TBU_ENV_LEAD f_TBU_ENV_LEAD_LEAD →
      ∃ t, exec (.envelopeDeclare phase) s = .next t ∧
        t.pwr.envelopes = s.pwr.envelopes ++ [(declareStep s phase.toNat, phase.toNat, e.envelope.toNat, isCollective e)] ∧
        t.regs = s.regs ∧ KeepsMemory s t ∧ KeepsUnits s t)

/-! ### Arithmetic (spec/03 to spec/05, spec/07) -/

/-- R57 over the rounding that every conversion uses. -/
def Obligations.RoundingIsToNearestTiesToEven : Prop :=
  ∀ m d : Nat, let q := rneShift m (-(d : Int))
    2 * m ≤ (2 * q + 1) * 2 ^ d ∧ 2 * q * 2 ^ d ≤ 2 * m + 2 ^ d ∧
    ((2 * m = (2 * q + 1) * 2 ^ d ∨ 2 * q * 2 ^ d = 2 * m + 2 ^ d) → 0 < d → q % 2 = 0)

/-- Decoding and encoding of the float formats agree. -/
def Obligations.FloatCodesConvertToThemselves : Prop :=
  ∀ f ∈ [fmtBF16, fmtFP16, fmtFP32], ∀ x < 2 ^ fmtBits f.code, (decodeVal f x).isNan = false →
    (convertFloat f true (decodeVal f x)).code = x ∧ (convertFloat f true (decodeVal f x)).fl = {}

/-- Tables NUM-6 and NUM-7 over the float formats. That NANIN belongs to the read, not to the
conversion, is the model's own reading, log entry 117. -/
def Obligations.OutOfRangeValuesSaturateOrOverflow : Prop :=
  ∀ f ∈ [fmtBF16, fmtFP16, fmtFP32], ∀ strict s : Bool,
    (∀ m e, m ≠ 0 → outOfRange f m e = true →
      (convertFloat f strict (.fin s m e)).fl = { ovf := true } ∧
      decodeVal f (convertFloat f strict (.fin s m e)).code =
        if strict then .inf s else .fin s (fmtMax f).1 (fmtMax f).2) ∧
    decodeVal f (convertFloat f strict (.inf s)).code = .inf s ∧ (convertFloat f strict (.inf s)).fl = {} ∧
    (convertFloat f strict .nan).code = canonicalNan f.code ∧ (convertFloat f strict .nan).fl = {} ∧
    (∀ (e : Elem) (g : Got), e.real = true → g.v = .nan →
      (makeFloat f.code strict e g).fl = { nanin := true }) ∧
    (accInput .nan).fl = { nanin := true } ∧ (accInput .nan).origin = some 0 ∧
    (decodeVal f (canonicalNan f.code)).isNan = true

/-- R107, over the window of R105 and R106. -/
def Obligations.TheWindowSumDoesNotDependOnTheOrder : Prop :=
  let finite := fun (p : Val) => ∃ s m e, p = .fin s m e
  let cut := fun (u : Int) (p : Val) => match p with
    | .fin s m x =>
      let t : Int := if u ≤ x then m * 2 ^ (x - u).toNat else (m / 2 ^ (u - x).toNat : Nat)
      if s then -t else t
    | _ => 0
  (∀ ps qs : List Val, ps.Perm qs → windowSum ps = windowSum qs) ∧
  (∀ ps : List Val, ps.length = 32 → (∀ p ∈ ps, finite p) →
    let u := (windowSum ps).2
    (windowSum ps).1 = (ps.map (cut u)).sum ∧ (∀ p ∈ ps, (cut u p).natAbs < 2 ^ 49) ∧
    (∀ qs, ps.Perm qs → ∀ n, ((qs.take n).map (cut u)).sum.natAbs < 2 ^ 54) ∧
    ((∀ p ∈ ps, p.isZero = true) → (windowSum ps).1 = 0)) ∧
  (∀ (strict : Bool) (sa sb : Nat) (ab : List (Val × Val)), sa ≠ 0xFF → sb ≠ 0xFF → ab.length = 32 →
    (∀ p ∈ ab, finite p.1 ∧ finite p.2) → (windowSum (ab.map fun p => Val.mul p.1 p.2)).1 = 0 →
    ∃ e, (groupPartial strict sa sb ab).1 = .fin false 0 e)

/-- What every unit's write does to memory. -/
def Obligations.WritesReachTheirAddressesAlone : Prop :=
  ∀ (s : State) (ag : Agent),
    (∀ (ws : List (Nat × Byte × Bool)) (k : Nat), (∀ w ∈ ws, keyOf s w.1 ≠ k) →
      byteAt (writeCells s ag ws) k = byteAt s k) ∧
    (∀ (a : Nat) (bs : List Byte) (poison : Bool) (i : Nat) (h : i < bs.length),
      (∀ j < bs.length, j ≠ i → keyOf s (a + j) ≠ keyOf s (a + i)) →
      byteAt (writeBytes s ag a bs poison) (keyOf s (a + i)) = bs[i]) ∧
    (∀ (ws : List (Nat × Byte × Bool)) (b : Nat), b < 2 ^ 46 →
      (∃ w ∈ ws, keyOf s w.1 / 512 = b ∧ w.2.2 = true) → mismatchOf (writeCells s ag ws) b = marked) ∧
    (∀ (ws : List (Nat × Byte × Bool)) (b : Nat), (∀ w ∈ ws, keyOf s w.1 / 512 ≠ b) →
      mismatchOf (writeCells s ag ws) b = mismatchOf s b)

/-- The commands of queues 0 and 1, for every descriptor. -/
def Obligations.OperationsWriteTheirResultsAlone : Prop :=
  ∀ (s : State) (c : CoreId) (e : QEntry), fget s (CR_NAN_CTL c.tile.val c.core.val) f_CR_NAN_CTL_MODE ≠ 2 →
    (headOf s c 0 4 1 = some e → (parseMatrix e.desc).empty = true →
      exec (.matrixOperation c) s = .next (markDone s c 0)) ∧
    (headOf s c 0 4 1 = some e → (parseMatrix e.desc).empty = false → ∃ t, exec (.matrixOperation c) s = .next t ∧
      ResultsWritten s (matrixOut s c e).1 c 0 (parseMatrix e.desc).tensor (outCells (matrixOut s c e).2) t) ∧
    (let x := parseMatrix e.desc
      let w := (s.seq c).weights
      headOf s c 0 4 1 = some e → x.mode = 0 → w.tile + 1 < weightTiles x → (w.next = none ∨ w.next = some (w.tile + 1)) →
      ∃ v : Weights, exec (.weightTileSwap c) s = .next (s.setSeq c { s.seq c with weights := v }) ∧ v.tile = w.tile + 1 ∧
        v.next = (if w.tile + 2 < weightTiles x then some (w.tile + 2) else none) ∧
        ((weightTileAt x (w.tile + 1)).1 = (weightTileAt x w.tile).1 → v.half = w.half ∧ v.drain = w.drain)) ∧
    (∀ i j, let x := parseMatrix e.desc
      let p := weightTileAt x i
      let q := weightTileAt x j
      i < j → j < weightTiles x → p.1.headD 0 < q.1.headD 0 ∨
        p.1 = q.1 ∧ (p.2.1 < q.2.1 ∨ p.2.1 = q.2.1 ∧ p.2.2 < q.2.2)) ∧
    (headOf s c 0 4 2 = some e → ∃ t, exec (.convolution c) s = .next t ∧
      ResultsWritten s (convolutionOut s c e).1 c 0 (parseWindow true e.desc).tensor (outCells (convolutionOut s c e).2) t) ∧
    (headOf s c 1 8 0x40 = some e → ∃ t, exec (.combine c) s = .next t ∧
      ResultsWritten s (combineOut s c e).1 c 1 (parseCombine e.desc).tensor (outCells (combineOut s c e).2) t) ∧
    (headOf s c 1 8 0x41 = some e → bitAt (field e.desc 0 4) 9 = false → ∃ t, exec (.maxPooling c) s = .next t ∧
      ResultsWritten s (poolingOut s c e).1 c 1 (parseWindow false e.desc).tensor (outCells (poolingOut s c e).2) t) ∧
    (headOf s c 1 8 0x41 = some e → bitAt (field e.desc 0 4) 9 = true → ∃ t, exec (.averagePooling c) s = .next t ∧
      ResultsWritten s (poolingOut s c e).1 c 1 (parseWindow false e.desc).tensor (outCells (poolingOut s c e).2) t) ∧
    (headOf s c 1 8 0x42 = some e → ∃ t, exec (.merge c) s = .next t ∧
      ResultsWritten s (mergeOut s c e).1 c 1 (parseMerge e.desc).tensor (outCells (mergeOut s c e).2) t) ∧
    (headOf s c 1 8 0x44 = some e → ∃ t, exec (.precondition c) s = .next t ∧
      ResultsWritten s (preconditionOut s c e).1 c 1 0xFFFF
        (preconditionCells c (parsePre e.desc) (preconditionOut s c e).2) t)

/-- R74 to R78. Where the manual is silent it states
the model's own reading or choice, log entry 11. -/
def Obligations.NanTrapRecordsTheFirstNan : Prop :=
  ∀ (s : State) (c : CoreId) (queue : Nat) (e : QEntry) (ws : List NanWrite), ws ≠ [] →
    let mode := fget s (CR_NAN_CTL c.tile.val c.core.val) f_CR_NAN_CTL_MODE
    let info := CR_NAN_INFO c.tile.val c.core.val
    let op := CR_NAN_OP c.tile.val c.core.val
    let more := CR_NAN_MORE c.tile.val c.core.val
    let t := nanTrap s c queue e ws
    (mode = 0 → t = s) ∧
    (mode ≠ 0 → fbit s info f_CR_NAN_INFO_VALID = true → t = fadd s more f_CR_NAN_MORE_COUNT ws.length) ∧
    (mode = 1 ∨ mode = 3 → fbit s info f_CR_NAN_INFO_VALID = false →
      fbit t info f_CR_NAN_INFO_VALID = true ∧ t.reg (CR_NAN_BEAT c.tile.val c.core.val) = s.now ∧
      (∃ w ∈ ws, fget t info f_CR_NAN_INFO_ORIGIN = w.origin % 2 ^ f_CR_NAN_INFO_ORIGIN.width ∧
        fget t info f_CR_NAN_INFO_UNIT = w.unit % 2 ^ f_CR_NAN_INFO_UNIT.width) ∧
      fget t op f_CR_NAN_OP_OP_INDEX = e.index % 2 ^ f_CR_NAN_OP_OP_INDEX.width ∧
      fget t op f_CR_NAN_OP_QUEUE = queue % 2 ^ f_CR_NAN_OP_QUEUE.width ∧
      fget t op f_CR_NAN_OP_PC = e.pc % 2 ^ f_CR_NAN_OP_PC.width ∧
      fget t more f_CR_NAN_MORE_COUNT =
        min f_CR_NAN_MORE_COUNT.max (fget s more f_CR_NAN_MORE_COUNT + (ws.length - 1)) ∧
      KeepsMemory s t ∧ KeepsUnits s t ∧ KeepsJob s t) ∧
    (mode = 2 → fbit s info f_CR_NAN_INFO_VALID = false → (t.tile c.tile).stopped = true) ∧
    (∀ r, mayWrite s r (some grpTile) = true →
      let record := [info, CR_NAN_BEAT c.tile.val c.core.val, op, CR_NAN_COORD c.tile.val c.core.val, more]
      ∃ t, exec (.nanTrapClear r c) s = .next t ∧ (∀ a ∈ record, t.reg a = 0) ∧ KeepsRegsBut record s t ∧
        KeepsMemory s t ∧ KeepsUnits s t ∧ KeepsJob s t)

/-! ### Contexts, walkers and attention (spec/08) -/

/-- The commands that edit no mapping, where the result word lies apart from the record. Where the manual is silent it states
the model's own reading or choice, log entry 13. -/
def Obligations.ContextsParkResumeSetAndAdvance : Prop :=
  ∀ (s : State) (c : CoreId) (e : QEntry),
    let k := parseScu e.desc
    let x := ctxOf (ctxVerified s c k.ctx) k.ctx
    let done := fun (t : State) (y : Ctx) => ctxOf t k.ctx = y ∧ t.seqs = (markDone s c 3).seqs ∧ t.pools = s.pools ∧
      ∀ a, (∀ j < 64, a ≠ keyOf s (ctxAddr s k.ctx + j)) → (∀ i < 8, a ≠ keyOf s (k.result + i)) → byteAt t a = byteAt s a
    let n := if k.mask then leadingOnes k.arg0 else k.arg0
    ResultApart s k →
    (∀ u, ScuTakes s c 6 e u → k.move = false → x.state = 1 → ∃ t, exec (.scuPark c) s = .next t ∧ done t { x with state := 2 }) ∧
    (∀ u, ScuTakes s c 7 e u → k.move = false → x.state = 2 → ∃ t, exec (.scuResume c) s = .next t ∧ done t { x with state := 1 }) ∧
    (∀ u, ScuTakes s c 8 e u → (x.state = 1 ∨ x.state = 2) → ((k.mode = 1 ∨ k.mode = 3) → k.maskParam ≠ 0) →
      ∃ t, exec (.scuSet c) s = .next t ∧ done t { x with mode := k.mode % 4, maskParam := k.maskParam }) ∧
    (∀ u, ScuTakes s c 5 e u → k.release = false → x.state = 1 → x.length + n ≤ x.groups * 64 → x.length + n < 2 ^ 32 →
      ∃ t, exec (.scuAdvance c) s = .next t ∧ done t { x with length := x.length + n })

/-- The commands that edit a mapping. -/
def Obligations.EditsReplaceTheMappingOfAContext : Prop :=
  ∀ (s : State) (c : CoreId) (e : QEntry),
    let k := parseScu e.desc
    let o := ownerOf k.ctx
    let g := sliceReader k.ctx
    let x := ctxOf (ctxVerified s c k.ctx) k.ctx
    let done := fun (t : State) => t.seqs = (markDone s c 3).seqs
    let n := if k.mask then leadingOnes k.arg0 else k.arg0
    ResultApart s k →
    (∀ u as s2, ScuTakes s c 1 e u → x.state = 0 → ((k.mode = 1 ∨ k.mode = 3) → k.maskParam ≠ 0) →
      poolTake u g (tablePool u) 1 = some (as, s2) → ∃ t, exec (.scuOpen c) s = .next t ∧ done t ∧
        (ctxOf t k.ctx).state = 1 ∧ (ctxOf t k.ctx).length = 0 ∧ (ctxOf t k.ctx).groups = 0 ∧
        (ctxOf t k.ctx).gen = x.gen ∧ t.pools = s2.pools ∧ t.slice o = { s.slice o with stalled := none }) ∧
    (∀ u, ScuTakes s c 2 e u → (x.state = 1 ∨ x.state = 2) → editFits u o (allItems u k.ctx x).length = true →
      ∃ t, exec (.scuClose c) s = .next t ∧ done t ∧ (ctxOf t k.ctx).state = 0 ∧ (ctxOf t k.ctx).groups = 0 ∧
        (ctxOf t k.ctx).gen = (if (unmapItems u k.ctx x 0).isEmpty then x.gen else nextGen x.gen) ∧
        t.slice o = (s.slice o).edited (allItems u k.ctx x)) ∧
    (∀ u as ls s2 s3, ScuTakes s c 3 e u → x.state = 1 → x.groups + k.arg0 ≤ 65536 →
      poolTake u g k.pool k.arg0 = some (as, s2) → poolTake s2 g (tablePool s2) (leavesNeeded u k.ctx x k.arg0) = some (ls, s3) →
      editFits u o 0 = true → ∃ t, exec (.scuAppend c) s = .next t ∧ done t ∧
        (ctxOf t k.ctx).groups = x.groups + k.arg0 ∧ (ctxOf t k.ctx).gen = nextGen x.gen ∧
        t.slice o = (s.slice o).edited []) ∧
    (∀ u items root s2, ScuTakes s c 4 e u → x.state = 1 → k.arg0 ≤ x.length →
      unmapFrom u k.ctx x (ceilDiv k.arg0 64) = some (items, root, s2) → editFits u o items.length = true →
      ∃ t, exec (.scuTruncate c) s = .next t ∧ done t ∧ (ctxOf t k.ctx).length = k.arg0 ∧
        (ctxOf t k.ctx).groups = min x.groups (ceilDiv k.arg0 64) ∧ (ctxOf t k.ctx).gen = nextGen x.gen ∧
        t.slice o = (s.slice o).edited items) ∧
    (∀ u items root s2, ScuTakes s c 5 e u → k.release = true → x.state = 1 → x.length + n ≤ x.groups * 64 →
      x.length + n < 2 ^ 32 → unmapFrom u k.ctx x (ceilDiv (x.length + n) 64) = some (items, root, s2) →
      items ≠ [] → editFits u o items.length = true →
      ∃ t, exec (.scuAdvance c) s = .next t ∧ done t ∧ (ctxOf t k.ctx).length = x.length + n ∧
        (ctxOf t k.ctx).groups = min x.groups (ceilDiv (x.length + n) 64) ∧ (ctxOf t k.ctx).gen = nextGen x.gen ∧
        t.slice o = (s.slice o).edited items)

/-- BAD_STATE and GEN_MISMATCH, for each of the eight commands. Where the manual is silent it states
the model's own reading or choice, log entry 13. -/
def Obligations.CommandsOutOfStateChangeNothing : Prop :=
  ∀ (s : State) (c : CoreId) (e : QEntry),
    let k := parseScu e.desc
    let x := ctxOf (ctxVerified s c k.ctx) k.ctx
    let same := fun (t : State) => t.seqs = (markDone s c 3).seqs ∧ t.pools = s.pools ∧ t.moves = s.moves ∧
      ∀ a, (∀ i < 8, a ≠ keyOf s (k.result + i)) → byteAt t a = byteAt s a
    ∀ p ∈ [(1, Instr.scuOpen c, [0]), (2, .scuClose c, [1, 2]), (3, .scuAppend c, [1]), (4, .scuTruncate c, [1]),
        (5, .scuAdvance c, [1]), (6, .scuPark c, [1]), (7, .scuResume c, [2]), (8, .scuSet c, [1, 2])],
      ((∃ u, ScuTakes s c p.1 e u) → x.state ∉ p.2.2 → ∃ t, exec p.2.1 s = .next t ∧ same t) ∧
      (ScuHeard s c p.1 e → k.checkGen = true → k.expect ≠ x.gen →
        ∃ t, exec p.2.1 s = .next t ∧ same t)

/-- WALKER_START, QUARANTINE_RELEASE and STALLED_EDIT_APPLY. -/
def Obligations.WalkersRegisterAndWindowsAreReleased : Prop :=
  ∀ s : State,
    (∀ (c : CoreId) (entry : Nat) (e : QEntry), attHead s c = some e →
      let x := parseAtt e.desc
      let l := ltEntry s c x entry
      let o := ownerOf l.ctx
      let v := ctxVerified s c l.ctx
      let y := ctxOf v l.ctx
      entry < x.entries → walkerOf s c entry l.ctx = none →
      tablesHeld s l.ctx (ctxOf s l.ctx) (walkReads x l (ctxOf s l.ctx)) = false →
      (sliceVerify s c.tile c.core.val l.ctx [(ctxAddr s l.ctx, 64)]).1 = true → y.state ≠ 3 →
      (readTables v c.tile c.core.val l.ctx y (walkReads x l y)).1 = true →
      walkerCause (readTables v c.tile c.core.val l.ctx y (walkReads x l y)).2 c x l y = 0 →
      ∃ t, exec (.walkerStart c entry) s = .next t ∧
        t.slice o = { s.slice o with walkers := (s.slice o).walkers ++
          [⟨coreNumber c, entry, l.ctx, ctxRecord v l.ctx, (s.slice o).current⟩] } ∧
        t.mem = s.mem ∧ t.env = s.env ∧ t.seqs = s.seqs ∧ ∀ k, (t.tile k).stopped = (s.tile k).stopped) ∧
    (∀ (t : TileId) (w : Nat), (closedWindows (s.slice t)).find? (fun w => !(nthD [] (s.slice t).windows w).isEmpty) = some w →
      (∀ k ∈ (s.slice t).walkers, k.window ≠ w ∧
        k.window ∉ (closedWindows (s.slice t)).takeWhile fun v => (nthD [] (s.slice t).windows v).isEmpty) →
      (∀ i ∈ nthD [] (s.slice t).windows w, i.1 < 16 ∧
        ∀ n < 2 ^ fget s (SCU_POOL_CTL i.1) f_SCU_POOL_CTL_LOG2_ENTRIES, slotReachable s t i.1 n = true) → anyHeld s = false →
      ∃ u, exec (.quarantineRelease t) s = .next u ∧
        u.slice t = { s.slice t with windows := setNth (s.slice t).windows w [] } ∧
        (∀ p < 16, fget u (SCU_POOL_FREE p) f_SCU_POOL_FREE_FREE = min f_SCU_POOL_FREE_FREE.max
          (fget s (SCU_POOL_FREE p) f_SCU_POOL_FREE_FREE +
            ((nthD [] (s.slice t).windows w).filter fun i => i.1 == p).length)) ∧ u.seqs = s.seqs) ∧
    (∀ (t : TileId) (n : Nat) (e : QEntry), (s.slice t).stalled = some n → n < 768 →
      (nthD [] (s.seq (coreOf n)).queues 3).head? = some e →
      ∀ p ∈ [(2, Instr.scuClose (coreOf n)), (3, .scuAppend (coreOf n)), (4, .scuTruncate (coreOf n)), (5, .scuAdvance (coreOf n))],
        field e.desc 0 1 = p.1 → ∃ u, exec (.stalledEditApply t) s = .next u ∧ exec p.2 s = .next u) ∧
    (∀ (t : TileId) (m : Move), (s.slice t).stalled = some (768 + m.ctx) → s.moves.find? (fun n => 768 + n.ctx == 768 + m.ctx) = some m →
      (readMove s m).1 = true → moveWaits s m = false →
      exec (.stalledEditApply t) s = .next (applyMove (readMove s m).2 m (moveBad s m)))

/-- R191 over PAGE_MOVE_COMPLETE, where the command's result word lies apart from the record. -/
def Obligations.MovedPagesAreMappedInOneEdit : Prop :=
  ∀ (s : State) (ctx : BitVec 20) (m : Move), s.moves.find? (fun m => m.ctx == ctx.toNat) = some m →
    let v := (readMove s m).2
    let x := ctxOf v m.ctx
    let o := ownerOf m.ctx
    (s.slice o).stalled = none → (readMove s m).1 = true → moveWaits s m = false →
    groupsReachable v m x ((layoutOf v (sliceReader m.ctx) x.layout).slices * 2 ^ 15) = true →
    (∃ as s1, poolTake v (sliceReader m.ctx) (tablePool v) (ceilDiv x.groups 512 + 1) = some (as, s1) ∧
      sliceReaches v m.ctx (as.map fun a => (a, 4096)) = true) →
    editFits v o (allItems v m.ctx x).length = true →
    (∀ e, headOf s (coreOf m.core) 3 8 (if m.park then 6 else 7) = some e →
      (parseScu e.desc).ctx = m.ctx ∧ ResultApart s (parseScu e.desc)) →
    ∃ t, exec (.pageMoveComplete ctx) s = .next t ∧ (∀ n ∈ t.moves, n.ctx ≠ m.ctx) ∧
      (ctxOf t m.ctx).state = (if m.park then 2 else 1) ∧ (ctxOf t m.ctx).groups = x.groups ∧
      (ctxOf t m.ctx).gen = nextGen x.gen ∧ t.slice o = (s.slice o).edited (allItems v m.ctx x)

/-- R177 to R182 over ATTENTION. Where the manual is silent it states
the model's own reading or choice, log entries 10 and 14. -/
def Obligations.AttentionWritesItsOutputsAlone : Prop :=
  ∀ (s : State) (c : CoreId) (e : QEntry) (fs : List Feed),
    fget s (CR_NAN_CTL c.tile.val c.core.val) f_CR_NAN_CTL_MODE ≠ 2 → attHead s c = some e →
    let x := parseAtt e.desc
    let o := attentionOut s c e x fs
    feedsOf s c x = some fs → attFaultsAt s c x fs = none → attHeld s c x fs = false → ∃ t, exec (.attention c) s = .next t ∧
      (∀ k, (x.tensor = 0xFFFF ∨ ∀ i < 4, k ≠ keyOf s (formatAddr s x.tensor + 4 + i)) →
        byteAt t k = byteAt (writeCells o.1 (.tile c.tile false) (outCells o.2)) k) ∧
      (x.writeKv = false → ∀ k, byteAt o.1 k = byteAt s k) ∧
      (∀ u, ∀ w ∈ (t.slice u).walkers, w.core ≠ coreNumber c) ∧ t.seqs = (markDone s c 3).seqs ∧ t.car = s.car ∧ t.job = s.job

/-! ### DMA (spec/10, spec/06) -/

/-- The kinds of transfer, each with the addresses that its own units name. Where the manual is silent it states
the model's own reading or choice, log entries 15 and 43. -/
def Obligations.TransfersWriteTheirDestinationsAlone : Prop :=
  ∀ (s u : State) (e : Engine) (a : Nat) (d rec_ : List Byte), TransferStarts s e a d rec_ u →
    let x := parseXfer d
    let r := stridesOf u (chAgent e) x
    let runs := fun (v : State) us => (takeUnits v x none 0 us).2 = false ∧ unitsHeld u e x us = false
    (isPlain x = true → let us := plainUnits x r (srcSide x r) (dstSide x r)
      runs u us → ∃ t, exec (.transfer e) s = .next t ∧ DescCompleted s t e d ∧
        WroteOnly s t e x (unitDst x us)) ∧
    (∀ t ch, e = .tile t ch → x.kind = 2 → x.scrub = false → ∀ l, listedOf u t ch x = some l →
      let v := listEntries u (chAgent e) l
      v.1.stop = none → v.1.poisoned = [] → v.1.lost = false → listHeld u e l = false → (∀ p ∈ listPorts l, portUp u p = true) →
      (listOp s e x = 0 → let us := v.1.run.mapIdx fun p w => gatherUnit v.2 l x (combinedWith v.1.run p) p w
        runs v.2 us → ∃ z, exec (.gather e) s = .next z ∧ DescCompleted s z e d ∧
          WroteOnly s z e x (unitDst x us)) ∧
      (listOp s e x = 1 → let us := v.1.run.mapIdx fun p w => scatterUnit v.2 l x (combinedWith v.1.run p) p w
        runs v.2 us → ∃ z, exec (.scatter e) s = .next z ∧ DescCompleted s z e d ∧
          WroteOnly s z e x (unitDst x us)) ∧
      (listOp s e x = 2 → let us := v.1.run.mapIdx fun p w => scatterUnit v.2 l x none p w
        runs v.2 us → ∃ z, exec (.scatterAdd e) s = .next z ∧ DescCompleted s z e d ∧
          WroteOnly s z e x (unitDst x us))) ∧
    (∀ t ch, e = .tile t ch → x.kind = 3 →
      let w := parseWinRec (readBytes u (chAgent e) x.aux 128)
      ∀ tn, tensorOf u w.tensor = some tn →
      let us := windowUnits u w ⟨parseBlockRec [], tn, holders u tn t.val, t.val, chHome ch⟩ x
      runs u us → ∃ z, exec (.windowLoad e) s = .next z ∧ DescCompleted s z e d ∧
        WroteOnly s z e x (unitDst x us)) ∧
    (x.kind < 2 → x.scrub = false → (x.strain = 1 ∨ x.strain = 2) →
      let c : Instr := if x.strain = 1 then .compress e else .expand e
      (strainRate x rec_ = none → runs u (strainUnits x r) →
        ∃ z, exec c s = .next z ∧ DescCompleted s z e d ∧ WroteOnly s z e x (unitDst x (strainUnits x r))) ∧
      (∀ k, strainRate x rec_ = some k → let w := strainWidth x.srcFmt k
        let bs := strainBoxes x r k
        let touched := boxTouches x r (if x.strain = 1 then x.srcFmt else x.dstFmt) w
        let copies := (scaleOffsets x r (128 * bs.length)).map fun i => x.dstScale + i
        (takeBoxes u touched none 0 bs).2 = false → requestsWait u e (bs.mapIdx fun i b => touched i b).flatten = false →
        ∃ z, exec c s = .next z ∧ DescCompleted s z e d ∧ WroteOnly s z e x
          ((bs.flatMap fun b => if x.strain = 1 then (List.range (containerBytes w)).map (b.addr + ·)
            else b.places.flatMap (placeBytes x.dstFmt)) ++ copies))) ∧
    (x.scrub = true → (x.kind ≠ 2 ∨ ∀ t ch, e ≠ .tile t ch) → runs u (readOnly (plainUnits x r (srcSide x r) (srcSide x r))) →
      ∃ z, exec (.scrub e) s = .next z ∧ DescCompleted s z e d ∧ ((∀ h, e ≠ .host h) → z.mem = s.mem)) ∧
    (∀ t ch, e = .tile t ch → x.kind = 2 → x.scrub = true → ∀ l, listedOf u t ch x = some l →
      let v := listEntries u (chAgent e) l
      v.1.stop = none → v.1.poisoned = [] → v.1.lost = false → listHeld u e l = false → (∀ p ∈ listPorts l, portUp u p = true) →
      runs v.2 (readOnly (v.1.run.mapIdx fun p w => if l.b.op = 0 then gatherUnit v.2 l x none p w else scatterUnit v.2 l x none p w)) →
      ∃ z, exec (.scrub e) s = .next z ∧ DescCompleted s z e d ∧ z.mem = s.mem)

/-- A copy that converts nothing moves its bytes unchanged (R51, R240). -/
def Obligations.LinearCopiesMoveTheirBytesUnchanged : Prop :=
  ∀ (s u : State) (h : StackId) (ch : Fin 4) (a : Nat) (d rec_ : List Byte), TransferStarts s (.die h ch) a d rec_ u →
    let x := parseXfer d
    let n := x.length * (fmtBits x.srcFmt / 8)
    x.kind = 0 → isPlain x = true → x.skew = 0 → x.hostEnv = false → x.srcFmt = x.dstFmt →
    (x.srcFmt = 8 ∨ x.srcFmt = 9 ∨ x.srcFmt = 10) →
    (∀ i < n, ∀ j < n, keyOf s (x.dst + i) = keyOf s (x.dst + j) → i = j) →
    (∀ i < n, ∀ j < n, keyOf s (x.src + i) ≠ keyOf s (x.dst + j)) →
    (∀ i < n, retired s (keyOf s (x.dst + i)) = false ∧ retired s (keyOf s ((x.src + i) / 512 * 512)) = false) →
    unitsHeld u (.die h ch) x (plainUnits x (stridesOf u .other x) (srcSide x (stridesOf u .other x)) (dstSide x (stridesOf u .other x))) = false →
    ∃ t, exec (.transfer (.die h ch)) s = .next t ∧
      ∀ i < n, byteAt t (keyOf s (x.dst + i)) = byteAt s (keyOf s (x.src + i))

/-- R236, R237 and R175, and ABORT_REQUEST. Which channel carries a stream is the model's opaque choice, log entry 61. -/
def Obligations.AbortsRecordAndHaltTheChannel : Prop :=
  (∀ (s : State) (e : Engine) (cause residue addr : Nat), let t := abortChannel s e cause residue addr
    t.reg (chAbort e) = abortWord cause (chNumber e) residue ∧ chHalted t e = true ∧ t.chan e = Chan.empty ∧
    ∀ k, chCore e = some k → (t.tile k.tile).stopped = true ∧ nthD [] (t.seq k).queues 2 = []) ∧
  (∀ (s : State) (r : Requester) (e : Engine) (moved : Nat), mayWrite s r (chGroup e) = true →
    ((s.chan e).intake = false → (chHalted s e = true ∨ (s.chan e).next = none ∧ current s e = none ∧ streamOn s e = none) →
      exec (.abortRequest r e moved) s = .next s) ∧
    (∀ w, (s.chan e).intake = false → chHalted s e = false → streamOn s e = some w →
      ∃ t, exec (.abortRequest r e moved) s = .next t ∧ chHalted t e = true ∧ (t.tile (coreOf w.core).tile).stopped = true ∧
        fbit t (SCU_FAULT (coreOf w.core).tile.val) f_SCU_FAULT_VALID = true ∧
        ∀ u, ∀ v ∈ (t.slice u).walkers, v.core ≠ w.core) ∧
    (∀ a d rec_, (s.chan e).intake = false → streamOn s e = none → (s.chan e).next = none →
      currentOf s e 0x20 = some (a, d, rec_) → (parseXfer d).kind = 0 → isPlain (parseXfer d) = true → moved < wholeCount s e d →
      ∃ t, exec (.abortRequest r e moved) s = .next t ∧ chHalted t e = true ∧ t.chan e = Chan.empty ∧
        bitAt (t.reg (chAbort e)) 16 = true))

/-- CHAIN_NEXT_FETCH and FIRMWARE_CHANNEL_START. -/
def Obligations.ChainsFetchTheirNextDescriptor : Prop :=
  ∀ (s u : State) (e : Engine) (n : Nat) (d : List Byte), chHalted s e = false →
    let cur := fun (t : State) => (t.chan e).cur = some (n, d) ∧ (t.chan e).next = none ∧
      (t.chan e).format = formatRecord u (parseXfer d).tensor
    ((s.chan e).next = some n → (s.chan e).pulseDue = false → FetchesSound s e n d u →
      ∃ t, exec (.chainNextFetch e) s = .next t ∧ cur t ∧ t.mem = s.mem ∧ t.seqs = s.seqs ∧ KeepsJob s t) ∧
    ((s.chan e).next = some n → (s.chan e).pulseDue = true →
      let p := channelPulse (s.setChan e { s.chan e with pulseDue := false }) e
        (((s.chan e).cur.map fun x => field x.2 4 1).getD 0)
      FetchesSound p e n d u → ∃ t, exec (.chainNextFetch e) s = .next t ∧ cur t ∧ t.seqs = p.seqs) ∧
    (∀ head : Word, n = bitsAt head.toNat 6 50 * 64 → firmwareChannel e = true → (s.chan e).cur = none → (s.chan e).next = none →
      FetchesSound (fset s (chCtl e) f_DMA_CH_CTL_HEAD (head.toNat / 64)) e n d u →
      ∃ t, exec (.firmwareChannelStart .firmware e head) s = .next t ∧ cur t ∧ t.mem = s.mem ∧ t.seqs = s.seqs)

/-- R203 over INVALIDATE. -/
def Obligations.InvalidateDropsTheLinesOfItsRange : Prop :=
  ∀ (s u : State) (c : CoreId) (ch : Fin 32) (a : Nat) (d rec_ : List Byte), ch.val = c.core.val →
    let e : Engine := .tile c.tile ch
    currentOf s e 0x30 = some (a, d, rec_) → descHeld s e a d = false → faulty s (.channel (chanKey e)) = false → startDesc s e a d = ([], u) →
    ∃ t, exec (.invalidate c) s = .next t ∧ (field d 16 8 = 0 → (t.tile c.tile).cache = []) ∧
      (∀ b ∈ blocksOf (bitsAt (field d 8 8) 0 56) (field d 16 8), cached t c.tile (keyOf s b / 512) = none) ∧
      t.mem = s.mem ∧ (t.chan e).cur = none ∧
      (∀ h tl, nthD [] (s.seq c).queues 2 = h :: tl → nthD [] (t.seq c).queues 2 = { h with desc := d, done := true } :: tl)

/-! ### Collectives and links (spec/12) -/

/-- The start of the four collectives. Where the manual is silent it states
the model's own reading or choice, log entries 16, 17, 40 and 105. -/
def Obligations.CollectivesBeginOnTheirChannel : Prop :=
  ∀ (s u : State) (c : CoreId) (ch : Fin 32) (a : Nat) (d rec_ : List Byte) (m : Mesh) (o : Nat), ch.val = c.core.val →
    let e : Engine := .tile c.tile ch
    let x := parseColl d
    let g := groupOn m x.axis o
    let k : Coll :=
      { desc := d, members := g.1, me := g.2, slots := [], present := [], folded := [], credits := [], sent := [], got := [] }
    currentOf s e 0x21 = some (a, d, rec_) → collOf s e = none → faulty s (.channel (chanKey e)) = false →
    startDesc s e a d = ([], u) → collWaits s e (startBlocks k) = false → (∀ p ∈ s.links.early, p.tile ≠ c.tile) →
    (∀ q ∈ s.links.credits, q.2.2.2 < segments x) →
    (∀ seg < segments x, rangeRetired u (srcSeg k seg) (1024 * wide x.srcFmt) = false ∧
      rangeRetired u (dstSeg k seg) (1024 * wide (dstWidth x)) = false) →
    s.job.meshes[x.mesh]? = some m → ordinalOf s m c.tile = some o → 2 ≤ g.1.length → g.1.length < 2 ^ 16 → g.2 < g.1.length →
    g.1.length ≤ segments x →
    let begun := fun (t : State) => ∃ q, collOf t e = some q ∧ q.desc = d ∧ q.members = g.1 ∧ q.me = g.2 ∧ q.present = [] ∧
      q.folded = [] ∧ q.got = [] ∧ ∀ j ∈ others k, ∀ seg ∈ (ownSegs x g.1.length g.2).take (inFlight x g.1.length),
        Sent t c.tile (packetOf u c.tile k 2 j seg)
    let copied := fun (t : State) (segs : List Nat) => SegmentsCopied s t c.tile k segs ∧
      ∃ q, collOf t e = some q ∧ q.desc = d ∧ q.got = segs ∧ q.sent = dueSends k
    (x.kind = 0 → PeersSound u k [] → ∃ t, exec (.reduceScatter c) s = .next t ∧ begun t) ∧
    (x.kind = 2 → PeersSound u k [] → ∃ t, exec (.allReduce c) s = .next t ∧ begun t) ∧
    (x.kind = 1 → let segs := ownSegs x g.1.length g.2
      PeersSound u k (resultAddrs k segs) → CopiesApart u c.tile k segs → ∃ t, exec (.allGather c) s = .next t ∧ copied t segs) ∧
    (x.kind = 3 → x.root = g.2 → let segs := List.range (segments x)
      PeersSound u k (resultAddrs k segs) → CopiesApart u c.tile k segs → ∃ t, exec (.broadcast c) s = .next t ∧ copied t segs) ∧
    (x.kind = 3 → x.root ≠ g.2 → ∃ t, exec (.broadcast c) s = .next t ∧ collOf t e = some k ∧ t.out = u.out ∧ t.mem = s.mem)

/-- R312, R313 and R118 over SEGMENT_FOLD. Where the manual is silent it states
the model's own reading or choice, log entries 16, 40 and 105. -/
def Obligations.SegmentsAreFoldedAtTheirOwner : Prop :=
  ∀ (s : State) (c : CoreId) (ch : Fin 32) (k : Coll) (a : Nat) (d rec_ : List Byte) (seg : Nat), ch.val = c.core.val →
    let e : Engine := .tile c.tile ch
    let x := parseColl k.desc
    collOf s e = some k → current s e = some (a, d, rec_) → field d 0 1 = 0x21 → (x.kind = 0 ∨ x.kind = 2) →
    seg ∈ ownSegs x k.members.length k.me → seg ∉ k.folded → (∀ j ∈ others k, (seg, j) ∈ k.present) →
    (∀ p ∈ s.links.early, p.tile ≠ c.tile) → ∀ slot, slotOf k seg = some slot → collWaits s e (foldBlocks k seg slot) = false →
    rangeRetired s (srcSeg k seg) (segBytes k) = false → rangeRetired s (dstSeg k seg) (1024 * wide x.dstFmt) = false →
    PeersSound s k (resultAddrs k [seg]) →
    ∃ t, exec (.segmentFold c seg) s = .next t ∧
      (((resultAddrs k [seg]).map (keyOf s)).Nodup →
        (x.tensor = 0xFFFF ∨ ∀ z ∈ resultAddrs k [seg], ∀ i < 4, keyOf s z ≠ keyOf s (formatAddr s x.tensor + 4 + i)) →
        (∀ i < segBytes k, CacheAgrees s c.tile (keyOf s (srcSeg k seg + i) / 512)) →
        (∀ j < k.members.length, ∀ i < 4096, CacheAgrees s c.tile (keyOf s (slotAddr k slot j + i) / 512)) → ∀ i < 1024, ∀ b < wide x.dstFmt,
          byteAt t (keyOf s (dstSeg k seg + wide x.dstFmt * i + b)) = nthD 0 (leBytes (wide x.dstFmt)
            (convertFloat (fmtAt x.dstFmt) x.strict (segmentSum s e k seg slot i)).code) b) ∧
      (collOf t e = none ∧ CollectiveCompleted s t e d ∨ ∃ q, collOf t e = some q ∧ seg ∈ q.folded ∧ seg ∈ q.got ∧ ∀ p ∈ q.present, p.1 ≠ seg) ∧
      (x.kind = 2 → ∀ j ∈ others k, ∃ p : Packet, Sent t c.tile p ∧ p.type = 0 ∧ p.segment = BitVec.ofNat 32 seg ∧
        p.to_ = BitVec.ofNat 16 j ∧ p.payload.length = 1024 * wide x.dstFmt) ∧
      (∀ z, (∀ i < 1024 * wide x.dstFmt, z ≠ keyOf s (dstSeg k seg + i)) →
        (x.tensor = 0xFFFF ∨ ∀ i < 4, z ≠ keyOf s (formatAddr s x.tensor + 4 + i)) → byteAt t z = byteAt s z)

/-- R314, R315, R319 and R320 over the transport packets. Where the manual is silent it states
the model's own reading or choice, log entries 17, 40, 105 and 112. -/
def Obligations.DataPacketsAreAcceptedOnce : Prop :=
  ∀ (s v : State) (p : Packet) (back : TileId), arrive s p = some (v, back) →
    let key := (peerKey p.sender.toNat p.plane, p.seq.toNat)
    let w := congestion v p
    (∀ i ∈ [(0, (.dataPacket p : Instr)), (1, .ackPacket p), (2, .creditPacket p)], packetFor s p i.1 = true → packetDelayed v p = true →
      exec i.2 s = .next { w with dieIn := w.dieIn ++ [(p.tile, decide (16 ≤ p.plane), .packet p)] }) ∧
    (packetDelayed v p = false → EntriesSound s [p.sender.toNat] [] →
    (packetFor s p 0 = true → p.crc.toNat ≠ crc32c (packetBytes p) → exec (.dataPacket p) s =
      .next (if p.plane < 16 then fadd w (LNK_ETH_STATUS p.plane) f_LNK_ETH_STATUS_CRC_DROP 1 else w)) ∧
    (packetFor s p 0 = true → p.crc.toNat = crc32c (packetBytes p) → key ∈ s.links.accepted →
      exec (.dataPacket p) s = .next (acknowledge w p back)) ∧
    (packetFor s p 0 = true → p.crc.toNat = crc32c (packetBytes p) → key ∉ s.links.accepted →
      ∃ t q, exec (.dataPacket p) s = .next t ∧ t.links.accepted = s.links.accepted.filter (keptSeq key) ++ [key] ∧ Sent t p.tile q ∧
        q.type = 1 ∧ q.seq = p.seq ∧ q.plane = p.plane ∧
        ∀ e c, collFor s p.tile p.collId.toNat p.to_.toNat = some (e, c) → isContribution c p = true →
          ((disagreement c p ≠ 0 → (t.tile p.tile).stopped = true ∧ fbit t (TL_COLL_FAULT p.tile.val) f_TL_COLL_FAULT_VALID = true) ∧
          ∀ i, disagreement c p = 0 → (p.segment.toNat, p.from_.toNat) ∉ c.present → p.segment.toNat ∉ c.folded →
            slotOf c p.segment.toNat = some i → rangeRetired s (slotAddr c i p.from_.toNat) 4096 = false → chHalted s e = false →
            (current s e).isSome = true →
            ∃ k, collOf t e = some k ∧ (p.segment.toNat, p.from_.toNat) ∈ k.present)) ∧
    (packetFor s p 1 = true → ∃ t, exec (.ackPacket p) s = .next t ∧ t.links.unacked = s.links.unacked.filter fun u =>
      !(u.peer == p.sender.toNat && u.plane == p.plane && u.seq == p.seq.toNat)) ∧
    (packetFor s p 2 = true → collFor s p.tile p.collId.toNat p.to_.toNat = none → exec (.creditPacket p) s =
      .next { w with links := { w.links with
        credits := insertOnce (p.tile.val, p.collId.toNat, p.to_.toNat, p.segment.toNat) w.links.credits } })) ∧
    (∀ (peer : BitVec 16) (plane : Nat) (seq : BitVec 32) (u : Unacked),
      s.links.unacked.find? (fun u => u.peer == peer.toNat && u.plane == plane && u.seq == seq.toNat) = some u →
      u.sent + fget s LNK_RTO f_LNK_RTO_RTO ≤ s.now → EntriesSound s [u.peer] [] →
      ∃ t, exec (.retransmitTimeout peer plane seq) s = .next t ∧ Sent t u.tile u.packet ∧
        KeepsMemory s t ∧ KeepsUnits s t ∧ KeepsJob s t)

/-- The link events. A half trains where each of its lanes is sound and comes from the lane of its number, inverted or not (R445). Where the manual is silent it states
the model's own reading or choice, log entries 40 and 82. -/
def Obligations.LinksTrainRetryAndRetrain : Prop :=
  ∀ s : State,
    (∀ l, ∃ t, exec (.flitCrcError l) s = .next t ∧ OutMsg.replay (linkKey l) ∈ t.out ∧ KeepsMemory s t ∧ KeepsUnits s t ∧
      (∀ k, l = .span k → fget t (LNK_SPAN_STATUS k.val) f_LNK_SPAN_STATUS_RETRIES =
        min f_LNK_SPAN_STATUS_RETRIES.max (fget s (LNK_SPAN_STATUS k.val) f_LNK_SPAN_STATUS_RETRIES + 1))) ∧
    (∀ l, 16 ≤ mapGet 0 s.links.flits (linkKey l) → ∃ t, exec (.linkRetrain l) s = .next t ∧ linkKey l ∈ t.links.retraining ∧ KeepsMemory s t ∧ KeepsUnits s t) ∧
    (∀ l, linkKey l ∈ s.links.retraining → ∃ t u, exec (.linkRetrainComplete l true) s = .next t ∧
      exec (.linkRetrainComplete l false) s = .next u ∧ linkKey l ∉ t.links.retraining ∧ linkKey l ∉ u.links.retraining ∧
      (∀ k, l = .span k → fbit t (LNK_SPAN_STATUS k.val) f_LNK_SPAN_STATUS_RETRAIN = true ∧
        fbit u (LNK_SPAN_STATUS k.val) f_LNK_SPAN_STATUS_UP = false) ∧ (s.dieIn = [] → KeepsMemory s t ∧ KeepsUnits s t)) ∧
    (∀ (t d : TileId) (l : Fin 4) (b : Bool), linkKey (.mesh t l) ∈ s.links.retraining →
      ∃ u, exec (.linkRetrainComplete (.mesh t l) b) s = .next u ∧ (b = true → u.repair = s.repair) ∧
        (b = false → d.val = meshLower t l → (u.repair.failing ||| u.repair.failed).getLsbD d.val = true)) ∧
    (∀ (k : Fin 3) (r : SpanTraining), s.pins.modrst = false → ∃ t, exec (.linkTraining k r) s = .next t ∧
      let right := r.peerPos.toNat = (s.pins.boardPos + k.val + 1) % 4 ∧ r.peerPort.toNat = 2 - k.val ∧
        r.peerPos.toNat ≠ s.pins.boardPos
      (fbit t (LNK_SPAN_STATUS k.val) f_LNK_SPAN_STATUS_UP = true ↔ (lowHalf r || highHalf r) = true ∧ right) ∧
      (fbit t (LNK_SPAN_STATUS k.val) f_LNK_SPAN_STATUS_MISWIRE = true ↔ ¬ right) ∧
      (fbit t (LNK_SPAN_STATUS k.val) f_LNK_SPAN_STATUS_DEGRADED = true ↔ right ∧ lowHalf r ≠ highHalf r) ∧
      mapGet 0 t.links.polarity k.val = r.inverted.toNat ∧
      (right → lowHalf r ≠ highHalf r → fbit t (LNK_SPAN_STATUS k.val) f_LNK_SPAN_STATUS_RETRAIN = true) ∧
      (right → (lowHalf r || highHalf r) = true → ∀ m ∈ s.spanHeld, m ∉ t.spanHeld ∧ m.2 ∈ t.out ∨ m.1 ≠ k.val ∧ m ∈ t.spanHeld) ∧
      (right ∧ (lowHalf r || highHalf r) = true ∨ s.links.unacked = [] ∧ s.spanHeld = [] ∧ s.dieHeld = [] →
        KeepsMemory s t ∧ KeepsUnits s t ∧ KeepsJob s t)) ∧
    (∀ k : Fin 16, fbit s (LNK_ETH_STATUS k.val) f_LNK_ETH_STATUS_UP = true → ∃ t, exec (.ethernetLinkDown k) s = .next t ∧
      planeUp t k.val = false ∧ KeepsMemory s t ∧ KeepsUnits s t ∧ KeepsJob s t) ∧
    (∀ k : Fin 16, s.pins.modrst = false → fbit s (LNK_ETH_STATUS k.val) f_LNK_ETH_STATUS_UP = false →
      ∃ t, exec (.ethernetLinkUp k) s = .next t ∧ planeUp t k.val = true ∧ KeepsMemory s t ∧ KeepsUnits s t ∧ KeepsJob s t) ∧
    (∀ k : Fin 2, ∃ t, exec (.pcieLinkDown k) s = .next t ∧ portUp t k.val = false ∧ KeepsRegsBut [HIF_STATUS] s t ∧
      KeepsMemory s t ∧ KeepsUnits s t ∧ KeepsJob s t)

/-- R322 to R326, R303, R373 and R426. Where the manual is silent it states
the model's own reading or choice, log entries 40, 41 and 98. -/
def Obligations.SilentPeersAreReportedOnceAnEpoch : Prop :=
  ∀ s : State,
    (∀ (peer : BitVec 16) (plane : Nat) (u : Unacked), plane < 19 → u ∈ s.links.unacked → u.peer = peer.toNat → u.plane = plane →
      u.first + fget s LNK_SILENT f_LNK_SILENT_LIMIT ≤ s.now →
      (∀ q ∈ s.links.silent, ¬ (q.peer = peer.toNat ∧ q.plane = plane)) →
      exec (.peerSilent peer plane) s = .next { s with links := { s.links with
        silent := s.links.silent ++ [⟨peer.toNat, plane, s.now, 1⟩] } }) ∧
    (∀ (peer : BitVec 16) (plane : Nat) (q : Silent), plane < 19 → planeUp s plane = true → ownPortSuspect s plane = false →
      blackout s = false → plane ∉ s.links.primary →
      (s.links.silent.filter fun q => q.plane == plane).find? (fun q => q.peer == peer.toNat &&
        decide (max q.first s.links.epochBeat + fget s LNK_SILENT f_LNK_SILENT_HOLDOFF ≤ s.now)) = some q →
      (peer.toNat ∈ s.links.reported → exec (.silentPeerReport peer plane) s = .next s) ∧
      (peer.toNat ∉ s.links.reported → ∃ t, exec (.silentPeerReport peer plane) s = .next t ∧
        t.links.reported = peer.toNat :: s.links.reported ∧
        fget t LNK_REPORTS f_LNK_REPORTS_COUNT = min f_LNK_REPORTS_COUNT.max (fget s LNK_REPORTS f_LNK_REPORTS_COUNT + 1) ∧
        fbit t MGS_ALERT f_MGS_ALERT_SILENT_PEER = true ∧ KeepsMemory s t ∧ KeepsUnits s t ∧ KeepsJob s t)) ∧
    (∀ (peer : BitVec 16) (plane : Nat), plane < 19 → planeUp s plane = false → blackout s = false → plane ∉ s.links.primary →
      max (mapGet 0 s.links.downSince plane) s.links.epochBeat + fget s LNK_SILENT f_LNK_SILENT_HOLDOFF ≤ s.now →
      ∃ t, exec (.silentPeerReport peer plane) s = .next t ∧ t.links.primary = plane :: s.links.primary ∧
        t.links.reported = s.links.reported ∧
        fget t LNK_REPORTS f_LNK_REPORTS_COUNT = min f_LNK_REPORTS_COUNT.max (fget s LNK_REPORTS f_LNK_REPORTS_COUNT + 1) ∧
        fbit t MGS_ALERT f_MGS_ALERT_SILENT_PEER = true ∧ KeepsMemory s t ∧ KeepsUnits s t ∧ KeepsJob s t) ∧
    (∀ r epoch, mayWrite s r (some grpLink) = true → ∃ t, exec (.lnkFaultEpoch r epoch) s = .next t ∧
      t.links = { s.links with reported := [], primary := [], epochBeat := s.now } ∧
      fget t LNK_FAULT_EPOCH f_LNK_FAULT_EPOCH_EPOCH = BitVec.toNat epoch ∧ KeepsRegsBut [LNK_FAULT_EPOCH] s t ∧
      KeepsMemory s t ∧ KeepsUnits s t ∧ KeepsJob s t) ∧
    (∀ (qpn : BitVec 12) (rkey : BitVec 32) (a : Nat) (bs : List Byte) (r : Region), regionOf s rkey.toNat = some r →
      (field (mapGet [] s.qps qpn.toNat) 0 1 = 2 ∨ field (mapGet [] s.qps qpn.toNat) 0 1 = 3) →
      hostDown s a = false → blocksHeld s (blocksOf a bs.length) = false → ∀ ce : Bool, let v := if ce then emit s (.cnp (rdmaFrame s qpn.toNat (fget s LNK_DSCP f_LNK_DSCP_CNP))) else s
      exec (.rdmaRequest qpn rkey ⟨.write a bs, ce⟩) s = .next (if r.write && inRegion v r a bs.length then
        rdmaAnswer (writeBytes v .other a bs false) qpn (some []) else rdmaAnswer v qpn none)) ∧
    (∀ (qpn : BitVec 12) (rkey : BitVec 32) (a n : Nat) (r : Region), regionOf s rkey.toNat = some r →
      (field (mapGet [] s.qps qpn.toNat) 0 1 = 2 ∨ field (mapGet [] s.qps qpn.toNat) 0 1 = 3) → hostDown s a = false → blocksHeld s (blocksOf a n) = false →
      r.read = true → inRegion s r a n = true → (verifyRange s .other a n).1 = [] →
      let w := (verifyRange s .other a n).2
      exec (.rdmaRequest qpn rkey ⟨.read a n, false⟩) s = .next (rdmaAnswer w qpn (some (readBytes w .other a n)))) ∧
    (∀ addr : BitVec 128,
      (∀ k : Fin 16, planeUp s k.val = true → addr.toNat = portAddress s k.val →
        exec (.arpRequest (some k) addr) s = .next (emit s (.arp (some (frameAt s k.val 0 0 [])) addr))) ∧
      (addr.toNat = s.reg (MGS_NET_LOCAL 1) + 2 ^ 64 * s.reg (MGS_NET_LOCAL 0) →
        exec (.arpRequest none addr) s = .next (emit s (.arp none addr))))

/-! ### The step, captures, fills, holds and repair (spec/11, spec/13) -/

/-- R264 to R269, R277 to R283, R287 and R288. Where the manual is silent it states
the model's own reading or choice, log entries 5, 6, 45 and 104. -/
def Obligations.VerdictsMoveTheLossScale : Prop :=
  ∀ s : State,
    let sameDraws := fun (t : State) => ∀ n stream d, drawOf t n stream d = drawOf s n stream d
    (∀ (v : VerdictMsg) (nf wh : Word) (b : Nat), v.job.toNat = fget s LNK_JOB f_LNK_JOB_JOB → v.summed = true →
      v.part = .counts nf wh → s.stp.sent = some (v.step.toNat, b) → normSlots s = 0 → s.stp.sumSlots = [] →
      ∃ t, exec (.verdictPacket v) s = .next t ∧ Judged s t v.step.toNat nf.toNat wh.toNat ∧ sameDraws t) ∧
    (∀ (v : VerdictMsg) (nf wh : Word) (m : Nat), v.job.toNat = fget s LNK_JOB f_LNK_JOB_JOB → v.summed = false →
      v.part = .counts nf wh → s.stp.sumCounts = none →
      (∀ c ∈ s.stp.counts, ¬ (c.1 = v.step.toNat ∧ (c.2.1 = v.sender.toNat ∨ c.2.1 = m))) →
      m < moduleCount s → m ≠ v.sender.toNat →
      exec (.verdictPacket v) s = .next { congestionOn s v.ce v.sender.toNat v.plane with stp := { s.stp with
        counts := s.stp.counts ++ [(v.step.toNat, v.sender.toNat, nf.toNat, wh.toNat)] } }) ∧
    (∀ (r : Requester) (n b : Nat), mayWrite s r (some grpStep) = true → s.stp.sent = some (n, b) → normSlots s = 0 →
      ∃ t, exec (.abandon r) s = .next t ∧ Judged s t n 0 1 ∧ sameDraws t) ∧
    (∀ r, mayWrite s r (some grpStep) = true → s.stp.sent = none → exec (.abandon r) s = .next s) ∧
    (∀ n b, s.stp.sent = some (n, b) → b + fget s INF_VERDICT_WARN f_INF_VERDICT_WARN_BEATS ≤ s.now →
      (s.stp.late = true → exec .verdictWarnExpire s = .next s) ∧
      (s.stp.late = false → ∃ t, exec .verdictWarnExpire s = .next t ∧
        fbit t INF_STATUS f_INF_STATUS_VERDICT_LATE = true ∧ t.stp = { s.stp with late := true } ∧
        (let port := fget s (HIF_IRQ_ROUTE 1) f_HIF_IRQ_ROUTE_PORT
          let vec := fget s (HIF_IRQ_ROUTE 1) f_HIF_IRQ_ROUTE_VECTOR
          fbit s INF_CTL f_INF_CTL_IRQ_EN = true → fbit s (HIF_IRQ_ROUTE 1) f_HIF_IRQ_ROUTE_ENABLE = true →
          nthD false s.pins.msix port = true → fbit s (MSIX_DATA vec) f_MSIX_DATA_MASK = false → portUp s port = true →
          OutMsg.msix port vec (s.reg (MSIX_ADDR vec)) (fget s (MSIX_DATA vec) f_MSIX_DATA_DATA) ∈ t.out) ∧
        KeepsMemory s t ∧ KeepsUnits s t ∧ t.job = s.job ∧ t.car = s.car)) ∧
    (∀ (h : StackId) (e : UEntry) (y : Hyper) (n start r : Nat), (s.die h).capturing = false →
      let off := e.recordAddr + 512 * r
      let goff := e.gradAddr + (if e.bf16 then 64 else 128) * r
      let v := verifyStack s h off 512
      let g := verifyStack v.2 h goff (if e.bf16 then 64 else 128)
      let x := infuseRecord g.2 e y n (keyBytes g.2 (stackKey h off) 512) (keyBytes g.2 (stackKey h goff) 128)
      let t := walkRecord h e y n start s r
      let amax := fun k => e.tensor = 0xFFFF ∨ ∀ i < 4, k ≠ keyOf s (formatAddr s e.tensor + 4 + i)
      off % 512 = 0 →
      (v.1 = true → g.1 = true →
        (∀ i < 512, amax (stackKey h off + i) → byteAt t (stackKey h off + i) =
          if x.written then nthD 0 x.bytes i else byteAt s (stackKey h off + i)) ∧
        (∀ k, amax k → (∀ i < 512, k ≠ stackKey h off + i) → byteAt t k = byteAt s k) ∧
        fget t (INF_FROZEN h.val) f_INF_FROZEN_COUNT = min f_INF_FROZEN_COUNT.max (fget s (INF_FROZEN h.val) f_INF_FROZEN_COUNT + x.frozen) ∧
        (x.bad ≠ 0 → fbit t (INF_DIE_STATUS h.val) f_INF_DIE_STATUS_BAD_LANE = true ∧ fget t (INF_BAD_LANES h.val) f_INF_BAD_LANES_COUNT =
          min f_INF_BAD_LANES_COUNT.max (fget s (INF_BAD_LANES h.val) f_INF_BAD_LANES_COUNT + x.bad))) ∧
      ((v.1 && g.1) = false → (∀ k, byteAt t k = byteAt s k) ∧ fbit t (INF_POISON h.val) f_INF_POISON_VALID = true ∧
        fget t (INF_POISON h.val) f_INF_POISON_COUNT = (if fbit s (INF_POISON h.val) f_INF_POISON_VALID then
          min f_INF_POISON_COUNT.max (fget s (INF_POISON h.val) f_INF_POISON_COUNT + 1) else 1))) ∧
    (∀ (h : StackId) (n i : Nat), (s.die h).capturing = false → (entryBad s h i).1 = false →
      let e := entryOf s h i
      let k := stackKey h (ulistBase s h + 64 * i)
      let v := verifyHyper (entryBad s h i).2 e n
      v.1 = false → e.rule = 2 →
      (∀ j < 64, (∀ r < e.records, ∀ m < 512, k + j ≠ stackKey h (e.recordAddr + 512 * r) + m) ∧
        (e.tensor = 0xFFFF ∨ ∀ m < 4, k + j ≠ keyOf s (formatAddr s e.tensor + 4 + m))) →
      let t := walkEntry h n s i
      ∀ j < 4, byteAt t (k + 44 + j) = nthD 0 (leBytes 4 (f32Code (hyperOf v.2 e n).p1)) j ∧
        byteAt t (k + 48 + j) = nthD 0 (leBytes 4 (f32Code (hyperOf v.2 e n).p2)) j) ∧
    (walkWaits s = false → ∃ t, exec .infuserWalkComplete s = .next t ∧ t.stp = { s.stp with walkDone := true } ∧
      (∀ h : StackId, fbit t (INF_DIE_STATUS h.val) f_INF_DIE_STATUS_BUSY = (s.die h).capturing) ∧
      KeepsRegsBut ((List.range 24).map INF_DIE_STATUS) s t ∧ KeepsMemory s t ∧ KeepsUnits s t)

/-- R289 to R293. Where the manual is silent it states
the model's own reading or choice, log entries 5 and 36. -/
def Obligations.CapturesCopyTheRecordAtTheCursor : Prop :=
  ∀ s : State,
    (∀ r (n : BitVec 32), mayWrite s r (some grpStep) = true → ∃ t, exec (.ckptArm r n) s = .next t ∧
      fget t INF_CKPT_CTL f_INF_CKPT_CTL_ARM_STEP = n.toNat ∧
      fbit t INF_CKPT_CTL f_INF_CKPT_CTL_ARM = (fbit s INF_CKPT_CTL f_INF_CKPT_CTL_ARM ||
        !(fbit s INF_CKPT_STATUS f_INF_CKPT_STATUS_ACTIVE || fbit s INF_CKPT_STATUS f_INF_CKPT_STATUS_COMPLETE)) ∧
      KeepsRegsBut [INF_CKPT_CTL] s t ∧ KeepsMemory s t ∧ KeepsUnits s t ∧ KeepsJob s t) ∧
    (∀ r, mayWrite s r (some grpStep) = true → ∃ t, exec (.ckptRelease r) s = .next t ∧
      fbit t INF_CKPT_STATUS f_INF_CKPT_STATUS_COMPLETE = false ∧
      fbit t INF_CKPT_STATUS f_INF_CKPT_STATUS_ACTIVE = fbit s INF_CKPT_STATUS f_INF_CKPT_STATUS_ACTIVE ∧
      KeepsRegsBut [INF_CKPT_STATUS] s t ∧ KeepsMemory s t ∧ KeepsUnits s t ∧ KeepsJob s t) ∧
    (∀ h : StackId, (s.die h).capturing = true → cursorPos s h < mirrorTotal s h →
      (s.die h).starts.Pairwise (· ≤ ·) → (s.die h).starts.head? = some 0 →
      (entryBad s h (s.die h).cursorEntry).1 = false →
      dieHolds s h ((entryOf s h (s.die h).cursorEntry).recordAddr + 512 * (s.die h).cursorRecord) 512
        [mirrorAddr s h (cursorPos s h)] = false →
      (∀ i < 512, ∀ j < 512, i ≠ j →
        keyOf s (mirrorAddr s h (cursorPos s h) + i) ≠ keyOf s (mirrorAddr s h (cursorPos s h) + j)) →
      ∃ t, exec (.captureRecordCopy h) s = .next t ∧ cursorPos t h = cursorPos s h + 1 ∧
        (∀ i < 512, byteAt t (keyOf s (mirrorAddr s h (cursorPos s h) + i)) = byteAt s
          (stackKey h ((entryOf s h (s.die h).cursorEntry).recordAddr + 512 * (s.die h).cursorRecord) + i)) ∧
        (∀ k, (∀ i < 512, k ≠ keyOf s (mirrorAddr s h (cursorPos s h) + i)) → byteAt t k = byteAt s k) ∧
        t.seqs = s.seqs ∧ t.job = s.job ∧ t.car = s.car ∧ t.stp = s.stp) ∧
    (∀ h : StackId, (s.die h).capturing = false → exec (.captureRecordCopy h) s = .next s)

/-- R344 and R345. Where the manual is silent it states
the model's own reading or choice, log entry 36. -/
def Obligations.FillsConfirmTheirRecordsInOrder : Prop :=
  ∀ (s : State) (h : StackId),
    let f := INF_FILL h.val
    let pos := fget s f f_INF_FILL_CONFIRMED
    (∀ r, mayWrite s r (some grpStep) = true → ∃ t, exec (.fillStart r h) s = .next t ∧
      fget t f f_INF_FILL_CONFIRMED = fget s (INF_FILL_CTL h.val) f_INF_FILL_CTL_FROM ∧ fbit t f f_INF_FILL_ACTIVE = true ∧
      (fget s (INF_FILL_CTL h.val) f_INF_FILL_CTL_FROM = 0 → fbit t f f_INF_FILL_HEADER_DONE = false) ∧
      t.out = s.out ++ [.fillRead (fget s LNK_DSCP f_LNK_DSCP_ROCE) h.val (fget s (INF_FILL_CTL h.val) f_INF_FILL_CTL_FROM)] ∧
      KeepsRegsBut [f] s t ∧ KeepsMemory s t ∧ KeepsUnits s t ∧ KeepsJob s t) ∧
    (∀ r, mayWrite s r (some grpStep) = true → ∃ t, exec (.fillStop r h) s = .next t ∧ fbit t f f_INF_FILL_ACTIVE = false ∧
      fget t f f_INF_FILL_CONFIRMED = pos ∧ KeepsRegsBut [f] s t ∧ KeepsMemory s t ∧ KeepsUnits s t ∧ KeepsJob s t) ∧
    (∀ list formats ls, fbit s f f_INF_FILL_ACTIVE = true → fillWaits s h (.header list formats ls) = false → ∃ t, exec (.fillData h (.header list formats ls)) s = .next t ∧
      fbit t f f_INF_FILL_HEADER_DONE = true ∧ fget t INF_LS_STATE f_INF_LS_STATE_EXP = bitsAt (BitVec.toNat ls) 0 8 ∧
      fget t INF_LS_STATE f_INF_LS_STATE_CLEAN = bitsAt (BitVec.toNat ls) 16 16 ∧ fget t f f_INF_FILL_CONFIRMED = pos ∧
      KeepsRegsBut [f, INF_LS_STATE] s t ∧ t.seqs = s.seqs ∧ t.tiles = s.tiles ∧ t.job = s.job) ∧
    (∀ data : List Byte, fbit s f f_INF_FILL_ACTIVE = true → fbit s f f_INF_FILL_HEADER_DONE = true → data.length = 512 →
      fillWaits s h (.record data) = false → (entryBad s h (walkEntryAt s h pos)).1 = false →
      pos < mirrorTotal s h → mirrorTotal s h ≤ f_INF_FILL_CONFIRMED.max →
      ∃ t, exec (.fillData h (.record data)) s = .next t ∧ fget t f f_INF_FILL_CONFIRMED = pos + 1 ∧
        fbit t f f_INF_FILL_ACTIVE = decide (pos + 1 < mirrorTotal s h) ∧
        (∀ i < 512, byteAt t (stackKey h (walkOffset s h pos + i)) = nthD 0 data i) ∧
        (∀ k, (∀ i < 512, k ≠ stackKey h (walkOffset s h pos + i)) → byteAt t k = byteAt s k) ∧
        KeepsRegsBut [f] s t ∧ t.seqs = s.seqs ∧ t.tiles = s.tiles ∧ t.job = s.job) ∧
    (∀ data : List Byte, fbit s f f_INF_FILL_ACTIVE = true → fbit s f f_INF_FILL_HEADER_DONE = false →
      fillWaits s h (.record data) = false → exec (.fillData h (.record data)) s = .next (s.setDie h { s.die h with fillBeat := s.now })) ∧
    (fbit s f f_INF_FILL_ACTIVE = true → (s.die h).fillBeat + fget s LNK_SILENT f_LNK_SILENT_LIMIT ≤ s.now →
      ∃ t, exec (.sourceLost h) s = .next t ∧ fbit t f f_INF_FILL_SOURCE_LOST = true ∧ fget t f f_INF_FILL_CONFIRMED = pos ∧
        KeepsRegsBut [f] s t ∧ KeepsMemory s t ∧ KeepsUnits s t ∧ KeepsJob s t)

/-- R94, R328 to R330, R340 and R341. Where the manual is silent it states
the model's own reading or choice, log entries 35, 37 and 67. -/
def Obligations.HoldsEndAndSparesSwapWhileHeld : Prop :=
  ∀ s : State,
    (∀ r, mayWrite s r (some grpTimebase) = true →
      (∃ t, exec (.holdReq r) s = .next t ∧ fbit t TBU_RESTART f_TBU_RESTART_HOLD_REQ = true ∧ held t = held s ∧
        KeepsRegsBut [TBU_RESTART] s t ∧ KeepsMemory s t ∧ KeepsUnits s t ∧ KeepsJob s t) ∧
      (held s = false → exec (.go r) s = .next s) ∧
      (held s = true → (s.car.beatHold = true → onBeat s = true) → (∀ k : TileId, (s.tile k).stopped = false) →
        let n := fget s TBU_RESTART f_TBU_RESTART_STEP
        ∃ t, exec (.go r) s = .next t ∧ held t = false ∧
          t.car = { s.car with beatHold := false, startStep := some n, declared := [], records := (dropOld s).car.records } ∧
          (∀ k : TileId, (s.tile k).active = false → (t.tile k).nextStep = (nextFrom s.car.entries k n 0).1 ∧
            (t.tile k).nextPhase = (nextFrom s.car.entries k n 0).2) ∧
          (∀ k : TileId, (s.tile k).active = true → t.tile k = { s.tile k with resume := some n }) ∧
          (∀ m ∈ t.stp.withhold, m < n) ∧ t.stp.nonfinite = s.stp.nonfinite ∧ (∀ v, t.stp.verdict = some v → v.1 < n) ∧
          (∀ v, t.stp.sent = some v → v.1 < n) ∧ KeepsRegsBut [TBU_RESTART, INF_STATUS] s t ∧ KeepsMemory s t ∧ t.seqs = s.seqs ∧ t.chans = s.chans ∧ t.job = s.job) ∧
      (∃ t, exec (.haltJob r) s = .next t ∧ ∀ k : TileId, (t.tile k).stopped = true ∧
        ((s.tile k).stopped = false → ∀ c : Fin 16, (t.seq ⟨k, c⟩).status = .stopped ∨ (t.seq ⟨k, c⟩).status = .halted))) ∧
    (∀ (band : Fin 4) (pos : Fin 13),
      (held s = false → exec (.spareSiteSwap band pos) s = .next s) ∧
      (held s = true → retiredPos s band.val = 13 → swapFits s band.val pos.val = true → band.val < s.repair.retired.length →
        ∃ t, exec (.spareSiteSwap band pos) s = .next t ∧ retiredPos t band.val = pos.val ∧
          (∀ (col : Fin 12) (core : Fin 16) (a : Fin 4), pos.val ≤ col.val →
            t.reg (ARR_BYPASS (12 * band.val + col.val) core.val a.val) = movedMask s band.val col.val core.val a.val) ∧
          (∀ (k : TileId), k.val / 12 ≠ band.val ∨ k.val % 12 < pos.val → siteOf t k = siteOf s k ∧
            ∀ (core : Fin 16) (a : Fin 4), t.reg (ARR_BYPASS k.val core.val a.val) = s.reg (ARR_BYPASS k.val core.val a.val)) ∧
          (∀ k : TileId, k.val / 12 = band.val → t.repair.failing.getLsbD k.val = false ∧
            t.repair.failed.getLsbD k.val = (s.repair.failed.getLsbD k.val ||
              (s.repair.failing.getLsbD k.val && k.val % 12 != pos.val))) ∧
          (∀ i < 36, (i, (posOf t i, posOf t (i + 12))) ∈ t.links.vertical) ∧ t.repair.peak = usableWidths t ∧
          KeepsMemory s t ∧ KeepsUnits s t ∧ t.job = { s.job with mapChanged := t.job.mapChanged } ∧ t.car = s.car ∧ t.stp = s.stp)) ∧
    (∀ (c : CoreId) (a : Fin 4) (mask : Word), ∃ t, exec (.fieldBypassRequest .firmware c a mask) s = .next t ∧
      t.reg (ARR_BYPASS_PEND c.tile.val c.core.val a.val) =
        s.reg (ARR_BYPASS_PEND c.tile.val c.core.val a.val) ||| mask.toNat ∧
      bypassOf t (arrayKey (siteOf s c.tile) c.core.val a.val) =
        bypassOf s (arrayKey (siteOf s c.tile) c.core.val a.val) ||| mask.toNat ∧
      t.reg (ARR_BYPASS c.tile.val c.core.val a.val) = s.reg (ARR_BYPASS c.tile.val c.core.val a.val) ∧
      fget t (ARR_WIDTH c.tile.val c.core.val a.val) f_ARR_WIDTH_WIDTH =
        fget s (ARR_WIDTH c.tile.val c.core.val a.val) f_ARR_WIDTH_WIDTH ∧
      (t.repair.bypass ≠ s.repair.bypass → t.repair.peak = usableWidths t) ∧
      KeepsRegsBut [ARR_BYPASS_PEND c.tile.val c.core.val a.val, ARR_WIDTH c.tile.val c.core.val a.val] s t ∧
      KeepsMemory s t ∧ KeepsUnits s t ∧ t.car = s.car ∧ t.stp = s.stp)

/-! ### Memory devices: heat, maintenance, repair and retirement (spec/09) -/

/-- R213, R216 and R218. Where the manual is silent it states
the model's own reading or choice, log entries 37, 54 and 85. -/
def Obligations.HeatSetsTheLevelOfADevice : Prop :=
  ∀ s : State,
    (∀ (h : StackId) (x y z : Byte), s.pwr.applied = true → ∃ t, exec (.thermalReading h x y z) s = .next t ∧
      (∀ w ∈ [(MemDev.stack h, x.toNat), (.package h 0, y.toNat), (.package h 1, z.toNat)],
        let up := if w.2 > 105 then 3 else if w.2 > 95 then 2 else if w.2 > 85 then 1 else 0
        let down := if w.2 ≤ 82 then 0 else if w.2 ≤ 92 then 1 else if w.2 ≤ 100 then 2 else 3
        fget t (devTemp w.1) f_HBM_TEMP_TEMP = w.2 ∧
        fget t (devTemp w.1) f_HBM_TEMP_PEAK = max (fget s (devTemp w.1) f_HBM_TEMP_PEAK) w.2 ∧
        fget t (devTemp w.1) f_HBM_TEMP_LEVEL = max up (min (fget s (devTemp w.1) f_HBM_TEMP_LEVEL) down) ∧
        (fget s (devTemp w.1) f_HBM_TEMP_LEVEL < 3 → w.2 > 105 → fbit t (devTemp w.1) f_HBM_TEMP_FAULT = true)) ∧
      KeepsMemory s t ∧ KeepsUnits s t ∧ t.job = s.job ∧ t.stp = s.stp) ∧
    (∀ (d : MemDev) (b : Nat), (s.dev d).level3 = some b →
      let limit := b + fget s (HBM_THERM_CTL (devDie d).val) f_HBM_THERM_CTL_HALT_LIMIT * beatsPerMs
      (limit < s.now → exec (.haltLimitExpire d) s = .next (beginShutdown s 6)) ∧
      (s.now ≤ limit → exec (.haltLimitExpire d) s = .next s)) ∧
    (∀ (d : MemDev) (v : Word), ∃ t, exec (.maintArm .firmware d v) s = .next t ∧
      fget t (devMaint d) f_HBM_MAINT_CHANNEL = bitsAt v.toNat 0 5 ∧ fget t (devMaint d) f_HBM_MAINT_KIND = bitsAt v.toNat 5 2 ∧
      fget t (devMaint d) f_HBM_MAINT_START = bitsAt v.toNat 32 32 ∧
      (bitAt v.toNat 7 = true → bitsAt v.toNat 5 2 ≠ 3 → armAllowed s d (bitsAt v.toNat 32 32) = true →
        fbit t (devMaint d) f_HBM_MAINT_ARM = true) ∧
      (bitAt v.toNat 7 = false ∨ bitsAt v.toNat 5 2 = 3 ∨ (∃ x, x ≠ d ∧ windowTaken s x = true) ∨
        (s.car.running = true ∧ held s = false ∧ ∀ e ∈ s.car.entries, windowPhase e = false) →
        fbit t (devMaint d) f_HBM_MAINT_ARM = fbit s (devMaint d) f_HBM_MAINT_ARM) ∧
      KeepsRegsBut [devMaint d] s t ∧ KeepsMemory s t ∧ KeepsUnits s t ∧ KeepsJob s t) ∧
    (∀ d : MemDev, fbit s (devMaint d) f_HBM_MAINT_ARM = true → (s.dev d).windowOpen = none → startReached s d = true →
      exec (.maintenanceWindowOpen d) s = .next (s.setDev d { s.dev d with windowOpen := some s.now, windowWork := false })) ∧
    (∀ (d : MemDev) (b : Nat), (s.dev d).windowOpen = some b →
      fget s (devMaint d) f_HBM_MAINT_KIND = 0 ∨ (s.dev d).windowWork = true →
      ∃ t, exec (.maintenanceWindowEnd d) s = .next t ∧ fbit t (devMaint d) f_HBM_MAINT_DONE = true ∧
        fbit t (devMaint d) f_HBM_MAINT_ARM = false ∧ (t.dev d).windowOpen = none ∧ KeepsRegsBut [devMaint d] s t ∧
        KeepsMemory s t ∧ KeepsUnits s t ∧ KeepsJob s t) ∧
    (∀ (d : MemDev) (b : Nat), (s.dev d).windowOpen = some b → b + 200000 ≤ s.now →
      ∃ t, exec (.maintenanceWindowLimit d) s = .next t ∧ fbit t (devMaint d) f_HBM_MAINT_ARM = false ∧
        (t.dev d).windowOpen = none ∧
        fbit t (devMaint d) (if (s.dev d).windowWork then f_HBM_MAINT_DONE else f_HBM_MAINT_INCOMPLETE) = true ∧
        KeepsRegsBut [devMaint d] s t ∧ KeepsMemory s t ∧ KeepsUnits s t ∧ KeepsJob s t)

/-- R219 to R225. Where the manual is silent it states
the model's own reading or choice, log entries 20 and 37. -/
def Obligations.RepairsTakeASpareInsideAWindow : Prop :=
  ∀ (s : State) (d : MemDev),
    let r := devRepair d
    (∀ pc bank, ∃ t, exec (.readSpareRows .firmware d pc bank) s = .next t ∧
      fget t r f_HBM_REPAIR_SPARE = sparesLeft s d (bankKey pc bank) ∧ fget t r f_HBM_REPAIR_STATUS = 2 ∧
      KeepsRegsBut [r] s t ∧ KeepsMemory s t ∧ KeepsUnits s t ∧ KeepsJob s t ∧ t.devs = s.devs) ∧
    (∀ (pc bank : BitVec 6) (row : BitVec 18),
      let k := bankKey pc bank
      let blocks := rowBlocks s d pc.toNat bank.toNat row.toNat
      (repairOpen s d pc 1 = true → sparesLeft s d k ≠ 0 → (∀ x ∈ (s.dev d).soft, x.1 ≠ k) →
        ∃ t, exec (.sppr .firmware d pc bank row) s = .next t ∧ fget t r f_HBM_REPAIR_STATUS = 2 ∧
          (t.dev d).soft = (s.dev d).soft ++ [(k, row.toNat)] ∧ sparesLeft t d k + 1 = sparesLeft s d k ∧
          t.flash.repairList = s.flash.repairList ++ [(devKey d, pc.toNat, bank.toNat, row.toNat)] ∧
          (∀ e ∈ t.errs, e ∈ s.errs ∧ e.block ∉ blocks) ∧
          (∀ z, z / 512 ∉ blocks → byteAt t z = byteAt s z ∧ mismatchOf t (z / 512) = mismatchOf s (z / 512)) ∧
          KeepsUnits s t ∧ KeepsJob s t) ∧
      (repairOpen s d pc 2 = true → sparesLeft s d k ≠ 0 → (k, row.toNat) ∉ (s.dev d).soft →
        ∃ t, exec (.hppr .firmware d pc bank row) s = .next t ∧ fget t r f_HBM_REPAIR_STATUS = 2 ∧
          (t.dev d).soft = (s.dev d).soft ∧ sparesLeft t d k + 1 = sparesLeft s d k ∧ fuseMap t (devKey d) = fuseMap s (devKey d) ++ [(k, row.toNat)] ∧
          (devKey d, pc.toNat, bank.toNat, row.toNat) ∉ t.flash.repairList ∧
          (∀ z, z / 512 ∉ blocks → byteAt t z = byteAt s z) ∧ KeepsUnits s t ∧ KeepsJob s t) ∧
      (repairOpen s d pc 2 = true → (k, row.toNat) ∈ (s.dev d).soft →
        ∃ t, exec (.hppr .firmware d pc bank row) s = .next t ∧ fget t r f_HBM_REPAIR_STATUS = 2 ∧
          (k, row.toNat) ∉ (t.dev d).soft ∧ sparesLeft t d k = sparesLeft s d k) ∧
      (repairOpen s d pc 1 = false → ∃ t, exec (.sppr .firmware d pc bank row) s = .next t ∧
        fget t r f_HBM_REPAIR_STATUS = 3 ∧ KeepsRegsBut [r] s t ∧ KeepsMemory s t ∧ KeepsUnits s t ∧ t.devs = s.devs ∧
        t.flash = s.flash) ∧
      (repairOpen s d pc 2 = false → ∃ t, exec (.hppr .firmware d pc bank row) s = .next t ∧
        fget t r f_HBM_REPAIR_STATUS = 3 ∧ KeepsRegsBut [r] s t ∧ KeepsMemory s t ∧ KeepsUnits s t ∧ t.devs = s.devs ∧
        t.flash = s.flash)) ∧
    (∀ (range : BitVec 15) (cause : BitVec 8),
      let e := badPage s d range cause
      ((∃ p ∈ s.repair.badPages ++ s.tempRetired, samePage e p = true) → exec (.retireRange d range cause) s = .next s) ∧
      ((∀ p ∈ s.repair.badPages ++ s.tempRetired, samePage e p = false) →
        ∃ t, exec (.retireRange d range cause) s = .next t ∧ fbit t MGS_ALERT f_MGS_ALERT_MEM_FAULT = true ∧
          (s.repair.badPages.length < 4096 → t.repair.badPages = s.repair.badPages ++ [e] ∧ t.tempRetired = s.tempRetired) ∧
          (4096 ≤ s.repair.badPages.length → t.tempRetired = s.tempRetired ++ [e] ∧ t.repair = s.repair ∧
            fbit t MGS_ALERT f_MGS_ALERT_REPAIR_EXHAUSTED = true) ∧
          KeepsMemory s t ∧ KeepsUnits s t ∧ t.car = s.car ∧ t.stp = s.stp))

/-! ### Power, heat, coolant, reset and start-up (spec/15, spec/16) -/

/-- R396 and R413. Where the manual is silent it states
the model's own reading or choice, log entries 28 and 39. -/
def Obligations.ShutdownsRunToStandby : Prop :=
  ∀ s : State,
    (∀ (mv : Int) (ca : Nat),
      (45000 < mv ∨ mv < -500 → exec (.inputSample mv ca) s = .fault .beyondAbsoluteLimits) ∧
      (-500 ≤ mv → mv ≤ 45000 → s.pwr.applied = true → ∃ t, exec (.inputSample mv ca) s = .next t ∧
        t.pwr.millivolts = mv ∧ t.pwr.centiamps = ca ∧
        t.pwr.underSince = (if mv < 31000 then some (s.pwr.underSince.getD s.now) else none) ∧
        t.pwr.overSince = (if 41000 < mv then some (s.pwr.overSince.getD s.now) else none) ∧
        KeepsRegsBut [] s t ∧ KeepsMemory s t ∧ KeepsUnits s t ∧ KeepsJob s t)) ∧
    (∀ b, s.pwr.underSince = some b → b + 10000 ≤ s.now → ∃ t, exec .undervolt s = .next t ∧ ShutsDown s t 1) ∧
    (∀ b, s.pwr.underSince = some b → s.now < b + 10000 → exec .undervolt s = .next s) ∧
    (∀ b, s.pwr.overSince = some b → b + 1000 ≤ s.now → ∃ t, exec .overvolt s = .next t ∧ ShutsDown s t 2) ∧
    (∀ b, s.pwr.overSince = some b → s.now < b + 1000 → exec .overvolt s = .next s) ∧
    (s.pwr.shutdownStage = 1 → s.pwr.shutdownAt + 1000 * beatsPerMs ≤ s.now → ∃ t, exec .shutdownMemoryOff s = .next t ∧
      t.pwr.shutdownStage = 2 ∧ (∀ p ∈ t.mem, 2 ^ 55 ≤ p.1) ∧ (∀ k, 2 ^ 55 ≤ k → byteAt t k = byteAt s k) ∧ t.errs = [] ∧
      (∀ k < 19, planeUp t k = false) ∧ (rmUp s = true → t.flash = (flashCopy s).flash)) ∧
    (s.pwr.shutdownStage = 2 → s.pwr.shutdownAt + 1500 * beatsPerMs ≤ s.now → ∃ t, exec .shutdownRegulatorsOff s = .next t ∧
      t.pwr.shutdownStage = 3 ∧ t.pins.pgood = false ∧ KeepsRegsBut [] s t ∧ KeepsMemory s t ∧ KeepsUnits s t ∧ KeepsJob s t) ∧
    (s.pwr.shutdownStage = 3 → s.pins.modrst = false → s.Canonical → ∃ t, exec .standbyReached s = .next t ∧
      t.pwr.shutdownStage = 0 ∧ fget t PWR_STATE f_PWR_STATE_STATE = 0 ∧ t.flash = s.flash ∧ t.repair = s.repair ∧
      t.job = Job.none ∧ t.seqs = [] ∧ (∀ p ∈ t.mem, 2 ^ 55 ≤ p.1) ∧
      (∀ a, 0x904000 ≤ a → a < 0x905000 → a ≠ PWR_STATE → t.reg a = s.reg a))

/-- R400 to R408. Where the manual is silent it states
the model's own reading or choice, log entry 38. -/
def Obligations.DrawIsSmoothedUnderTheCaps : Prop :=
  (∀ s : State, s.pwr.applied = true → fget s PWR_DRAW f_PWR_DRAW_CLOCK ≤ 4 → s.pwr.heatSteps ≤ 4 →
    (∀ (draw ballast : BitVec 16) (free : Bool), ∃ t, exec (.drawWindow draw ballast free) s = .next t ∧
      fget t PWR_DRAW f_PWR_DRAW_NOW = draw.toNat ∧ fget t PWR_DRAW f_PWR_DRAW_BALLAST = min ballast.toNat draw.toNat ∧
      t.pwr.windows = (draw.toNat :: s.pwr.windows).take 100000 ∧
      fget t PWR_DRAW f_PWR_DRAW_PEAK = trailingPeak t % 2 ^ 16 ∧
      let base := 1000 * (draw.toNat - min ballast.toNat draw.toNat)
      let lo := drawNow s - rampStep s
      t.pwr.level = base + t.pwr.target ∧
      base + t.pwr.target ≤ max base (1000 * capInForce s) ∧
      base + t.pwr.target ≤ max base (max (drawNow s) (1000 * draw.toNat + 999 + rampStep s)) ∧
      (s.pins.throt = false → s.pwr.shutdownStage = 0 → free = true →
        min (1000 * capInForce s) (if 1000 * draw.toNat + 1000 ≤ lo then lo else 1000 * draw.toNat - rampStep s) ≤
          base + t.pwr.target) ∧
      (s.pins.throt = true ∨ s.pwr.shutdownStage ≠ 0 → t.pwr.target = 0) ∧
      (draw.toNat < floorDraw t → free = false → fbit t PWR_STATUS f_PWR_STATUS_FLOOR_SHORT = true ∧
        fbit t MGS_ALERT f_MGS_ALERT_POWER = true) ∧
      fget s PWR_DRAW f_PWR_DRAW_CLOCK ≤ fget t PWR_DRAW f_PWR_DRAW_CLOCK ∧
      KeepsMemory s t ∧ KeepsUnits s t ∧ t.job = s.job ∧ t.stp = s.stp) ∧
    (∀ b, s.pwr.stepUpAt = some b → b ≤ s.now → ∃ t, exec .clockStepUp s = .next t ∧
      ((clockWanted s).1 < fget s PWR_DRAW f_PWR_DRAW_CLOCK →
        fget t PWR_DRAW f_PWR_DRAW_CLOCK = fget s PWR_DRAW f_PWR_DRAW_CLOCK - 1 ∧ fget t PWR_DRAW f_PWR_DRAW_GATED = 0) ∧
      (fget s PWR_DRAW f_PWR_DRAW_CLOCK ≤ (clockWanted s).1 → t.regs = s.regs) ∧
      t.pwr.stepUpAt = none ∧ KeepsRegsBut [PWR_DRAW] s t ∧ KeepsMemory s t ∧ KeepsUnits s t ∧ t.job = s.job ∧ t.stp = s.stp) ∧
    ((∀ b, s.pwr.stepUpAt = some b → s.now < b) → exec .clockStepUp s = .next s) ∧
    (s.pins.throt = false → ∃ t, exec .throtFall s = .next t ∧ t.pins.throt = true ∧
      fbit t PWR_THROT f_PWR_THROT_ASSERTED = true ∧ t.pwr.target = 0 ∧ fget t PWR_DRAW f_PWR_DRAW_BALLAST = 0 ∧
      capInForce t ≤ fget s PWR_THROT f_PWR_THROT_CAP ∧ fbit t MGS_ALERT f_MGS_ALERT_POWER = true ∧
      fget s PWR_DRAW f_PWR_DRAW_CLOCK ≤ fget t PWR_DRAW f_PWR_DRAW_CLOCK ∧ KeepsMemory s t ∧ KeepsUnits s t) ∧
    (s.pins.throt = true → ∃ t, exec .throtRise s = .next t ∧ t.pins.throt = false ∧
      fbit t PWR_THROT f_PWR_THROT_ASSERTED = false ∧
      capInForce t = min (min 2000 (fget s PWR_CAP f_PWR_CAP_CAP)) s.pwr.coolantCap ∧ KeepsMemory s t ∧ KeepsUnits s t) ∧
    (held s = true → s.car.heldSince + fget s PWR_FLOOR f_PWR_FLOOR_HOLD_LIMIT * beatsPerMs < s.now →
      exec .floorHoldLimitExpire s = .next { s with pwr := { s.pwr with floorOff := true } }) ∧
    (∃ t, exec .forecast s = .next t ∧ t.reg (PWR_FORECAST 0) = s.now ∧
      bitsAt (t.reg (PWR_FORECAST 1)) 0 16 = fget s PWR_DRAW f_PWR_DRAW_NOW ∧
      bitsAt (t.reg (PWR_FORECAST 1)) 16 16 = fget s PWR_DRAW f_PWR_DRAW_BALLAST ∧
      bitsAt (t.reg (PWR_FORECAST 1)) 32 16 = capInForce s ∧
      bitsAt (t.reg (PWR_FORECAST 1)) 48 4 = fget s PWR_DRAW f_PWR_DRAW_CLOCK ∧
      KeepsRegsBut ((List.range 8).map PWR_FORECAST) s t ∧ KeepsMemory s t ∧ KeepsUnits s t ∧ KeepsJob s t)) ∧
  (∀ s : State, s.pwr.applied = false →
    exec .throtFall s = .next { s with pins := { s.pins with throt := true } } ∧
    exec .throtRise s = .next { s with pins := { s.pins with throt := false } })

/-- R399 and R409 to R413. Where the manual is silent it states
the model's own reading or choice, log entries 38 and 103. -/
def Obligations.HeatAndCoolantLimitTheDraw : Prop :=
  ∀ s : State, s.pwr.applied = true →
    (∀ ds : List Byte, ds.length = 768 → ∃ t, exec (.tileThermalReading ds) s = .next t ∧
      let m := fget t PWR_TILE f_PWR_TILE_MAX
      let limit := fget s PWR_TILE f_PWR_TILE_LIMIT
      (∀ d ∈ ds, d.toNat ≤ m) ∧ (∃ i < 768, i / 16 = fget t PWR_TILE f_PWR_TILE_TILE ∧ (nthD 0 ds i).toNat = m) ∧
      (m ≤ 115 → limit < m → t.pwr.heatSteps = min 4 (max s.pwr.heatSteps (fget s PWR_DRAW f_PWR_DRAW_CLOCK) + 1) ∧
        fbit t PWR_STATUS f_PWR_STATUS_TILE_STEP = true) ∧
      (m ≤ 115 → m ≤ limit - 3 → t.pwr.heatSteps = s.pwr.heatSteps - 1) ∧
      (m ≤ 115 → KeepsMemory s t ∧ KeepsUnits s t ∧ t.job = s.job) ∧ (115 < m → ShutsDown s t 5)) ∧
    (∀ (f i : BitVec 16) (outlet : Option (BitVec 16)), ∃ t, exec (.coolantReading (some f) (some i) outlet) s = .next t ∧
      let cap := (if f.toNat < 340 then 2000 * f.toNat / 340 else 2000) - 20 * (i.toInt - 400).toNat
      t.pwr.coolantCap = cap ∧ fbit t PWR_STATUS f_PWR_STATUS_COOLANT_DERATE = decide (cap < 2000) ∧
      fget t PWR_COOLANT f_PWR_COOLANT_FLOW = f.toNat ∧
      (f.toNat < fget s PWR_COOLANT f_PWR_COOLANT_FLOW_MIN → 4 ≤ s.pwr.lowFlow → ShutsDown s t 3) ∧
      (fget s PWR_COOLANT f_PWR_COOLANT_FLOW_MIN ≤ f.toNat → 450 < i.toInt → ShutsDown s t 4) ∧
      (fget s PWR_COOLANT f_PWR_COOLANT_FLOW_MIN ≤ f.toNat → i.toInt ≤ 450 → t.pwr.shutdownStage = s.pwr.shutdownStage ∧
        KeepsMemory s t ∧ KeepsUnits s t ∧ t.job = s.job)) ∧
    (∀ (i : BitVec 16) (outlet : Option (BitVec 16)), ∃ t, exec (.coolantReading none (some i) outlet) s = .next t ∧
      let flow := if s.pwr.missedFlow < 2 then fget s PWR_COOLANT f_PWR_COOLANT_FLOW else 0
      fget t PWR_COOLANT f_PWR_COOLANT_FLOW = flow ∧ t.pwr.coolantCap = coolantCapOf flow i.toInt ∧
      fbit t PWR_STATUS f_PWR_STATUS_COOLANT_DERATE = decide (coolantCapOf flow i.toInt < 2000) ∧
      (s.pwr.missedFlow < 2 → s.pwr.lowFlow < 5 → 450 < i.toInt → ShutsDown s t 4) ∧
      (s.pwr.missedFlow < 2 → s.pwr.lowFlow < 5 → i.toInt ≤ 450 → t.pwr.shutdownStage = s.pwr.shutdownStage ∧
        KeepsMemory s t ∧ KeepsUnits s t ∧ t.job = s.job)) ∧
    (∀ r, mayWrite s r (some grpPower) = true →
      ((s.job.loaded || s.car.running) = true → ∃ t, exec (.parkRequest r) s = .next t ∧
        fbit t PWR_STATUS f_PWR_STATUS_PARK_REFUSED = true ∧ KeepsRegsBut [PWR_STATUS] s t ∧ KeepsMemory s t ∧ KeepsUnits s t ∧
        KeepsJob s t) ∧
      ((s.job.loaded || s.car.running) = false → fget s PWR_STATE f_PWR_STATE_STATE = 2 →
        ∃ t, exec (.parkRequest r) s = .next t ∧ fget t PWR_STATE f_PWR_STATE_STATE = 4 ∧ t.job = Job.none ∧ t.seqs = [] ∧
          (∀ k < 19, planeUp t k = false) ∧ (∀ k < 0x200000000000, byteAt t k = byteAt s k)) ∧
      (fget s PWR_STATE f_PWR_STATE_STATE = 4 → exec (.readyRequest r) s =
        .next { s with pwr := { s.pwr with readyAt := some s.now } })) ∧
    (∀ b, s.pwr.readyAt = some b → fget s PWR_STATE f_PWR_STATE_STATE = 4 → ∃ t, exec .unparkComplete s = .next t ∧
      fget t PWR_STATE f_PWR_STATE_STATE = 2 ∧ t.pwr.readyAt = none ∧ t.seqs = [] ∧
      (∀ k, byteAt t k = if 0x200000000000 ≤ k ∧ k < 0x300000000000 then 0 else byteAt s k) ∧
      KeepsRegsBut [PWR_STATE] s t ∧ KeepsJob s t)

/-- R10, R14, R37, R363, R374, R383 to R385, R389, R397 and R452. Where the manual is silent it states
the model's own reading or choice, log entries 3, 39, 48, 113 and 115. -/
def Obligations.ResetsLoseAllButFlashAndHost : Prop :=
  ∀ s : State,
    let lost := fun (t : State) => (∀ p ∈ t.mem, 2 ^ 55 ≤ p.1) ∧ (∀ k, 2 ^ 55 ≤ k → byteAt t k = byteAt s k) ∧
      t.flash = s.flash ∧ t.repair = s.repair ∧ t.seqs = [] ∧ t.tiles = [] ∧ t.slices = [] ∧ t.chans = [] ∧ t.job = Job.none ∧
      t.mesh = [] ∧ t.spanHeld = [] ∧
      (∀ a, a ≠ HIF_STATUS → t.reg a = State.reset.reg a)
    (s.pwr.applied = false → ∃ t, exec .inputPowerApplied s = .next t ∧ t.pwr.applied = true ∧
      fget t PWR_STATE f_PWR_STATE_STATE = 0 ∧ lost t) ∧
    (∃ t, exec .inputPowerLoss s = .next t ∧ t.pwr.applied = false ∧ lost t ∧ portUp t 0 = false ∧ portUp t 1 = false) ∧
    (s.pwr.shutdownStage = 0 → s.pwr.applied = true → ∃ t, exec .modrstAssert s = .next t ∧ t.pins.modrst = true ∧
      t.pwr.applied = true ∧ lost t) ∧
    (s.pwr.shutdownStage ≠ 0 → ∃ t, exec .modrstAssert s = .next t ∧ t.pins.modrst = true ∧ t.pins.pgood = false ∧
      t.pwr = s.pwr ∧ KeepsRegsBut [] s t ∧ KeepsMemory s t ∧ KeepsUnits s t ∧ KeepsJob s t) ∧
    (∀ (pos : BitVec 2) (slot : BitVec 3), s.pins.modrst = true → s.pwr.applied = true → s.pwr.shutdownStage = 0 →
      ∃ t, exec (.modrstRelease pos slot) s = .next t ∧ t.pins.modrst = false ∧ t.pins.boardPos = pos.toNat ∧
        t.pins.slotId = slot.toNat ∧ fget t PWR_STATE f_PWR_STATE_STATE = 1 ∧
        ((s.flash.headerA || s.flash.headerB) = false ∨ imageSound s = false →
          fbit t HIF_STATUS f_HIF_STATUS_RECOVERY = true) ∧
        ((s.flash.headerA || s.flash.headerB) = true → imageSound s = true →
          s.flash.partA.passes = false → s.flash.partB.passes = false → fbit t HIF_STATUS f_HIF_STATUS_RECORD_LOST = true) ∧
        (s.pins.beatPresent = false → fbit t TBU_STATUS f_TBU_STATUS_HOLDOVER = true) ∧
        KeepsMemory s t ∧ KeepsUnits s t) ∧
    (∀ (ms : BitVec 32) (failed : List (Nat × Nat)), fget s PWR_STATE f_PWR_STATE_STATE = 1 → s.pwr.shutdownStage = 0 →
      fbit s HIF_STATUS f_HIF_STATUS_RECOVERY = false → fbit s HIF_STATUS f_HIF_STATUS_RECORD_LOST = false →
      ∃ t, exec (.ready ms failed) s = .next t ∧ fbit t HIF_STATUS f_HIF_STATUS_READY = true ∧
        fget t HIF_STATUS f_HIF_STATUS_BOOT_STAGE = 6 ∧
        fget t HIF_STATUS f_HIF_STATUS_BOOT_MS = ms.toNat % 2 ^ f_HIF_STATUS_BOOT_MS.width ∧
        fbit t HIF_STATUS f_HIF_STATUS_COLD_TRAINED = (!failed.isEmpty || trainsCold s) ∧
        ((!failed.isEmpty || trainsCold s) = false → t.flash = s.flash) ∧ t.pins.pgood = true ∧
        fget t PWR_STATE f_PWR_STATE_STATE = 2 ∧ t.flash.untrained = [] ∧ t.repair.peak = usableWidths s ∧
        t.links.vertical = (List.range 36).map (fun k => (k, (posOf s k, posOf s (k + 12)))) ∧
        KeepsMemory s t ∧ KeepsUnits s t ∧ t.job = s.job ∧ t.car = s.car ∧ t.stp = s.stp) ∧
    (∀ p : Fin 2, ∃ t, exec (.perst p) s = .next t ∧ portUp t p.val = false ∧ nthD false t.pins.msix p.val = false ∧
      KeepsRegsBut [HIF_STATUS] s t ∧ KeepsMemory s t ∧ KeepsUnits s t ∧ KeepsJob s t) ∧
    (∀ p : Fin 2, s.pwr.applied = true → ∃ t, exec (.pcieLinkUp p) s = .next t ∧ portUp t p.val = true ∧
      (∀ w ∈ t.pins.waits, w.port ≠ p.val) ∧
      ((∀ w ∈ s.pins.waits, w.port ≠ p.val) → KeepsMemory s t ∧ KeepsUnits s t ∧ KeepsJob s t)) ∧
    (∀ p : Fin 2,
      let due := fun (w : HostWait) => w.port = p.val ∧ w.since + fget s HIF_CTL f_HIF_CTL_LINK_WAIT * beatsPerMs ≤ s.now
      ((∃ w ∈ s.pins.waits, due w) → portUp s p.val = false → ∃ t, exec (.linkWaitExpire p) s = .next t ∧
        fbit t HIF_STATUS f_HIF_STATUS_LINK_LOSS = true) ∧
      ((∀ w ∈ s.pins.waits, ¬ due w) ∨ portUp s p.val = true → exec (.linkWaitExpire p) s = .next s))

/-! ### Host rings, job loads and updates (spec/15) -/

/-- R363 and R365 to R373. Where the manual is silent it states
the model's own reading or choice, log entries 22, 31 and 32. -/
def Obligations.RingsFetchExecuteAndComplete : Prop :=
  ∀ (s : State) (q : RingId),
    let sq := HIF_SQ_CTL q.val
    (∀ n : BitVec 16, hostReady s = true → exec (.sqDoorbell q n) s = .next (s.setRing q { s.ring q with tail := n.toNat })) ∧
    (∀ n : BitVec 16, hostReady s = false → exec (.sqDoorbell q n) s = .next s ∧ exec (.cqDoorbell q n) s = .next s) ∧
    (∀ n : BitVec 16, hostReady s = true → (s.ring q).waiting = none → n.toNat ≠ (s.ring q).cqHead →
      ∃ t, exec (.cqDoorbell q n) s = .next t ∧ (t.ring q).cqHead = n.toNat ∧
        fbit t (HIF_CQ_CTL q.val) f_HIF_CQ_CTL_FULL = false ∧ KeepsRegsBut [HIF_CQ_CTL q.val] s t ∧ KeepsMemory s t ∧
        KeepsUnits s t ∧ KeepsJob s t) ∧
    (∀ v : Word, hostReady s = true → ∃ t, exec (.ringEnable q v) s = .next t ∧
      fget t sq f_HIF_SQ_CTL_LOG2_ENTRIES = bitsAt v.toNat 0 5 ∧ fget t sq f_HIF_SQ_CTL_ENABLE = bitsAt v.toNat 8 1 ∧
      fget t sq f_HIF_SQ_CTL_HEAD = fget s sq f_HIF_SQ_CTL_HEAD ∧
      (fbit s sq f_HIF_SQ_CTL_ENABLE = false → bitAt v.toNat 8 = true → fbit t sq f_HIF_SQ_CTL_STOPPED = false) ∧
      KeepsRegsBut [sq] s t ∧ KeepsMemory s t ∧ KeepsUnits s t ∧ KeepsJob s t) ∧
    (∀ f, fetchable s q = true → hostDown s (ringAddr s (HIF_SQ_BASE q.val) + 64 * fget s sq f_HIF_SQ_CTL_HEAD) = true →
      ∃ t, exec (.commandFetch q f) s = .next t ∧ (∃ w ∈ t.pins.waits, w.what = .ring q) ∧ KeepsRegsBut [] s t ∧
        KeepsMemory s t ∧ KeepsUnits s t ∧ KeepsJob s t ∧ t.rings = s.rings) ∧
    (fetchable s q = true → hostDown s (ringAddr s (HIF_SQ_BASE q.val) + 64 * fget s sq f_HIF_SQ_CTL_HEAD) = false →
      (∃ t, exec (.commandFetch q true) s = .next t ∧ fbit t sq f_HIF_SQ_CTL_STOPPED = true ∧
        fget t sq f_HIF_SQ_CTL_HEAD = fget s sq f_HIF_SQ_CTL_HEAD ∧ (t.ring q).cur = none) ∧
      ∃ t, exec (.commandFetch q false) s = .next t ∧
        let cmd := readBytes s .other (ringAddr s (HIF_SQ_BASE q.val) + 64 * fget s sq f_HIF_SQ_CTL_HEAD) 64
        fget t sq f_HIF_SQ_CTL_HEAD = (fget s sq f_HIF_SQ_CTL_HEAD + 1) % sqSize s q ∧
        (badField s cmd = none → (t.ring q).cur = some cmd ∧ (t.ring q).waiting = none ∧ KeepsMemory s t) ∧
        (∀ n, badField s cmd = some n → (t.ring q).cur = none ∨ (t.ring q).waiting = some (1, n, 0)) ∧
        KeepsUnits s t ∧ KeepsJob s t) ∧
    ((s.ring q).unannounced ≠ 0 → fbit s (HIF_CQ_CTL q.val) f_HIF_CQ_CTL_IRQ_EN = true → fget s (HIF_CQ_MOD q.val) f_HIF_CQ_MOD_TIME ≠ 0 →
      (s.ring q).firstBeat + 100 * fget s (HIF_CQ_MOD q.val) f_HIF_CQ_MOD_TIME ≤ s.now →
      exec (.cqTimerExpire q) s = .next (announce s q)) ∧
    (∀ cmd, command s q 0 = some cmd → ∃ t, exec (.nop q) s = .next t ∧ Completed s t q cmd 0 0 0 ∧ KeepsUnits s t ∧
      KeepsJob s t) ∧
    (∀ cmd, command s q 2 = some cmd → chHalted s (.host q) = true → ∃ t, exec (.copy q) s = .next t ∧
      Completed s t q cmd 4 (bitsAt (s.reg (HDMA_CH_ABORT q.val)) 32 32) (s.reg (HDMA_CH_ABORT q.val)) ∧ KeepsUnits s t ∧
      KeepsJob s t) ∧
    (∀ cmd d u, command s q 2 = some cmd → chHalted s (.host q) = false → (s.chan (.host q)).cur = none →
      (s.chan (.host q)).next = none →
      FetchesSound (s.setChan (.host q) { Chan.empty with pulseTile := if arg0 cmd = 0xFF then none else some (arg0 cmd) })
        (.host q) (cmdAddr cmd) d u →
      ∃ t, exec (.copy q) s = .next t ∧ (t.chan (.host q)).cur = some (cmdAddr cmd, d) ∧
        (t.chan (.host q)).pulseTile = (if arg0 cmd = 0xFF then none else some (arg0 cmd)) ∧ t.rings = s.rings ∧ t.mem = s.mem) ∧
    (∀ cmd, command s q 3 = some cmd → blackout s = false → chHalted s (.host q) = false → hostDown s (cmdAddr cmd) = false →
      rangeMapped s .other (cmdAddr cmd) 64 = false → ∃ t, exec (.qpSet q) s = .next t ∧ t.qps = s.qps ∧
        chHalted t (.host q) = true ∧ Completed s t q cmd 4 0 (abortWord 2 q.val 0) ∧ KeepsJob s t) ∧
    (∀ cmd, command s q 3 = some cmd → blackout s = false → chHalted s (.host q) = false → hostDown s (cmdAddr cmd) = false →
      rangeMapped s .other (cmdAddr cmd) 64 = true → rangeRetired s (cmdAddr cmd) 64 = false →
      (verifyRange s .other (cmdAddr cmd) 64).1 = [] →
      let b := readBytes s .other (cmdAddr cmd) 64
      ∃ t, exec (.qpSet q) s = .next t ∧ KeepsUnits s t ∧ KeepsJob s t ∧
        (qpRecordOk b = true → qpMoves (qpState s (arg0 cmd)) (field b 0 1) = true →
          t.qps = mapSet [] s.qps (arg0 cmd) b ∧ Completed s t q cmd 0 0 0) ∧
        (qpRecordOk b = true → qpMoves (qpState s (arg0 cmd)) (field b 0 1) = false →
          t.qps = s.qps ∧ Completed s t q cmd 2 4 0) ∧
        (qpRecordOk b = false → t.qps = s.qps ∧ Completed s t q cmd 1 8 0)) ∧
    (∀ cmd, command s q 4 = some cmd → ∃ t, exec (.qpDestroy q) s = .next t ∧ qpState t (arg0 cmd) = 0 ∧
      Completed s t q cmd 0 0 0 ∧ KeepsUnits s t ∧ KeepsJob s t) ∧
    (∀ cmd, command s q 5 = some cmd → blackout s = false →
      let i := bitsAt (arg0 cmd) 0 10
      let old := mapGet Region.empty s.regions i
      ∃ t, exec (.mrSet q) s = .next t ∧ KeepsUnits s t ∧ KeepsJob s t ∧
        (old.valid = true → mapGet Region.empty t.regions i = { old with gen := (old.gen + 1) % 256 } ∧ Completed s t q cmd 6 0 0) ∧
        (old.valid = false → mapGet Region.empty t.regions i =
            { valid := true, addr := cmdAddr cmd, size := cmdSize cmd, write := bitAt (arg0 cmd) 10,
              read := bitAt (arg0 cmd) 11, gen := (old.gen + 1) % 256 } ∧
          Completed s t q cmd 0 0 (256 * i + (old.gen + 1) % 256))) ∧
    (∀ cmd, command s q 6 = some cmd → ∃ t, exec (.mrClear q) s = .next t ∧
      (mapGet Region.empty t.regions (arg0 cmd)).valid = false ∧
      (mapGet Region.empty t.regions (arg0 cmd)).gen = (mapGet Region.empty s.regions (arg0 cmd)).gen ∧
      Completed s t q cmd 0 0 0 ∧ KeepsUnits s t ∧ KeepsJob s t)

/-- R23, R24 and R331. Where the manual is silent it states
the model's own reading or choice, log entries 25, 29, 30, 47, 69 and 90. -/
def Obligations.LoadsPlaceTheJobOrRejectIt : Prop :=
  ∀ (s : State) (q : RingId) (img : JobImage) (cmd : List Byte), command s q 1 = some cmd → blackout s = false →
    let idle := fbit s TBU_STATUS f_TBU_STATUS_CAROUSEL_IDLE
    let moved := ringMoved s q (cmdSize cmd)
    let reads := hostDown s (cmdAddr cmd) = false ∧ rangeMapped s .other (cmdAddr cmd) (cmdSize cmd) = true ∧
      rangeRetired s (cmdAddr cmd) (cmdSize cmd) = false
    let placed := fun (t : State) => t.job = jobOf img ∧ t.car.entries = img.carousel ∧ t.tiles = [] ∧
      ∀ p ∈ img.code, t.seq p.1 = { Seq.empty with status := .running, code := p.2 }
    (isResume cmd = false →
      (idle = false → ∃ t, exec (.loadJob q img) s = .next t ∧ Completed s t q cmd 2 1 0 ∧ KeepsUnits s t ∧ KeepsJob s t) ∧
      (idle = true → fget s PWR_STATE f_PWR_STATE_STATE = 2 → reads →
        (loadFault s img false ≠ 0 → ∃ t, exec (.loadJob q img) s = .next t ∧
          Completed s t q cmd 3 (loadFault s img false) 0 ∧ KeepsUnits s t ∧ KeepsJob s t) ∧
        (loadFault s img false = 0 → (img.code.map (·.1)).Nodup → ∃ t, exec (.loadJob q img) s = .next t ∧ placed t ∧
          Completed (loadJob moved img) t q cmd 0 0 0 ∧ fget t TBU_STEP_PERIOD f_TBU_STEP_PERIOD_PERIOD = img.period.toNat % 2 ^ 32 ∧
          fget t TBU_RESTART f_TBU_RESTART_STEP = 0 ∧ t.slices = [] ∧ t.repair = s.repair))) ∧
    (isResume cmd = true →
      (held s = false → ∃ t, exec (.resumeLoad q img) s = .next t ∧ Completed s t q cmd 2 2 0 ∧ KeepsUnits s t ∧ KeepsJob s t) ∧
      (held s = true → reads →
        (loadFault s img true ≠ 0 → ∃ t, exec (.resumeLoad q img) s = .next t ∧
          Completed s t q cmd 3 (loadFault s img true) 0 ∧ KeepsUnits s t ∧ KeepsJob s t) ∧
        (loadFault s img true = 0 → (img.code.map (·.1)).Nodup → ∃ t, exec (.resumeLoad q img) s = .next t ∧ placed t ∧
          Completed (resumeLoad moved img) t q cmd 0 0 0 ∧ t.reg INF_LS_STATE = s.reg INF_LS_STATE ∧ held t = true ∧ t.stp = s.stp ∧
          t.repair = s.repair ∧ ∀ n stream d, drawOf t n stream d = drawOf s n stream d)))

/-- R375, R376, R385 to R391 and R424. Where the manual is silent it states
the model's own reading or choice, log entries 33, 34, 87, 89 and 100. -/
def Obligations.UpdatesStageApplyAndProve : Prop :=
  ∀ s : State,
    let base := faddr s HIF_UPD_STAGE f_HIF_UPD_STAGE_BASE
    let copied := fun (v : State) (bs : List Byte) => writeBytes v .other base (bs.take (2 ^ 28)) false
    let kept := fun (bs : List Byte) => min bs.length (2 ^ 28)
    let found := fun (v : State) (bs : List Byte) => imageFault s (parseImage (readBytes (copied v bs) .other base (kept bs)))
    let proving := if fget s HIF_UPD_CTL f_HIF_UPD_CTL_PROVE_STEPS = 0 then 4 else 3
    (∀ (q : RingId) (cmd img : List Byte), command s q 7 = some cmd → blackout s = false → chHalted s (.host q) = false →
      hostDown s (cmdAddr cmd) = false → rangeMapped s .other (cmdAddr cmd) (cmdSize cmd) = true →
      rangeRetired s (cmdAddr cmd) (cmdSize cmd) = false → updState s = 0 → s.upd.agent = none →
      let v := ringMoved (hostPlaced s cmd img) q (cmdSize cmd)
      let bs := readBytes v .other (cmdAddr cmd) (cmdSize cmd)
      BlocksSound v (cmdAddr cmd) (cmdSize cmd) →
      (BlocksSound v base (kept bs) → ∃ t, exec (.stageImage q img) s = .next t ∧ KeepsUnits s t ∧ KeepsJob s t ∧
        Completed (copied v bs) t q cmd (if found v bs = 0 then 0 else 5) (found v bs) 0 ∧
        (found v bs = 0 → updState t = 1 ∧ t.upd.staged = some (base, kept bs)) ∧
        (found v bs ≠ 0 → updState t = 0 ∧ t.upd = s.upd ∧ fbit t HIF_UPD_STATUS f_HIF_UPD_STATUS_FAILED = true)) ∧
      ((verifyRange (copied v bs) .other base (kept bs)).1 ≠ [] → ∃ t, exec (.stageImage q img) s = .next t ∧
        updState t = 0 ∧ t.upd = s.upd ∧ fbit t HIF_UPD_STATUS f_HIF_UPD_STATUS_FAILED = true)) ∧
    (∀ (q : RingId) (cmd : List Byte), command s q 8 = some cmd → blackout s = false →
      (∀ w ∈ [(0, (.updateApply q : Instr), [1]), (1, .updateDeclareProven q, [3]), (2, .updateRevert q, [2, 3]),
          (3, .updateDiscard q, [1])], arg0 cmd = w.1 → updState s ∉ w.2.2 →
        ∃ t, exec w.2.1 s = .next t ∧ Completed s t q cmd 2 3 0 ∧ t.upd = s.upd ∧ t.flash = s.flash ∧ updState t = updState s) ∧
      (∀ img, arg0 cmd = 0 → updState s = 1 → stagedImage s = some img → ∃ t, exec (.updateApply q) s = .next t ∧
        Completed s t q cmd 0 0 0 ∧ t.upd.waiting = changedTypes s img ∧
        updState t = (if changedTypes s img = [] then proving else 2) ∧ KeepsUnits s t ∧ KeepsJob s t) ∧
      (arg0 cmd = 1 → updState s = 3 → ∃ t, exec (.updateDeclareProven q) s = .next t ∧ Completed s t q cmd 0 0 0 ∧
        updState t = 4 ∧ t.flash.headerA = false ∧ t.flash.headerB = false ∧ KeepsUnits s t ∧ KeepsJob s t) ∧
      (arg0 cmd = 2 → updState s = 2 ∨ updState s = 3 → ∃ t, exec (.updateRevert q) s = .next t ∧
        Completed s t q cmd 0 0 0 ∧ t.upd.waiting = changedTypes s s.flash.image ∧
        updState t = (if changedTypes s s.flash.image = [] then 0 else 5) ∧ KeepsUnits s t ∧ KeepsJob s t) ∧
      (arg0 cmd = 3 → updState s = 1 → ∃ t, exec (.updateDiscard q) s = .next t ∧ Completed s t q cmd 0 0 0 ∧
        updState t = 0 ∧ t.upd.staged = none ∧ KeepsUnits s t ∧ KeepsJob s t)) ∧
    (∀ (k : Fin 16) (x : Section), k.val ∈ s.upd.waiting → pendingSection s k.val = some x → blackout s = false →
      sectionDue s k.val = true → (∀ j ∈ s.upd.waiting, j < k.val → sectionDue s j = false) →
      (StagedSound s → sectionOk x = true → ∃ t, exec (.sectionApply k) s = .next t ∧ KeepsMemory s t ∧ KeepsUnits s t ∧
        let done := s.upd.channels ++ openChannels s
        let last := k ≠ 5 ∨ done.length = (allDevices.map channelCount).sum
        (k ≠ 1 → last → x.type = k.val ∧ (x.type, (x.digest, x.iface)) ∈ t.upd.inForce ∧ k.val ∉ t.upd.waiting) ∧
        (¬ last → t.upd = { s.upd with channels := done }) ∧
        (k = 1 → t.mgr.restarting = true ∧ fbit t HIF_STATUS f_HIF_STATUS_RM_BLACKOUT = true)) ∧
      ((verifySource s).1 = false → updState s = 2 → ∃ t, exec (.sectionApply k) s = .next t ∧
        t.upd.waiting = changedTypes s s.flash.image ∧ t.upd.inForce = s.upd.inForce ∧
        fbit t HIF_UPD_STATUS f_HIF_UPD_STATUS_FAILED = true) ∧
      (StagedSound s → sectionOk x = false → updState s = 2 → ∃ t, exec (.sectionApply k) s = .next t ∧ KeepsMemory s t ∧ KeepsUnits s t ∧
        t.upd.waiting = changedTypes s s.flash.image ∧ t.upd.inForce = s.upd.inForce ∧
        fbit t HIF_UPD_STATUS f_HIF_UPD_STATUS_FAILED = true)) ∧
    (∀ img, updState s = 4 → stagedImage s = some img → (verifyStaged s).1 = false →
      ∃ t, exec .flashImageWriteComplete s = .next t ∧ t.flash.headerA = false ∧ t.flash.headerB = false ∧
        t.flash.svnFuses = s.flash.svnFuses ∧ fbit t HIF_UPD_STATUS f_HIF_UPD_STATUS_FAILED = true) ∧
    (∀ img, updState s = 4 → stagedImage s = some img → StagedSound s → ∃ t, exec .flashImageWriteComplete s = .next t ∧ t.flash.image = img ∧
      t.flash.headerA = (imageFault s img == 0) ∧ t.flash.headerB = (imageFault s img == 0) ∧
      t.flash.checked = (if imageFault s img = 0 then some img else none) ∧ updState t = 0 ∧ t.upd.staged = none ∧
      (imageFault s img ≠ 0 → t.flash.svnFuses = s.flash.svnFuses ∧ fbit t HIF_UPD_STATUS f_HIF_UPD_STATUS_FAILED = true) ∧
      (imageFault s img = 0 → t.flash.svnFuses =
        if fbit s HIF_UPD_CTL f_HIF_UPD_CTL_BURN_SVN && !inRecovery s then max s.flash.svnFuses (imageSvn img) else s.flash.svnFuses) ∧
      (imageFault s img = 0 → inRecovery s = true → fget t PWR_STATE f_PWR_STATE_STATE = 1 ∧ t.job = Job.none) ∧
      (inRecovery s = false → KeepsMemory s t ∧ KeepsUnits s t ∧ KeepsJob s t)) ∧
    (∀ m : Medium, rmUp s = true → (s.port m).eid.isSome = true →
      let answers := fun (i : Instr) (r : Reply) (t : State) => exec i s = .next t ∧ t.out = s.out ++ [.reply m r] ∧
        KeepsRegsBut [] s t ∧ KeepsMemory s t ∧ KeepsUnits s t ∧ KeepsJob s t
      (∃ t, answers (.getStatus m) (.updateStatus (updState s)) t ∧ t.upd = s.upd) ∧
      (updState s = 0 → s.upd.agent = none → ∃ t, answers (.requestUpdate m) .done t ∧ t.upd.agent = some m) ∧
      (updState s ≠ 0 ∨ s.upd.agent ≠ none → ∃ t, answers (.requestUpdate m) .alreadyInUpdateMode t ∧ t.upd = s.upd) ∧
      (s.upd.agent = some m →
        (∃ t, answers (.passComponentTable m) .done t ∧ t.upd = s.upd) ∧
        (∃ t, answers (.updateComponent m) (.requestFirmwareData 0) t ∧ t.upd.received = [] ∧ t.upd.agent = some m) ∧
        (∀ data, ∃ t, answers (.requestFirmwareDataResponse m data false)
          (.requestFirmwareData (s.upd.received.length + data.length)) t ∧ t.upd.received = s.upd.received ++ data) ∧
        (∀ data, inRecovery s = true → updState s = 0 → imageFault s (parseImage (s.upd.received ++ data)) = 0 →
          ∃ t, exec (.requestFirmwareDataResponse m data true) s = .next t ∧ .reply m (.verifyComplete true) ∈ t.out ∧
            updState t = 4 ∧ t.flash.headerA = false ∧ t.flash.headerB = false) ∧
        (∀ data, inRecovery s = false → updState s = 0 →
          let bs := s.upd.received ++ data
          BlocksSound s base (kept bs) → ∃ t, exec (.requestFirmwareDataResponse m data true) s = .next t ∧ .reply m .transferComplete ∈ t.out ∧
            .reply m (.verifyComplete (found s bs == 0)) ∈ t.out ∧ (∀ k, byteAt t k = byteAt (copied s bs) k) ∧
            (found s bs = 0 → updState t = 1 ∧ t.upd.staged = some (base, kept bs)) ∧
            (found s bs ≠ 0 → updState t = 0 ∧ t.upd.staged = s.upd.staged)) ∧
        (inRecovery s = false → updState s = 1 → ∃ t, answers (.activateFirmware m false) .done t ∧ t.upd.agent = none ∧
          t.upd.staged = s.upd.staged) ∧
        (∀ img, inRecovery s = false → updState s = 1 → stagedImage s = some img → ∃ t,
          exec (.activateFirmware m true) s = .next t ∧ .reply m .done ∈ t.out ∧ t.upd.agent = none ∧
          t.upd.waiting = changedTypes s img ∧ updState t = (if changedTypes s img = [] then proving else 2)) ∧
        (∃ t, exec (.cancelUpdate m) s = .next t ∧ .reply m .done ∈ t.out ∧ t.upd.agent = none ∧
          (updState s = 1 → updState t = 0 ∧ t.upd.staged = none))) ∧
      (s.upd.agent ≠ some m → ∃ t, answers (.cancelUpdate m) .notInUpdateMode t ∧ t.upd = s.upd))

/-! ### Attestation and management (spec/15, spec/17, spec/18) -/

/-- R377 to R382. Where the manual is silent it states
the model's own reading or choice, log entries 21, 24, 26 and 34. -/
def Obligations.AttestationNeverReusesALeaf : Prop :=
  ∀ (s : State) (m : Medium), spdmOpen s m = true → inRecovery s = false →
    let answers := fun (i : Instr) (r : Reply) (t : State) => exec i s = .next t ∧ t.out = s.out ++ [.reply m r] ∧
      KeepsRegsBut [] s t ∧ KeepsMemory s t ∧ KeepsUnits s t ∧ KeepsJob s t
    let sign := Config.aliasSign (forceDigest s 1) (forceDigest s 2)
    (∃ t, answers (.getVersion m) (.spdmVersion 1 3) t ∧ (t.port m).negotiated = false ∧ (t.port m).transcript = none) ∧
    (∃ t, answers (.getCapabilities m) (.spdmCapabilities true true true) t ∧ t.flash = s.flash) ∧
    (∀ p h, ∃ t, answers (.negotiateAlgorithms m p h) (.spdmAlgorithms (p && h)) t ∧ (t.port m).negotiated = (p && h)) ∧
    ((s.port m).negotiated = true →
      (∃ t, answers (.getDigests m) (.spdmDigests (Config.sha384 (certChain s))) t) ∧
      (∃ t, answers (.getCertificate m 0) (.spdmCertificate (certChain s)) t) ∧
      (∀ slot, slot ≠ 0 → ∃ t, answers (.getCertificate m slot) .spdmError t) ∧
      (∀ nonce, ∃ t d, answers (.challenge m nonce) (.spdmChallenge d (sign d)) t ∧ (t.port m).transcript = some d) ∧
      (∀ nonce, ∃ t d, answers (.getMeasurements m nonce) (.spdmMeasurements (s.upd.inForce.map fun p => (p.1, p.2.1)) d (sign d)) t ∧
        (t.port m).transcript = some d)) ∧
    ((s.port m).negotiated = false → ∀ slot nonce,
      ∀ i ∈ [(.getDigests m : Instr), .getCertificate m slot, .challenge m nonce, .getMeasurements m nonce],
        ∃ t, answers i .spdmError t) ∧
    (∀ d cur, (s.port m).transcript = some d → lmsCurrent s.flash = some cur → lmsSeq cur + 2 < 2 ^ 32 →
      let signed := fun (top bottom : Nat) => Reply.hssSignature (List.ofFn (Config.hssSign top bottom d))
      let slot := (boolNat (lmsNext s.flash).1, (lmsNext s.flash).2.length)
      (lmsBottom cur < 32768 → slot ∉ s.flash.lmsBad → ∃ t,
        answers (.hssSignatureRequest m) (signed (lmsTop cur) (lmsBottom cur)) t ∧
        lmsCurrent t.flash = some (lmsBytes (lmsSeq cur + 1) (lmsTop cur) (lmsBottom cur + 1))) ∧
      (lmsBottom cur < 32768 → slot ∈ s.flash.lmsBad → ∃ t, answers (.hssSignatureRequest m) .spdmError t ∧
        lmsCurrent t.flash = some cur) ∧
      (32768 ≤ lmsBottom cur → lmsTop cur + 1 < 1024 → s.flash.treeReady = true → s.flash.lmsBad = [] → ∃ t,
        answers (.hssSignatureRequest m) (signed (lmsTop cur + 1) 0) t ∧
        lmsCurrent t.flash = some (lmsBytes (lmsSeq cur + 2) (lmsTop cur + 1) 1) ∧ t.flash.treeReady = false) ∧
      (32768 ≤ lmsBottom cur → lmsTop cur + 1 < 1024 → s.flash.treeReady = false → ∃ t,
        exec (.hssSignatureRequest m) s = .next t ∧ t.mgr.hssWaiting = s.mgr.hssWaiting ++ [(m, d)] ∧ t.out = s.out ∧
        t.flash = s.flash) ∧
      (32768 ≤ lmsBottom cur → 1024 ≤ lmsTop cur + 1 → ∃ t, answers (.hssSignatureRequest m) .spdmError t ∧
        t.flash = s.flash)) ∧
    ((s.port m).transcript = none ∨ lmsCurrent s.flash = none →
      ∃ t, answers (.hssSignatureRequest m) .spdmError t ∧ t.flash = s.flash) ∧
    (∀ cur, lmsCurrent s.flash = some cur → (∃ t, answers (.signaturesLeftRequest m)
        (.signaturesLeft (33554432 - (lmsTop cur * 32768 + lmsBottom cur))) t ∧ t.flash = s.flash) ∧
      (16384 ≤ lmsBottom cur → s.flash.treeReady = false →
        (s.mgr.hssWaiting = [] → exec .bottomTreeBuildComplete s =
          .next { s with flash := { s.flash with treeReady := true } }) ∧
        (∀ w ws, s.mgr.hssWaiting = w :: ws → 32768 ≤ lmsBottom cur → lmsTop cur + 1 < 1024 → lmsSeq cur + 2 < 2 ^ 32 →
          s.flash.lmsBad = [] → ∃ t, exec .bottomTreeBuildComplete s = .next t ∧
            .reply w.1 (.hssSignature (List.ofFn (Config.hssSign (lmsTop cur + 1) 0 w.2))) ∈ t.out)))

/-- R422 to R425 and R448. Where the manual is silent it states
the model's own reading or choice, log entries 24, 27, 34 and 59. -/
def Obligations.ManagementAnswersItsRequests : Prop :=
  ∀ s : State,
    (∀ m : Medium, rmUp s = true →
      let answers := fun (i : Instr) (r : Reply) (t : State) => exec i s = .next t ∧ t.out = s.out ++ [.reply m r] ∧
        KeepsRegsBut [] s t ∧ KeepsMemory s t ∧ KeepsUnits s t ∧ KeepsJob s t
      (∀ eid, s.mgr.ports.length = 3 → ∃ t, answers (.setEndpointId m eid) (.endpointId eid) t ∧ (t.port m).eid = some eid ∧
        ∀ n, n ≠ m → t.port n = s.port n) ∧
      (∃ t, answers (.getEndpointId m) (.endpointId ((s.port m).eid.getD 0)) t) ∧
      (∃ t, answers (.getEndpointUuid m) (.endpointUuid Config.uuid) t) ∧
      (∀ type : Byte, ∃ t, answers (.getMctpVersionSupport m type)
        (.mctpVersion (decide (type = 0xFF ∨ type = 0 ∨ type = 1 ∨ type = 5 ∨ type = 0x7E))) t) ∧
      (∃ t, answers (.getMessageTypeSupport m) (.messageTypes [0, 1, 5, 0x7E]) t) ∧
      ((s.port m).eid = none → ∀ i ∈ [(.getTid m : Instr), .getPldmTypes m, .getStatus m, .queryDeviceIdentifiers m],
        exec i s = .next s) ∧
      ((s.port m).eid.isSome = true →
        (∃ t, answers (.queryDeviceIdentifiers m) (.identifiers 0x4836 2) t) ∧
        (∃ t, answers (.getFirmwareParameters m) (.firmware (imageBuild s.flash.image) ((stagedImage s).map imageBuild)) t)) ∧
      ((s.port m).eid.isSome = true → inRecovery s = false →
        (∃ t, answers (.getTid m) (.tid s.mgr.tid) t) ∧
        (∀ x, ∃ t, answers (.setTid m x) .done t ∧ t.mgr.tid = x) ∧
        (∃ t, answers (.getPldmTypes m) (.pldmTypes [0, 2, 5]) t) ∧
        (∀ x : Byte, x = 0 ∨ x = 2 ∨ x = 5 → (∃ t, answers (.getPldmVersion m x) (.pldmVersion x.toNat) t) ∧
          ∃ t, answers (.getPldmCommands m x) (.pldmCommands (pldmCommandsOf x.toNat)) t) ∧
        (∀ x : Byte, ¬ (x = 0 ∨ x = 2 ∨ x = 5) → (∃ t, answers (.getPldmVersion m x) .unsupportedPldmCommand t) ∧
          ∃ t, answers (.getPldmCommands m x) .unsupportedPldmCommand t) ∧
        (∀ i, 1 ≤ i → i ≤ 1039 →
          (∃ t, answers (.getSensorReading m i) (.sensor (if 3 ≤ (s.sensor i).missed then none else (s.sensor i).last)) t) ∧
          ∃ t, answers (.getPdr m i) (.pdr (some i)) t) ∧
        (∃ t, answers (.getPdrRepositoryInfo m) (.pdrInfo 1039) t) ∧
        (∀ x, ∃ t, answers (.setEventReceiver m x) .done t ∧ t.mgr.receiver = some x ∧ t.mgr.receiverOn = m) ∧
        (∀ seq : BitVec 32, ∃ t, answers (.readFlashLog m seq)
          (.flashLog ((s.flash.log.filter fun e => decide (seq.toNat ≤ e.seq)).take 32)) t) ∧
        (∀ eid (bits : BitVec 3),
          let rest := (s.port m).subscribers.filter fun x => x.1 != eid
          (bits = 0 → ∃ t, answers (.subscribe m eid bits) .done t ∧ (t.port m).subscribers = rest) ∧
          (bits ≠ 0 → rest.length < 4 → ∃ t, answers (.subscribe m eid bits) .done t ∧
            (t.port m).subscribers = rest ++ [(eid, bits)]) ∧
          (bits ≠ 0 → 4 ≤ rest.length → ∃ t, answers (.subscribe m eid bits) .noRoom t ∧ t.mgr = s.mgr)))) ∧
    (s.pwr.applied = true →
      exec .idcode s = .next (emit s (.tdo ((List.range 32).map (bitAt 0x248363EB)))) ∧
      (∀ b, exec (.bypass b) s = .next (emit s (.tdo [b]))) ∧
      (∀ scan : BoundaryScan, s.pins.modrst = true → ∃ t, exec (.extest scan) s = .next t ∧ t.pins.boundary = scan.shifted ∧
        t.pins.jtagOut = (if scan.op = .extest then scan.shifted else []) ∧
        t.out = s.out ++ (if scan.op = .preload then [] else [.tdo scan.levels]) ∧
        KeepsRegsBut [] s t ∧ KeepsMemory s t ∧ KeepsUnits s t ∧ KeepsJob s t) ∧
      (∀ scan, s.pins.modrst = false → exec (.extest scan) s = .next s))

/-! ### The ringmaster, sensors, the event log and monitoring counters (spec/17) -/

/-- R394, R414 to R420, R429 and R430. Where the manual is silent it states
the model's own reading or choice, log entries 23, 24, 33, 52 and 54. -/
def Obligations.TheRingmasterRestartsAndCounts : Prop :=
  ∀ s : State,
    (pairRuns s = true → ∃ t, exec (.lockstepMismatch true) s = .next t ∧ t.mgr.restarting = true ∧
      fbit t HIF_STATUS f_HIF_STATUS_RM_BLACKOUT = true ∧ fget t MGS_STATUS f_MGS_STATUS_LAST_RESTART = 2 ∧
      fbit t MGS_ALERT f_MGS_ALERT_RESTART = true ∧ KeepsMemory s t ∧ KeepsUnits s t ∧ KeepsJob s t) ∧
    (pairRuns s = true → secondMismatch s = false → ∃ t, exec (.lockstepMismatch false) s = .next t ∧
      t.mgr.restarting = true ∧ t.mgr.mismatchBeat = some s.now ∧ fbit t HIF_STATUS f_HIF_STATUS_RM_BLACKOUT = true ∧
      fget t MGS_STATUS f_MGS_STATUS_LAST_RESTART = 1 ∧ fbit t MGS_ALERT f_MGS_ALERT_RESTART = true ∧ KeepsMemory s t ∧
      KeepsUnits s t ∧ KeepsJob s t) ∧
    (∀ b, pairRuns s = true → s.mgr.mismatchBeat = some b → s.now ≤ b + 10000 * beatsPerMs →
      ∃ t, exec (.lockstepMismatch false) s = .next t ∧ fbit t MGS_STATUS f_MGS_STATUS_RM_HELD = true ∧ t.pins.alert = true ∧
        KeepsMemory s t ∧ KeepsUnits s t ∧ KeepsJob s t) ∧
    (∀ p, pairRuns s = false → exec (.lockstepMismatch p) s = .next s) ∧
    (rmUp s = true → s.mgr.kickBeat + fget s MGS_WDOG f_MGS_WDOG_TIMEOUT * beatsPerMs ≤ s.now →
      ∃ t, exec .watchdogExpire s = .next t ∧ t.mgr.restarting = true ∧
        fget t MGS_STATUS f_MGS_STATUS_LAST_RESTART = 3 ∧ (updState s = 3 → updState t = 0 ∨ updState t = 5) ∧
        (updState s ≠ 3 → updState t = updState s) ∧ KeepsMemory s t ∧ KeepsUnits s t ∧ KeepsJob s t) ∧
    (s.now < s.mgr.kickBeat + fget s MGS_WDOG f_MGS_WDOG_TIMEOUT * beatsPerMs → exec .watchdogExpire s = .next s) ∧
    exec (.watchdogKick .firmware) s = .next { s with mgr := { s.mgr with kickBeat := s.now } } ∧
    exec (.watchdogKick .host) s = .next (denyWrite s MGS_WDOG) ∧
    (s.mgr.restarting = true → fbit s MGS_STATUS f_MGS_STATUS_RM_HELD = false → 1 ∉ s.upd.waiting →
      firmwareSound s = true → ∃ t, exec .warmRestartComplete s = .next t ∧ t.mgr.restarting = false ∧
        t.mgr.kickBeat = s.now ∧ t.mgr.queue = s.mgr.queue ∧ t.mgr.ram = s.mgr.ram ∧ (rmUp t = true → t.mgr.events = []) ∧
        fbit t HIF_STATUS f_HIF_STATUS_RM_BLACKOUT = false ∧ KeepsRegsBut [HIF_STATUS] s t ∧ KeepsMemory s t ∧
        KeepsUnits s t ∧ KeepsJob s t) ∧
    (s.mgr.restarting = true → 1 ∉ s.upd.waiting → firmwareSound s = false → exec .warmRestartComplete s = .next s) ∧
    (∀ x : Section, StagedSound s → s.mgr.restarting = true → fbit s MGS_STATUS f_MGS_STATUS_RM_HELD = false → 1 ∈ s.upd.waiting →
      fget s MGS_STATUS f_MGS_STATUS_LAST_RESTART = 4 → pendingSection s 1 = some x → ∃ t,
        exec .warmRestartComplete s = .next t ∧ t.mgr.restarting = false ∧ fbit t HIF_STATUS f_HIF_STATUS_RM_BLACKOUT = false ∧
        (sectionOk x = true → 1 ∉ t.upd.waiting ∧ (1, (x.digest, x.iface)) ∈ t.upd.inForce) ∧
        (sectionOk x = false → t.upd.inForce = s.upd.inForce ∧ fbit t HIF_UPD_STATUS f_HIF_UPD_STATUS_FAILED = true) ∧ KeepsMemory s t ∧ KeepsUnits s t ∧ KeepsJob s t) ∧
    (∀ (i : Nat) (v : Int), s.pwr.applied = true → 1 ≤ i → i ≤ 1039 → ∃ t, exec (.sensorReading i (some v)) s = .next t ∧
      (t.sensor i).last = some v ∧ (t.sensor i).missed = 0 ∧
      ((s.sensor i).last = none → (t.sensor i).low = v ∧ (t.sensor i).high = v) ∧
      (∀ l, (s.sensor i).last = some l → (t.sensor i).low = min (s.sensor i).low v ∧
        (t.sensor i).high = max (s.sensor i).high v) ∧
      (∀ k : Fin 3, let x := Config.sensorThreshold (forceDigest s 7) (forceDigest s 8) i k
        (bitAt (s.sensor i).crossed k.val = false → (bitAt (t.sensor i).crossed k.val = true ↔ x < v)) ∧
        (bitAt (s.sensor i).crossed k.val = true → (bitAt (t.sensor i).crossed k.val = false ↔ fallsBack i v x = true)) ∧
        (bitAt (s.sensor i).crossed k.val = false → x < v → k = 1 → fbit t MGS_ALERT f_MGS_ALERT_SENSOR = true)) ∧
      KeepsMemory s t ∧ KeepsUnits s t ∧ KeepsJob s t) ∧
    (∀ i : Nat, s.pwr.applied = true → 1 ≤ i → i ≤ 1039 → ∃ t, exec (.sensorReading i none) s = .next t ∧
      (t.sensor i).missed = (s.sensor i).missed + 1 ∧ (t.sensor i).last = (s.sensor i).last ∧
      ((s.sensor i).missed = 2 → fbit t MGS_ALERT f_MGS_ALERT_SENSOR = true) ∧ KeepsMemory s t ∧ KeepsUnits s t ∧
      KeepsJob s t) ∧
    (∀ e es, rmUp s = true → s.mgr.queue = e :: es → ∃ t, exec .eventLogAppend s = .next t ∧ t.mgr.queue = es ∧
      t.mgr.ram = (s.mgr.ram ++ [{ e with seq := fget s MGS_LOG_WP f_MGS_LOG_WP_SEQ, logged := s.now }]).drop (s.mgr.ram.length - 32767) ∧
      fget t MGS_LOG_WP f_MGS_LOG_WP_SEQ = (fget s MGS_LOG_WP f_MGS_LOG_WP_SEQ + 1) % 2 ^ 32 ∧
      KeepsRegsBut [MGS_LOG_WP] s t ∧ KeepsMemory s t ∧ KeepsUnits s t ∧ KeepsJob s t) ∧
    (rmUp s = true → s.flash.log.length + (unflashed s).length ≤ 2097152 →
      let others := (unflashed s).filter fun e => decide (e.severity < 3)
      let due := 128 ≤ others.length ∨ ∃ e ∈ others, e.logged + 1000000000 ≤ s.now
      ∃ t, exec .flashLogCopy s = .next t ∧
        (due → t.flash.log = s.flash.log ++ unflashed s ∧ unflashed t = []) ∧
        (∀ (es rest : List LogEntry) (e : LogEntry), ¬ due → unflashed s = es ++ e :: rest → 3 ≤ e.severity →
          (∀ x ∈ rest, x.severity < 3) → t.flash.log = s.flash.log ++ es ++ [e]) ∧
        (¬ due → (∀ x ∈ unflashed s, x.severity < 3) → t = s) ∧
        KeepsRegsBut [] s t ∧ KeepsMemory s t ∧ KeepsUnits s t ∧ KeepsJob s t) ∧
    (∀ (r : Requester) (tile : Option TileId) (n : Fin 128) (v : Word) (added a : Nat), mcReg tile n = some a →
      mayWrite s r (some grpMonitor) = true → ∃ t, exec (.mcWrite r tile n v added) s = .next t ∧
        (let c := bitsAt v.toNat 0 48 + if mcCounts s a then added else 0
        (c < 2 ^ 48 → fget t a f_MGS_MC_VAL_COUNT = c) ∧
        (2 ^ 48 ≤ c → fget t a f_MGS_MC_VAL_COUNT = 2 ^ 48 - 1 ∧ fbit t a f_MGS_MC_VAL_OVF = true)) ∧
        KeepsMemory s t ∧ KeepsUnits s t ∧ KeepsJob s t)

/-! ### Snapshots (spec/17) -/

/-- R432 to R438. Where the manual is silent it states
the model's own reading or choice, log entry 51. -/
def Obligations.SnapshotsLatchEveryEmptyBlock : Prop :=
  ∀ s : State,
    let fired := fun (t : State) (source : Nat) => t.snaps.triggers = s.snaps.triggers ++ [⟨s.now, source, 0⟩]
    (∀ r, mayWrite s r (some grpSnapshot) = true →
      (∃ t, exec (.snapshotFire r) s = .next t ∧ fired t 5 ∧ KeepsRegsBut [] s t ∧ KeepsMemory s t ∧ KeepsUnits s t ∧
        KeepsJob s t) ∧
      ∃ t, exec (.matchArm r) s = .next t ∧ fbit t MGS_SNAP_CTL f_MGS_SNAP_CTL_MATCH_ARM = true ∧
        KeepsRegsBut [MGS_SNAP_CTL] s t ∧ KeepsMemory s t ∧ KeepsUnits s t ∧ KeepsJob s t) ∧
    (fbit s MGS_SNAP_CTL f_MGS_SNAP_CTL_PIN_EN = true → (∀ b, s.snaps.driveFrom = some b → b + 4 ≤ s.now) →
      exec .snapLSampled s = .next (fireSnapshot s 3 0)) ∧
    (∀ b, s.snaps.driveFrom = some b → s.now < b + 4 → exec .snapLSampled s = .next s) ∧
    (fbit s MGS_SNAP_CTL f_MGS_SNAP_CTL_MATCH_ARM = true → s.reg MGS_SNAP_BEAT ≤ s.now → ∃ t, exec .beatMatch s = .next t ∧
      fired t 4 ∧ fbit t MGS_SNAP_CTL f_MGS_SNAP_CTL_MATCH_ARM = false ∧ KeepsRegsBut [MGS_SNAP_CTL] s t ∧ KeepsMemory s t ∧
      KeepsUnits s t ∧ KeepsJob s t) ∧
    (∀ x xs, s.snaps.triggers = x :: xs → x.beat + 2 ≤ s.now → ∃ t, exec .snapshotLatch s = .next t ∧
      t.snaps.triggers = s.snaps.triggers.filter (fun y => y.beat != x.beat) ∧
      (∀ b ∈ snapBlocks, fbit t (blockHdr b) f_TL_SNAP_HDR_FULL = true ∧
        (fbit s (blockHdr b) f_TL_SNAP_HDR_FULL = false →
          fget t (blockHdr b) f_TL_SNAP_HDR_BEAT = (x.beat + 2) % 2 ^ f_TL_SNAP_HDR_BEAT.width ∧
          mapGet [] t.snaps.latches (blockKey b) = blockWords s b) ∧
        (fbit s (blockHdr b) f_TL_SNAP_HDR_FULL = true →
          fget t (blockHdr b) f_TL_SNAP_HDR_IGNORED =
            min f_TL_SNAP_HDR_IGNORED.max (fget s (blockHdr b) f_TL_SNAP_HDR_IGNORED + 1) ∧
          mapGet [] t.snaps.latches (blockKey b) = mapGet [] s.snaps.latches (blockKey b))) ∧
      ((∃ b ∈ snapBlocks, fbit s (blockHdr b) f_TL_SNAP_HDR_FULL = false) →
        fget t MGS_SNAP_CAUSE f_MGS_SNAP_CAUSE_SOURCE =
          ((s.snaps.triggers.filter fun y => y.beat == x.beat).foldl (fun n y => min n y.source) x.source) %
            2 ^ f_MGS_SNAP_CAUSE_SOURCE.width ∧
        fbit t MGS_SNAP_CAUSE f_MGS_SNAP_CAUSE_MULTI =
          decide (1 < (s.snaps.triggers.filter fun y => y.beat == x.beat).length)) ∧
      KeepsMemory s t ∧ KeepsUnits s t ∧ KeepsJob s t) ∧
    (fbit s MGS_SNAP_CTL f_MGS_SNAP_CTL_AUTO_SAVE = true → s.snaps.latches ≠ [] → s.snaps.saving = false → rmUp s = true →
      exec .snapshotAutoSave s = .next { s with snaps := { s.snaps with saving := true } }) ∧
    (s.snaps.saving = true → rmUp s = true → ∃ t, exec .snapshotDumpComplete s = .next t ∧ t.snaps.saving = false ∧
      t.snaps.dump = some (s.reg MGS_SNAP_CAUSE, s.snaps.latches) ∧
      (∀ b ∈ snapBlocks, fbit t (blockHdr b) f_TL_SNAP_HDR_FULL = false) ∧
      (∀ k, (∀ i < 524288, k ≠ keyOf s (faddr s MGS_SNAP_DUMP f_MGS_SNAP_DUMP_BASE + i)) → byteAt t k = byteAt s k) ∧
      KeepsUnits s t ∧ KeepsJob s t)

/-- R437. -/
def Obligations.ReleasesEmptyTheLatches : Prop :=
  ∀ s : State,
    (∀ (r : Requester) (b : SnapBlock),
      (b = .hostInterface → r = .firmware ∨ hostReady s = true) → (b ≠ .hostInterface → mayWrite s r (some grpSnapshot) = true) →
      ∃ t, exec (.latchRelease r b) s = .next t ∧ fbit t (blockHdr b) f_TL_SNAP_HDR_FULL = false ∧
        mapGet [] t.snaps.latches (blockKey b) = [] ∧
        (∀ c, c ≠ b → t.reg (blockHdr c) = s.reg (blockHdr c) ∧
          mapGet [] t.snaps.latches (blockKey c) = mapGet [] s.snaps.latches (blockKey c)) ∧
        KeepsRegsBut [blockHdr b] s t ∧ KeepsMemory s t ∧ KeepsUnits s t ∧ KeepsJob s t) ∧
    (∀ r, mayWrite s r (some grpSnapshot) = true → ∃ t, exec (.release r) s = .next t ∧ t.beat = s.beat ∧
      (∀ b ∈ snapBlocks, fbit t (blockHdr b) f_TL_SNAP_HDR_FULL = false ∧ mapGet [] t.snaps.latches (blockKey b) = []) ∧
      KeepsRegsBut (snapBlocks.map blockHdr) s t ∧ KeepsMemory s t ∧ KeepsUnits s t ∧ KeepsJob s t) ∧
    (∀ (q : RingId) (img : JobImage), ∃ t u, exec (.loadJob q img) s = .next t ∧ exec (.resumeLoad q img) s = .next u ∧
      ∀ b, fget t (blockHdr b) f_TL_SNAP_HDR_FULL = fget s (blockHdr b) f_TL_SNAP_HDR_FULL ∧
        fget u (blockHdr b) f_TL_SNAP_HDR_FULL = fget s (blockHdr b) f_TL_SNAP_HDR_FULL ∧
        mapGet [] t.snaps.latches (blockKey b) = mapGet [] s.snaps.latches (blockKey b) ∧
        mapGet [] u.snaps.latches (blockKey b) = mapGet [] s.snaps.latches (blockKey b))

/-! ### The register region (spec/19) and the turnstile (spec/14) -/

/-- R365, R458, R460 and R461. Where the manual is silent it states
the model's own reading or choice, log entries 49 and 58. -/
def Obligations.RegisterWritesObeyRightsAndAccess : Prop :=
  ∀ s : State,
    (∀ (a : Nat) (row : RegRow) (v : Word), regRow a = some row → a % 8 = 0 → isHif a = false →
      mayWrite s .host (regGroup a) = false →
      (hostReady s = false → exec (.registerWrite .host a 0xFF v) s = .next s) ∧
      (hostReady s = true → ∃ t, exec (.registerWrite .host a 0xFF v) s = .next t ∧
        fget t MGS_HOST_DENIED f_MGS_HOST_DENIED_COUNT =
          min f_MGS_HOST_DENIED_COUNT.max (fget s MGS_HOST_DENIED f_MGS_HOST_DENIED_COUNT + 1) ∧
        fget t MGS_HOST_DENIED f_MGS_HOST_DENIED_OFFSET = a % 2 ^ f_MGS_HOST_DENIED_OFFSET.width ∧
        KeepsRegsBut [MGS_HOST_DENIED] s t ∧ KeepsMemory s t ∧ KeepsUnits s t ∧ KeepsJob s t)) ∧
    (∀ (a : Nat) (row : RegRow) (v : Word), regRow a = some row → a % 8 = 0 → 0x900000 ≤ a → a < 0x902000 →
      ∃ t, exec (.registerWrite .firmware a 0xFF v) s = .next t ∧
        (∀ f ∈ row.fields,
          let was := bitsAt (s.reg a) f.lo f.width
          let asked := bitsAt v.toNat f.lo f.width
          let is := bitsAt (t.reg a) f.lo f.width
          (f.access = .rw → is = asked) ∧ (f.access = .rwl → is = if isSealed s then was else asked) ∧
          (f.access = .w1c → ∀ i < f.width, bitAt is i = (bitAt was i && !bitAt asked i)) ∧ (f.access = .ro → is = was)) ∧
        KeepsRegsBut [a] s t ∧ KeepsMemory s t ∧ KeepsUnits s t ∧ KeepsJob s t) ∧
    (∀ r a e v, regRow a = none ∨ halvesOf e = none → exec (.registerWrite r a e v) s = .next s) ∧
    (∃ t, exec (.seal .firmware) s = .next t ∧ isSealed t = true ∧ KeepsRegsBut [MGS_SEAL] s t ∧ KeepsMemory s t ∧
      KeepsUnits s t ∧ KeepsJob s t) ∧
    (∃ t, exec (.seal .host) s = .next t ∧ isSealed t = isSealed s ∧ KeepsRegsBut [MGS_HOST_DENIED] s t) ∧
    (∀ (a : Nat) (row : RegRow) (e : Byte) (h : Bool × Bool) (v : Word), regRow a = some row → halvesOf e = some h →
      writesField row h = false → exec (.registerWrite .firmware a e v) s = .next s) ∧
    (∀ a e v, windowClosed a = true → exec (.registerWrite .window a e v) s = .next s) ∧
    (∀ (r : Requester) (a : Nat), latchesHalf a = true → (r ≠ .firmware → hostReady s = true) →
      ∃ t, exec (.halfReadLatch r a) s = .next t ∧ KeepsRegsBut [] s t ∧
        (∀ z, a ≠ TBU_BEAT → mapGet z t.halves (halfKey r a) = BitVec.ofNat 32 (bitsAt (s.reg a) 32 32)) ∧
        (∀ z, a = TBU_BEAT → mapGet z t.halves (halfKey r a) = BitVec.ofNat 32 (s.now / 2 ^ 32))) ∧
    (∀ (r : Requester) (a : Nat), a % 8 = 0 → (r ≠ .firmware → hostReady s = true) →
      exec (.halfReadLatch r (a + 4)) s = .next { s with halves := mapErase s.halves (halfKey r a) }) ∧
    (∀ o, hostReady s = false → 0x40000 ≤ o ∨ openEarly (0xA00000 + o) = false → barRead s o = 0) ∧
    (∀ a v, 0xA10000 ≤ a → a < 0xA20000 → exec (.registerWrite .host a 0xF0 v) s = .next s)

/-- R352 to R360. Where the manual is silent it states
the model's own reading or choice, log entries 19 and 42. -/
def Obligations.IntakesWaitAndAreDecoded : Prop :=
  ∀ s : State,
    (∀ (c : CoreId) (a : Nat) (d rec_ : List Byte) (u : State), currentOf s (coreChan c) 0x22 = some (a, d, rec_) →
      (s.chan (coreChan c)).intake = false →
      (fbit s VID_CTL f_VID_CTL_ENABLE = false ∨ 256 ≤ s.vid.waiting.length → exec (.intake c) s = .next s) ∧
      (fbit s VID_CTL f_VID_CTL_ENABLE = true → s.vid.waiting.length < 256 → startDesc s (coreChan c) a d = ([], u) →
        intakeHeld s (coreChan c) a d = false → faulty s (.channel (chanKey (coreChan c))) = false →
        (verifyRange u (chAgent (coreChan c)) (parseIntake d).param 64).1 = [] →
        ∃ t, exec (.intake c) s = .next t ∧ t.vid.waiting = s.vid.waiting ++ [(c.tile.val, c.core.val)] ∧
          (t.chan (coreChan c)).intake = true ∧
          fget t VID_BUSY f_VID_BUSY_PENDING = (s.vid.waiting.length + 1) % 2 ^ f_VID_BUSY_PENDING.width ∧
          t.seqs = s.seqs ∧ t.mem = s.mem ∧ t.job = s.job)) ∧
    (∀ (w : Nat × Nat) (ws : List (Nat × Nat)) (i a : Nat) (d rec_ : List Byte), s.vid.waiting = w :: ws →
      w.1 < 48 → w.2 < 16 → idleEngine s = some i →
      let e := coreChan (coreOf (16 * w.1 + w.2))
      let ctx := (parseIntake d).ctx
      currentOf s e 0x22 = some (a, d, rec_) → (∀ q ∈ intakeNeeds s d, portUp s q = true) →
      (verifyRange s .other (ctxAddr s ctx) 64).1 = [] → blocksHeld s [ctxAddr s ctx] = false →
      rangeAccessible s .other (ctxAddr s ctx) 64 = true →
      ∃ t, exec .intakeDispatch s = .next t ∧ t.vid.waiting = ws.filter (fun v => 32 * v.1 + v.2 != chanKey e) ∧
        t.vid.running = s.vid.running ++ [⟨i, w.1, w.2, readBytes s .other (ctxAddr s ctx) 64⟩] ∧
        bitAt (fget t VID_BUSY f_VID_BUSY_BUSY) i = true ∧
        t.mem = s.mem ∧ KeepsUnits s t ∧ t.job = s.job) ∧
    (idleEngine s = none → exec .intakeDispatch s = .next s) ∧
    (∀ (j : Nat) (r : EngineRun), s.vid.running[j]? = some r →
      (Config.freeValue s.free).toNat % (s.vid.running.length + 1) = j →
      engineTick s = finishEngine { s with free := s.free + 1 } r) ∧
    (∀ (r : EngineRun) (a : Nat) (d rec_ : List Byte), r ∈ s.vid.running → r.tile < 48 → r.chan < 16 →
      let c := coreOf (16 * r.tile + r.chan)
      let e := coreChan c
      let x := parseIntake d
      let p := parseParam (readBytes s .other x.param 64)
      let k := r.record
      let entry := fun (g : Nat) => bitsAt (field k 40 8) 0 56 + 32 * ((x.startPos + g * x.tpg) / max 1 x.tpg)
      let ts := fun (g : Nat) => if bitAt (field k 3 1) 0 then some (entry g) else none
      x.fmt = 0 ∨ x.fmt = 8 → currentOf s e 0x22 = some (a, d, rec_) → (∀ q ∈ intakeNeeds s d, portUp s q = true) →
      clipHeld s d k = false → rangeRetired s x.src x.srcBytes = false → rangeRetired s p.status 16 = false →
      (∀ g < x.groups, groupFaults s x p g (ts g) = false) →
      let t := finishEngine s r
      t.vid.waiting = s.vid.waiting.filter (fun w => 32 * w.1 + w.2 != chanKey e) ∧
      t.vid.running = s.vid.running.filter (fun q => 32 * q.tile + q.chan != chanKey e) ∧ (t.chan e).intake = false ∧
      fget t (chProgress e) f_DMA_CH_PROGRESS_DONE = (fget s (chProgress e) f_DMA_CH_PROGRESS_DONE + 1) % 2 ^ 24 ∧
      (∀ h tl, nthD [] (s.seq c).queues 2 = h :: tl → nthD [] (t.seq c).queues 2 = { h with desc := d, done := true } :: tl) ∧
      (∀ z, (∀ j < x.groups * x.tpg * x.tokenBytes, z ≠ keyOf s (x.dst + j)) →
        (∀ j < x.groups * x.tpg * (x.len / 32), z ≠ keyOf s (x.dstScale + j)) →
        (∀ g < x.groups, ∀ j < 32, z ≠ keyOf s (entry g + j)) → (∀ j < 16, z ≠ keyOf s (p.status + j)) →
        (x.tensor = 0xFFFF ∨ ∀ j < 4, z ≠ keyOf s (formatAddr s x.tensor + 4 + j)) → byteAt t z = byteAt s z))
end

