-- ==== Sys2Proof/Laws/Bits.lean ====
section
/-! SUPPORT. Bit fields of a number: a field written is the field read, and no other bits change. -/

namespace Sys2Proof.Machine

theorem bitsAt_lt (n lo w : Nat) : bitsAt n lo w < 2 ^ w := Nat.mod_lt _ (Nat.two_pow_pos w)

/-- A number with a field replaced, as low part, field and high part. -/
theorem putBits_eq (n lo w v : Nat) :
    putBits n lo w v = n % 2 ^ lo + 2 ^ lo * (v % 2 ^ w + 2 ^ w * (n / 2 ^ (lo + w))) := by
  unfold putBits
  rw [Nat.pow_add]
  ring

theorem putBits_mod_lo (n lo w v : Nat) : putBits n lo w v % 2 ^ lo = n % 2 ^ lo := by
  rw [putBits_eq, Nat.add_mul_mod_self_left, Nat.mod_mod]

theorem putBits_div_lo (n lo w v : Nat) :
    putBits n lo w v / 2 ^ lo = v % 2 ^ w + 2 ^ w * (n / 2 ^ (lo + w)) := by
  rw [putBits_eq, Nat.add_mul_div_left _ _ (Nat.two_pow_pos lo),
    Nat.div_eq_of_lt (Nat.mod_lt _ (Nat.two_pow_pos lo)), Nat.zero_add]

theorem putBits_div_hi (n lo w v : Nat) : putBits n lo w v / 2 ^ (lo + w) = n / 2 ^ (lo + w) := by
  rw [Nat.pow_add, ← Nat.div_div_eq_div_mul, putBits_div_lo, Nat.add_mul_div_left _ _ (Nat.two_pow_pos w),
    Nat.div_eq_of_lt (Nat.mod_lt _ (Nat.two_pow_pos w)), Nat.zero_add, Nat.pow_add]

/-- A field written is the field read. -/
theorem bitsAt_putBits_same (n lo w v : Nat) : bitsAt (putBits n lo w v) lo w = v % 2 ^ w := by
  unfold bitsAt
  rw [putBits_div_lo, Nat.add_mul_mod_self_left, Nat.mod_mod]

/-- A field below the one written is unchanged. -/
theorem bitsAt_putBits_below (n lo w v lo' w' : Nat) (h : lo' + w' ≤ lo) :
    bitsAt (putBits n lo w v) lo' w' = bitsAt n lo' w' := by
  have key : ∀ x, bitsAt x lo' w' = bitsAt (x % 2 ^ lo) lo' w' := by
    intro x
    unfold bitsAt
    obtain ⟨k, rfl⟩ := Nat.exists_eq_add_of_le h
    have hx : x = x % 2 ^ (lo' + w' + k) + 2 ^ lo' * (2 ^ w' * (2 ^ k * (x / 2 ^ (lo' + w' + k)))) := by
      have := Nat.mod_add_div x (2 ^ (lo' + w' + k))
      calc x = x % 2 ^ (lo' + w' + k) + 2 ^ (lo' + w' + k) * (x / 2 ^ (lo' + w' + k)) := this.symm
        _ = _ := by rw [Nat.pow_add, Nat.pow_add]; ring
    conv_lhs => rw [hx]
    rw [Nat.add_mul_div_left _ _ (Nat.two_pow_pos lo'), Nat.add_mul_mod_self_left]
  rw [key, key n, putBits_mod_lo]

/-- A field above the one written is unchanged. -/
theorem bitsAt_putBits_above (n lo w v lo' w' : Nat) (h : lo + w ≤ lo') :
    bitsAt (putBits n lo w v) lo' w' = bitsAt n lo' w' := by
  unfold bitsAt
  obtain ⟨k, rfl⟩ := Nat.exists_eq_add_of_le h
  rw [Nat.pow_add 2 (lo + w) k, ← Nat.div_div_eq_div_mul, ← Nat.div_div_eq_div_mul, putBits_div_hi]

/-- A number stays within `2 ^ b` when a field inside that is written. -/
theorem putBits_lt {n b : Nat} (lo w v : Nat) (hn : n < 2 ^ b) (h : lo + w ≤ b) : putBits n lo w v < 2 ^ b := by
  obtain ⟨k, rfl⟩ := Nat.exists_eq_add_of_le h
  have hd : putBits n lo w v / 2 ^ (lo + w) < 2 ^ k := by
    rw [putBits_div_hi]
    exact Nat.div_lt_of_lt_mul (by rwa [← Nat.pow_add])
  have := (Nat.div_lt_iff_lt_mul (Nat.two_pow_pos (lo + w))).1 hd
  rwa [Nat.mul_comm, ← Nat.pow_add] at this

end Sys2Proof.Machine
end

