-- ==== Sys2Proof/Laws/Links.lean ====
section
/-! SUPPORT. What crossing a link of the mesh leaves unchanged. -/

namespace Sys2Proof.Machine

/-- To cross the links of a way changes nothing but their counts of failed flits. -/
theorem passDie_flits (s : State) (t : TileId) (east : Bool) :
    ∃ f, passDie s t east = { s with links := { s.links with flits := f } } := by
  unfold passDie
  generalize pathLinks (diePath t.val east) = l
  induction l generalizing s with
  | nil => exact ⟨s.links.flits, rfl⟩
  | cons k l ih =>
    obtain ⟨f, hf⟩ := ih (linkPassed s k)
    exact ⟨f, by rw [List.foldl_cons, hf]; rfl⟩

/-- What comes in through a port die waits after a crossing as before it. -/
theorem dieDelays_passDie (s : State) (t u : TileId) (east west : Bool) :
    dieDelays (passDie s t east) u west = dieDelays s u west := by
  obtain ⟨f, hf⟩ := passDie_flits s t east
  rw [hf]; rfl

end Sys2Proof.Machine
end

