-- ==== Sys2Proof/Laws/Map.lean ====
section
/-! SUPPORT. The sparse map: a value set is the value read, no other key changes, and the canonical form is kept. -/

namespace Sys2Proof.Machine

variable {α : Type}

/-! ### Reading what was set -/

theorem mapGet_mapErase_same (d : α) (m : List (Nat × α)) (i : Nat) : mapGet d (mapErase m i) i = d := by
  induction m with
  | nil => rfl
  | cons p m ih =>
    obtain ⟨k, v⟩ := p
    by_cases h : i = k <;> simp [mapErase, mapGet, h] <;> simpa [h] using ih

theorem mapGet_mapErase_ne (d : α) (m : List (Nat × α)) {i j : Nat} (h : j ≠ i) :
    mapGet d (mapErase m i) j = mapGet d m j := by
  induction m with
  | nil => rfl
  | cons p m ih =>
    obtain ⟨k, v⟩ := p
    by_cases hi : i = k
    · subst hi; simp [mapErase, mapGet, h, ih]
    · by_cases hj : j = k <;> simp [mapErase, mapGet, hi, hj, ih]

theorem mapGet_mapInsert_same (d : α) (m : List (Nat × α)) (i : Nat) (x : α) :
    mapGet d (mapInsert m i x) i = x := by
  induction m with
  | nil => simp [mapInsert, mapGet]
  | cons p m ih =>
    obtain ⟨k, v⟩ := p
    simp only [mapInsert]
    split
    · simp [mapGet]
    · split
      · simp [mapGet]
      · simp [mapGet, *]

theorem mapGet_mapInsert_ne (d : α) (m : List (Nat × α)) {i j : Nat} (x : α) (h : j ≠ i) :
    mapGet d (mapInsert m i x) j = mapGet d m j := by
  induction m with
  | nil => simp [mapInsert, mapGet, h]
  | cons p m ih =>
    obtain ⟨k, v⟩ := p
    simp only [mapInsert]
    split
    · simp [mapGet, h]
    · split
      · rename_i _ hk; subst hk; simp [mapGet, h]
      · by_cases hj : j = k <;> simp [mapGet, hj, ih]

/-- A value set is the value read. -/
@[simp] theorem mapGet_mapSet_same [DecidableEq α] (d : α) (m : List (Nat × α)) (i : Nat) (x : α) :
    mapGet d (mapSet d m i x) i = x := by
  unfold mapSet
  split
  · rename_i h; subst h; exact mapGet_mapErase_same _ m i
  · exact mapGet_mapInsert_same d m i x

/-- A set leaves every other key alone, whatever default each key has. -/
theorem mapGet_mapSet_ne [DecidableEq α] (d e : α) (m : List (Nat × α)) {i j : Nat} (x : α) (h : j ≠ i) :
    mapGet e (mapSet d m i x) j = mapGet e m j := by
  unfold mapSet
  split
  · exact mapGet_mapErase_ne e m h
  · exact mapGet_mapInsert_ne e m x h

/-! ### The canonical form -/

theorem mapRising_weaken {m : List (Nat × α)} {i j : Nat} (h : i ≤ j) (hm : mapRising (some j) m = true) :
    mapRising (some i) m = true := by
  cases m with
  | nil => rfl
  | cons p m =>
    obtain ⟨k, v⟩ := p
    simp only [mapRising, Bool.and_eq_true, decide_eq_true_eq] at hm ⊢
    exact ⟨by omega, hm.2⟩

theorem mapRising_tail {m : List (Nat × α)} {o : Option Nat} {p : Nat × α} (h : mapRising o (p :: m) = true) :
    mapRising o m = true := by
  obtain ⟨k, v⟩ := p
  cases o with
  | none =>
    cases m with
    | nil => rfl
    | cons q m => obtain ⟨k', v'⟩ := q; simp [mapRising] at h ⊢; exact h.2
  | some j =>
    simp [mapRising] at h
    exact mapRising_weaken (by omega) h.2

/-- Rising keys above `j` stay so when entries are dropped. -/
theorem mapRising_filter {o : Option Nat} {m : List (Nat × α)} (p : Nat × α → Bool) (h : mapRising o m = true) :
    mapRising o (m.filter p) = true := by
  induction m generalizing o with
  | nil => rfl
  | cons q m ih =>
    obtain ⟨k, v⟩ := q
    have ht := ih (mapRising_tail h)
    simp only [List.filter_cons]
    split
    · cases o with
      | none => simp only [mapRising] at h ⊢; exact ih h
      | some j =>
        simp only [mapRising, Bool.and_eq_true, decide_eq_true_eq] at h ⊢
        exact ⟨h.1, ih h.2⟩
    · exact ht

theorem mapErase_eq_filter (m : List (Nat × α)) (i : Nat) : mapErase m i = m.filter fun p => p.1 != i := by
  induction m with
  | nil => rfl
  | cons p m ih =>
    obtain ⟨k, v⟩ := p
    by_cases h : i = k
    · subst h; simpa [mapErase] using ih
    · have h' : k ≠ i := fun e => h e.symm
      simp [mapErase, h, h', ih]

theorem mapRising_mapInsert {o : Option Nat} {m : List (Nat × α)} {i : Nat} (x : α) (h : mapRising o m = true)
    (ho : ∀ j, o = some j → j < i) : mapRising o (mapInsert m i x) = true := by
  induction m generalizing o with
  | nil =>
    cases o with
    | none => rfl
    | some j => simp [mapInsert, mapRising, ho j rfl]
  | cons p m ih =>
    obtain ⟨k, v⟩ := p
    have tail : mapRising (some k) m = true := by
      cases o with
      | none => simpa [mapRising] using h
      | some j => simp [mapRising] at h; exact h.2
    have head : ∀ j, o = some j → j < k := by
      intro j hj; subst hj; simp [mapRising] at h; exact h.1
    simp only [mapInsert]
    split
    · rename_i hik
      cases o with
      | none => simp [mapRising, hik, tail]
      | some j => simp [mapRising, hik, tail, ho j rfl]
    · split
      · rename_i _ hik
        subst hik
        cases o with
        | none => simpa [mapRising] using tail
        | some j => simp [mapRising, ho j rfl, tail]
      · rename_i h1 h2
        have := ih tail (by intro j hj; cases hj; omega)
        cases o with
        | none => simpa [mapRising] using this
        | some j => simp [mapRising, head j rfl, this]

theorem mem_mapInsert {m : List (Nat × α)} {i : Nat} {x : α} {p : Nat × α} (h : p ∈ mapInsert m i x) :
    p = (i, x) ∨ p ∈ m := by
  induction m with
  | nil => simp [mapInsert] at h; exact .inl h
  | cons q m ih =>
    obtain ⟨k, v⟩ := q
    simp only [mapInsert] at h
    split at h
    · simpa using h
    · split at h
      · simp at h ⊢; tauto
      · simp at h ⊢
        rcases h with h | h
        · tauto
        · rcases ih h with h | h <;> tauto

/-- Setting a key, to the default of that key or another value, keeps the canonical form. -/
theorem mapWf_mapSet [DecidableEq α] (d : Nat → α) {m : List (Nat × α)} (i : Nat) (x : α) (h : mapWf d m = true) :
    mapWf d (mapSet (d i) m i x) = true := by
  simp only [mapWf, Bool.and_eq_true, List.all_eq_true, decide_eq_true_eq] at h ⊢
  unfold mapSet
  split
  · rw [mapErase_eq_filter]
    exact ⟨mapRising_filter _ h.1, fun p hp => h.2 p (List.mem_of_mem_filter hp)⟩
  · rename_i hx
    refine ⟨mapRising_mapInsert x h.1 (by simp), fun p hp => ?_⟩
    rcases mem_mapInsert hp with hp | hp
    · subst hp; exact hx
    · exact h.2 p hp

/-- Dropping entries keeps the canonical form. -/
theorem mapWf_filter [DecidableEq α] (d : Nat → α) {m : List (Nat × α)} (p : Nat × α → Bool) (h : mapWf d m = true) :
    mapWf d (m.filter p) = true := by
  simp only [mapWf, Bool.and_eq_true, List.all_eq_true] at h ⊢
  exact ⟨mapRising_filter _ h.1, fun q hq => h.2 q (List.mem_of_mem_filter hq)⟩

@[simp] theorem mapWf_nil [DecidableEq α] (d : Nat → α) : mapWf d ([] : List (Nat × α)) = true := rfl

end Sys2Proof.Machine
end

