-- ==== Sys2Proof/Laws/State.lean ====
section
/-! SUPPORT. One lemma per field for each named update of the state: what the update leaves unchanged. -/

namespace Sys2Proof.Machine

/-! ### setReg -/

@[simp] theorem State.setReg_mem (s : State) (a v : Nat) : (s.setReg a v).mem = s.mem := rfl
@[simp] theorem State.setReg_env (s : State) (a v : Nat) : (s.setReg a v).env = s.env := rfl
@[simp] theorem State.setReg_errs (s : State) (a v : Nat) : (s.setReg a v).errs = s.errs := rfl
@[simp] theorem State.setReg_seqs (s : State) (a v : Nat) : (s.setReg a v).seqs = s.seqs := rfl
@[simp] theorem State.setReg_tiles (s : State) (a v : Nat) : (s.setReg a v).tiles = s.tiles := rfl
@[simp] theorem State.setReg_slices (s : State) (a v : Nat) : (s.setReg a v).slices = s.slices := rfl
@[simp] theorem State.setReg_pools (s : State) (a v : Nat) : (s.setReg a v).pools = s.pools := rfl
@[simp] theorem State.setReg_moves (s : State) (a v : Nat) : (s.setReg a v).moves = s.moves := rfl
@[simp] theorem State.setReg_chans (s : State) (a v : Nat) : (s.setReg a v).chans = s.chans := rfl
@[simp] theorem State.setReg_mesh (s : State) (a v : Nat) : (s.setReg a v).mesh = s.mesh := rfl
@[simp] theorem State.setReg_spanHeld (s : State) (a v : Nat) : (s.setReg a v).spanHeld = s.spanHeld := rfl
@[simp] theorem State.setReg_dieHeld (s : State) (a v : Nat) : (s.setReg a v).dieHeld = s.dieHeld := rfl
@[simp] theorem State.setReg_dieIn (s : State) (a v : Nat) : (s.setReg a v).dieIn = s.dieIn := rfl
@[simp] theorem State.setReg_devs (s : State) (a v : Nat) : (s.setReg a v).devs = s.devs := rfl
@[simp] theorem State.setReg_dies (s : State) (a v : Nat) : (s.setReg a v).dies = s.dies := rfl
@[simp] theorem State.setReg_tempRetired (s : State) (a v : Nat) : (s.setReg a v).tempRetired = s.tempRetired := rfl
@[simp] theorem State.setReg_beat (s : State) (a v : Nat) : (s.setReg a v).beat = s.beat := rfl
@[simp] theorem State.setReg_windowStart (s : State) (a v : Nat) : (s.setReg a v).windowStart = s.windowStart := rfl
@[simp] theorem State.setReg_slews (s : State) (a v : Nat) : (s.setReg a v).slews = s.slews := rfl
@[simp] theorem State.setReg_ptpStamp (s : State) (a v : Nat) : (s.setReg a v).ptpStamp = s.ptpStamp := rfl
@[simp] theorem State.setReg_syncBase (s : State) (a v : Nat) : (s.setReg a v).syncBase = s.syncBase := rfl
@[simp] theorem State.setReg_car (s : State) (a v : Nat) : (s.setReg a v).car = s.car := rfl
@[simp] theorem State.setReg_stp (s : State) (a v : Nat) : (s.setReg a v).stp = s.stp := rfl
@[simp] theorem State.setReg_job (s : State) (a v : Nat) : (s.setReg a v).job = s.job := rfl
@[simp] theorem State.setReg_repair (s : State) (a v : Nat) : (s.setReg a v).repair = s.repair := rfl
@[simp] theorem State.setReg_links (s : State) (a v : Nat) : (s.setReg a v).links = s.links := rfl
@[simp] theorem State.setReg_rings (s : State) (a v : Nat) : (s.setReg a v).rings = s.rings := rfl
@[simp] theorem State.setReg_qps (s : State) (a v : Nat) : (s.setReg a v).qps = s.qps := rfl
@[simp] theorem State.setReg_regions (s : State) (a v : Nat) : (s.setReg a v).regions = s.regions := rfl
@[simp] theorem State.setReg_flash (s : State) (a v : Nat) : (s.setReg a v).flash = s.flash := rfl
@[simp] theorem State.setReg_upd (s : State) (a v : Nat) : (s.setReg a v).upd = s.upd := rfl
@[simp] theorem State.setReg_mgr (s : State) (a v : Nat) : (s.setReg a v).mgr = s.mgr := rfl
@[simp] theorem State.setReg_snaps (s : State) (a v : Nat) : (s.setReg a v).snaps = s.snaps := rfl
@[simp] theorem State.setReg_pwr (s : State) (a v : Nat) : (s.setReg a v).pwr = s.pwr := rfl
@[simp] theorem State.setReg_pins (s : State) (a v : Nat) : (s.setReg a v).pins = s.pins := rfl
@[simp] theorem State.setReg_vid (s : State) (a v : Nat) : (s.setReg a v).vid = s.vid := rfl
@[simp] theorem State.setReg_halves (s : State) (a v : Nat) : (s.setReg a v).halves = s.halves := rfl
@[simp] theorem State.setReg_out (s : State) (a v : Nat) : (s.setReg a v).out = s.out := rfl
@[simp] theorem State.setReg_free (s : State) (a v : Nat) : (s.setReg a v).free = s.free := rfl
@[simp] theorem State.setReg_pending (s : State) (a v : Nat) : (s.setReg a v).pending = s.pending := rfl

/-! ### setSeq -/

@[simp] theorem State.setSeq_regs (s : State) (c : CoreId) (x : Seq) : (s.setSeq c x).regs = s.regs := rfl
@[simp] theorem State.setSeq_mem (s : State) (c : CoreId) (x : Seq) : (s.setSeq c x).mem = s.mem := rfl
@[simp] theorem State.setSeq_env (s : State) (c : CoreId) (x : Seq) : (s.setSeq c x).env = s.env := rfl
@[simp] theorem State.setSeq_errs (s : State) (c : CoreId) (x : Seq) : (s.setSeq c x).errs = s.errs := rfl
@[simp] theorem State.setSeq_tiles (s : State) (c : CoreId) (x : Seq) : (s.setSeq c x).tiles = s.tiles := rfl
@[simp] theorem State.setSeq_slices (s : State) (c : CoreId) (x : Seq) : (s.setSeq c x).slices = s.slices := rfl
@[simp] theorem State.setSeq_pools (s : State) (c : CoreId) (x : Seq) : (s.setSeq c x).pools = s.pools := rfl
@[simp] theorem State.setSeq_moves (s : State) (c : CoreId) (x : Seq) : (s.setSeq c x).moves = s.moves := rfl
@[simp] theorem State.setSeq_chans (s : State) (c : CoreId) (x : Seq) : (s.setSeq c x).chans = s.chans := rfl
@[simp] theorem State.setSeq_mesh (s : State) (c : CoreId) (x : Seq) : (s.setSeq c x).mesh = s.mesh := rfl
@[simp] theorem State.setSeq_spanHeld (s : State) (c : CoreId) (x : Seq) : (s.setSeq c x).spanHeld = s.spanHeld := rfl
@[simp] theorem State.setSeq_dieHeld (s : State) (c : CoreId) (x : Seq) : (s.setSeq c x).dieHeld = s.dieHeld := rfl
@[simp] theorem State.setSeq_dieIn (s : State) (c : CoreId) (x : Seq) : (s.setSeq c x).dieIn = s.dieIn := rfl
@[simp] theorem State.setSeq_devs (s : State) (c : CoreId) (x : Seq) : (s.setSeq c x).devs = s.devs := rfl
@[simp] theorem State.setSeq_dies (s : State) (c : CoreId) (x : Seq) : (s.setSeq c x).dies = s.dies := rfl
@[simp] theorem State.setSeq_tempRetired (s : State) (c : CoreId) (x : Seq) : (s.setSeq c x).tempRetired = s.tempRetired := rfl
@[simp] theorem State.setSeq_beat (s : State) (c : CoreId) (x : Seq) : (s.setSeq c x).beat = s.beat := rfl
@[simp] theorem State.setSeq_windowStart (s : State) (c : CoreId) (x : Seq) : (s.setSeq c x).windowStart = s.windowStart := rfl
@[simp] theorem State.setSeq_slews (s : State) (c : CoreId) (x : Seq) : (s.setSeq c x).slews = s.slews := rfl
@[simp] theorem State.setSeq_ptpStamp (s : State) (c : CoreId) (x : Seq) : (s.setSeq c x).ptpStamp = s.ptpStamp := rfl
@[simp] theorem State.setSeq_syncBase (s : State) (c : CoreId) (x : Seq) : (s.setSeq c x).syncBase = s.syncBase := rfl
@[simp] theorem State.setSeq_car (s : State) (c : CoreId) (x : Seq) : (s.setSeq c x).car = s.car := rfl
@[simp] theorem State.setSeq_stp (s : State) (c : CoreId) (x : Seq) : (s.setSeq c x).stp = s.stp := rfl
@[simp] theorem State.setSeq_job (s : State) (c : CoreId) (x : Seq) : (s.setSeq c x).job = s.job := rfl
@[simp] theorem State.setSeq_repair (s : State) (c : CoreId) (x : Seq) : (s.setSeq c x).repair = s.repair := rfl
@[simp] theorem State.setSeq_links (s : State) (c : CoreId) (x : Seq) : (s.setSeq c x).links = s.links := rfl
@[simp] theorem State.setSeq_rings (s : State) (c : CoreId) (x : Seq) : (s.setSeq c x).rings = s.rings := rfl
@[simp] theorem State.setSeq_qps (s : State) (c : CoreId) (x : Seq) : (s.setSeq c x).qps = s.qps := rfl
@[simp] theorem State.setSeq_regions (s : State) (c : CoreId) (x : Seq) : (s.setSeq c x).regions = s.regions := rfl
@[simp] theorem State.setSeq_flash (s : State) (c : CoreId) (x : Seq) : (s.setSeq c x).flash = s.flash := rfl
@[simp] theorem State.setSeq_upd (s : State) (c : CoreId) (x : Seq) : (s.setSeq c x).upd = s.upd := rfl
@[simp] theorem State.setSeq_mgr (s : State) (c : CoreId) (x : Seq) : (s.setSeq c x).mgr = s.mgr := rfl
@[simp] theorem State.setSeq_snaps (s : State) (c : CoreId) (x : Seq) : (s.setSeq c x).snaps = s.snaps := rfl
@[simp] theorem State.setSeq_pwr (s : State) (c : CoreId) (x : Seq) : (s.setSeq c x).pwr = s.pwr := rfl
@[simp] theorem State.setSeq_pins (s : State) (c : CoreId) (x : Seq) : (s.setSeq c x).pins = s.pins := rfl
@[simp] theorem State.setSeq_vid (s : State) (c : CoreId) (x : Seq) : (s.setSeq c x).vid = s.vid := rfl
@[simp] theorem State.setSeq_halves (s : State) (c : CoreId) (x : Seq) : (s.setSeq c x).halves = s.halves := rfl
@[simp] theorem State.setSeq_out (s : State) (c : CoreId) (x : Seq) : (s.setSeq c x).out = s.out := rfl
@[simp] theorem State.setSeq_free (s : State) (c : CoreId) (x : Seq) : (s.setSeq c x).free = s.free := rfl
@[simp] theorem State.setSeq_pending (s : State) (c : CoreId) (x : Seq) : (s.setSeq c x).pending = s.pending := rfl

/-! ### setTile -/

@[simp] theorem State.setTile_regs (s : State) (t : TileId) (x : Tile) : (s.setTile t x).regs = s.regs := rfl
@[simp] theorem State.setTile_mem (s : State) (t : TileId) (x : Tile) : (s.setTile t x).mem = s.mem := rfl
@[simp] theorem State.setTile_env (s : State) (t : TileId) (x : Tile) : (s.setTile t x).env = s.env := rfl
@[simp] theorem State.setTile_errs (s : State) (t : TileId) (x : Tile) : (s.setTile t x).errs = s.errs := rfl
@[simp] theorem State.setTile_seqs (s : State) (t : TileId) (x : Tile) : (s.setTile t x).seqs = s.seqs := rfl
@[simp] theorem State.setTile_slices (s : State) (t : TileId) (x : Tile) : (s.setTile t x).slices = s.slices := rfl
@[simp] theorem State.setTile_pools (s : State) (t : TileId) (x : Tile) : (s.setTile t x).pools = s.pools := rfl
@[simp] theorem State.setTile_moves (s : State) (t : TileId) (x : Tile) : (s.setTile t x).moves = s.moves := rfl
@[simp] theorem State.setTile_chans (s : State) (t : TileId) (x : Tile) : (s.setTile t x).chans = s.chans := rfl
@[simp] theorem State.setTile_mesh (s : State) (t : TileId) (x : Tile) : (s.setTile t x).mesh = s.mesh := rfl
@[simp] theorem State.setTile_spanHeld (s : State) (t : TileId) (x : Tile) : (s.setTile t x).spanHeld = s.spanHeld := rfl
@[simp] theorem State.setTile_dieHeld (s : State) (t : TileId) (x : Tile) : (s.setTile t x).dieHeld = s.dieHeld := rfl
@[simp] theorem State.setTile_dieIn (s : State) (t : TileId) (x : Tile) : (s.setTile t x).dieIn = s.dieIn := rfl
@[simp] theorem State.setTile_devs (s : State) (t : TileId) (x : Tile) : (s.setTile t x).devs = s.devs := rfl
@[simp] theorem State.setTile_dies (s : State) (t : TileId) (x : Tile) : (s.setTile t x).dies = s.dies := rfl
@[simp] theorem State.setTile_tempRetired (s : State) (t : TileId) (x : Tile) : (s.setTile t x).tempRetired = s.tempRetired := rfl
@[simp] theorem State.setTile_beat (s : State) (t : TileId) (x : Tile) : (s.setTile t x).beat = s.beat := rfl
@[simp] theorem State.setTile_windowStart (s : State) (t : TileId) (x : Tile) : (s.setTile t x).windowStart = s.windowStart := rfl
@[simp] theorem State.setTile_slews (s : State) (t : TileId) (x : Tile) : (s.setTile t x).slews = s.slews := rfl
@[simp] theorem State.setTile_ptpStamp (s : State) (t : TileId) (x : Tile) : (s.setTile t x).ptpStamp = s.ptpStamp := rfl
@[simp] theorem State.setTile_syncBase (s : State) (t : TileId) (x : Tile) : (s.setTile t x).syncBase = s.syncBase := rfl
@[simp] theorem State.setTile_car (s : State) (t : TileId) (x : Tile) : (s.setTile t x).car = s.car := rfl
@[simp] theorem State.setTile_stp (s : State) (t : TileId) (x : Tile) : (s.setTile t x).stp = s.stp := rfl
@[simp] theorem State.setTile_job (s : State) (t : TileId) (x : Tile) : (s.setTile t x).job = s.job := rfl
@[simp] theorem State.setTile_repair (s : State) (t : TileId) (x : Tile) : (s.setTile t x).repair = s.repair := rfl
@[simp] theorem State.setTile_links (s : State) (t : TileId) (x : Tile) : (s.setTile t x).links = s.links := rfl
@[simp] theorem State.setTile_rings (s : State) (t : TileId) (x : Tile) : (s.setTile t x).rings = s.rings := rfl
@[simp] theorem State.setTile_qps (s : State) (t : TileId) (x : Tile) : (s.setTile t x).qps = s.qps := rfl
@[simp] theorem State.setTile_regions (s : State) (t : TileId) (x : Tile) : (s.setTile t x).regions = s.regions := rfl
@[simp] theorem State.setTile_flash (s : State) (t : TileId) (x : Tile) : (s.setTile t x).flash = s.flash := rfl
@[simp] theorem State.setTile_upd (s : State) (t : TileId) (x : Tile) : (s.setTile t x).upd = s.upd := rfl
@[simp] theorem State.setTile_mgr (s : State) (t : TileId) (x : Tile) : (s.setTile t x).mgr = s.mgr := rfl
@[simp] theorem State.setTile_snaps (s : State) (t : TileId) (x : Tile) : (s.setTile t x).snaps = s.snaps := rfl
@[simp] theorem State.setTile_pwr (s : State) (t : TileId) (x : Tile) : (s.setTile t x).pwr = s.pwr := rfl
@[simp] theorem State.setTile_pins (s : State) (t : TileId) (x : Tile) : (s.setTile t x).pins = s.pins := rfl
@[simp] theorem State.setTile_vid (s : State) (t : TileId) (x : Tile) : (s.setTile t x).vid = s.vid := rfl
@[simp] theorem State.setTile_halves (s : State) (t : TileId) (x : Tile) : (s.setTile t x).halves = s.halves := rfl
@[simp] theorem State.setTile_out (s : State) (t : TileId) (x : Tile) : (s.setTile t x).out = s.out := rfl
@[simp] theorem State.setTile_free (s : State) (t : TileId) (x : Tile) : (s.setTile t x).free = s.free := rfl
@[simp] theorem State.setTile_pending (s : State) (t : TileId) (x : Tile) : (s.setTile t x).pending = s.pending := rfl

/-! ### setSlice -/

@[simp] theorem State.setSlice_regs (s : State) (t : TileId) (x : Slice) : (s.setSlice t x).regs = s.regs := rfl
@[simp] theorem State.setSlice_mem (s : State) (t : TileId) (x : Slice) : (s.setSlice t x).mem = s.mem := rfl
@[simp] theorem State.setSlice_env (s : State) (t : TileId) (x : Slice) : (s.setSlice t x).env = s.env := rfl
@[simp] theorem State.setSlice_errs (s : State) (t : TileId) (x : Slice) : (s.setSlice t x).errs = s.errs := rfl
@[simp] theorem State.setSlice_seqs (s : State) (t : TileId) (x : Slice) : (s.setSlice t x).seqs = s.seqs := rfl
@[simp] theorem State.setSlice_tiles (s : State) (t : TileId) (x : Slice) : (s.setSlice t x).tiles = s.tiles := rfl
@[simp] theorem State.setSlice_pools (s : State) (t : TileId) (x : Slice) : (s.setSlice t x).pools = s.pools := rfl
@[simp] theorem State.setSlice_moves (s : State) (t : TileId) (x : Slice) : (s.setSlice t x).moves = s.moves := rfl
@[simp] theorem State.setSlice_chans (s : State) (t : TileId) (x : Slice) : (s.setSlice t x).chans = s.chans := rfl
@[simp] theorem State.setSlice_mesh (s : State) (t : TileId) (x : Slice) : (s.setSlice t x).mesh = s.mesh := rfl
@[simp] theorem State.setSlice_spanHeld (s : State) (t : TileId) (x : Slice) : (s.setSlice t x).spanHeld = s.spanHeld := rfl
@[simp] theorem State.setSlice_dieHeld (s : State) (t : TileId) (x : Slice) : (s.setSlice t x).dieHeld = s.dieHeld := rfl
@[simp] theorem State.setSlice_dieIn (s : State) (t : TileId) (x : Slice) : (s.setSlice t x).dieIn = s.dieIn := rfl
@[simp] theorem State.setSlice_devs (s : State) (t : TileId) (x : Slice) : (s.setSlice t x).devs = s.devs := rfl
@[simp] theorem State.setSlice_dies (s : State) (t : TileId) (x : Slice) : (s.setSlice t x).dies = s.dies := rfl
@[simp] theorem State.setSlice_tempRetired (s : State) (t : TileId) (x : Slice) : (s.setSlice t x).tempRetired = s.tempRetired := rfl
@[simp] theorem State.setSlice_beat (s : State) (t : TileId) (x : Slice) : (s.setSlice t x).beat = s.beat := rfl
@[simp] theorem State.setSlice_windowStart (s : State) (t : TileId) (x : Slice) : (s.setSlice t x).windowStart = s.windowStart := rfl
@[simp] theorem State.setSlice_slews (s : State) (t : TileId) (x : Slice) : (s.setSlice t x).slews = s.slews := rfl
@[simp] theorem State.setSlice_ptpStamp (s : State) (t : TileId) (x : Slice) : (s.setSlice t x).ptpStamp = s.ptpStamp := rfl
@[simp] theorem State.setSlice_syncBase (s : State) (t : TileId) (x : Slice) : (s.setSlice t x).syncBase = s.syncBase := rfl
@[simp] theorem State.setSlice_car (s : State) (t : TileId) (x : Slice) : (s.setSlice t x).car = s.car := rfl
@[simp] theorem State.setSlice_stp (s : State) (t : TileId) (x : Slice) : (s.setSlice t x).stp = s.stp := rfl
@[simp] theorem State.setSlice_job (s : State) (t : TileId) (x : Slice) : (s.setSlice t x).job = s.job := rfl
@[simp] theorem State.setSlice_repair (s : State) (t : TileId) (x : Slice) : (s.setSlice t x).repair = s.repair := rfl
@[simp] theorem State.setSlice_links (s : State) (t : TileId) (x : Slice) : (s.setSlice t x).links = s.links := rfl
@[simp] theorem State.setSlice_rings (s : State) (t : TileId) (x : Slice) : (s.setSlice t x).rings = s.rings := rfl
@[simp] theorem State.setSlice_qps (s : State) (t : TileId) (x : Slice) : (s.setSlice t x).qps = s.qps := rfl
@[simp] theorem State.setSlice_regions (s : State) (t : TileId) (x : Slice) : (s.setSlice t x).regions = s.regions := rfl
@[simp] theorem State.setSlice_flash (s : State) (t : TileId) (x : Slice) : (s.setSlice t x).flash = s.flash := rfl
@[simp] theorem State.setSlice_upd (s : State) (t : TileId) (x : Slice) : (s.setSlice t x).upd = s.upd := rfl
@[simp] theorem State.setSlice_mgr (s : State) (t : TileId) (x : Slice) : (s.setSlice t x).mgr = s.mgr := rfl
@[simp] theorem State.setSlice_snaps (s : State) (t : TileId) (x : Slice) : (s.setSlice t x).snaps = s.snaps := rfl
@[simp] theorem State.setSlice_pwr (s : State) (t : TileId) (x : Slice) : (s.setSlice t x).pwr = s.pwr := rfl
@[simp] theorem State.setSlice_pins (s : State) (t : TileId) (x : Slice) : (s.setSlice t x).pins = s.pins := rfl
@[simp] theorem State.setSlice_vid (s : State) (t : TileId) (x : Slice) : (s.setSlice t x).vid = s.vid := rfl
@[simp] theorem State.setSlice_halves (s : State) (t : TileId) (x : Slice) : (s.setSlice t x).halves = s.halves := rfl
@[simp] theorem State.setSlice_out (s : State) (t : TileId) (x : Slice) : (s.setSlice t x).out = s.out := rfl
@[simp] theorem State.setSlice_free (s : State) (t : TileId) (x : Slice) : (s.setSlice t x).free = s.free := rfl
@[simp] theorem State.setSlice_pending (s : State) (t : TileId) (x : Slice) : (s.setSlice t x).pending = s.pending := rfl

/-! ### setChan -/

@[simp] theorem State.setChan_regs (s : State) (e : Engine) (x : Chan) : (s.setChan e x).regs = s.regs := rfl
@[simp] theorem State.setChan_mem (s : State) (e : Engine) (x : Chan) : (s.setChan e x).mem = s.mem := rfl
@[simp] theorem State.setChan_env (s : State) (e : Engine) (x : Chan) : (s.setChan e x).env = s.env := rfl
@[simp] theorem State.setChan_errs (s : State) (e : Engine) (x : Chan) : (s.setChan e x).errs = s.errs := rfl
@[simp] theorem State.setChan_seqs (s : State) (e : Engine) (x : Chan) : (s.setChan e x).seqs = s.seqs := rfl
@[simp] theorem State.setChan_tiles (s : State) (e : Engine) (x : Chan) : (s.setChan e x).tiles = s.tiles := rfl
@[simp] theorem State.setChan_slices (s : State) (e : Engine) (x : Chan) : (s.setChan e x).slices = s.slices := rfl
@[simp] theorem State.setChan_pools (s : State) (e : Engine) (x : Chan) : (s.setChan e x).pools = s.pools := rfl
@[simp] theorem State.setChan_moves (s : State) (e : Engine) (x : Chan) : (s.setChan e x).moves = s.moves := rfl
@[simp] theorem State.setChan_mesh (s : State) (e : Engine) (x : Chan) : (s.setChan e x).mesh = s.mesh := rfl
@[simp] theorem State.setChan_spanHeld (s : State) (e : Engine) (x : Chan) : (s.setChan e x).spanHeld = s.spanHeld := rfl
@[simp] theorem State.setChan_dieHeld (s : State) (e : Engine) (x : Chan) : (s.setChan e x).dieHeld = s.dieHeld := rfl
@[simp] theorem State.setChan_dieIn (s : State) (e : Engine) (x : Chan) : (s.setChan e x).dieIn = s.dieIn := rfl
@[simp] theorem State.setChan_devs (s : State) (e : Engine) (x : Chan) : (s.setChan e x).devs = s.devs := rfl
@[simp] theorem State.setChan_dies (s : State) (e : Engine) (x : Chan) : (s.setChan e x).dies = s.dies := rfl
@[simp] theorem State.setChan_tempRetired (s : State) (e : Engine) (x : Chan) : (s.setChan e x).tempRetired = s.tempRetired := rfl
@[simp] theorem State.setChan_beat (s : State) (e : Engine) (x : Chan) : (s.setChan e x).beat = s.beat := rfl
@[simp] theorem State.setChan_windowStart (s : State) (e : Engine) (x : Chan) : (s.setChan e x).windowStart = s.windowStart := rfl
@[simp] theorem State.setChan_slews (s : State) (e : Engine) (x : Chan) : (s.setChan e x).slews = s.slews := rfl
@[simp] theorem State.setChan_ptpStamp (s : State) (e : Engine) (x : Chan) : (s.setChan e x).ptpStamp = s.ptpStamp := rfl
@[simp] theorem State.setChan_syncBase (s : State) (e : Engine) (x : Chan) : (s.setChan e x).syncBase = s.syncBase := rfl
@[simp] theorem State.setChan_car (s : State) (e : Engine) (x : Chan) : (s.setChan e x).car = s.car := rfl
@[simp] theorem State.setChan_stp (s : State) (e : Engine) (x : Chan) : (s.setChan e x).stp = s.stp := rfl
@[simp] theorem State.setChan_job (s : State) (e : Engine) (x : Chan) : (s.setChan e x).job = s.job := rfl
@[simp] theorem State.setChan_repair (s : State) (e : Engine) (x : Chan) : (s.setChan e x).repair = s.repair := rfl
@[simp] theorem State.setChan_links (s : State) (e : Engine) (x : Chan) : (s.setChan e x).links = s.links := rfl
@[simp] theorem State.setChan_rings (s : State) (e : Engine) (x : Chan) : (s.setChan e x).rings = s.rings := rfl
@[simp] theorem State.setChan_qps (s : State) (e : Engine) (x : Chan) : (s.setChan e x).qps = s.qps := rfl
@[simp] theorem State.setChan_regions (s : State) (e : Engine) (x : Chan) : (s.setChan e x).regions = s.regions := rfl
@[simp] theorem State.setChan_flash (s : State) (e : Engine) (x : Chan) : (s.setChan e x).flash = s.flash := rfl
@[simp] theorem State.setChan_upd (s : State) (e : Engine) (x : Chan) : (s.setChan e x).upd = s.upd := rfl
@[simp] theorem State.setChan_mgr (s : State) (e : Engine) (x : Chan) : (s.setChan e x).mgr = s.mgr := rfl
@[simp] theorem State.setChan_snaps (s : State) (e : Engine) (x : Chan) : (s.setChan e x).snaps = s.snaps := rfl
@[simp] theorem State.setChan_pwr (s : State) (e : Engine) (x : Chan) : (s.setChan e x).pwr = s.pwr := rfl
@[simp] theorem State.setChan_pins (s : State) (e : Engine) (x : Chan) : (s.setChan e x).pins = s.pins := rfl
@[simp] theorem State.setChan_vid (s : State) (e : Engine) (x : Chan) : (s.setChan e x).vid = s.vid := rfl
@[simp] theorem State.setChan_halves (s : State) (e : Engine) (x : Chan) : (s.setChan e x).halves = s.halves := rfl
@[simp] theorem State.setChan_out (s : State) (e : Engine) (x : Chan) : (s.setChan e x).out = s.out := rfl
@[simp] theorem State.setChan_free (s : State) (e : Engine) (x : Chan) : (s.setChan e x).free = s.free := rfl
@[simp] theorem State.setChan_pending (s : State) (e : Engine) (x : Chan) : (s.setChan e x).pending = s.pending := rfl

/-! ### setDev -/

@[simp] theorem State.setDev_regs (s : State) (d : MemDev) (x : Dev) : (s.setDev d x).regs = s.regs := rfl
@[simp] theorem State.setDev_mem (s : State) (d : MemDev) (x : Dev) : (s.setDev d x).mem = s.mem := rfl
@[simp] theorem State.setDev_env (s : State) (d : MemDev) (x : Dev) : (s.setDev d x).env = s.env := rfl
@[simp] theorem State.setDev_errs (s : State) (d : MemDev) (x : Dev) : (s.setDev d x).errs = s.errs := rfl
@[simp] theorem State.setDev_seqs (s : State) (d : MemDev) (x : Dev) : (s.setDev d x).seqs = s.seqs := rfl
@[simp] theorem State.setDev_tiles (s : State) (d : MemDev) (x : Dev) : (s.setDev d x).tiles = s.tiles := rfl
@[simp] theorem State.setDev_slices (s : State) (d : MemDev) (x : Dev) : (s.setDev d x).slices = s.slices := rfl
@[simp] theorem State.setDev_pools (s : State) (d : MemDev) (x : Dev) : (s.setDev d x).pools = s.pools := rfl
@[simp] theorem State.setDev_moves (s : State) (d : MemDev) (x : Dev) : (s.setDev d x).moves = s.moves := rfl
@[simp] theorem State.setDev_chans (s : State) (d : MemDev) (x : Dev) : (s.setDev d x).chans = s.chans := rfl
@[simp] theorem State.setDev_mesh (s : State) (d : MemDev) (x : Dev) : (s.setDev d x).mesh = s.mesh := rfl
@[simp] theorem State.setDev_spanHeld (s : State) (d : MemDev) (x : Dev) : (s.setDev d x).spanHeld = s.spanHeld := rfl
@[simp] theorem State.setDev_dieHeld (s : State) (d : MemDev) (x : Dev) : (s.setDev d x).dieHeld = s.dieHeld := rfl
@[simp] theorem State.setDev_dieIn (s : State) (d : MemDev) (x : Dev) : (s.setDev d x).dieIn = s.dieIn := rfl
@[simp] theorem State.setDev_dies (s : State) (d : MemDev) (x : Dev) : (s.setDev d x).dies = s.dies := rfl
@[simp] theorem State.setDev_tempRetired (s : State) (d : MemDev) (x : Dev) : (s.setDev d x).tempRetired = s.tempRetired := rfl
@[simp] theorem State.setDev_beat (s : State) (d : MemDev) (x : Dev) : (s.setDev d x).beat = s.beat := rfl
@[simp] theorem State.setDev_windowStart (s : State) (d : MemDev) (x : Dev) : (s.setDev d x).windowStart = s.windowStart := rfl
@[simp] theorem State.setDev_slews (s : State) (d : MemDev) (x : Dev) : (s.setDev d x).slews = s.slews := rfl
@[simp] theorem State.setDev_ptpStamp (s : State) (d : MemDev) (x : Dev) : (s.setDev d x).ptpStamp = s.ptpStamp := rfl
@[simp] theorem State.setDev_syncBase (s : State) (d : MemDev) (x : Dev) : (s.setDev d x).syncBase = s.syncBase := rfl
@[simp] theorem State.setDev_car (s : State) (d : MemDev) (x : Dev) : (s.setDev d x).car = s.car := rfl
@[simp] theorem State.setDev_stp (s : State) (d : MemDev) (x : Dev) : (s.setDev d x).stp = s.stp := rfl
@[simp] theorem State.setDev_job (s : State) (d : MemDev) (x : Dev) : (s.setDev d x).job = s.job := rfl
@[simp] theorem State.setDev_repair (s : State) (d : MemDev) (x : Dev) : (s.setDev d x).repair = s.repair := rfl
@[simp] theorem State.setDev_links (s : State) (d : MemDev) (x : Dev) : (s.setDev d x).links = s.links := rfl
@[simp] theorem State.setDev_rings (s : State) (d : MemDev) (x : Dev) : (s.setDev d x).rings = s.rings := rfl
@[simp] theorem State.setDev_qps (s : State) (d : MemDev) (x : Dev) : (s.setDev d x).qps = s.qps := rfl
@[simp] theorem State.setDev_regions (s : State) (d : MemDev) (x : Dev) : (s.setDev d x).regions = s.regions := rfl
@[simp] theorem State.setDev_flash (s : State) (d : MemDev) (x : Dev) : (s.setDev d x).flash = s.flash := rfl
@[simp] theorem State.setDev_upd (s : State) (d : MemDev) (x : Dev) : (s.setDev d x).upd = s.upd := rfl
@[simp] theorem State.setDev_mgr (s : State) (d : MemDev) (x : Dev) : (s.setDev d x).mgr = s.mgr := rfl
@[simp] theorem State.setDev_snaps (s : State) (d : MemDev) (x : Dev) : (s.setDev d x).snaps = s.snaps := rfl
@[simp] theorem State.setDev_pwr (s : State) (d : MemDev) (x : Dev) : (s.setDev d x).pwr = s.pwr := rfl
@[simp] theorem State.setDev_pins (s : State) (d : MemDev) (x : Dev) : (s.setDev d x).pins = s.pins := rfl
@[simp] theorem State.setDev_vid (s : State) (d : MemDev) (x : Dev) : (s.setDev d x).vid = s.vid := rfl
@[simp] theorem State.setDev_halves (s : State) (d : MemDev) (x : Dev) : (s.setDev d x).halves = s.halves := rfl
@[simp] theorem State.setDev_out (s : State) (d : MemDev) (x : Dev) : (s.setDev d x).out = s.out := rfl
@[simp] theorem State.setDev_free (s : State) (d : MemDev) (x : Dev) : (s.setDev d x).free = s.free := rfl
@[simp] theorem State.setDev_pending (s : State) (d : MemDev) (x : Dev) : (s.setDev d x).pending = s.pending := rfl

/-! ### setDie -/

@[simp] theorem State.setDie_regs (s : State) (h : StackId) (x : Die) : (s.setDie h x).regs = s.regs := rfl
@[simp] theorem State.setDie_mem (s : State) (h : StackId) (x : Die) : (s.setDie h x).mem = s.mem := rfl
@[simp] theorem State.setDie_env (s : State) (h : StackId) (x : Die) : (s.setDie h x).env = s.env := rfl
@[simp] theorem State.setDie_errs (s : State) (h : StackId) (x : Die) : (s.setDie h x).errs = s.errs := rfl
@[simp] theorem State.setDie_seqs (s : State) (h : StackId) (x : Die) : (s.setDie h x).seqs = s.seqs := rfl
@[simp] theorem State.setDie_tiles (s : State) (h : StackId) (x : Die) : (s.setDie h x).tiles = s.tiles := rfl
@[simp] theorem State.setDie_slices (s : State) (h : StackId) (x : Die) : (s.setDie h x).slices = s.slices := rfl
@[simp] theorem State.setDie_pools (s : State) (h : StackId) (x : Die) : (s.setDie h x).pools = s.pools := rfl
@[simp] theorem State.setDie_moves (s : State) (h : StackId) (x : Die) : (s.setDie h x).moves = s.moves := rfl
@[simp] theorem State.setDie_chans (s : State) (h : StackId) (x : Die) : (s.setDie h x).chans = s.chans := rfl
@[simp] theorem State.setDie_mesh (s : State) (h : StackId) (x : Die) : (s.setDie h x).mesh = s.mesh := rfl
@[simp] theorem State.setDie_spanHeld (s : State) (h : StackId) (x : Die) : (s.setDie h x).spanHeld = s.spanHeld := rfl
@[simp] theorem State.setDie_dieHeld (s : State) (h : StackId) (x : Die) : (s.setDie h x).dieHeld = s.dieHeld := rfl
@[simp] theorem State.setDie_dieIn (s : State) (h : StackId) (x : Die) : (s.setDie h x).dieIn = s.dieIn := rfl
@[simp] theorem State.setDie_devs (s : State) (h : StackId) (x : Die) : (s.setDie h x).devs = s.devs := rfl
@[simp] theorem State.setDie_tempRetired (s : State) (h : StackId) (x : Die) : (s.setDie h x).tempRetired = s.tempRetired := rfl
@[simp] theorem State.setDie_beat (s : State) (h : StackId) (x : Die) : (s.setDie h x).beat = s.beat := rfl
@[simp] theorem State.setDie_windowStart (s : State) (h : StackId) (x : Die) : (s.setDie h x).windowStart = s.windowStart := rfl
@[simp] theorem State.setDie_slews (s : State) (h : StackId) (x : Die) : (s.setDie h x).slews = s.slews := rfl
@[simp] theorem State.setDie_ptpStamp (s : State) (h : StackId) (x : Die) : (s.setDie h x).ptpStamp = s.ptpStamp := rfl
@[simp] theorem State.setDie_syncBase (s : State) (h : StackId) (x : Die) : (s.setDie h x).syncBase = s.syncBase := rfl
@[simp] theorem State.setDie_car (s : State) (h : StackId) (x : Die) : (s.setDie h x).car = s.car := rfl
@[simp] theorem State.setDie_stp (s : State) (h : StackId) (x : Die) : (s.setDie h x).stp = s.stp := rfl
@[simp] theorem State.setDie_job (s : State) (h : StackId) (x : Die) : (s.setDie h x).job = s.job := rfl
@[simp] theorem State.setDie_repair (s : State) (h : StackId) (x : Die) : (s.setDie h x).repair = s.repair := rfl
@[simp] theorem State.setDie_links (s : State) (h : StackId) (x : Die) : (s.setDie h x).links = s.links := rfl
@[simp] theorem State.setDie_rings (s : State) (h : StackId) (x : Die) : (s.setDie h x).rings = s.rings := rfl
@[simp] theorem State.setDie_qps (s : State) (h : StackId) (x : Die) : (s.setDie h x).qps = s.qps := rfl
@[simp] theorem State.setDie_regions (s : State) (h : StackId) (x : Die) : (s.setDie h x).regions = s.regions := rfl
@[simp] theorem State.setDie_flash (s : State) (h : StackId) (x : Die) : (s.setDie h x).flash = s.flash := rfl
@[simp] theorem State.setDie_upd (s : State) (h : StackId) (x : Die) : (s.setDie h x).upd = s.upd := rfl
@[simp] theorem State.setDie_mgr (s : State) (h : StackId) (x : Die) : (s.setDie h x).mgr = s.mgr := rfl
@[simp] theorem State.setDie_snaps (s : State) (h : StackId) (x : Die) : (s.setDie h x).snaps = s.snaps := rfl
@[simp] theorem State.setDie_pwr (s : State) (h : StackId) (x : Die) : (s.setDie h x).pwr = s.pwr := rfl
@[simp] theorem State.setDie_pins (s : State) (h : StackId) (x : Die) : (s.setDie h x).pins = s.pins := rfl
@[simp] theorem State.setDie_vid (s : State) (h : StackId) (x : Die) : (s.setDie h x).vid = s.vid := rfl
@[simp] theorem State.setDie_halves (s : State) (h : StackId) (x : Die) : (s.setDie h x).halves = s.halves := rfl
@[simp] theorem State.setDie_out (s : State) (h : StackId) (x : Die) : (s.setDie h x).out = s.out := rfl
@[simp] theorem State.setDie_free (s : State) (h : StackId) (x : Die) : (s.setDie h x).free = s.free := rfl
@[simp] theorem State.setDie_pending (s : State) (h : StackId) (x : Die) : (s.setDie h x).pending = s.pending := rfl

/-! ### setRing -/

@[simp] theorem State.setRing_regs (s : State) (q : RingId) (x : Ring) : (s.setRing q x).regs = s.regs := rfl
@[simp] theorem State.setRing_mem (s : State) (q : RingId) (x : Ring) : (s.setRing q x).mem = s.mem := rfl
@[simp] theorem State.setRing_env (s : State) (q : RingId) (x : Ring) : (s.setRing q x).env = s.env := rfl
@[simp] theorem State.setRing_errs (s : State) (q : RingId) (x : Ring) : (s.setRing q x).errs = s.errs := rfl
@[simp] theorem State.setRing_seqs (s : State) (q : RingId) (x : Ring) : (s.setRing q x).seqs = s.seqs := rfl
@[simp] theorem State.setRing_tiles (s : State) (q : RingId) (x : Ring) : (s.setRing q x).tiles = s.tiles := rfl
@[simp] theorem State.setRing_slices (s : State) (q : RingId) (x : Ring) : (s.setRing q x).slices = s.slices := rfl
@[simp] theorem State.setRing_pools (s : State) (q : RingId) (x : Ring) : (s.setRing q x).pools = s.pools := rfl
@[simp] theorem State.setRing_moves (s : State) (q : RingId) (x : Ring) : (s.setRing q x).moves = s.moves := rfl
@[simp] theorem State.setRing_chans (s : State) (q : RingId) (x : Ring) : (s.setRing q x).chans = s.chans := rfl
@[simp] theorem State.setRing_mesh (s : State) (q : RingId) (x : Ring) : (s.setRing q x).mesh = s.mesh := rfl
@[simp] theorem State.setRing_spanHeld (s : State) (q : RingId) (x : Ring) : (s.setRing q x).spanHeld = s.spanHeld := rfl
@[simp] theorem State.setRing_dieHeld (s : State) (q : RingId) (x : Ring) : (s.setRing q x).dieHeld = s.dieHeld := rfl
@[simp] theorem State.setRing_dieIn (s : State) (q : RingId) (x : Ring) : (s.setRing q x).dieIn = s.dieIn := rfl
@[simp] theorem State.setRing_devs (s : State) (q : RingId) (x : Ring) : (s.setRing q x).devs = s.devs := rfl
@[simp] theorem State.setRing_dies (s : State) (q : RingId) (x : Ring) : (s.setRing q x).dies = s.dies := rfl
@[simp] theorem State.setRing_tempRetired (s : State) (q : RingId) (x : Ring) : (s.setRing q x).tempRetired = s.tempRetired := rfl
@[simp] theorem State.setRing_beat (s : State) (q : RingId) (x : Ring) : (s.setRing q x).beat = s.beat := rfl
@[simp] theorem State.setRing_windowStart (s : State) (q : RingId) (x : Ring) : (s.setRing q x).windowStart = s.windowStart := rfl
@[simp] theorem State.setRing_slews (s : State) (q : RingId) (x : Ring) : (s.setRing q x).slews = s.slews := rfl
@[simp] theorem State.setRing_ptpStamp (s : State) (q : RingId) (x : Ring) : (s.setRing q x).ptpStamp = s.ptpStamp := rfl
@[simp] theorem State.setRing_syncBase (s : State) (q : RingId) (x : Ring) : (s.setRing q x).syncBase = s.syncBase := rfl
@[simp] theorem State.setRing_car (s : State) (q : RingId) (x : Ring) : (s.setRing q x).car = s.car := rfl
@[simp] theorem State.setRing_stp (s : State) (q : RingId) (x : Ring) : (s.setRing q x).stp = s.stp := rfl
@[simp] theorem State.setRing_job (s : State) (q : RingId) (x : Ring) : (s.setRing q x).job = s.job := rfl
@[simp] theorem State.setRing_repair (s : State) (q : RingId) (x : Ring) : (s.setRing q x).repair = s.repair := rfl
@[simp] theorem State.setRing_links (s : State) (q : RingId) (x : Ring) : (s.setRing q x).links = s.links := rfl
@[simp] theorem State.setRing_qps (s : State) (q : RingId) (x : Ring) : (s.setRing q x).qps = s.qps := rfl
@[simp] theorem State.setRing_regions (s : State) (q : RingId) (x : Ring) : (s.setRing q x).regions = s.regions := rfl
@[simp] theorem State.setRing_flash (s : State) (q : RingId) (x : Ring) : (s.setRing q x).flash = s.flash := rfl
@[simp] theorem State.setRing_upd (s : State) (q : RingId) (x : Ring) : (s.setRing q x).upd = s.upd := rfl
@[simp] theorem State.setRing_mgr (s : State) (q : RingId) (x : Ring) : (s.setRing q x).mgr = s.mgr := rfl
@[simp] theorem State.setRing_snaps (s : State) (q : RingId) (x : Ring) : (s.setRing q x).snaps = s.snaps := rfl
@[simp] theorem State.setRing_pwr (s : State) (q : RingId) (x : Ring) : (s.setRing q x).pwr = s.pwr := rfl
@[simp] theorem State.setRing_pins (s : State) (q : RingId) (x : Ring) : (s.setRing q x).pins = s.pins := rfl
@[simp] theorem State.setRing_vid (s : State) (q : RingId) (x : Ring) : (s.setRing q x).vid = s.vid := rfl
@[simp] theorem State.setRing_halves (s : State) (q : RingId) (x : Ring) : (s.setRing q x).halves = s.halves := rfl
@[simp] theorem State.setRing_out (s : State) (q : RingId) (x : Ring) : (s.setRing q x).out = s.out := rfl
@[simp] theorem State.setRing_free (s : State) (q : RingId) (x : Ring) : (s.setRing q x).free = s.free := rfl
@[simp] theorem State.setRing_pending (s : State) (q : RingId) (x : Ring) : (s.setRing q x).pending = s.pending := rfl

/-! ### setPort -/

@[simp] theorem State.setPort_regs (s : State) (m : Medium) (p : Port) : (s.setPort m p).regs = s.regs := rfl
@[simp] theorem State.setPort_mem (s : State) (m : Medium) (p : Port) : (s.setPort m p).mem = s.mem := rfl
@[simp] theorem State.setPort_env (s : State) (m : Medium) (p : Port) : (s.setPort m p).env = s.env := rfl
@[simp] theorem State.setPort_errs (s : State) (m : Medium) (p : Port) : (s.setPort m p).errs = s.errs := rfl
@[simp] theorem State.setPort_seqs (s : State) (m : Medium) (p : Port) : (s.setPort m p).seqs = s.seqs := rfl
@[simp] theorem State.setPort_tiles (s : State) (m : Medium) (p : Port) : (s.setPort m p).tiles = s.tiles := rfl
@[simp] theorem State.setPort_slices (s : State) (m : Medium) (p : Port) : (s.setPort m p).slices = s.slices := rfl
@[simp] theorem State.setPort_pools (s : State) (m : Medium) (p : Port) : (s.setPort m p).pools = s.pools := rfl
@[simp] theorem State.setPort_moves (s : State) (m : Medium) (p : Port) : (s.setPort m p).moves = s.moves := rfl
@[simp] theorem State.setPort_chans (s : State) (m : Medium) (p : Port) : (s.setPort m p).chans = s.chans := rfl
@[simp] theorem State.setPort_mesh (s : State) (m : Medium) (p : Port) : (s.setPort m p).mesh = s.mesh := rfl
@[simp] theorem State.setPort_spanHeld (s : State) (m : Medium) (p : Port) : (s.setPort m p).spanHeld = s.spanHeld := rfl
@[simp] theorem State.setPort_dieHeld (s : State) (m : Medium) (p : Port) : (s.setPort m p).dieHeld = s.dieHeld := rfl
@[simp] theorem State.setPort_dieIn (s : State) (m : Medium) (p : Port) : (s.setPort m p).dieIn = s.dieIn := rfl
@[simp] theorem State.setPort_devs (s : State) (m : Medium) (p : Port) : (s.setPort m p).devs = s.devs := rfl
@[simp] theorem State.setPort_dies (s : State) (m : Medium) (p : Port) : (s.setPort m p).dies = s.dies := rfl
@[simp] theorem State.setPort_tempRetired (s : State) (m : Medium) (p : Port) : (s.setPort m p).tempRetired = s.tempRetired := rfl
@[simp] theorem State.setPort_beat (s : State) (m : Medium) (p : Port) : (s.setPort m p).beat = s.beat := rfl
@[simp] theorem State.setPort_windowStart (s : State) (m : Medium) (p : Port) : (s.setPort m p).windowStart = s.windowStart := rfl
@[simp] theorem State.setPort_slews (s : State) (m : Medium) (p : Port) : (s.setPort m p).slews = s.slews := rfl
@[simp] theorem State.setPort_ptpStamp (s : State) (m : Medium) (p : Port) : (s.setPort m p).ptpStamp = s.ptpStamp := rfl
@[simp] theorem State.setPort_syncBase (s : State) (m : Medium) (p : Port) : (s.setPort m p).syncBase = s.syncBase := rfl
@[simp] theorem State.setPort_car (s : State) (m : Medium) (p : Port) : (s.setPort m p).car = s.car := rfl
@[simp] theorem State.setPort_stp (s : State) (m : Medium) (p : Port) : (s.setPort m p).stp = s.stp := rfl
@[simp] theorem State.setPort_job (s : State) (m : Medium) (p : Port) : (s.setPort m p).job = s.job := rfl
@[simp] theorem State.setPort_repair (s : State) (m : Medium) (p : Port) : (s.setPort m p).repair = s.repair := rfl
@[simp] theorem State.setPort_links (s : State) (m : Medium) (p : Port) : (s.setPort m p).links = s.links := rfl
@[simp] theorem State.setPort_rings (s : State) (m : Medium) (p : Port) : (s.setPort m p).rings = s.rings := rfl
@[simp] theorem State.setPort_qps (s : State) (m : Medium) (p : Port) : (s.setPort m p).qps = s.qps := rfl
@[simp] theorem State.setPort_regions (s : State) (m : Medium) (p : Port) : (s.setPort m p).regions = s.regions := rfl
@[simp] theorem State.setPort_flash (s : State) (m : Medium) (p : Port) : (s.setPort m p).flash = s.flash := rfl
@[simp] theorem State.setPort_upd (s : State) (m : Medium) (p : Port) : (s.setPort m p).upd = s.upd := rfl
@[simp] theorem State.setPort_snaps (s : State) (m : Medium) (p : Port) : (s.setPort m p).snaps = s.snaps := rfl
@[simp] theorem State.setPort_pwr (s : State) (m : Medium) (p : Port) : (s.setPort m p).pwr = s.pwr := rfl
@[simp] theorem State.setPort_pins (s : State) (m : Medium) (p : Port) : (s.setPort m p).pins = s.pins := rfl
@[simp] theorem State.setPort_vid (s : State) (m : Medium) (p : Port) : (s.setPort m p).vid = s.vid := rfl
@[simp] theorem State.setPort_halves (s : State) (m : Medium) (p : Port) : (s.setPort m p).halves = s.halves := rfl
@[simp] theorem State.setPort_out (s : State) (m : Medium) (p : Port) : (s.setPort m p).out = s.out := rfl
@[simp] theorem State.setPort_free (s : State) (m : Medium) (p : Port) : (s.setPort m p).free = s.free := rfl
@[simp] theorem State.setPort_pending (s : State) (m : Medium) (p : Port) : (s.setPort m p).pending = s.pending := rfl

/-! ### setSensor -/

@[simp] theorem State.setSensor_regs (s : State) (i : Nat) (x : Sensor) : (s.setSensor i x).regs = s.regs := rfl
@[simp] theorem State.setSensor_mem (s : State) (i : Nat) (x : Sensor) : (s.setSensor i x).mem = s.mem := rfl
@[simp] theorem State.setSensor_env (s : State) (i : Nat) (x : Sensor) : (s.setSensor i x).env = s.env := rfl
@[simp] theorem State.setSensor_errs (s : State) (i : Nat) (x : Sensor) : (s.setSensor i x).errs = s.errs := rfl
@[simp] theorem State.setSensor_seqs (s : State) (i : Nat) (x : Sensor) : (s.setSensor i x).seqs = s.seqs := rfl
@[simp] theorem State.setSensor_tiles (s : State) (i : Nat) (x : Sensor) : (s.setSensor i x).tiles = s.tiles := rfl
@[simp] theorem State.setSensor_slices (s : State) (i : Nat) (x : Sensor) : (s.setSensor i x).slices = s.slices := rfl
@[simp] theorem State.setSensor_pools (s : State) (i : Nat) (x : Sensor) : (s.setSensor i x).pools = s.pools := rfl
@[simp] theorem State.setSensor_moves (s : State) (i : Nat) (x : Sensor) : (s.setSensor i x).moves = s.moves := rfl
@[simp] theorem State.setSensor_chans (s : State) (i : Nat) (x : Sensor) : (s.setSensor i x).chans = s.chans := rfl
@[simp] theorem State.setSensor_mesh (s : State) (i : Nat) (x : Sensor) : (s.setSensor i x).mesh = s.mesh := rfl
@[simp] theorem State.setSensor_spanHeld (s : State) (i : Nat) (x : Sensor) : (s.setSensor i x).spanHeld = s.spanHeld := rfl
@[simp] theorem State.setSensor_dieHeld (s : State) (i : Nat) (x : Sensor) : (s.setSensor i x).dieHeld = s.dieHeld := rfl
@[simp] theorem State.setSensor_dieIn (s : State) (i : Nat) (x : Sensor) : (s.setSensor i x).dieIn = s.dieIn := rfl
@[simp] theorem State.setSensor_devs (s : State) (i : Nat) (x : Sensor) : (s.setSensor i x).devs = s.devs := rfl
@[simp] theorem State.setSensor_dies (s : State) (i : Nat) (x : Sensor) : (s.setSensor i x).dies = s.dies := rfl
@[simp] theorem State.setSensor_tempRetired (s : State) (i : Nat) (x : Sensor) : (s.setSensor i x).tempRetired = s.tempRetired := rfl
@[simp] theorem State.setSensor_beat (s : State) (i : Nat) (x : Sensor) : (s.setSensor i x).beat = s.beat := rfl
@[simp] theorem State.setSensor_windowStart (s : State) (i : Nat) (x : Sensor) : (s.setSensor i x).windowStart = s.windowStart := rfl
@[simp] theorem State.setSensor_slews (s : State) (i : Nat) (x : Sensor) : (s.setSensor i x).slews = s.slews := rfl
@[simp] theorem State.setSensor_ptpStamp (s : State) (i : Nat) (x : Sensor) : (s.setSensor i x).ptpStamp = s.ptpStamp := rfl
@[simp] theorem State.setSensor_syncBase (s : State) (i : Nat) (x : Sensor) : (s.setSensor i x).syncBase = s.syncBase := rfl
@[simp] theorem State.setSensor_car (s : State) (i : Nat) (x : Sensor) : (s.setSensor i x).car = s.car := rfl
@[simp] theorem State.setSensor_stp (s : State) (i : Nat) (x : Sensor) : (s.setSensor i x).stp = s.stp := rfl
@[simp] theorem State.setSensor_job (s : State) (i : Nat) (x : Sensor) : (s.setSensor i x).job = s.job := rfl
@[simp] theorem State.setSensor_repair (s : State) (i : Nat) (x : Sensor) : (s.setSensor i x).repair = s.repair := rfl
@[simp] theorem State.setSensor_links (s : State) (i : Nat) (x : Sensor) : (s.setSensor i x).links = s.links := rfl
@[simp] theorem State.setSensor_rings (s : State) (i : Nat) (x : Sensor) : (s.setSensor i x).rings = s.rings := rfl
@[simp] theorem State.setSensor_qps (s : State) (i : Nat) (x : Sensor) : (s.setSensor i x).qps = s.qps := rfl
@[simp] theorem State.setSensor_regions (s : State) (i : Nat) (x : Sensor) : (s.setSensor i x).regions = s.regions := rfl
@[simp] theorem State.setSensor_flash (s : State) (i : Nat) (x : Sensor) : (s.setSensor i x).flash = s.flash := rfl
@[simp] theorem State.setSensor_upd (s : State) (i : Nat) (x : Sensor) : (s.setSensor i x).upd = s.upd := rfl
@[simp] theorem State.setSensor_snaps (s : State) (i : Nat) (x : Sensor) : (s.setSensor i x).snaps = s.snaps := rfl
@[simp] theorem State.setSensor_pwr (s : State) (i : Nat) (x : Sensor) : (s.setSensor i x).pwr = s.pwr := rfl
@[simp] theorem State.setSensor_pins (s : State) (i : Nat) (x : Sensor) : (s.setSensor i x).pins = s.pins := rfl
@[simp] theorem State.setSensor_vid (s : State) (i : Nat) (x : Sensor) : (s.setSensor i x).vid = s.vid := rfl
@[simp] theorem State.setSensor_halves (s : State) (i : Nat) (x : Sensor) : (s.setSensor i x).halves = s.halves := rfl
@[simp] theorem State.setSensor_out (s : State) (i : Nat) (x : Sensor) : (s.setSensor i x).out = s.out := rfl
@[simp] theorem State.setSensor_free (s : State) (i : Nat) (x : Sensor) : (s.setSensor i x).free = s.free := rfl
@[simp] theorem State.setSensor_pending (s : State) (i : Nat) (x : Sensor) : (s.setSensor i x).pending = s.pending := rfl

/-! ### emit and takeFree -/

@[simp] theorem emit_regs (s : State) (m : OutMsg) : (emit s m).regs = s.regs := rfl
@[simp] theorem emit_mem (s : State) (m : OutMsg) : (emit s m).mem = s.mem := rfl
@[simp] theorem emit_env (s : State) (m : OutMsg) : (emit s m).env = s.env := rfl
@[simp] theorem emit_errs (s : State) (m : OutMsg) : (emit s m).errs = s.errs := rfl
@[simp] theorem emit_seqs (s : State) (m : OutMsg) : (emit s m).seqs = s.seqs := rfl
@[simp] theorem emit_tiles (s : State) (m : OutMsg) : (emit s m).tiles = s.tiles := rfl
@[simp] theorem emit_slices (s : State) (m : OutMsg) : (emit s m).slices = s.slices := rfl
@[simp] theorem emit_pools (s : State) (m : OutMsg) : (emit s m).pools = s.pools := rfl
@[simp] theorem emit_moves (s : State) (m : OutMsg) : (emit s m).moves = s.moves := rfl
@[simp] theorem emit_chans (s : State) (m : OutMsg) : (emit s m).chans = s.chans := rfl
@[simp] theorem emit_mesh (s : State) (m : OutMsg) : (emit s m).mesh = s.mesh := rfl
@[simp] theorem emit_spanHeld (s : State) (m : OutMsg) : (emit s m).spanHeld = s.spanHeld := rfl
@[simp] theorem emit_dieHeld (s : State) (m : OutMsg) : (emit s m).dieHeld = s.dieHeld := rfl
@[simp] theorem emit_dieIn (s : State) (m : OutMsg) : (emit s m).dieIn = s.dieIn := rfl
@[simp] theorem emit_devs (s : State) (m : OutMsg) : (emit s m).devs = s.devs := rfl
@[simp] theorem emit_dies (s : State) (m : OutMsg) : (emit s m).dies = s.dies := rfl
@[simp] theorem emit_tempRetired (s : State) (m : OutMsg) : (emit s m).tempRetired = s.tempRetired := rfl
@[simp] theorem emit_beat (s : State) (m : OutMsg) : (emit s m).beat = s.beat := rfl
@[simp] theorem emit_windowStart (s : State) (m : OutMsg) : (emit s m).windowStart = s.windowStart := rfl
@[simp] theorem emit_slews (s : State) (m : OutMsg) : (emit s m).slews = s.slews := rfl
@[simp] theorem emit_ptpStamp (s : State) (m : OutMsg) : (emit s m).ptpStamp = s.ptpStamp := rfl
@[simp] theorem emit_syncBase (s : State) (m : OutMsg) : (emit s m).syncBase = s.syncBase := rfl
@[simp] theorem emit_car (s : State) (m : OutMsg) : (emit s m).car = s.car := rfl
@[simp] theorem emit_stp (s : State) (m : OutMsg) : (emit s m).stp = s.stp := rfl
@[simp] theorem emit_job (s : State) (m : OutMsg) : (emit s m).job = s.job := rfl
@[simp] theorem emit_repair (s : State) (m : OutMsg) : (emit s m).repair = s.repair := rfl
@[simp] theorem emit_links (s : State) (m : OutMsg) : (emit s m).links = s.links := rfl
@[simp] theorem emit_rings (s : State) (m : OutMsg) : (emit s m).rings = s.rings := rfl
@[simp] theorem emit_qps (s : State) (m : OutMsg) : (emit s m).qps = s.qps := rfl
@[simp] theorem emit_regions (s : State) (m : OutMsg) : (emit s m).regions = s.regions := rfl
@[simp] theorem emit_flash (s : State) (m : OutMsg) : (emit s m).flash = s.flash := rfl
@[simp] theorem emit_upd (s : State) (m : OutMsg) : (emit s m).upd = s.upd := rfl
@[simp] theorem emit_mgr (s : State) (m : OutMsg) : (emit s m).mgr = s.mgr := rfl
@[simp] theorem emit_snaps (s : State) (m : OutMsg) : (emit s m).snaps = s.snaps := rfl
@[simp] theorem emit_pwr (s : State) (m : OutMsg) : (emit s m).pwr = s.pwr := rfl
@[simp] theorem emit_pins (s : State) (m : OutMsg) : (emit s m).pins = s.pins := rfl
@[simp] theorem emit_vid (s : State) (m : OutMsg) : (emit s m).vid = s.vid := rfl
@[simp] theorem emit_halves (s : State) (m : OutMsg) : (emit s m).halves = s.halves := rfl
@[simp] theorem emit_free (s : State) (m : OutMsg) : (emit s m).free = s.free := rfl
@[simp] theorem emit_pending (s : State) (m : OutMsg) : (emit s m).pending = s.pending := rfl
@[simp] theorem takeFree_regs (s : State) : (takeFree s).2.regs = s.regs := rfl
@[simp] theorem takeFree_mem (s : State) : (takeFree s).2.mem = s.mem := rfl
@[simp] theorem takeFree_env (s : State) : (takeFree s).2.env = s.env := rfl
@[simp] theorem takeFree_errs (s : State) : (takeFree s).2.errs = s.errs := rfl
@[simp] theorem takeFree_seqs (s : State) : (takeFree s).2.seqs = s.seqs := rfl
@[simp] theorem takeFree_tiles (s : State) : (takeFree s).2.tiles = s.tiles := rfl
@[simp] theorem takeFree_slices (s : State) : (takeFree s).2.slices = s.slices := rfl
@[simp] theorem takeFree_pools (s : State) : (takeFree s).2.pools = s.pools := rfl
@[simp] theorem takeFree_moves (s : State) : (takeFree s).2.moves = s.moves := rfl
@[simp] theorem takeFree_chans (s : State) : (takeFree s).2.chans = s.chans := rfl
@[simp] theorem takeFree_mesh (s : State) : (takeFree s).2.mesh = s.mesh := rfl
@[simp] theorem takeFree_spanHeld (s : State) : (takeFree s).2.spanHeld = s.spanHeld := rfl
@[simp] theorem takeFree_dieHeld (s : State) : (takeFree s).2.dieHeld = s.dieHeld := rfl
@[simp] theorem takeFree_dieIn (s : State) : (takeFree s).2.dieIn = s.dieIn := rfl
@[simp] theorem takeFree_devs (s : State) : (takeFree s).2.devs = s.devs := rfl
@[simp] theorem takeFree_dies (s : State) : (takeFree s).2.dies = s.dies := rfl
@[simp] theorem takeFree_tempRetired (s : State) : (takeFree s).2.tempRetired = s.tempRetired := rfl
@[simp] theorem takeFree_beat (s : State) : (takeFree s).2.beat = s.beat := rfl
@[simp] theorem takeFree_windowStart (s : State) : (takeFree s).2.windowStart = s.windowStart := rfl
@[simp] theorem takeFree_slews (s : State) : (takeFree s).2.slews = s.slews := rfl
@[simp] theorem takeFree_ptpStamp (s : State) : (takeFree s).2.ptpStamp = s.ptpStamp := rfl
@[simp] theorem takeFree_syncBase (s : State) : (takeFree s).2.syncBase = s.syncBase := rfl
@[simp] theorem takeFree_car (s : State) : (takeFree s).2.car = s.car := rfl
@[simp] theorem takeFree_stp (s : State) : (takeFree s).2.stp = s.stp := rfl
@[simp] theorem takeFree_job (s : State) : (takeFree s).2.job = s.job := rfl
@[simp] theorem takeFree_repair (s : State) : (takeFree s).2.repair = s.repair := rfl
@[simp] theorem takeFree_links (s : State) : (takeFree s).2.links = s.links := rfl
@[simp] theorem takeFree_rings (s : State) : (takeFree s).2.rings = s.rings := rfl
@[simp] theorem takeFree_qps (s : State) : (takeFree s).2.qps = s.qps := rfl
@[simp] theorem takeFree_regions (s : State) : (takeFree s).2.regions = s.regions := rfl
@[simp] theorem takeFree_flash (s : State) : (takeFree s).2.flash = s.flash := rfl
@[simp] theorem takeFree_upd (s : State) : (takeFree s).2.upd = s.upd := rfl
@[simp] theorem takeFree_mgr (s : State) : (takeFree s).2.mgr = s.mgr := rfl
@[simp] theorem takeFree_snaps (s : State) : (takeFree s).2.snaps = s.snaps := rfl
@[simp] theorem takeFree_pwr (s : State) : (takeFree s).2.pwr = s.pwr := rfl
@[simp] theorem takeFree_pins (s : State) : (takeFree s).2.pins = s.pins := rfl
@[simp] theorem takeFree_vid (s : State) : (takeFree s).2.vid = s.vid := rfl
@[simp] theorem takeFree_halves (s : State) : (takeFree s).2.halves = s.halves := rfl
@[simp] theorem takeFree_out (s : State) : (takeFree s).2.out = s.out := rfl
@[simp] theorem takeFree_pending (s : State) : (takeFree s).2.pending = s.pending := rfl

@[simp] theorem emit_out (s : State) (m : OutMsg) : (emit s m).out = s.out ++ [m] := rfl
@[simp] theorem takeFree_free (s : State) : (takeFree s).2.free = s.free + 1 := rfl

end Sys2Proof.Machine
end

