-- ==== Sys2Proof/Laws/Register.lean ====
section
/-! SUPPORT. Registers, fields and units: what is set is read, and nothing else changes. -/

namespace Sys2Proof.Machine

/-! ### Whole registers -/

@[simp] theorem reg_setReg_same (s : State) (a v : Nat) : (s.setReg a v).reg a = v % 2 ^ 64 := by
  simp [State.reg, State.setReg]

theorem reg_setReg_ne (s : State) {a b : Nat} (v : Nat) (h : b ≠ a) : (s.setReg a v).reg b = s.reg b := by
  simp [State.reg, State.setReg, mapGet_mapSet_ne _ _ _ _ h]

theorem reg_lt (s : State) (a : Nat) : s.reg a < 2 ^ 64 := (mapGet (regReset a) s.regs a).isLt

/-- A register depends on the register map alone. -/
theorem reg_congr {s t : State} (h : t.regs = s.regs) (a : Nat) : t.reg a = s.reg a := by simp [State.reg, h]

/-- Writes of the state that leave the registers as they are. -/
@[simp] theorem reg_setSeq (s : State) (c : CoreId) (x : Seq) (a : Nat) : (s.setSeq c x).reg a = s.reg a := rfl
@[simp] theorem reg_setTile (s : State) (t : TileId) (x : Tile) (a : Nat) : (s.setTile t x).reg a = s.reg a := rfl
@[simp] theorem reg_setSlice (s : State) (t : TileId) (x : Slice) (a : Nat) : (s.setSlice t x).reg a = s.reg a := rfl
@[simp] theorem reg_setChan (s : State) (e : Engine) (x : Chan) (a : Nat) : (s.setChan e x).reg a = s.reg a := rfl
@[simp] theorem reg_setDev (s : State) (d : MemDev) (x : Dev) (a : Nat) : (s.setDev d x).reg a = s.reg a := rfl
@[simp] theorem reg_setDie (s : State) (h : StackId) (x : Die) (a : Nat) : (s.setDie h x).reg a = s.reg a := rfl
@[simp] theorem reg_setRing (s : State) (q : RingId) (x : Ring) (a : Nat) : (s.setRing q x).reg a = s.reg a := rfl
@[simp] theorem reg_setPort (s : State) (m : Medium) (p : Port) (a : Nat) : (s.setPort m p).reg a = s.reg a := rfl
@[simp] theorem reg_setSensor (s : State) (i : Nat) (x : Sensor) (a : Nat) : (s.setSensor i x).reg a = s.reg a := rfl
@[simp] theorem reg_emit (s : State) (m : OutMsg) (a : Nat) : (emit s m).reg a = s.reg a := rfl
@[simp] theorem reg_takeFree (s : State) (a : Nat) : (takeFree s).2.reg a = s.reg a := rfl

/-! ### Fields -/

theorem fget_congr {s t : State} {a : Nat} (h : t.reg a = s.reg a) (f : Fld) : fget t a f = fget s a f := by
  simp [fget, h]

/-- A field written is the field read. -/
theorem fget_fset_same (s : State) (a : Nat) (f : Fld) (v : Nat) (h : f.lo + f.width ≤ 64) :
    fget (fset s a f v) a f = v % 2 ^ f.width := by
  unfold fget fset
  rw [reg_setReg_same, Nat.mod_eq_of_lt (putBits_lt f.lo f.width v (reg_lt s a) h), bitsAt_putBits_same]

/-- Another field of the same register is unchanged. -/
theorem fget_fset_other (s : State) (a : Nat) {f g : Fld} (v : Nat) (h : f.lo + f.width ≤ 64)
    (hd : g.lo + g.width ≤ f.lo ∨ f.lo + f.width ≤ g.lo) : fget (fset s a f v) a g = fget s a g := by
  unfold fget fset
  rw [reg_setReg_same, Nat.mod_eq_of_lt (putBits_lt f.lo f.width v (reg_lt s a) h)]
  rcases hd with hd | hd
  · exact bitsAt_putBits_below _ _ _ _ _ _ hd
  · exact bitsAt_putBits_above _ _ _ _ _ _ hd

/-- A register other than the one written is unchanged. -/
theorem reg_fset_ne (s : State) {a b : Nat} (f : Fld) (v : Nat) (h : b ≠ a) : (fset s a f v).reg b = s.reg b :=
  reg_setReg_ne s _ h

theorem fget_fset_ne (s : State) {a b : Nat} (f g : Fld) (v : Nat) (h : b ≠ a) :
    fget (fset s a f v) b g = fget s b g := fget_congr (reg_fset_ne s f v h) g

theorem fbit_fset_ne (s : State) {a b : Nat} (f g : Fld) (v : Nat) (h : b ≠ a) :
    fbit (fset s a f v) b g = fbit s b g := by simp [fbit, fget_fset_ne s f g v h]

theorem fbit_fset_other (s : State) (a : Nat) {f g : Fld} (v : Nat) (h : f.lo + f.width ≤ 64)
    (hd : g.lo + g.width ≤ f.lo ∨ f.lo + f.width ≤ g.lo) : fbit (fset s a f v) a g = fbit s a g := by
  simp [fbit, fget_fset_other s a v h hd]

/-- A bit set to 1 reads 1, and set to 0 reads 0. -/
theorem fbit_fset_one (s : State) (a lo : Nat) (h : lo + 1 ≤ 64) : fbit (fset s a ⟨lo, 1⟩ 1) a ⟨lo, 1⟩ = true := by
  simp [fbit, fget_fset_same s a ⟨lo, 1⟩ 1 h]

theorem fbit_fset_zero (s : State) (a lo : Nat) (h : lo + 1 ≤ 64) : fbit (fset s a ⟨lo, 1⟩ 0) a ⟨lo, 1⟩ = false := by
  simp [fbit, fget_fset_same s a ⟨lo, 1⟩ 0 h]

/-! ### Units -/

@[simp] theorem seq_setSeq (s : State) (c : CoreId) (x : Seq) : (s.setSeq c x).seq c = x := by
  simp [State.seq, State.setSeq]

/-- Cores are numbered apart. -/
theorem coreKey_inj {c d : CoreId} (h : 16 * c.tile.val + c.core.val = 16 * d.tile.val + d.core.val) : c = d := by
  obtain ⟨t, k⟩ := c
  obtain ⟨t', k'⟩ := d
  simp only at h
  have : t = t' := Fin.ext (by omega)
  have : k = k' := Fin.ext (by omega)
  simp [*]

theorem seq_setSeq_ne (s : State) {c d : CoreId} (x : Seq) (h : d ≠ c) : (s.setSeq c x).seq d = s.seq d := by
  unfold State.seq State.setSeq
  exact mapGet_mapSet_ne _ _ _ _ fun e => h (coreKey_inj e)

@[simp] theorem tile_setTile (s : State) (t : TileId) (x : Tile) : (s.setTile t x).tile t = x := by
  simp [State.tile, State.setTile]

theorem tile_setTile_ne (s : State) {t u : TileId} (x : Tile) (h : u ≠ t) : (s.setTile t x).tile u = s.tile u := by
  unfold State.tile State.setTile
  exact mapGet_mapSet_ne _ _ _ _ fun e => h (Fin.ext e)

@[simp] theorem slice_setSlice (s : State) (t : TileId) (x : Slice) : (s.setSlice t x).slice t = x := by
  simp [State.slice, State.setSlice]

@[simp] theorem chan_setChan (s : State) (e : Engine) (x : Chan) : (s.setChan e x).chan e = x := by
  simp [State.chan, State.setChan]

/-- Channels are numbered apart. -/
theorem chanKey_inj {e f : Engine} (h : chanKey e = chanKey f) : e = f := by
  rcases e with ⟨t, c⟩ | ⟨t, c⟩ | c <;> rcases f with ⟨t', c'⟩ | ⟨t', c'⟩ | c' <;> simp only [chanKey] at h <;>
    first
    | omega
    | (have h1 : t = t' := Fin.ext (by omega)
       have h2 : c = c' := Fin.ext (by omega)
       simp [h1, h2])
    | (have h2 : c = c' := Fin.ext (by omega)
       simp [h2])

theorem chan_setChan_ne (s : State) {e f : Engine} (x : Chan) (h : f ≠ e) : (s.setChan e x).chan f = s.chan f := by
  unfold State.chan State.setChan
  exact mapGet_mapSet_ne _ _ _ _ fun k => h (chanKey_inj k)

@[simp] theorem dev_setDev (s : State) (d : MemDev) (x : Dev) : (s.setDev d x).dev d = x := by
  simp [State.dev, State.setDev]

@[simp] theorem die_setDie (s : State) (h : StackId) (x : Die) : (s.setDie h x).die h = x := by
  simp [State.die, State.setDie]

@[simp] theorem ring_setRing (s : State) (q : RingId) (x : Ring) : (s.setRing q x).ring q = x := by
  simp [State.ring, State.setRing]

theorem ring_setRing_ne (s : State) {q r : RingId} (x : Ring) (h : r ≠ q) : (s.setRing q x).ring r = s.ring r := by
  unfold State.ring State.setRing
  exact mapGet_mapSet_ne _ _ _ _ fun e => h (Fin.ext e)

@[simp] theorem sensor_setSensor (s : State) (i : Nat) (x : Sensor) : (s.setSensor i x).sensor i = x := by
  simp [State.sensor, State.setSensor]

theorem sensor_setSensor_ne (s : State) {i j : Nat} (x : Sensor) (h : j ≠ i) :
    (s.setSensor i x).sensor j = s.sensor j := by
  unfold State.sensor State.setSensor
  exact mapGet_mapSet_ne _ _ _ _ h

/-! ### Rights -/

theorem guardedWrite_firmware (s : State) (a : Nat) (g : Option Nat) (act : State → State) :
    guardedWrite s .firmware a g act = act s := by simp [guardedWrite, mayWrite]

/-- A host write that no grant lets through only counts itself (R460). -/
theorem guardedWrite_denied (s : State) (a : Nat) (act : State → State) :
    guardedWrite s .host a none act = denyWrite s a := by simp [guardedWrite, mayWrite]

end Sys2Proof.Machine
end

