-- ==== Sys2Proof/Laws/Memory.lean ====
section
/-! SUPPORT. Memory: what a write does to the bytes, and that every memory operation keeps the canonical form. -/

namespace Sys2Proof.Machine

/-! ### The canonical form (log entry 9) -/

theorem memory_wf_nil : Memory.wf [] = true := rfl

theorem memory_wf_set {m : List Host.Cell} (k : Nat) (b : Byte) (h : Memory.wf m = true) :
    Memory.wf (mapSet 0 m k b) = true := mapWf_mapSet (fun _ => (0 : Byte)) k b h

theorem memory_wf_filter {m : List Host.Cell} (p : Host.Cell → Bool) (h : Memory.wf m = true) :
    Memory.wf (m.filter p) = true := mapWf_filter _ p h

theorem memory_wf_putBytes (bs : List Byte) {m : List Host.Cell} (k : Nat) (h : Memory.wf m = true) :
    Memory.wf (putBytes m k bs) = true := by
  induction bs generalizing m k with
  | nil => exact h
  | cons b bs ih => exact ih (k + 1) (memory_wf_set k b h)

theorem memory_wf_foldSet (f : Nat → Nat) (ps : List (Nat × Byte)) {m : List Host.Cell} (h : Memory.wf m = true) :
    Memory.wf (ps.foldl (fun m p => mapSet 0 m (f p.1) p.2) m) = true :=
  List.foldlRecOn (motive := fun n => Memory.wf n = true) ps _ h fun _ hm p _ => memory_wf_set (f p.1) p.2 hm

/-! ### One block -/

@[simp] theorem setMismatch_mem (s : State) (b : Nat) (v : BitVec 32) : (setMismatch s b v).mem = s.mem := rfl

/-- Updating the writer's cached copy touches its tile alone. -/
theorem writeThrough_frame (s : State) (ag : Agent) (b : Nat) (bytes : List (Nat × Byte)) (env : Option (BitVec 32)) :
    ∃ ts, writeThrough s ag b bytes env = { s with tiles := ts } := by
  unfold writeThrough
  split
  · exact ⟨s.tiles, rfl⟩
  · split
    · exact ⟨s.tiles, rfl⟩
    · exact ⟨_, rfl⟩

/-- All that the write of a block does: its bytes, at most its own mismatch, the errors it overwrites and the writer's cache. -/
theorem writeBlock_spec (s : State) (ag : Agent) (b : Nat) (bytes : List (Nat × Byte)) (poison : Bool) :
    ∃ env errs ts, writeBlock s ag b bytes poison =
        { s with mem := bytes.foldl (fun m p => mapSet 0 m (b * 512 + p.1) p.2) s.mem, env := env, errs := errs, tiles := ts } ∧
      (env = s.env ∨ ∃ v, env = mapSet 0 s.env b v) ∧ (poison = true → env = mapSet 0 s.env b marked) := by
  unfold writeBlock
  extract_lets whole s1 env s2
  obtain ⟨ts, h⟩ := writeThrough_frame s2 ag b bytes env
  rw [h]
  cases poison with
  | true => exact ⟨_, _, _, rfl, .inr ⟨marked, rfl⟩, fun _ => rfl⟩
  | false =>
    rcases Bool.eq_false_or_eq_true whole with hw | hw
    · have he : env = some 0 := by simp [env, hw]
      refine ⟨mapSet 0 s.env b 0, s1.errs, ts, ?_, .inr ⟨0, rfl⟩, by simp⟩
      simp only [s2, he]
      rfl
    · have he : env = none := by simp [env, hw]
      refine ⟨s.env, s1.errs, ts, ?_, .inl rfl, by simp⟩
      simp only [s2, he]
      rfl

theorem writeBlock_wf (s : State) (ag : Agent) (b : Nat) (bytes : List (Nat × Byte)) (poison : Bool)
    (h : Memory.wf s.mem = true) : Memory.wf (writeBlock s ag b bytes poison).mem = true := by
  obtain ⟨env, errs, ts, he, -⟩ := writeBlock_spec s ag b bytes poison
  rw [he]
  exact memory_wf_foldSet (fun i => b * 512 + i) bytes h

/-! ### Any write of a unit -/

/-- All that a write of a unit can change: memory, mismatches, the errors it overwrites and the caches. -/
theorem writeCells_frame (s : State) (ag : Agent) (ws : List (Nat × Byte × Bool)) :
    ∃ m env errs ts, writeCells s ag ws = { s with mem := m, env := env, errs := errs, tiles := ts } ∧
      (Memory.wf s.mem = true → Memory.wf m = true) ∧
      (mapWf (fun _ => (0 : BitVec 32)) s.env = true → mapWf (fun _ => (0 : BitVec 32)) env = true) := by
  unfold writeCells
  extract_lets ks blocks
  clear_value blocks ks
  induction blocks generalizing s with
  | nil => exact ⟨_, _, _, _, rfl, id, id⟩
  | cons b bs ih =>
    simp only [List.foldl_cons]
    obtain ⟨env, errs, ts, he, hv, -⟩ := writeBlock_spec s ag b
      ((ks.filter fun w => w.1 / 512 == b).map fun w => (w.1 % 512, w.2.1))
      (decide (b < 2 ^ 46) && (ks.filter fun w => w.1 / 512 == b).any fun w => w.2.2)
    obtain ⟨m', env', errs', ts', h', hm, hen⟩ := ih (writeBlock s ag b
      ((ks.filter fun w => w.1 / 512 == b).map fun w => (w.1 % 512, w.2.1))
      (decide (b < 2 ^ 46) && (ks.filter fun w => w.1 / 512 == b).any fun w => w.2.2))
    refine ⟨m', env', errs', ts', ?_, fun hw => hm ?_, fun hw => hen ?_⟩
    · rw [h', he]
    · exact writeBlock_wf _ _ _ _ _ hw
    · rw [he]
      rcases hv with hv | ⟨v, hv⟩
      · rw [hv]; exact hw
      · rw [hv]; exact mapWf_mapSet (fun _ => (0 : BitVec 32)) b v hw

theorem writeCells_wf (s : State) (ag : Agent) (ws : List (Nat × Byte × Bool)) (h : Memory.wf s.mem = true) :
    Memory.wf (writeCells s ag ws).mem = true := by
  obtain ⟨m, env, errs, ts, he, hm, -⟩ := writeCells_frame s ag ws
  rw [he]
  exact hm h

theorem writeBytes_wf (s : State) (ag : Agent) (a : Nat) (bs : List Byte) (poison : Bool) (h : Memory.wf s.mem = true) :
    Memory.wf (writeBytes s ag a bs poison).mem = true := writeCells_wf s ag _ h

@[simp] theorem writeCells_regs (s : State) (ag : Agent) (ws : List (Nat × Byte × Bool)) :
    (writeCells s ag ws).regs = s.regs := by
  obtain ⟨m, env, errs, ts, he, -⟩ := writeCells_frame s ag ws
  rw [he]

@[simp] theorem writeCells_seqs (s : State) (ag : Agent) (ws : List (Nat × Byte × Bool)) :
    (writeCells s ag ws).seqs = s.seqs := by
  obtain ⟨m, env, errs, ts, he, -⟩ := writeCells_frame s ag ws
  rw [he]

/-! ### Loss, clearing and repair -/

theorem loseMemory_wf (s : State) (h : Memory.wf s.mem = true) : Memory.wf (loseMemory s).mem = true :=
  memory_wf_filter _ h

theorem loseSram_wf (s : State) (h : Memory.wf s.mem = true) : Memory.wf (loseSram s).mem = true :=
  memory_wf_filter _ h

theorem zeroKeys_wf (s : State) (lo hi : Nat) (h : Memory.wf s.mem = true) : Memory.wf (zeroKeys s lo hi).mem = true :=
  memory_wf_filter _ h

theorem coldState_wf (s : State) (h : Memory.wf s.mem = true) : Memory.wf (coldState s).mem = true :=
  loseMemory_wf s h

/-- Rows remapped onto spares keep the canonical form. -/
theorem remapRow_wf (s : State) (blocks : List Nat) (h : Memory.wf s.mem = true) :
    Memory.wf (remapRow s blocks).mem = true := by
  refine List.foldlRecOn (motive := fun u : State => Memory.wf u.mem = true) blocks _ h fun u hu b _ => ?_
  refine List.foldlRecOn (motive := fun u : State => Memory.wf u.mem = true) (List.range 64) _ hu fun v hv i _ => ?_
  exact memory_wf_putBytes _ _ hv

end Sys2Proof.Machine
end

