-- ==== Sys2Proof/WellFormed.lean ====
section
/-! DEFINITION. Well-formed commands: the operands that the types of `Instr` leave wider than the manual does. A command that fails
a check names no unit of the module; the machine answers it as one that has no effect. -/

namespace Sys2Proof

/-- A plane of a packet: 0 to 15 Ethernet, 16 to 18 Span, 19 the mesh. -/
def wfPlane (p : Nat) : Bool := decide (p ≤ 19)

/-- A monitoring counter: a tile has 64, the module 128 (R428). -/
def wfCounter (tile : Option TileId) (n : Fin 128) : Bool := tile.isNone || decide (n.val < 64)

/-- A sensor of Table MGT-1. -/
def wfSensor (i : Nat) : Bool := decide (1 ≤ i ∧ i ≤ 1039)

/-- A register offset: 64-bit aligned, in the 48 MiB that BAR0 and the firmware reach (R457, R458). -/
def wfRegister (a : Nat) : Bool := decide (a % 8 = 0 ∧ a < 0x3000000)

/-- Half of a register (R458). -/
def wfHalf (a : Nat) : Bool := decide (a % 4 = 0 ∧ a < 0x3000000)

/-- Byte enables that cover whole 32-bit halves (R458). -/
def wfEnables (b : Byte) : Bool := b == 0xFF || b == 0x0F || b == 0xF0

/-- A packet of Table LNK-7: its plane. -/
def wfPacket (p : Packet) : Bool := wfPlane p.plane

/-- The data of a fill: a header of whole entries and whole format records, or one record (R344). -/
def wfFill : FillItem → Bool
  | .header list formats _ => decide (list.length % 64 = 0 ∧ formats.length % 128 = 0)
  | .record data => data.length == 512

/-- The checks on a command. -/
def Instr.WellFormed : Instr → Bool
  | .dataPacket p | .ackPacket p | .creditPacket p => wfPacket p
  | .retransmitTimeout _ plane _ => wfPlane plane
  | .peerSilent _ plane => wfPlane plane
  | .silentPeerReport _ plane => wfPlane plane
  | .fillData _ item => wfFill item
  | .tileThermalReading diodes => diodes.length == 768
  | .sensorReading sensor _ => wfSensor sensor
  | .mcWrite _ tile n _ _ => wfCounter tile n
  | .halfReadLatch _ reg => wfHalf reg
  | .registerWrite _ reg enables _ => wfRegister reg && wfEnables enables
  | _ => true

end Sys2Proof
end

