-- ==== Sys2Proof/Tests/Slice0.lean ====
section
/-! SUPPORT. Tests: ill-formed commands are refused, the manual's worked values, and for each statement states and operands that
meet its hypotheses (the witnesses, named test_<statement>). Expected results are the manual's. -/

namespace Sys2Proof.Tests

set_option Elab.async false

open Sys2Proof Sys2Proof.Machine

/-! ### Small states -/

/-- Core `i` of tile 0. -/
def core (i : Fin 16) : CoreId := ⟨0, i⟩
def c0 : CoreId := core 0

/-- Fields of registers written one after another. -/
def withFields (s : State) (l : List (Nat × Fld × Nat)) : State := l.foldl (fun s x => fset s x.1 x.2.1 x.2.2) s

/-- `n` bytes with little-endian values at offsets: offset, length and value. -/
def bytesOf (n : Nat) (l : List (Nat × Nat × Nat)) : List Byte :=
  l.foldl (fun bs x => bs.take x.1 ++ leBytes x.2.1 x.2.2 ++ bs.drop (x.1 + x.2.1)) (List.replicate n 0)

/-- Bytes placed in memory. -/
def withBytes (s : State) (a : Nat) (bs : List Byte) : State := { s with mem := putBytes s.mem (keyOf s a) bs }

/-- The state after reset at a beat. -/
def atBeat (n : Nat) : State := { State.reset with beat := BitVec.ofNat 64 n }

/-- Core 0 of tile 0 with a sequencer in place. -/
def coreWith (q : Seq) : State := (atBeat 5000).setSeq c0 q

/-- A sequencer that runs in an image of four HALT words, and one with a descriptor at the head of a queue. -/
def running : Seq := { Seq.empty with status := .running, code := List.replicate 4 0x0F00000000000000 }
def entryFor (d : List Byte) : QEntry := { desc := d, addr := storeBase c0, pc := 0, index := 0, format := [], done := false }
def queued (queue : Nat) (d : List Byte) : Seq := { running with queues := setNth running.queues queue [entryFor d] }

/-- A phase entry of every tile, with an earliest start, an envelope and flags. -/
def phaseOf (earliest : BitVec 32) (flags : BitVec 16) : PhaseEntry :=
  { earliest := earliest, deadline := 100000, tiles := BitVec.allOnes 48, envelope := 150, flags := flags, reserved := 0 }

/-- The carousel runs three phases, the last of them COMMIT, in steps of 100,000 beats; the module is READY. -/
def carState : State :=
  let s := withFields { atBeat 5000 with car := { Carousel.empty with entries := [phaseOf 0 0, phaseOf 10 1, phaseOf 20 2], running := true } }
    [(TBU_STEP_PERIOD, f_TBU_STEP_PERIOD_PERIOD, 100000), (HIF_STATUS, f_HIF_STATUS_READY, 1), (PWR_STATE, f_PWR_STATE_STATE, 3)]
  s

/-- The module is READY, and the host may write every group of registers. -/
def readyState : State :=
  withFields (atBeat 5000) [(HIF_STATUS, f_HIF_STATUS_READY, 1), (MGS_HOST_WR, ⟨0, 10⟩, 0x3FF), (PWR_STATE, f_PWR_STATE_STATE, 2),
    (HIF_STATUS, f_HIF_STATUS_P0_UP, 1), (HIF_STATUS, f_HIF_STATUS_P1_UP, 1)]

/-- A packet of a plane, all its other fields 0 but the version. -/
def packetOn (plane : Nat) : Packet :=
  { version := 1, type := 0, sender := 1, job := 0, collId := 0, step := 0, from_ := 0, to_ := 0, segment := 0, seq := 5
    poison := 0, kind := 0, fmt := 0, count := none, payload := [], crc := 0, plane := plane, tile := 0, ce := false }

/-- The next state that a command answers. -/
def after (o : Host.Outcome State Fault Refusal) : Option State :=
  match o with
  | .next t => some t
  | _ => none

/-! ### Ill-formed commands -/

/-- One ill-formed term for each check of WellFormed. -/
theorem test_wellformed_refuses :
    let p : Packet := packetOn 20
    ∀ i ∈ [(.dataPacket p : Instr), .ackPacket p, .creditPacket p, .retransmitTimeout 0 20 0, .peerSilent 0 20,
        .silentPeerReport 0 20, .fillData 0 (.header [0] [] 0), .fillData 0 (.header [] [0] 0), .fillData 0 (.record []),
        .tileThermalReading [], .sensorReading 0 none, .sensorReading 1040 none, .mcWrite .host (some 0) 64 0 0,
        .halfReadLatch .host 2, .halfReadLatch .host 0x3000000, .registerWrite .host 0 0x01 0, .registerWrite .host 1 0xFF 0],
      i.WellFormed = false := by decide

/-- The boundary values of the checks are well formed. -/
theorem test_wellformed_admits :
    ∀ i ∈ [(.peerSilent 0 19 : Instr), .sensorReading 1 none, .sensorReading 1039 none, .mcWrite .host (some 0) 63 0 0,
        .mcWrite .host none 127 0 0, .halfReadLatch .host 0x2FFFFF8, .halfReadLatch .window 4, .registerWrite .host 8 0xF0 0,
        .tileThermalReading (List.replicate 768 0), .fillData 0 (.record (List.replicate 512 0))],
      i.WellFormed = true := by decide +kernel

/-! ### The sequencer -/

theorem test_SequencerTransfersOfControl :
    Runs (coreWith running) c0 ∧ (3 : BitVec 15).toNat < ((coreWith running).seq c0).code.length ∧
    ((coreWith { running with loops := [(0, 2)] }).seq c0).loops = [(0, 2)] ∧
    ((coreWith { running with loops := [(0, 1)] }).seq c0).loops = [(0, 1)] ∧
    (((coreWith { running with loops := [(1, 2), (2, 2), (3, 2)] }).seq c0).loops.head?.map (·.1) ≠ some 0 ∧
      ((coreWith { running with loops := [(1, 2), (2, 2), (3, 2)] }).seq c0).loops.length < 4) := by
  unfold Runs; decide +kernel

theorem test_IllegalInstructionsAreProgramFaults :
    ((coreWith running).seq c0).status = .running ∧ 4 ≤ (4 : BitVec 4).toNat ∧ 48 ≤ (48 : BitVec 6).toNat ∧
    (0 : BitVec 2).toNat = (coreWith running).pins.boardPos ∧ ((coreWith running).seq c0).code.length ≤ (4 : BitVec 15).toNat ∧
    ((coreWith { running with inPhase := true }).seq c0).inPhase = true ∧ ((coreWith running).seq c0).inPhase = false ∧
    (((coreWith { running with loops := [(1, 2), (2, 2), (3, 2), (5, 2)] }).seq c0).loops.head?.map (·.1) ≠
        some ((coreWith { running with loops := [(1, 2), (2, 2), (3, 2), (5, 2)] }).seq c0).pc ∧
      4 ≤ ((coreWith { running with loops := [(1, 2), (2, 2), (3, 2), (5, 2)] }).seq c0).loops.length) ∧
    ((coreWith { running with pc := 4 }).seq c0).code.length ≤ ((coreWith { running with pc := 4 }).seq c0).pc ∧
    ((coreWith { running with code := [0xFF00000000000000] }).seq c0).code[0]?.any definedOpcode = false := by
  decide +kernel

theorem test_WaitsOfACoreAreReleased :
    (∃ e rest, nthD [] ((coreWith { running with queues := [[{ entryFor [] with done := true }], [], [], []] }).seq c0).queues 0 =
      e :: rest ∧ e.done = true) ∧
    (((coreWith { running with status := .waitDrain 15 }).seq c0).status = .waitDrain 15 ∧
      ((List.range 4).all fun i => !bitAt 15 i ||
        (nthD [] ((coreWith { running with status := .waitDrain 15 }).seq c0).queues i).isEmpty) = true) ∧
    (let s : State := { coreWith { running with status := .waitBeat 5000, granted := some (0, 0) } with car := Carousel.empty }
     (s.seq c0).status = .waitBeat 5000 ∧ beatReached s c0 5000 = true) ∧
    (((coreWith { running with status := .waitQueue 3 (entryFor []) }).seq c0).status = .waitQueue 3 (entryFor []) ∧
      (nthD [] ((coreWith { running with status := .waitQueue 3 (entryFor []) }).seq c0).queues 3).length < 16) :=
  ⟨⟨{ entryFor [] with done := true }, [], by decide +kernel⟩, by decide +kernel⟩

/-- A wait on counter 7 for two pulses, of which one has come: a second grants it. -/
def waiting : State := setEv (coreWith { running with status := .waitEv 7 2 3000 }) 0 7 1

theorem test_GrantsOfACounterConserveItsCount : waiters waiting 0 7 = [(c0, 2)] ∧ evCount waiting 0 7 = 1 := by decide +kernel

theorem test_WaitsAndPulsesMeetAtTheCounter :
    Runs (coreWith running) c0 ∧
    ((withFields waiting [(TL_EV_WDOG 0, f_TL_EV_WDOG_LIMIT, 1)]).seq c0).status = .waitEv 7 2 3000 ∧
    fget (withFields waiting [(TL_EV_WDOG 0, f_TL_EV_WDOG_LIMIT, 1)]) (TL_EV_WDOG 0) f_TL_EV_WDOG_LIMIT = 1 ∧
    3000 + 1 * 1024 < (withFields waiting [(TL_EV_WDOG 0, f_TL_EV_WDOG_LIMIT, 1)]).now ∧ (47 : BitVec 6).toNat < 48 ∧
    (1 : BitVec 2).toNat ≠ (coreWith running).pins.boardPos ∧
    spanOpen (coreWith running) 0 = false ∧
    spanOpen (fset (coreWith running) (LNK_SPAN_STATUS 0) f_LNK_SPAN_STATUS_UP 1) 0 = true ∧
    waiters (setEv (coreWith running) 0 7 0xFFFF) 0 7 = [] ∧ evCount (setEv (coreWith running) 0 7 0xFFFF) 0 7 = 0xFFFF := by
  unfold Runs; decide +kernel

/-- A pulse of tile 1 to counter 7 of tile 0 is under way over the panel mesh. -/
def pulseFlight : Flight := { src := 1, dst := 0, response := false, load := .pulse 7 }
def inMesh : State := { coreWith running with mesh := [pulseFlight] }

/-- Witness of WaitsAndPulsesMeetAtTheCounter: a pulse under way may arrive, one that was not sent may not. -/
theorem test_pulse_flights :
    (inMesh.mesh.find? (sameFlow pulseFlight) = some pulseFlight ∧ meshBlocked inMesh 1 0 = false ∧
      (takeFlight inMesh pulseFlight).isSome = true) ∧
    (coreWith running).mesh.find? (sameFlow pulseFlight) ≠ some pulseFlight := by decide +kernel

/-- The link from tile 0 to tile 1 lies on every way over it, by its number. -/
def eastLink : Nat := (Config.meshDirection.symm 1).val
theorem eastLink_mem (way : List Nat) : eastLink ∈ pathLinks (0 :: 1 :: way) := by
  simp only [pathLinks, List.mem_append, List.mem_map, List.mem_filter]
  exact .inl (.inl ⟨Config.meshDirection.symm 1, ⟨List.mem_finRange _, by rw [Equiv.apply_symm_apply]; decide⟩, by simp [eastLink]⟩)

/-- It retrains. -/
def dieWait : State := { coreWith running with links := { (coreWith running).links with retraining := [eastLink] } }
theorem dieWait_blocks (way : List Nat) : wayBlocked dieWait (0 :: 1 :: way) = true := by
  simpa [wayBlocked, dieWait] using eastLink_mem way

/-- Witness of WaitsAndPulsesMeetAtTheCounter and PulseAddsOneToItsCounter at the port die and on the mesh. -/
theorem test_links_delay :
    dieBlocked dieWait 0 true = true ∧ dieDelays dieWait 0 true = true ∧ Runs dieWait c0 ∧ meshBlocked dieWait 0 1 = true ∧
    dieBlocked (coreWith running) 0 true = false ∧ dieDelays (coreWith running) 0 true = false :=
  have h : dieBlocked dieWait 0 true = true := dieWait_blocks _
  ⟨h, by simp [dieDelays, h], by unfold Runs; decide +kernel, dieWait_blocks [], by decide +kernel, by decide +kernel⟩

theorem test_PulseAddsOneToItsCounter :
    c0.tile = 0 ∧ Runs (setEv (coreWith running) 0 7 0xFFFE) c0 ∧ waiters (setEv (coreWith running) 0 7 0xFFFE) 0 7 = [] ∧
    evCount (setEv (coreWith running) 0 7 0xFFFE) 0 7 < 0xFFFF := by unfold Runs; decide +kernel

/-- An RESUME command of context 7 in core 0's operand store. -/
def resumeDesc : List Byte := bytesOf 64 [(0, 1, 7), (8, 4, 7), (24, 8, 0x10000)]

theorem test_IssuePlacesTheDescriptor :
    let s := withBytes (coreWith running) (storeBase c0 + 64) resumeDesc
    let a := storeBase c0 + 64
    let d := readBytes s (.tile 0 false) a 64
    let v := verifyIssue s c0 3 a d
    Runs s c0 ∧ (3 : BitVec 4).toNat < 4 ∧ (64 : BitVec 32).toNat % 64 = 0 ∧ 64 + 64 ≤ spaceSize s c0 false ∧ d = resumeDesc ∧
    v.1 = [] ∧ descPoisoned s c0 a = none ∧ descOk v.2 c0 3 d = true ∧
    (verifyFormat v.2 (descTensor 3 d)).1 = [] ∧ (nthD [] (s.seq c0).queues 3).length < 16 := by
  unfold Runs; decide +kernel

/-- Every core of tile 0 waits for phase 0. -/
def allWait : State :=
  (List.finRange 16).foldl (fun s i => s.setSeq (core i) { running with status := .waitPhase 0 }) carState

/-- Core 0 of tile 0 runs in phase 0, that was granted. -/
def inPhase0 : State := carState.setSeq c0 { running with inPhase := true, granted := some (0, 0) }

theorem test_PhasesBeginAndEndPerCore :
    (Runs (carState.setSeq c0 running) c0 ∧ ((carState.setSeq c0 running).seq c0).inPhase = false ∧
      (coreNext (carState.setSeq c0 running) c0).2 = 0) ∧
    ((∀ u, (allWait.tile u).stopped = false) ∧ entryAt allWait 0 = some (phaseOf 0 0) ∧ isCommit (phaseOf 0 0) = false ∧
      (allWait.tile 0).nextPhase = 0 ∧ phaseDue allWait 0 = true ∧ tileReady allWait 0 0 = true) ∧
    ((∀ u, (inPhase0.tile u).stopped = false) ∧ Runs inPhase0 c0 ∧ entryAt inPhase0 0 = some (phaseOf 0 0) ∧
      (inPhase0.seq c0).inPhase = true ∧ (inPhase0.seq c0).granted.map (·.2) = some 0 ∧ queuesEmpty (inPhase0.seq c0) 15 = true ∧
      (core 1).tile = c0.tile ∧ core 1 ≠ c0 ∧ (core 1).core.val ∉ (inPhase0.tile 0).reported) := by
  unfold Runs; decide +kernel

/-- Core 0 is the last of tile 0 to end a phase, which every other tile has ended; the phase clock log's ring of 256 records lies in HBM. -/
def lastCore (phase : Nat) : State :=
  let s := withFields carState [(TBU_PLOG_CTL, f_TBU_PLOG_CTL_ENABLE, 1), (TBU_PLOG_CTL, f_TBU_PLOG_CTL_LOG2_ENTRIES, 8),
    (TBU_PLOG_BASE, f_TBU_PLOG_BASE_BASE, 1), (TBU_RESTART, f_TBU_RESTART_HOLD_ON_WITHHELD, 1)]
  let s := s.setTile 0 { Tile.empty with active := true, nextPhase := phase, reported := (List.range 16).drop 1 }
  { s.setSeq c0 { running with inPhase := true, granted := some (0, phase) } with
    car := { carState.car with records := [⟨0, phase, some 4990, BitVec.allOnes 48 - 1, 0, 0, 0⟩] }
    stp := { StepCtl.empty with verdict := some (0, 2, 4000), walkDone := true } }

theorem lastToEnd (phase : Nat) (e : PhaseEntry) (h : (∀ u, ((lastCore phase).tile u).stopped = false) ∧
    Runs (lastCore phase) c0 ∧ entryAt (lastCore phase) phase = some e ∧ ((lastCore phase).seq c0).granted = some (0, phase) ∧
    (∀ k : Fin 16, core k ≠ c0 → (core k).core.val ∈ ((lastCore phase).tile 0).reported) ∧
    ((lastCore phase).seq c0).inPhase = true ∧ queuesEmpty ((lastCore phase).seq c0) 15 = true ∧
    ((lastCore phase).tile 0).active = true ∧ ((lastCore phase).tile 0).nextStep = 0 ∧
    ((lastCore phase).tile 0).nextPhase = phase ∧ ((lastCore phase).tile 0).resume = none ∧
    (lastCore phase).car.stopping = false) : LastToEnd (lastCore phase) c0 0 phase e := by
  obtain ⟨h1, h2, h3, h4, h5, h6, h7, h8, h9, h10, h11, h12⟩ := h
  exact ⟨h1, h2, h3, h6, h4, h7, h8, h9, h10, h11, fun | ⟨_, k⟩, rfl, hd => h5 k hd, h12⟩

/-- Witness of PhasesBeginAndEndPerCore: the last core of a compute phase before COMMIT, and of COMMIT. -/
theorem test_last_cores :
    (LastToEnd (lastCore 1) c0 0 1 (phaseOf 10 1) ∧ EndsOnModule (lastCore 1) 0 0 1 (phaseOf 10 1) ∧
      isCommit (phaseOf 10 1) = false ∧ MakesRecord (lastCore 1) (phaseOf 10 1) ∧
      (entryAt (lastCore 1) 2).any isCommit = true) ∧
    (LastToEnd (lastCore 2) c0 0 2 (phaseOf 20 2) ∧ EndsOnModule (lastCore 2) 0 0 2 (phaseOf 20 2) ∧
      isCommit (phaseOf 20 2) = true ∧ (lastCore 2).stp.walkDone = true ∧ (lastCore 2).stp.verdict = some (0, 2, 4000)) ∧
    ¬ EndsOnModule { lastCore 1 with car := carState.car } 0 0 1 (phaseOf 10 1) := by
  refine ⟨⟨lastToEnd 1 _ (by unfold Runs; decide +kernel), by unfold EndsOnModule; decide +kernel, rfl,
    by unfold MakesRecord; decide +kernel, by decide +kernel⟩, ⟨lastToEnd 2 _ (by unfold Runs; decide +kernel),
    by unfold EndsOnModule; decide +kernel, rfl, rfl, rfl⟩, by unfold EndsOnModule; decide +kernel⟩

/-- Witness of PhasesBeginAndEndPerCore: its record has room at WP and can be written at once; with RP one ahead the ring is full. -/
theorem test_record_places :
    let s := lastCore 1
    let a := faddr s TBU_PLOG_BASE f_TBU_PLOG_BASE_BASE + 32 * fget s TBU_PLOG_WP f_TBU_PLOG_WP_WP
    let full := fset s TBU_PLOG_RP f_TBU_PLOG_RP_RP 1
    (fget s TBU_PLOG_WP f_TBU_PLOG_WP_WP + 1) % 2 ^ 8 ≠ fget s TBU_PLOG_RP f_TBU_PLOG_RP_RP ∧ rangeMapped s .other a 32 = true ∧
    rangeRetired s a 32 = false ∧ recordWaits s = none ∧ hostDown s a = false ∧
    (∀ i < 32, ∀ j < 32, i ≠ j → keyOf s (a + i) ≠ keyOf s (a + j)) ∧
    (fget full TBU_PLOG_WP f_TBU_PLOG_WP_WP + 1) % 2 ^ 8 = fget full TBU_PLOG_RP f_TBU_PLOG_RP_RP := by decide +kernel

/-- Witness of PhasesBeginAndEndPerCore: every core of tile 0 waits for COMMIT, after a verdict of an outcome. -/
def commitWait (outcome : Nat) : State :=
  let s := (List.finRange 16).foldl (fun s i => s.setSeq (core i) { running with status := .waitPhase 2 }) carState
  { s.setTile 0 { Tile.empty with nextPhase := 2 } with stp := { StepCtl.empty with verdict := some (0, outcome, 4000) } }

theorem test_commit_grants :
    ∀ o ∈ [0, 1, 2], let s := commitWait o
      (∀ u, (s.tile u).stopped = false) ∧ entryAt s 2 = some (phaseOf 20 2) ∧ isCommit (phaseOf 20 2) = true ∧
      (s.tile 0).nextPhase = 2 ∧ phaseDue s 0 = true ∧ tileReady s 0 2 = true ∧ s.stp.verdict = some (0, o, 4000) ∧
      (phaseRec s 0 2).start.isSome = false := by decide +kernel

/-! ### The block and its timebase -/

theorem test_AStepRunsTheCommandInFront :
    State.reset.pending = [] ∧ State.reset.pwr.applied = true ∧ slewDue State.reset = false ∧ State.reset.now + 1 < 2 ^ 64 := by
  decide +kernel

theorem test_StepsKeepTheCanonicalForm : State.reset.Canonical ∧ step State.reset = .next (tick State.reset) :=
  ⟨by unfold State.Canonical; decide +kernel, rfl⟩

/-- BEAT is present, the counter is at 5,000, SYNC comes every 1,024 beats and the last one loaded at a beat. -/
def synced (last : Nat) : State :=
  { withFields readyState [(TBU_SYNC_PERIOD, f_TBU_SYNC_PERIOD_PERIOD, 1)] with
    pins := { Pins.reset with beatPresent := true }, syncBase := some last }

theorem test_SyncLoadsTheBeatCounter :
    mayWrite readyState .host (some grpTimebase) = true ∧
    (let s := fset (synced 4000) TBU_CTL f_TBU_CTL_SYNC_ARM 1
     s.pins.beatPresent = true ∧ fbit s TBU_CTL f_TBU_CTL_SYNC_ARM = true ∧ s.car.running = false) ∧
    (∀ b ∈ [4000, 3976], let s := synced b
      s.pins.beatPresent = true ∧ fbit s TBU_CTL f_TBU_CTL_SYNC_ARM = false ∧ fbit s TBU_STATUS f_TBU_STATUS_HOLDOVER = false ∧
      s.syncBase = some b ∧ faddr s TBU_SYNC_PERIOD f_TBU_SYNC_PERIOD_PERIOD = 1024 ∧
      (((s.now : Int) - b) % 1024 = 0 ↔ b = 3976)) ∧
    ({ synced 0 with syncBase := none } : State).syncBase = none := by
  decide +kernel

theorem test_BeatLossHoldsOrRunsOn :
    (synced 0).pins.beatPresent = true ∧ ({ carState with pins := { Pins.reset with beatPresent := true } } : State).car.running = true ∧
    held carState = false ∧ fbit (fset carState TBU_CTL f_TBU_CTL_HOLDOVER_EN 0) TBU_CTL f_TBU_CTL_HOLDOVER_EN = false := by
  decide +kernel

/-- A slew of 3 beats that was sent waits to be applied, one of 2 beats is under way. -/
def slewing : State :=
  { withFields readyState [(TBU_SLEW, f_TBU_SLEW_REMAIN, 2), (TBU_CTL, f_TBU_CTL_SLEW_FROM_SPAN, 1)] with slews := [(3, 4000)] }

theorem test_SlewsMoveTheCounterOneBeatAWindow :
    slewing.pins.boardPos = 0 ∧ (BitVec.ofNat 64 4000).toNat ≤ slewing.now ∧
    slewing.slews.contains (signed 16 3, 4000) = true ∧
    (let s : State := { slewing with pins := { Pins.reset with boardPos := 1 } }
     s.pins.boardPos ≠ 0 ∧ fbit s TBU_CTL f_TBU_CTL_SLEW_FROM_SPAN = true) ∧
    -2 ^ 31 ≤ slewRemain slewing + signed 16 3 ∧ slewRemain slewing + signed 16 3 < 2 ^ 31 ∧
    slewing.windowStart = true ∧ slewRemain slewing = 2 ∧ slewing.now + 2 < 2 ^ 64 ∧
    slewRemain (fset slewing TBU_SLEW f_TBU_SLEW_REMAIN (2 ^ 32 - 2)) = -2 ∧
    (0 : Fin 16).val = fget slewing TBU_CTL f_TBU_CTL_PTP_PORT := by
  decide +kernel

/-- The carousel has stopped or not started, its period set. -/
def stoppedCar : State := withFields { carState with car := { carState.car with running := false } } [(PWR_STATE, f_PWR_STATE_STATE, 2)]

theorem test_TheCarouselStartsAndStops :
    mayWrite readyState .host (some grpTimebase) = true ∧
    (readyState.car.running = false ∧ stepPeriod readyState = 0) ∧
    (stoppedCar.car.running = false ∧ stepPeriod stoppedCar ≠ 0 ∧ fget stoppedCar PWR_STATE f_PWR_STATE_STATE = 2 ∧
      ∀ u, (stoppedCar.tile u).stopped = false) ∧
    (carState.car.running = true ∧ stepPeriod carState ≠ 0 ∧ ∀ u, (carState.tile u).active = false) ∧
    (carState.setTile 5 { Tile.empty with active := true }).car.running = true ∧
    ((carState.setTile 5 { Tile.empty with active := true }).tile 5).active = true ∧
    (entryAt carState 0 = some (phaseOf 0 0) ∧ held carState = false ∧
      epochOf carState (declareStep carState 0) + 0 ≤ carState.now + fget carState TBU_ENV_LEAD f_TBU_ENV_LEAD_LEAD) := by
  decide +kernel

/-! ### Arithmetic and operations -/

theorem test_FloatCodesConvertToThemselves :
    fmtFP16 ∈ [fmtBF16, fmtFP16, fmtFP32] ∧ 0x3C00 < 2 ^ fmtBits fmtFP16.code ∧ (decodeVal fmtFP16 0x3C00).isNan = false := by
  decide +kernel

/-- 2^128 is out of range of FP32 and BF16, 65,520 of FP16 (Table NUM-2). -/
theorem test_OutOfRangeValuesSaturateOrOverflow :
    outOfRange fmtFP32 1 128 = true ∧ outOfRange fmtBF16 1 128 = true ∧ outOfRange fmtFP16 65520 0 = true ∧
    outOfRange fmtFP16 65519 0 = false := by decide +kernel

/-- Witness of OutOfRangeValuesSaturateOrOverflow: an element of the tensor that read as a NaN. -/
theorem test_OutOfRangeValuesSaturateOrOverflow_nan :
    ∃ (e : Elem) (g : Got), e.real = true ∧ g.v = .nan := by
  exact ⟨⟨.zero, [], true, false, []⟩, ⟨0x7FC0, 0, .nan, false⟩, rfl, rfl⟩

theorem test_TheWindowSumDoesNotDependOnTheOrder :
    [Val.fin false 3 0, Val.fin true 1 (-40)].Perm [Val.fin true 1 (-40), Val.fin false 3 0] := by decide +kernel

/-- Witness of TheWindowSumDoesNotDependOnTheOrder: 32 finite pairs whose products cancel, and 32 zero products. -/
theorem test_TheWindowSumDoesNotDependOnTheOrder_products :
    let ab := (List.range 32).map fun i => (Val.fin (i % 2 == 1) 3 0, Val.fin false 5 (-2))
    let ps := ab.map fun p => Val.mul p.1 p.2
    ab.length = 32 ∧ ps.length = 32 ∧ (windowSum ps).1 = 0 ∧ (∀ p ∈ ps, p ≠ .nan) ∧
    (List.replicate 32 (Val.fin true 0 0)).length = 32 ∧ (∀ p ∈ List.replicate 32 (Val.fin true 0 0), p.isZero = true) := by
  decide +kernel

theorem test_WritesReachTheirAddressesAlone :
    let s := atBeat 5000
    (∀ w ∈ [(0x400, (7 : Byte), false)], keyOf s w.1 ≠ 0x401) ∧
    (∀ j < 2, j ≠ 1 → keyOf s (0x400 + j) ≠ keyOf s (0x400 + 1)) ∧ 2 < 2 ^ 46 ∧
    (∃ w ∈ [(0x400, (7 : Byte), true)], keyOf s w.1 / 512 = 2 ∧ w.2.2 = true) ∧
    (∀ w ∈ [(0x400, (7 : Byte), true)], keyOf s w.1 / 512 ≠ 3) := by decide +kernel

/-- Core 0 with a descriptor at the head of queue 0 or 1 whose first four bytes are given. -/
def opHead (queue ctrl : Nat) : State := coreWith (queued queue (bytesOf 64 [(0, 4, ctrl), (8, 3, 1), (12, 3, 256), (16, 3, 1), (20, 1, 1)]))

theorem test_OperationsWriteTheirResultsAlone :
    fget (opHead 0 1) (CR_NAN_CTL 0 0) f_CR_NAN_CTL_MODE ≠ 2 ∧
    (headOf (coreWith (queued 0 (bytesOf 64 [(0, 4, 1)]))) c0 0 4 1 = some (entryFor (bytesOf 64 [(0, 4, 1)])) ∧
      (parseMatrix (bytesOf 64 [(0, 4, 1)])).empty = true) ∧
    (∃ e, headOf (opHead 0 1) c0 0 4 1 = some e ∧ (parseMatrix e.desc).empty = false ∧ (parseMatrix e.desc).mode = 0 ∧
      ((opHead 0 1).seq c0).weights.tile + 1 < weightTiles (parseMatrix e.desc) ∧ ((opHead 0 1).seq c0).weights.next = none) ∧
    (headOf (opHead 0 2) c0 0 4 2).isSome = true ∧ (headOf (opHead 1 0x40) c0 1 8 0x40).isSome = true ∧
    (∃ e, headOf (opHead 1 0x41) c0 1 8 0x41 = some e ∧ bitAt (field e.desc 0 4) 9 = false) ∧
    (∃ e, headOf (opHead 1 0x241) c0 1 8 0x41 = some e ∧ bitAt (field e.desc 0 4) 9 = true) ∧
    (headOf (opHead 1 0x42) c0 1 8 0x42).isSome = true ∧ (headOf (opHead 1 0x44) c0 1 8 0x44).isSome = true :=
  ⟨by decide +kernel, by decide +kernel, ⟨_, rfl, by decide +kernel⟩, by decide +kernel, by decide +kernel,
    ⟨_, rfl, by decide +kernel⟩, ⟨_, rfl, by decide +kernel⟩, by decide +kernel, by decide +kernel⟩

theorem test_NanTrapRecordsTheFirstNan :
    [({ origin := 0, unit := 0, row := 0, col := 0 } : NanWrite)] ≠ [] ∧
    (∀ m ∈ [0, 1, 2, 3], let s := withFields readyState [(CR_NAN_CTL 0 0, f_CR_NAN_CTL_MODE, m)]
      fget s (CR_NAN_CTL 0 0) f_CR_NAN_CTL_MODE = m ∧ fbit s (CR_NAN_INFO 0 0) f_CR_NAN_INFO_VALID = false) ∧
    fbit (withFields readyState [(CR_NAN_INFO 0 0, f_CR_NAN_INFO_VALID, 1)]) (CR_NAN_INFO 0 0) f_CR_NAN_INFO_VALID = true ∧
    mayWrite readyState .host (some grpTile) = true := by decide +kernel

/-! ### Contexts, walkers and attention -/

/-- A command of context 7 with an opcode, flags, pool 0, MODE, ARG0 and MASK_PARAM; its result word lies at 0x10000. -/
def scuDesc (op flags mode arg0 param expect : Nat) : List Byte :=
  bytesOf 64 [(0, 1, op), (1, 1, flags), (8, 4, 7), (12, 4, expect), (16, 4, arg0), (24, 8, 0x10000), (32, 1, mode), (36, 4, param)]

/-- Context 7: state, length, groups and generation, its root page at 0x8000, whose first leaf page at 0x9000 maps group 0. Pool 0
is the table pool and has nine groups. The owning tile has no cache. -/
def ctxState (state length groups gen : Nat) (s : State) : State :=
  let s := withFields s [(SCU_CTL, f_SCU_CTL_TABLE_POOL, 0), (SCU_POOL_CTL 0, f_SCU_POOL_CTL_ENABLE, 1), (SCU_POOL_CTL 0, f_SCU_POOL_CTL_LOG2_ENTRIES, 4),
    (SCU_POOL_FREE 0, f_SCU_POOL_FREE_FREE, 9), (CAD_PART 7, f_CAD_PART_SCRATCH_STEPS, 16)]
  let s := withBytes s (ctxAddr s 7) (bytesOf 64 [(0, 1, state), (4, 4, gen), (8, 4, length), (12, 4, groups), (16, 8, 0x8000)])
  withBytes (withBytes s 0x8000 (leBytes 8 0x9001)) 0x9000 (leBytes 8 0x100001)

/-- Core 0 has a command of context 7 at the head of queue 3. -/
def scuState (d : List Byte) (state length groups : Nat) : State := ctxState state length groups 3 (coreWith (queued 3 d))

/-- What ScuTakes says of a command of context 7 of core 0, and the state in which its slice has read its tables. -/
def Taken (s : State) (op : Nat) (d : List Byte) : Prop :=
  let k := parseScu d
  let v := ctxVerified s c0 k.ctx
  ScuHeard s c0 op (entryFor d) ∧ (k.checkGen = true → k.expect = (ctxOf v k.ctx).gen) ∧
    (readTables v 0 0 k.ctx (ctxOf v k.ctx) (scuReads v op k (ctxOf v k.ctx))).1 = true ∧
    sliceReaches (readTables v 0 0 k.ctx (ctxOf v k.ctx) (scuReads v op k (ctxOf v k.ctx))).2 k.ctx
      (scuWrites (readTables v 0 0 k.ctx (ctxOf v k.ctx) (scuReads v op k (ctxOf v k.ctx))).2 op k (ctxOf v k.ctx)) = true
def takenState (s : State) (op : Nat) (d : List Byte) : State :=
  let k := parseScu d
  let v := ctxVerified s c0 k.ctx
  (readTables v 0 0 k.ctx (ctxOf v k.ctx) (scuReads v op k (ctxOf v k.ctx))).2

theorem taken_takes (s : State) (op : Nat) (d : List Byte) (h : Taken s op d) :
    ScuTakes s c0 op (entryFor d) (takenState s op d) := ⟨h.1, h.2.1, Prod.ext h.2.2.1 rfl, h.2.2.2⟩

/-- The context record that the unit has verified. -/
def heardCtx (s : State) : Ctx := ctxOf (ctxVerified s c0 7) 7

theorem test_ContextsParkResumeSetAndAdvance :
    (∀ d ∈ [scuDesc 6 0 0 0 0 0], ResultApart (scuState d 1 0 1) (parseScu d) ∧ Taken (scuState d 1 0 1) 6 d ∧
      (parseScu d).move = false ∧ (heardCtx (scuState d 1 0 1)).state = 1) ∧
    (∀ d ∈ [scuDesc 7 0 0 0 0 0], ResultApart (scuState d 2 0 1) (parseScu d) ∧ Taken (scuState d 2 0 1) 7 d ∧
      (parseScu d).move = false ∧ (heardCtx (scuState d 2 0 1)).state = 2) ∧
    (∀ d ∈ [scuDesc 8 0 1 0 64 0], ResultApart (scuState d 2 0 1) (parseScu d) ∧ Taken (scuState d 2 0 1) 8 d ∧
      (heardCtx (scuState d 2 0 1)).state = 2 ∧ (parseScu d).maskParam ≠ 0) ∧
    (∀ d ∈ [scuDesc 5 1 0 4 0 3], ResultApart (scuState d 1 60 1) (parseScu d) ∧ Taken (scuState d 1 60 1) 5 d ∧
      (parseScu d).release = false ∧ (heardCtx (scuState d 1 60 1)).state = 1 ∧
      (heardCtx (scuState d 1 60 1)).length + (parseScu d).arg0 = (heardCtx (scuState d 1 60 1)).groups * 64) := by
  refine ⟨?_, ?_, ?_, ?_⟩ <;> dsimp only [Taken, ScuHeard, ResultApart] <;> decide +kernel

theorem test_EditsReplaceTheMappingOfAContext :
    (∀ d ∈ [scuDesc 1 0 3 0 1 0], let s := scuState d 0 0 0
      Taken s 1 d ∧ (parseScu d).maskParam ≠ 0 ∧ (heardCtx s).state = 0 ∧ ResultApart s (parseScu d) ∧
      (poolTake (takenState s 1 d) (sliceReader 7) (tablePool (takenState s 1 d)) 1).isSome = true) ∧
    (∀ d ∈ [scuDesc 2 0 0 0 0 0], let s := scuState d 1 0 1
      Taken s 2 d ∧ (heardCtx s).state = 1 ∧
      editFits (takenState s 2 d) (ownerOf 7) (allItems (takenState s 2 d) 7 (heardCtx s)).length = true) ∧
    (∀ d ∈ [scuDesc 3 0 0 2 0 0], let s := scuState d 1 0 1
      let u := takenState s 3 d
      Taken s 3 d ∧ (heardCtx s).state = 1 ∧ (heardCtx s).groups + 2 ≤ 65536 ∧
      (poolTake u (sliceReader 7) 0 2).any (fun r =>
        (poolTake r.2 (sliceReader 7) (tablePool r.2) (leavesNeeded u 7 (heardCtx s) 2)).isSome) = true ∧
      editFits u (ownerOf 7) 0 = true) ∧
    (∀ d ∈ [scuDesc 4 0 0 0 0 0], let s := scuState d 1 10 1
      let u := takenState s 4 d
      Taken s 4 d ∧ (heardCtx s).state = 1 ∧ 0 ≤ (heardCtx s).length ∧
      (unmapFrom u 7 (heardCtx s) 0).any (fun r => editFits u (ownerOf 7) r.1.length) = true) ∧
    (∀ d ∈ [scuDesc 5 2 0 0 0 0], let s := scuState d 1 0 1
      let u := takenState s 5 d
      Taken s 5 d ∧ (parseScu d).release = true ∧ (heardCtx s).state = 1 ∧
      (heardCtx s).length + (parseScu d).arg0 ≤ (heardCtx s).groups * 64 ∧
      (unmapFrom u 7 (heardCtx s) 0).any (fun r => !r.1.isEmpty && editFits u (ownerOf 7) r.1.length) = true) := by
  refine ⟨?_, ?_, ?_, ?_, ?_⟩ <;> dsimp only [Taken, ScuHeard, ResultApart] <;> decide +kernel

theorem test_CommandsOutOfStateChangeNothing :
    (∀ p ∈ ([(1, 1), (2, 0), (3, 2), (4, 2), (5, 2), (6, 2), (7, 1), (8, 0)] : List (Nat × Nat)), let s := scuState (scuDesc p.1 0 0 0 0 0) p.2 0 1
      Taken s p.1 (scuDesc p.1 0 0 0 0 0) ∧ (heardCtx s).state = p.2) ∧
    (∀ p ∈ [1, 2, 3, 4, 5, 6, 7, 8], let d := scuDesc p 1 0 0 0 4
      let s := scuState d 1 0 1
      ScuHeard s c0 p (entryFor d) ∧ (parseScu d).checkGen = true ∧ (parseScu d).expect ≠ (heardCtx s).gen) := by
  refine ⟨?_, ?_⟩ <;> dsimp only [Taken, ScuHeard] <;> decide +kernel

/-- An attention descriptor of one entry, one position, keys 0 to 1, head dimension 64; its length table at 0x1000. -/
def attDesc : List Byte :=
  bytesOf 64 [(0, 1, 0x10), (3, 1, 1), (6, 1, 1), (7, 1, 6), (10, 2, 0xFFFF), (12, 4, 1), (16, 4, 0x1000), (20, 4, 0x2000),
    (28, 4, 0x4000), (32, 4, 64), (40, 4, 1), (52, 4, 1)]

/-- Context 7 is ACTIVE with one position in one group, its model of one slice with head dimension 64. -/
def attState : State :=
  let s := ctxState 1 1 1 3 (coreWith (queued 3 attDesc))
  let s := withFields s [(SCU_LAYOUT_BASE, f_SCU_LAYOUT_BASE_BASE, 2 ^ 8)]
  let s := withBytes s (faddr s SCU_LAYOUT_BASE f_SCU_LAYOUT_BASE_BASE) (bytesOf 64 [(0, 2, 1), (3, 1, 6)])
  withBytes s (storeBase c0 + 0x1000) (bytesOf 16 [(0, 4, 7), (8, 4, 1)])

/-- Its walker has started. -/
def walking : State :=
  attState.setSlice 7 { Slice.empty with walkers := [⟨0, 0, 7, ctxRecord attState 7, 0⟩] }

/-- Window 3 of slice 7 has closed with an item of pool 2; the current window is 5. -/
def closedState : State :=
  readyState.setSlice 7 { Slice.empty with current := 5, windows := [[], [], [], [(2, 0x100000)], [], [], [], []] }

theorem test_WalkersRegisterAndWindowsAreReleased :
    (let x := parseAtt attDesc
     let l := ltEntry attState c0 x 0
     let r := readTables (ctxVerified attState c0 l.ctx) 0 0 l.ctx (heardCtx attState) (walkReads x l (heardCtx attState))
     attHead attState c0 = some (entryFor attDesc) ∧ 0 < x.entries ∧ l.ctx = 7 ∧ walkerOf attState c0 0 l.ctx = none ∧
     tablesHeld attState l.ctx (ctxOf attState l.ctx) (walkReads x l (ctxOf attState l.ctx)) = false ∧
     (sliceVerify attState 0 0 l.ctx [(ctxAddr attState l.ctx, 64)]).1 = true ∧ (heardCtx attState).state ≠ 3 ∧ r.1 = true ∧
     walkerCause r.2 c0 x l (heardCtx attState) = 0) ∧
    ((closedWindows (closedState.slice 7)).find? (fun w => !(nthD [] (closedState.slice 7).windows w).isEmpty) = some 3 ∧
      (closedState.slice 7).walkers = [] ∧ anyHeld closedState = false ∧ ∀ i ∈ nthD [] (closedState.slice 7).windows 3, i.1 < 16 ∧
        ∀ n < 2 ^ fget closedState (SCU_POOL_CTL i.1) f_SCU_POOL_CTL_LOG2_ENTRIES, slotReachable closedState 7 i.1 n = true) ∧
    (∀ p ∈ [2, 3, 4, 5], let s := (coreWith (queued 3 (scuDesc p 0 0 0 0 0))).setSlice 7 { Slice.empty with stalled := some 0 }
      (s.slice 7).stalled = some 0 ∧ (nthD [] (s.seq (coreOf 0)).queues 3).head? = some (entryFor (scuDesc p 0 0 0 0 0)) ∧
      field (scuDesc p 0 0 0 0 0) 0 1 = p) := by decide +kernel

/-- A PARK with MOVE of context 7 into pool 1, whose pages are copied. -/
def moveState : State :=
  withFields { scuState (scuDesc 6 8 0 0 0 0) 3 64 1 with moves := [⟨7, 0, true, 1, [0x200000]⟩] }
    [(SCU_LAYOUT_BASE, f_SCU_LAYOUT_BASE_BASE, 2 ^ 8)]

/-- Witness of WalkersRegisterAndWindowsAreReleased: the move waits in its slice. -/
theorem test_move_waits :
    let s := moveState.setSlice 7 { Slice.empty with stalled := some 775 }
    (s.slice 7).stalled = some (768 + 7) ∧
    s.moves.find? (fun n => 768 + n.ctx == 768 + 7) = some ⟨7, 0, true, 1, [0x200000]⟩ ∧
    (readMove s ⟨7, 0, true, 1, [0x200000]⟩).1 = true ∧ moveWaits s ⟨7, 0, true, 1, [0x200000]⟩ = false := by decide +kernel

theorem test_MovedPagesAreMappedInOneEdit :
    let m : Move := ⟨7, 0, true, 1, [0x200000]⟩
    let v := (readMove moveState m).2
    let x := ctxOf v 7
    moveState.moves.find? (fun m => m.ctx == 7) = some m ∧ (moveState.slice (ownerOf 7)).stalled = none ∧
    (readMove moveState m).1 = true ∧ moveWaits moveState m = false ∧
    groupsReachable v m x ((layoutOf v (sliceReader 7) x.layout).slices * 2 ^ 15) = true ∧
    (poolTake v (sliceReader 7) (tablePool v) (ceilDiv x.groups 512 + 1)).any
      (fun r => sliceReaches v 7 (r.1.map fun a => (a, 4096))) = true ∧
    editFits v (ownerOf 7) (allItems v 7 x).length = true ∧
    headOf moveState (coreOf 0) 3 8 6 = some (entryFor (scuDesc 6 8 0 0 0 0)) ∧ (parseScu (scuDesc 6 8 0 0 0 0)).ctx = 7 ∧
    ResultApart moveState (parseScu (scuDesc 6 8 0 0 0 0)) := by
  refine ⟨?_, ?_, ?_, ?_, ?_, ?_, ?_, ?_, ?_, ?_⟩
  rotate_right; · unfold ResultApart; decide +kernel
  all_goals decide +kernel

theorem test_AttentionWritesItsOutputsAlone :
    fget walking (CR_NAN_CTL 0 0) f_CR_NAN_CTL_MODE ≠ 2 ∧ attHead walking c0 = some (entryFor attDesc) ∧
    (feedsOf walking c0 (parseAtt attDesc)).any (fun fs => !fs.isEmpty && (attFaultsAt walking c0 (parseAtt attDesc) fs).isNone &&
      !attHeld walking c0 (parseAtt attDesc) fs) = true ∧
    (parseAtt attDesc).writeKv = false := by decide +kernel

/-! ### DMA -/

/-- A transfer descriptor: kind and chain byte, format byte, options, byte 5, SRC, DST, AUX and LENGTH; no tensor. -/
def xferDesc (kind fmts opts more src dst aux length : Nat) : List Byte :=
  bytesOf 64 [(0, 1, 0x20), (1, 1, kind), (2, 1, fmts), (3, 1, opts), (5, 1, more), (6, 2, 0xFFFF), (8, 8, src), (16, 8, dst),
    (24, 8, aux), (48, 8, 0x4000), (56, 4, length)]

/-- A channel that executes a descriptor fetched from 0x4000. -/
def chanState (e : Engine) (d : List Byte) : State := readyState.setChan e { Chan.empty with cur := some (0x4000, d) }

/-- A BF16 tensor of four elements in HBM at 0x600, and its job. -/
def tensor1 : Tensor :=
  { id := 1, rank := 1, fmt := 8, layout := 0, blockAxis := 0, planeDim := 0, space := 3, mesh := 0xFF, elem := 0x600, scale := 0
    extent := [4], stride := [0], shard := [⟨7, 1, 0⟩] }

def jobState (s : State) : State := { s with job := { Job.none with loaded := true, tensors := [tensor1] } }

/-- A block-list record at 0x800 that names block 0 of the tensor, in slots of two elements at 0xA00. -/
def listState (op : Nat) (e : Engine) (d : List Byte) : State :=
  withBytes (jobState (chanState e d)) 0x800 (bytesOf 64 [(0, 8, 0xC00), (8, 4, 1), (12, 1, op), (14, 2, 1), (16, 4, 2), (40, 8, 0xA00)])

/-- A window record at 0x800 of two elements from the tensor's first. -/
def windowState (e : Engine) (d : List Byte) : State :=
  withBytes (jobState (chanState e d)) 0x800 (bytesOf 128 [(0, 2, 1), (32, 4, 2)])

def dieChan : Engine := .die 0 0
def tileChan : Engine := .tile 0 16

/-- Four BF16 elements from 0x100 to 0x300. -/
def copyDesc : List Byte := xferDesc 0 0x88 0 0 0x100 0x300 0 4

/-- What TransferStarts asks, for a channel whose current descriptor lies at 0x4000. -/
def starts (s : State) (e : Engine) (d : List Byte) : Bool :=
  decide (currentOf s e 0x20 = some (0x4000, d, [])) && (hostNeeds (parseXfer d)).all (portUp s) && !descHeld s e 0x4000 d &&
    !faulty s (.channel (chanKey e)) && !recordsRetired s d && decide ((startDesc s e 0x4000 d).1 = [])

theorem test_starts (s : State) (e : Engine) (d : List Byte) (h : starts s e d = true) :
    TransferStarts s e 0x4000 d [] (startDesc s e 0x4000 d).2 := by
  simpa [starts, TransferStarts, Prod.ext_iff, and_assoc] using h

/-- The units that meet no retired range and nothing that holds requests. -/
def runsFree (u : State) (e : Engine) (x : Xfer) (us : List Unit_) : Bool := !(takeUnits u x none 0 us).2 && !unitsHeld u e x us

/-- The same of the containers of a straining of rate 0. -/
def boxesFree (u : State) (e : Engine) (x : Xfer) (r : StrideRec) : Bool :=
  let bs := strainBoxes x r 0
  let touched := boxTouches x r (if x.strain = 1 then x.srcFmt else x.dstFmt) (strainWidth x.srcFmt 0)
  !(takeBoxes u touched none 0 bs).2 && !requestsWait u e (bs.mapIdx fun i b => touched i b).flatten

theorem test_TransfersWriteTheirDestinationsAlone_plain :
    let s := chanState dieChan copyDesc
    let u := (startDesc s dieChan 0x4000 copyDesc).2
    let x := parseXfer copyDesc
    let r := stridesOf u .other x
    starts s dieChan copyDesc ∧ isPlain x = true ∧
    runsFree u dieChan x (plainUnits x r (srcSide x r) (dstSide x r)) = true := by
  decide +kernel

theorem test_TransfersWriteTheirDestinationsAlone_lists :
    let d := xferDesc 2 0x88 0 0 0 0 0x800 0
    let x := parseXfer d
    ∀ op ∈ [0, 1, 2], let s := listState op tileChan d
      let u := (startDesc s tileChan 0x4000 d).2
      starts s tileChan d ∧ x.kind = 2 ∧ x.scrub = false ∧ listOp s tileChan x = op ∧
      (listedOf u 0 16 x).any (fun l =>
        let v := listEntries u (chAgent tileChan) l
        v.1.stop.isNone && v.1.poisoned.isEmpty && !v.1.run.isEmpty && !v.1.lost && !listHeld u tileChan l && (listPorts l).all (portUp u) &&
        runsFree v.2 tileChan x (v.1.run.mapIdx fun p w => if op = 0 then gatherUnit v.2 l x (combinedWith v.1.run p) p w
          else scatterUnit v.2 l x (if op = 1 then combinedWith v.1.run p else none) p w)) = true := by
  decide +kernel

theorem test_TransfersWriteTheirDestinationsAlone_window :
    let d := xferDesc 3 0x88 0 0 0 0xA00 0x800 0
    let s := windowState tileChan d
    let u := (startDesc s tileChan 0x4000 d).2
    let x := parseXfer d
    let w := parseWinRec (readBytes u (chAgent tileChan) x.aux 128)
    starts s tileChan d ∧ x.kind = 3 ∧ tensorOf u w.tensor = some tensor1 ∧
    runsFree u tileChan x (windowUnits u w ⟨parseBlockRec [], tensor1, holders u tensor1 0, 0, chHome 16⟩ x) = true := by
  decide +kernel

theorem test_TransfersWriteTheirDestinationsAlone_strain :
    (∀ o ∈ [2, 4], let d := xferDesc 0 0x88 o 0 0x100 0x600 0 128
      let s := chanState tileChan d
      let u := (startDesc s tileChan 0x4000 d).2
      let x := parseXfer d
      let r := stridesOf u (chAgent tileChan) x
      starts s tileChan d ∧ x.kind < 2 ∧ x.scrub = false ∧ x.strain = o / 2 ∧ strainRate x [] = some 0 ∧
      boxesFree u tileChan x r = true) ∧
    (∀ o ∈ [0x1A, 0x1C], let d := xferDesc 0 0x88 o 0 0x100 0x600 0 128
      let x := parseXfer d
      let s := chanState tileChan d
      let u := (startDesc s tileChan 0x4000 d).2
      starts s tileChan d ∧ x.strain = o / 2 % 4 ∧ strainRate x [] = none ∧
      runsFree u tileChan x (strainUnits x (stridesOf u (chAgent tileChan) x)) = true) := by
  decide +kernel

theorem test_TransfersWriteTheirDestinationsAlone_scrub :
    let d := xferDesc 0 0x88 0 2 0x100 0 0 4
    let s := chanState dieChan d
    let u := (startDesc s dieChan 0x4000 d).2
    let x := parseXfer d
    let r := stridesOf u .other x
    starts s dieChan d ∧ x.scrub = true ∧ x.kind ≠ 2 ∧
    runsFree u dieChan x (readOnly (plainUnits x r (srcSide x r) (srcSide x r))) = true := by
  decide +kernel

theorem test_TransfersWriteTheirDestinationsAlone_list_scrub :
    let d := xferDesc 2 0x88 0 2 0 0 0x800 0
    let x := parseXfer d
    ∀ op ∈ [0, 1], let s := listState op tileChan d
      let u := (startDesc s tileChan 0x4000 d).2
      starts s tileChan d ∧ x.kind = 2 ∧ x.scrub = true ∧
      (listedOf u 0 16 x).any (fun l =>
        let v := listEntries u (chAgent tileChan) l
        v.1.stop.isNone && v.1.poisoned.isEmpty && !v.1.run.isEmpty && !v.1.lost && !listHeld u tileChan l &&
        (listPorts l).all (portUp u) &&
        runsFree v.2 tileChan x (readOnly (v.1.run.mapIdx fun p w =>
          if l.b.op = 0 then gatherUnit v.2 l x none p w else scatterUnit v.2 l x none p w))) = true := by
  decide +kernel

theorem test_LinearCopiesMoveTheirBytesUnchanged :
    let s := chanState dieChan copyDesc
    let u := (startDesc s dieChan 0x4000 copyDesc).2
    let x := parseXfer copyDesc
    let r := stridesOf u .other x
    let n := x.length * (fmtBits x.srcFmt / 8)
    starts s dieChan copyDesc ∧ n = 8 ∧ x.kind = 0 ∧ isPlain x = true ∧ x.skew = 0 ∧ x.hostEnv = false ∧ x.srcFmt = x.dstFmt ∧
    x.srcFmt = 8 ∧ (∀ i < n, ∀ j < n, keyOf s (x.dst + i) = keyOf s (x.dst + j) → i = j) ∧
    (∀ i < n, ∀ j < n, keyOf s (x.src + i) ≠ keyOf s (x.dst + j)) ∧
    (∀ i < n, retired s (keyOf s (x.dst + i)) = false ∧ retired s (keyOf s ((x.src + i) / 512 * 512)) = false) ∧
    unitsHeld u dieChan x (plainUnits x r (srcSide x r) (dstSide x r)) = false := by
  decide +kernel

theorem test_AbortsRecordAndHaltTheChannel :
    (∀ r ∈ [Requester.firmware, .host], mayWrite readyState r (chGroup tileChan) = true) ∧
    (readyState.chan tileChan).intake = false ∧ (readyState.chan tileChan).next = none ∧ current readyState tileChan = none ∧
    chHalted (withFields readyState [(chState tileChan, f_DMA_CH_STATE_HALTED, 1)]) tileChan = true ∧
    (let s := chanState tileChan copyDesc
     currentOf s tileChan 0x20 = some (0x4000, copyDesc, []) ∧ (parseXfer copyDesc).kind = 0 ∧ isPlain (parseXfer copyDesc) = true ∧
     2 < wholeCount s tileChan copyDesc ∧ (startDesc s tileChan 0x4000 copyDesc).1 = []) ∧
    streamOn readyState tileChan = none := by decide +kernel

/-- The walker of `walking`. -/
def walker7 : Walker := ⟨0, 0, 7, ctxRecord attState 7, 0⟩

theorem test_AbortsRecordAndHaltTheChannel_stream :
    streamOn walking (streamEngine walker7) = some walker7 ∧
    (walking.chan (streamEngine walker7)).intake = false ∧ chHalted walking (streamEngine walker7) = false ∧
    mayWrite walking .firmware (chGroup (streamEngine walker7)) = true := by
  have h : ((List.finRange 48).flatMap fun u => (walking.slice u).walkers) = [walker7] := by decide +kernel
  refine ⟨?_, ?_, ?_, ?_⟩
  · have k : walker7.core / 16 = (coreOf walker7.core).tile.val := by decide +kernel
    simp only [streamOn, streamEngine, sliceChannel, h, List.find?_cons, k]
    simp
  · have k : ∀ n : Fin 8, (walking.chan (.tile (coreOf walker7.core).tile ⟨16 + n.val, by omega⟩)).intake = false := by decide +kernel
    exact k _
  · have k : ∀ n : Fin 8, chHalted walking (.tile (coreOf walker7.core).tile ⟨16 + n.val, by omega⟩) = false := by decide +kernel
    exact k _
  · have k : ∀ n : Fin 8, mayWrite walking .firmware
        (chGroup (.tile (coreOf walker7.core).tile ⟨16 + n.val, by omega⟩)) = true := by decide +kernel
    exact k _

/-- What FetchesSound asks of a fetch at an address. -/
def fetches (s : State) (e : Engine) (a : Nat) (d : List Byte) : Prop :=
  let s1 := chRead (chBusy s e true a) e 0
  let v := verifyRange s1 (chAgent e) a 64
  let w := (recordsBad v.2 e (parseXfer d)).2
  rangeOk s1 (chAgent e) a 64 = true ∧ rangeRetired s1 a 64 = false ∧ faulty s1 (.channel (chanKey e)) = false ∧
  requestsWait s e [a] = false ∧ hostDown s1 a = false ∧ v.1 = [] ∧
  d = readBytes v.2 (chAgent e) a 64 ∧ field d 0 1 = 0x20 ∧ recordsOk v.2 e (parseXfer d) = true ∧
  (recordsBad v.2 e (parseXfer d)).1 = [] ∧ recordsRetired w d = false ∧ fetchOk w e d = true ∧
  (w.chan e).abortPending = false ∧ (verifyFormat w (parseXfer d).tensor).1 = []

/-- A channel with a descriptor to fetch at 0x4000. -/
def chainState (e : Engine) (c : Chan) : State := (withBytes readyState 0x4000 copyDesc).setChan e c

theorem test_ChainsFetchTheirNextDescriptor :
    (let s := chainState dieChan { Chan.empty with next := some 0x4000 }
     chHalted s dieChan = false ∧ (s.chan dieChan).next = some 0x4000 ∧ (s.chan dieChan).pulseDue = false ∧
       fetches s dieChan 0x4000 copyDesc) ∧
    (let c : Chan := { Chan.empty with next := some 0x4000, pulseDue := true, cur := some (0x5000, copyDesc) }
     let s := chainState dieChan c
     (s.chan dieChan).next = some 0x4000 ∧ (s.chan dieChan).pulseDue = true ∧
       fetches (channelPulse (s.setChan dieChan { c with pulseDue := false }) dieChan 0) dieChan 0x4000 copyDesc) ∧
    (let e : Engine := .die 0 3
     let s := chainState e Chan.empty
     0x4000 = bitsAt (BitVec.toNat (0x4000 : Word)) 6 50 * 64 ∧ firmwareChannel e = true ∧ (s.chan e).cur = none ∧
       (s.chan e).next = none ∧ fetches (fset s (chCtl e) f_DMA_CH_CTL_HEAD (0x4000 / 64)) e 0x4000 copyDesc) := by
  refine ⟨?_, ?_, ?_⟩ <;> dsimp only [fetches] <;> decide +kernel

/-- An INVALIDATE of 1,024 bytes from 0x200. -/
def invalidateDesc : List Byte := bytesOf 64 [(0, 1, 0x30), (8, 8, 0x200), (16, 8, 0x400)]

theorem test_InvalidateDropsTheLinesOfItsRange :
    let s := coreWith (queued 2 invalidateDesc)
    (0 : Fin 32).val = c0.core.val ∧ currentOf s (.tile 0 0) 0x30 = some (storeBase c0, invalidateDesc, []) ∧
    descHeld s (.tile 0 0) (storeBase c0) invalidateDesc = false ∧
    faulty s (.channel (chanKey (.tile 0 0))) = false ∧
    (startDesc s (.tile 0 0) (storeBase c0) invalidateDesc).1 = [] := by decide +kernel

/-! ### Collectives and links -/

/-- A collective descriptor over axis 0 of mesh 0: kind, two segments of BF16 from 0x1000000 to 0x2000000, ID 9, root 0. -/
def collDesc (kind root : Nat) : List Byte :=
  bytesOf 64 [(0, 1, 0x21), (1, 1, kind), (2, 1, 0x88), (6, 2, 0xFFFF), (8, 2, root), (12, 4, 9), (16, 8, 0x1000000),
    (24, 8, 0x2000000), (32, 4, 2048), (36, 8, 0x3000000), (44, 4, 8192)]

/-- A mesh of tiles 0 and 1 of this module. -/
def meshPair : Mesh := { extents := [2], table := [⟨0, 0, 0⟩, ⟨0, 1, 0⟩] }

def collState (kind root : Nat) : State :=
  { coreWith (queued 2 (collDesc kind root)) with job := { Job.none with loaded := true, meshes := [meshPair], modules := [(0, 0)] } }

theorem test_CollectivesBeginOnTheirChannel :
    ∀ p ∈ [(0, 0), (1, 0), (2, 0), (3, 0), (3, 1)], let s := collState p.1 p.2
      let d := collDesc p.1 p.2
      let x := parseColl d
      let g := groupOn meshPair x.axis 0
      (0 : Fin 32).val = c0.core.val ∧ currentOf s (.tile 0 0) 0x21 = some (storeBase c0, d, []) ∧ collOf s (.tile 0 0) = none ∧
      faulty s (.channel (chanKey (.tile 0 0))) = false ∧ (startDesc s (.tile 0 0) (storeBase c0) d).1 = [] ∧
      (let k : Coll := { desc := d, members := g.1, me := g.2, slots := [], present := [], folded := [], credits := [], sent := [], got := [] }
       collWaits s (.tile 0 0) (startBlocks k) = false) ∧
      s.links.early = [] ∧ s.links.credits = [] ∧ s.job.meshes[x.mesh]? = some meshPair ∧
      ordinalOf s meshPair 0 = some 0 ∧ g.1.length = 2 ∧ g.2 = 0 ∧ g.1.length ≤ segments x ∧ x.kind = p.1 ∧ x.root = p.2 := by
  decide +kernel

/-- Neither segment lies in a retired range. -/
theorem test_CollectivesBeginOnTheirChannel_ranges :
    ∀ p ∈ [(0, 0), (1, 0), (2, 0), (3, 0), (3, 1)], let s := collState p.1 p.2
      let u := (startDesc s (.tile 0 0) (storeBase c0) (collDesc p.1 p.2)).2
      let x := parseColl (collDesc p.1 p.2)
      let k : Coll := { desc := collDesc p.1 p.2, members := [(0, 0), (0, 1)], me := 0, slots := [], present := [], folded := []
                        credits := [], sent := [], got := [] }
      ∀ seg ∈ List.range (segments x), rangeRetired u (srcSeg k seg) (1024 * wide x.srcFmt) = false ∧
        rangeRetired u (dstSeg k seg) (1024 * wide (dstWidth x)) = false := by
  decide +kernel

/-- The state in which a collective's channel has verified its descriptor, and its collective. -/
def begunState (kind : Nat) : State := (startDesc (collState kind 0) (.tile 0 0) (storeBase c0) (collDesc kind 0)).2
def begunColl (kind : Nat) : Coll :=
  { desc := collDesc kind 0, members := [(0, 0), (0, 1)], me := 0, slots := [], present := [], folded := [], credits := [], sent := [], got := [] }

/-- What holds for each of 64 times 64 numbers. -/
theorem by_pages {P : Nat → Prop} (h : ∀ a < 32, ∀ b < 64, P (64 * a + b)) (i : Nat) (hi : i < 2048) : P i :=
  Nat.div_add_mod i 64 ▸ h (i / 64) (by omega) (i % 64) (by omega)

/-- The places of segments at DST are those of one page, with the keys from K on; SRC lies in a page with keys from L on. -/
structure Placed (s : State) (k : Coll) (K L : Nat) : Prop where
  bytes : resultBytes k = 2048 ∧ segBytes k = 2048
  dst : ∀ g < 2, ∀ i < 2048, keyOf s (dstSeg k g + i) = K + (2048 * g + i)
  src : ∀ g < 2, ∀ i < 2048, keyOf s (srcSeg k g + i) = L + (2048 * g + i)
  apart : 0x10000 ≤ K ∧ (K + 4096 ≤ L ∨ L + 4096 ≤ K)
  uncached : s.tiles = []
  entries : ∀ m ∈ moduleIndex s :: k.members.map (·.1), ∀ a ∈ blocksOf (faddr s LNK_PEER_BASE f_LNK_PEER_BASE_BASE + 256 * m) 256,
    mismatchOf s (keyOf s a / 512) = 0 ∧ s.errs = [] ∧ keyOf s a < 0x10000

theorem Placed.of_pages {s : State} {k : Coll} {K L : Nat} (h : (resultBytes k = 2048 ∧ segBytes k = 2048) ∧
    (∀ g < 2, ∀ a < 32, ∀ b < 64, keyOf s (dstSeg k g + (64 * a + b)) = K + (2048 * g + (64 * a + b))) ∧
    (∀ g < 2, ∀ a < 32, ∀ b < 64, keyOf s (srcSeg k g + (64 * a + b)) = L + (2048 * g + (64 * a + b))) ∧
    (0x10000 ≤ K ∧ (K + 4096 ≤ L ∨ L + 4096 ≤ K)) ∧ s.tiles = [] ∧
    ∀ m ∈ moduleIndex s :: k.members.map (·.1), ∀ a ∈ blocksOf (faddr s LNK_PEER_BASE f_LNK_PEER_BASE_BASE + 256 * m) 256,
      mismatchOf s (keyOf s a / 512) = 0 ∧ s.errs = [] ∧ keyOf s a < 0x10000) : Placed s k K L :=
  ⟨h.1, fun g hg => by_pages (h.2.1 g hg), fun g hg => by_pages (h.2.2.1 g hg), h.2.2.2.1, h.2.2.2.2.1, h.2.2.2.2.2⟩

/-- A place of a segment below 2. -/
theorem Placed.at_ {s : State} {k : Coll} {K L : Nat} (p : Placed s k K L) {segs : List Nat} (h : ∀ g ∈ segs, g < 2) {z : Nat}
    (hz : z ∈ resultAddrs k segs) : K ≤ keyOf s z ∧ keyOf s z < K + 4096 := by
  simp only [resultAddrs, List.mem_flatMap, List.mem_map, List.mem_range, p.bytes.1] at hz
  obtain ⟨g, hg, i, hi, rfl⟩ := hz
  have := h g hg; rw [p.dst g this i hi]; omega

theorem Placed.peers {s : State} {k : Coll} {K L : Nat} (p : Placed s k K L) {segs : List Nat} (h : ∀ g ∈ segs, g < 2) :
    PeersSound s k (resultAddrs k segs) := fun m hm a ha => by
  obtain ⟨h1, h2, h3⟩ := p.entries m hm a ha
  refine ⟨h1, by simp [h2], fun z hz => ?_⟩
  have := p.at_ h hz; have := p.apart; omega

theorem Placed.nodup {s : State} {k : Coll} {K L : Nat} (p : Placed s k K L) {segs : List Nat} (h : ∀ g ∈ segs, g < 2) (hn : segs.Nodup) :
    ((resultAddrs k segs).map (keyOf s)).Nodup := by
  rw [resultAddrs, List.map_flatMap, List.nodup_flatMap, p.bytes.1]
  refine ⟨fun g hg => ?_, hn.imp_of_mem fun {g g'} hg hg' hne x hx hx' => ?_⟩
  · rw [List.map_map]
    exact List.nodup_range.map_on fun i hi j hj e => by
      simp only [List.mem_range] at hi hj
      simp only [Function.comp, p.dst g (h g hg) _ hi, p.dst g (h g hg) _ hj] at e; omega
  · simp only [List.mem_map, List.mem_range, List.map_map, Function.comp] at hx hx'
    obtain ⟨i, hi, rfl⟩ := hx; obtain ⟨j, hj, e⟩ := hx'
    rw [p.dst g (h g hg) i hi, p.dst g' (h g' hg') j hj] at e; omega

theorem Placed.uncached_agrees {s : State} {k : Coll} {K L : Nat} (p : Placed s k K L) (t : TileId) (b : Nat) : CacheAgrees s t b :=
  fun l hl => by simp [cached, State.tile, p.uncached, mapGet, Tile.empty] at hl

theorem Placed.copies {s : State} {k : Coll} {K L : Nat} (p : Placed s k K L) {segs : List Nat} (h : ∀ g ∈ segs, g < 2) (hn : segs.Nodup)
    (t : TileId) : CopiesApart s t k segs :=
  ⟨p.nodup h hn, fun g hg i hi => ⟨p.uncached_agrees t _, fun z hz => by
    have := p.at_ h hz; have := p.apart; have := h g hg; rw [p.bytes.2] at hi; rw [p.src g this i hi]; omega⟩⟩

/-- Keys of the pages at DST and SRC. -/
def dstKey : Nat := 549789368320
def srcKey : Nat := 1099528404992

theorem begun_placed : Placed (begunState 1) (begunColl 1) dstKey srcKey ∧ Placed (begunState 3) (begunColl 3) dstKey srcKey :=
  ⟨.of_pages (by decide +kernel), .of_pages (by decide +kernel)⟩

theorem test_CollectivesBeginOnTheirChannel_places :
    (∀ kind ∈ [0, 2], PeersSound (begunState kind) (begunColl kind) []) ∧
    PeersSound (begunState 1) (begunColl 1) (resultAddrs (begunColl 1) [0]) ∧ CopiesApart (begunState 1) 0 (begunColl 1) [0] ∧
    PeersSound (begunState 3) (begunColl 3) (resultAddrs (begunColl 3) [0, 1]) ∧ CopiesApart (begunState 3) 0 (begunColl 3) [0, 1] ∧
    ownSegs (parseColl (collDesc 1 0)) 2 0 = [0] ∧ List.range (segments (parseColl (collDesc 3 0))) = [0, 1] :=
  ⟨by unfold PeersSound EntriesSound; decide +kernel, (begun_placed.1).peers (by simp),
    (begun_placed.1).copies (by simp) (by simp) 0, (begun_placed.2).peers (by simp),
    (begun_placed.2).copies (by simp) (by simp) 0, by decide +kernel, by decide +kernel⟩

/-- Member 0 of the pair has the other member's contribution to its segment 0. -/
def foldable (kind : Nat) : Coll :=
  { desc := collDesc kind 0, members := [(0, 0), (0, 1)], me := 0, slots := [(0, 0)], present := [(0, 1)], folded := []
    credits := [], sent := [], got := [] }

def foldState (kind : Nat) : State :=
  (collState kind 0).setChan (.tile 0 0) { Chan.empty with coll := some (foldable kind) }

theorem test_SegmentsAreFoldedAtTheirOwner :
    ∀ kind ∈ [0, 2], collOf (foldState kind) (.tile 0 0) = some (foldable kind) ∧
      current (foldState kind) (.tile 0 0) = some (storeBase c0, collDesc kind 0, []) ∧ (parseColl (foldable kind).desc).kind = kind ∧
      0 ∈ ownSegs (parseColl (foldable kind).desc) (foldable kind).members.length (foldable kind).me ∧ 0 ∉ (foldable kind).folded ∧
      (∀ j ∈ others (foldable kind), (0, j) ∈ (foldable kind).present) ∧ (foldState kind).links.early = [] ∧
      slotOf (foldable kind) 0 = some 0 ∧ collWaits (foldState kind) (.tile 0 0) (foldBlocks (foldable kind) 0 0) = false ∧
      rangeRetired (foldState kind) (srcSeg (foldable kind) 0) (segBytes (foldable kind)) = false ∧
      rangeRetired (foldState kind) (dstSeg (foldable kind) 0) 2048 = false ∧ (parseColl (foldable kind).desc).tensor = 0xFFFF ∧ 1024 * wide (parseColl (foldable kind).desc).dstFmt = 2048 := by
  decide +kernel

theorem fold_placed : Placed (foldState 0) (foldable 0) dstKey srcKey ∧ Placed (foldState 2) (foldable 2) dstKey srcKey :=
  ⟨.of_pages (by decide +kernel), .of_pages (by decide +kernel)⟩

theorem test_SegmentsAreFoldedAtTheirOwner_places (kind : Nat) (h : kind = 0 ∨ kind = 2) :
    PeersSound (foldState kind) (foldable kind) (resultAddrs (foldable kind) [0]) ∧
    ((resultAddrs (foldable kind) [0]).map (keyOf (foldState kind))).Nodup ∧ ∀ t b, CacheAgrees (foldState kind) t b := by
  have p : Placed (foldState kind) (foldable kind) dstKey srcKey := by rcases h with rfl | rfl; exacts [fold_placed.1, fold_placed.2]
  exact ⟨p.peers (by simp), p.nodup (by simp) (by simp), p.uncached_agrees⟩

/-- A packet over the mesh with its CRC in place. -/
def sealed (p : Packet) : Packet := { p with crc := BitVec.ofNat 32 (crc32c (packetBytes p)) }

/-- A contribution to collective 9 of tile 0, and its unacknowledged record. -/
def contribution : Packet := sealed { packetOn 19 with collId := 9, fmt := 0x88, from_ := 1, payload := List.replicate 8 0 }
def unacked1 : Unacked := { tile := 0, peer := 1, plane := 3, seq := 5, packet := packetOn 3, sent := 0, first := 0, retx := 0 }

/-- CRC-32C of the nine digits is 0xE3069283, the check value of R248. -/
theorem test_crc32c : crc32c [0x31, 0x32, 0x33, 0x34, 0x35, 0x36, 0x37, 0x38, 0x39] = 0xE3069283 := by decide +kernel

/-- Member 0 has a slot for segment 0 and waits for the contribution, which is on the mesh from the tile itself. -/
def awaiting : Coll := { foldable 0 with present := [] }
def awaitState (p : Packet) : State :=
  { (collState 0 0).setChan (.tile 0 0) { Chan.empty with coll := some awaiting } with mesh := [⟨0, 0, false, .packet p⟩] }

theorem test_DataPacketsAreAcceptedOnce :
    (∀ p ∈ [packetOn 19, contribution], (arrive (awaitState p) p).any (fun v => v.2 == 0 && !packetDelayed v.1 p) = true ∧
      packetFor (awaitState p) p 0 = true) ∧
    (packetOn 19).crc.toNat ≠ crc32c (packetBytes (packetOn 19)) ∧ contribution.crc.toNat = crc32c (packetBytes contribution) ∧
    (let s := awaitState contribution
     (peerKey 1 19, 5) ∉ s.links.accepted ∧
     (peerKey 1 19, 5) ∈ ({ s with links := { s.links with accepted := [(peerKey 1 19, 5)] } } : State).links.accepted ∧
     collFor s 0 9 0 = some (.tile 0 0, awaiting) ∧ isContribution awaiting contribution = true ∧
     disagreement awaiting contribution = 0 ∧ disagreement awaiting { contribution with kind := 8 } = 4 ∧
     (0, 1) ∉ awaiting.present ∧ 0 ∉ awaiting.folded ∧ slotOf awaiting 0 = some 0 ∧
     rangeRetired s (slotAddr awaiting 0 1) 4096 = false ∧ chHalted s (.tile 0 0) = false ∧ (current s (.tile 0 0)).isSome = true) ∧
    (let s : State := { readyState with links := { Links.empty with unacked := [unacked1] } }
     s.links.unacked.find? (fun u => u.peer == 1 && u.plane == 3 && u.seq == 5) = some unacked1 ∧
       unacked1.sent + fget s LNK_RTO f_LNK_RTO_RTO ≤ ({ s with beat := 0xFFFFFFFFFF } : State).now) := by
  refine ⟨by decide +kernel, by decide +kernel, by decide +kernel, ?_, by decide +kernel, by decide +kernel⟩
  refine ⟨by decide +kernel, by decide +kernel, by decide +kernel, by decide +kernel, by decide +kernel, by decide +kernel,
    by decide +kernel, by decide +kernel, by decide +kernel, by decide +kernel, by decide +kernel, by decide +kernel⟩

/-- An acknowledgement on Ethernet plane 3 and a credit on Span port 0 that come in. -/
def portsUp : State :=
  withFields readyState [(LNK_ETH_STATUS 3, f_LNK_ETH_STATUS_UP, 1), (LNK_SPAN_STATUS 0, f_LNK_SPAN_STATUS_UP, 1)]

/-- Witness of DataPacketsAreAcceptedOnce: packets that come in through the port dies reach their tile and wait for no link. -/
theorem test_DataPacketsAreAcceptedOnce_ports :
    (∃ v, arrive portsUp { packetOn 3 with type := 1 } = some (v, 0) ∧ packetDelayed v { packetOn 3 with type := 1 } = false) ∧
    (∃ v, arrive portsUp { packetOn 16 with type := 2 } = some (v, 0) ∧ packetDelayed v { packetOn 16 with type := 2 } = false) ∧
    packetFor portsUp { packetOn 3 with type := 1 } 1 = true ∧ packetFor portsUp { packetOn 16 with type := 2 } 2 = true ∧
    collFor portsUp 0 0 0 = none := by
  have hx : packetDelayed portsUp { packetOn 3 with type := 1 } = false := by decide +kernel
  have hy : packetDelayed (linkPassed portsUp 192) { packetOn 16 with type := 2 } = false := by decide +kernel
  have ux : planeUp portsUp 3 = true := by decide +kernel
  have uy : spanOpen portsUp 0 = true := by decide +kernel
  refine ⟨⟨passDie portsUp 0 false, ?_, ?_⟩, ⟨passDie (linkPassed portsUp 192) 0 true, ?_, ?_⟩, ?_⟩
  · simp only [arrive, ux, packetOn]; rfl
  · simpa [packetDelayed, dieDelays_passDie] using hx
  · simp only [arrive, uy, packetOn]; rfl
  · simpa [packetDelayed, dieDelays_passDie] using hy
  · decide +kernel

/-- Witness of DataPacketsAreAcceptedOnce: the peer table is sound, and a packet from a plane of Ethernet may have to wait at its port die. -/
theorem test_DataPacketsAreAcceptedOnce_peers :
    EntriesSound readyState [1] [] ∧ EntriesSound (awaitState contribution) [1] [] ∧
    packetDelayed { readyState with dieIn := [(5, true, .pulse 1)] } { packetOn 16 with tile := 5 } = true :=
  ⟨by unfold EntriesSound; decide +kernel, by unfold EntriesSound; decide +kernel, by decide +kernel⟩

theorem test_LinksTrainRetryAndRetrain :
    16 ≤ mapGet 0 ({ readyState with links := { Links.empty with flits := [(194, 16)] } } : State).links.flits (linkKey (.span 2)) ∧
    linkKey (.mesh 13 1) ∈ ({ readyState with links := { Links.empty with retraining := [53] } } : State).links.retraining ∧
    linkKey (.span 2) ∈ ({ readyState with links := { Links.empty with retraining := [194] } } : State).links.retraining ∧
    ({ readyState with pins := { Pins.reset with modrst := false } } : State).pins.modrst = false ∧
    fbit (fset readyState (LNK_ETH_STATUS 15) f_LNK_ETH_STATUS_UP 1) (LNK_ETH_STATUS 15) f_LNK_ETH_STATUS_UP = true ∧
    fbit readyState (LNK_ETH_STATUS 15) f_LNK_ETH_STATUS_UP = false := by decide +kernel

/-- Witness of LinksTrainRetryAndRetrain: at Span port 0 of position 0 a peer of position 1 at its port 2, with lane 20 crossed, lane 3
inverted, and a wrong peer. -/
theorem test_LinksTrainRetryAndRetrain_lanes :
    let straight := List.range 32
    let crossed := (List.range 32).map fun l => if l = 20 then 21 else l
    let whole : SpanTraining := ⟨BitVec.allOnes 32, 8, straight, 1, 2⟩
    let half : SpanTraining := ⟨BitVec.allOnes 32, 0, crossed, 1, 2⟩
    lowHalf whole = true ∧ highHalf whole = true ∧ lowHalf half = true ∧ highHalf half = false ∧
    half.peerPos.toNat = (0 + 0 + 1) % 4 ∧ half.peerPort.toNat = 2 - 0 ∧ half.peerPos.toNat ≠ 0 ∧
    ¬ (({ half with peerPos := 2 } : SpanTraining).peerPos.toNat = (0 + 0 + 1) % 4) := by decide +kernel

/-- Witness of LinksTrainRetryAndRetrain: a tile at the lower index of a link of tile 13. -/
theorem test_LinksTrainRetryAndRetrain_lower (l : Fin 4) : ∃ d : TileId, d.val = meshLower 13 l := by
  have h : meshLower 13 l < 48 := by unfold meshLower; split <;> decide
  exact ⟨⟨meshLower 13 l, h⟩, rfl⟩

/-- Peer 1 was silent on plane 3 from beat 0, long ago. -/
def silentState : State :=
  { fset readyState (LNK_ETH_STATUS 3) f_LNK_ETH_STATUS_UP 1 with
    beat := 0xFFFFFFFFFF
    links := { Links.empty with unacked := [unacked1], silent := [⟨1, 3, 0, 1⟩] } }

theorem test_SilentPeersAreReportedOnceAnEpoch :
    (let s : State := { silentState with links := { silentState.links with silent := [] } }
     unacked1 ∈ s.links.unacked ∧ unacked1.first + fget s LNK_SILENT f_LNK_SILENT_LIMIT ≤ s.now ∧
       ∀ q ∈ s.links.silent, ¬ (q.peer = 1 ∧ q.plane = 3)) ∧
    (planeUp silentState 3 = true ∧ ownPortSuspect silentState 3 = false ∧ blackout silentState = false ∧
      3 ∉ silentState.links.primary ∧ 1 ∉ silentState.links.reported ∧
      (silentState.links.silent.filter fun q => q.plane == 3).find? (fun q => q.peer == 1 &&
        decide (max q.first silentState.links.epochBeat + fget silentState LNK_SILENT f_LNK_SILENT_HOLDOFF ≤ silentState.now)) =
          some ⟨1, 3, 0, 1⟩) ∧
    mayWrite readyState .host (some grpLink) = true ∧
    (let r : Region := { valid := true, addr := 0x1000, size := 0x1000, write := true, read := true, gen := 1 }
     let s : State := { readyState with regions := [(0, r)], qps := [(5, [3])] }
     regionOf s 1 = some r ∧ field (mapGet [] s.qps 5) 0 1 = 3 ∧ hostDown s 0x1000 = false ∧ blocksHeld s (blocksOf 0x1000 64) = false ∧ inRegion s r 0x1000 64 = true ∧
       (verifyRange s .other 0x1000 64).1 = []) ∧
    (let s : State := { readyState with beat := 0xFFFFFFFFFF }
     planeUp s 3 = false ∧ blackout s = false ∧ 3 ∉ s.links.primary ∧
       max (mapGet 0 s.links.downSince 3) s.links.epochBeat + fget s LNK_SILENT f_LNK_SILENT_HOLDOFF ≤ s.now) ∧
    (planeUp silentState 3 = true ∧ (BitVec.ofNat 128 (portAddress silentState 3)).toNat = portAddress silentState 3) := by
  decide +kernel

/-! ### The step, captures, fills, holds and devices -/

/-- The contribution of step 12 was sent at beat 4,000. -/
def sentState : State := { readyState with stp := { StepCtl.empty with sent := some (12, 4000) } }

def verdict12 (summed : Bool) (nf wh : Word) : VerdictMsg :=
  { sender := 1, job := 0, step := 12, summed := summed, part := .counts nf wh, plane := 19, ce := false }

theorem test_VerdictsMoveTheLossScale :
    ((verdict12 true 0 0).job.toNat = fget sentState LNK_JOB f_LNK_JOB_JOB ∧ (verdict12 true 0 0).summed = true ∧
      sentState.stp.sent = some ((verdict12 true 0 0).step.toNat, 4000) ∧ normSlots sentState = 0 ∧ sentState.stp.sumSlots = []) ∧
    (let s := fset sentState LNK_JOB f_LNK_JOB_MODULES 2
     (verdict12 false 0 0).summed = false ∧ s.stp.sumCounts = none ∧
      (∀ c ∈ s.stp.counts, ¬ (c.1 = 12 ∧ (c.2.1 = 1 ∨ c.2.1 = 0))) ∧ 0 < moduleCount s ∧ 0 ≠ (verdict12 false 0 0).sender.toNat) ∧
    mayWrite sentState .host (some grpStep) = true ∧ readyState.stp.sent = none ∧
    (let s := fset sentState INF_VERDICT_WARN f_INF_VERDICT_WARN_BEATS 1000
     4000 + fget s INF_VERDICT_WARN f_INF_VERDICT_WARN_BEATS ≤ s.now ∧ s.stp.late = false) := by
  decide +kernel

/-- The step interrupt is enabled and its port sends MSI-X. -/
theorem test_VerdictsMoveTheLossScale_interrupt :
    let s := withFields { sentState with pins := { Pins.reset with msix := [true, true] } }
      [(INF_CTL, f_INF_CTL_IRQ_EN, 1), (HIF_IRQ_ROUTE 1, f_HIF_IRQ_ROUTE_ENABLE, 1),
        (HIF_IRQ_ROUTE 1, f_HIF_IRQ_ROUTE_VECTOR, 0), (MSIX_DATA 0, f_MSIX_DATA_MASK, 0)]
    let port := fget s (HIF_IRQ_ROUTE 1) f_HIF_IRQ_ROUTE_PORT
    let vec := fget s (HIF_IRQ_ROUTE 1) f_HIF_IRQ_ROUTE_VECTOR
    fbit s INF_CTL f_INF_CTL_IRQ_EN = true ∧ fbit s (HIF_IRQ_ROUTE 1) f_HIF_IRQ_ROUTE_ENABLE = true ∧
    nthD false s.pins.msix port = true ∧ fbit s (MSIX_DATA vec) f_MSIX_DATA_MASK = false ∧ portUp s port = true := by
  decide +kernel

/-- A Philox-4x32-10 block of key 0 and counter 0: the published vector of the family (log entry 95). -/
theorem test_philox : philox 0 0 0 0 0 0 = (0x6627e8d5, 0xe169c58d, 0xbc57ac4c, 0x9b00dbd8) := by decide +kernel

/-- What Table STP-3 makes of a verdict: applied, skipped and withheld steps, at CLEAN_RUN − 1 clean steps. -/
theorem test_verdict_outcomes :
    let s := withFields sentState [(INF_LS_STATE, f_INF_LS_STATE_EXP, 16), (INF_LS_STATE, f_INF_LS_STATE_CLEAN, 9),
      (INF_LS_CTL, f_INF_LS_CTL_CLEAN_RUN, 10), (INF_LS_CTL, f_INF_LS_CTL_MAX_EXP, 40), (INF_LS_CTL, f_INF_LS_CTL_MIN_EXP, 1)]
    ∀ p ∈ [((0 : Word), (0 : Word), 0, 17, 0), (3, 0, 1, 15, 0), (3, 1, 2, 16, 9)],
      (after (exec (.verdictPacket (verdict12 true p.1 p.2.1)) s)).map (fun t => (fget t INF_LAST f_INF_LAST_OUTCOME,
        fget t INF_LS_STATE f_INF_LS_STATE_EXP, fget t INF_LS_STATE f_INF_LS_STATE_CLEAN)) = some p.2.2 := by decide +kernel

/-- The update list of stack 0 lies at offset 0: an entry of no tensor, RULE 2 and one record at offset 512, whose block is sound. -/
def walkState : State := { readyState with mem := [(0, 0xFF), (1, 0xFF), (2, 2), (4, 1), (9, 2), (52, 0xFF), (53, 0xFF)] }

/-- Witness of VerdictsMoveTheLossScale: the walk's sound record, a poisoned one, and its sound entry apart from its record. -/
theorem test_VerdictsMoveTheLossScale_walk :
    let e := entryOf walkState 0 0
    let poisoned : State := { walkState with env := [(1, 3)] }
    (walkState.die 0).capturing = false ∧ e.recordAddr = 512 ∧ e.records = 1 ∧ e.rule = 2 ∧ e.tensor = 0xFFFF ∧
    (verifyStack walkState 0 512 512).1 = true ∧ (verifyStack (verifyStack walkState 0 512 512).2 0 0 128).1 = true ∧
    (verifyStack poisoned 0 512 512).1 = false ∧ (entryBad walkState 0 0).1 = false ∧
    (verifyHyper (entryBad walkState 0 0).2 e 12).1 = false ∧
    stackKey 0 (ulistBase walkState 0) = 0 ∧ stackKey 0 512 = 512 ∧ walkWaits walkState = false := by
  decide +kernel

/-- Stack 0 captures two records of one entry, at record 1; its update list lies at 0x100000, its stage at 0x200000. -/
def captureState : State :=
  let s := withFields readyState [(INF_CKPT_STAGE 0, f_INF_CKPT_STAGE_BASE, 1), (INF_ULIST_COUNT 0, f_INF_ULIST_COUNT_COUNT, 1)]
  s.setDie 0 { Die.empty with capturing := true, starts := [0, 2], cursorRecord := 1 }

theorem test_CapturesCopyTheRecordAtTheCursor :
    mayWrite readyState .host (some grpStep) = true ∧ (captureState.die 0).capturing = true ∧
    cursorPos captureState 0 = 1 ∧ mirrorTotal captureState 0 = 2 ∧ (captureState.die 0).starts.Pairwise (· ≤ ·) ∧
    (captureState.die 0).starts.head? = some 0 ∧ (entryBad captureState 0 (captureState.die 0).cursorEntry).1 = false ∧
    dieHolds captureState 0 512 512 [mirrorAddr captureState 0 1] = false ∧
    (∀ i < 512, keyOf captureState (mirrorAddr captureState 0 1 + i) = keyOf captureState (mirrorAddr captureState 0 1) + i) ∧
    (readyState.die 0).capturing = false := by decide +kernel

/-- Stack 0 is filled, its header received, and one of two records confirmed. -/
def fillState : State :=
  withFields (readyState.setDie 0 { Die.empty with starts := [0, 2] }) [(INF_FILL 0, f_INF_FILL_ACTIVE, 1),
    (INF_FILL 0, f_INF_FILL_HEADER_DONE, 1), (INF_FILL 0, f_INF_FILL_CONFIRMED, 1)]

theorem test_FillsConfirmTheirRecordsInOrder :
    mayWrite readyState .host (some grpStep) = true ∧ fbit fillState (INF_FILL 0) f_INF_FILL_ACTIVE = true ∧
    fbit fillState (INF_FILL 0) f_INF_FILL_HEADER_DONE = true ∧ (List.replicate 512 (0 : Byte)).length = 512 ∧
    fillWaits fillState 0 (.header [] [] 0) = false ∧ fillWaits fillState 0 (.record (List.replicate 512 0)) = false ∧
    (entryBad fillState 0 (walkEntryAt fillState 0 1)).1 = false ∧ fget fillState (INF_FILL 0) f_INF_FILL_CONFIRMED < mirrorTotal fillState 0 ∧ mirrorTotal fillState 0 ≤ f_INF_FILL_CONFIRMED.max ∧
    fbit (fset fillState (INF_FILL 0) f_INF_FILL_HEADER_DONE 0) (INF_FILL 0) f_INF_FILL_HEADER_DONE = false ∧
    (let s : State := { fillState with beat := 0xFFFFFFFFFF }
     fbit s (INF_FILL 0) f_INF_FILL_ACTIVE = true ∧ (s.die 0).fillBeat + fget s LNK_SILENT f_LNK_SILENT_LIMIT ≤ s.now) := by
  decide +kernel

/-- The carousel is held at the end of a step. -/
def heldState : State :=
  withFields readyState [(TBU_RESTART, f_TBU_RESTART_HELD, 1), (TBU_RESTART, f_TBU_RESTART_STEP, 8)]

theorem test_HoldsEndAndSparesSwapWhileHeld :
    mayWrite heldState .host (some grpTimebase) = true ∧ held heldState = true ∧ heldState.car.beatHold = false ∧
    (∀ k : TileId, (heldState.tile k).stopped = false) ∧
    (let s : State := { heldState with car := { Carousel.empty with beatHold := true }, pins := { Pins.reset with beatPresent := true } }
     s.car.beatHold = true ∧ onBeat s = true) ∧
    (let s := heldState.setTile 5 { Tile.empty with active := true }
     held s = true ∧ (s.tile 5).active = true ∧ (s.tile 5).stopped = false) ∧
    held readyState = false ∧ retiredPos heldState 3 = 13 ∧ swapFits heldState 3 12 = true ∧ 3 < heldState.repair.retired.length := by
  decide +kernel

/-- A device at level 3 since beat 0, and one with an open window of a kind on channel 0. -/
def hotState : State := readyState.setDev (.stack 23) { Dev.empty with level3 := some 0 }
def windowOpenState (kind : Nat) (soft : List (Nat × Nat)) : State :=
  withFields (readyState.setDev (.stack 0) { Dev.empty with windowOpen := some 0, windowWork := true, soft := soft })
    [(devMaint (.stack 0), f_HBM_MAINT_KIND, kind)]

theorem test_HeatSetsTheLevelOfADevice :
    readyState.pwr.applied = true ∧ (hotState.dev (.stack 23)).level3 = some 0 ∧
    hotState.now ≤ 0 + fget hotState (HBM_THERM_CTL 23) f_HBM_THERM_CTL_HALT_LIMIT * beatsPerMs ∧
    (let s : State := { hotState with beat := 0xFFFFFFFFFF }
     0 + fget s (HBM_THERM_CTL 23) f_HBM_THERM_CTL_HALT_LIMIT * beatsPerMs < s.now) ∧
    (let s := withFields readyState [(devMaint (.package 3 1), f_HBM_MAINT_ARM, 1), (devMaint (.package 3 1), f_HBM_MAINT_START, 5000)]
     fbit s (devMaint (.package 3 1)) f_HBM_MAINT_ARM = true ∧ (s.dev (.package 3 1)).windowOpen = none ∧
       startReached s (.package 3 1) = true) ∧
    (((windowOpenState 1 []).dev (.stack 0)).windowOpen = some 0 ∧ ((windowOpenState 1 []).dev (.stack 0)).windowWork = true) ∧ fget readyState (devMaint (.stack 0)) f_HBM_MAINT_KIND = 0 ∧
    armAllowed readyState (.stack 0) 0 = true ∧ windowTaken (windowOpenState 1 []) (.stack 0) = true ∧ MemDev.stack 0 ≠ .stack 1 ∧
    (carState.car.running = true ∧ held carState = false ∧ ∀ e ∈ carState.car.entries, windowPhase e = false) ∧
    0 + 200000 ≤ ({ windowOpenState 1 [] with beat := 200000 } : State).now := by decide +kernel

/-- In a module whose bank 0 of stack 0 was delivered with a spare row (log entry 20). -/
theorem test_RepairsTakeASpareInsideAWindow (h : (Config.spareRows 0 0).val ≠ 0) :
    (∀ kind ∈ [1, 2], repairOpen (windowOpenState kind []) (.stack 0) 0 kind = true ∧
      ((windowOpenState kind []).dev (.stack 0)).soft = []) ∧
    (Config.spareRows (devKey (.stack 0)) (bankKey 0 0)).val ≠ 0 ∧
    mapGet 0 ((windowOpenState 1 []).dev (.stack 0)).used (bankKey 0 0) = 0 :=
  ⟨by decide +kernel, h, by decide +kernel⟩

theorem test_RepairsTakeASpareInsideAWindow_others :
    (repairOpen (windowOpenState 2 [(0, 5)]) (.stack 0) 0 2 = true ∧
      (bankKey 0 0, 5) ∈ ((windowOpenState 2 [(0, 5)]).dev (.stack 0)).soft) ∧
    repairOpen readyState (.stack 0) 0 1 = false ∧ repairOpen readyState (.stack 0) 0 2 = false := by decide +kernel

theorem test_RepairsTakeASpareInsideAWindow_ranges :
    (readyState.repair.badPages ++ readyState.tempRetired = [] ∧ readyState.repair.badPages.length < 4096) ∧
    badPage readyState (.stack 0) 6 1 = 0x100060004 ∧ samePage 0x100060004 0x100060004 = true ∧
    badPage { readyState with repair := { RepairMap.whole with badPages := [0x100060004] } } (.stack 0) 6 1 = 0x100060004 := by
  decide +kernel

/-! ### Power, start-up and the host interface -/

/-- The module is READY, out of reset. -/
def upState : State := { readyState with pins := { readyState.pins with modrst := false } }

/-- The state with changes to the samovar. -/
def withPwr (f : Power → Power) : State := { upState with pwr := f upState.pwr }

theorem test_ShutdownsRunToStandby :
    (withPwr fun p => { p with underSince := some 0 }).pwr.underSince = some 0 ∧
    0 + 10000 ≤ ({ withPwr fun p => { p with underSince := some 0 } with beat := 10000 } : State).now ∧
    (withPwr fun p => { p with underSince := some 0 }).now < 0 + 10000 ∧
    (withPwr fun p => { p with overSince := some 0 }).pwr.overSince = some 0 ∧ 0 + 1000 ≤ upState.now ∧
    ({ withPwr fun p => { p with overSince := some 0 } with beat := 999 } : State).now < 0 + 1000 ∧ upState.pwr.applied = true ∧
    (∀ n ∈ [1, 2, 3], (withPwr fun p => { p with shutdownStage := n }).pwr.shutdownStage = n) ∧
    0 + 1500 * beatsPerMs ≤ ({ withPwr fun p => { p with shutdownStage := 2 } with beat := 0xFFFFFFFFFF } : State).now ∧
    upState.pins.modrst = false := by decide +kernel

theorem test_ShutdownsRunToStandby_canonical : (withPwr fun p => { p with shutdownStage := 3 }).Canonical := by
  unfold State.Canonical; decide +kernel

/-- Beyond the absolute limits of Table CON-7 the model stops; at the limits it goes on. -/
theorem test_input_limits :
    exec (.inputSample 45001 0) upState = .fault .beyondAbsoluteLimits ∧ exec (.inputSample (-501) 0) upState = .fault .beyondAbsoluteLimits ∧
    (after (exec (.inputSample 45000 0) upState)).isSome = true ∧ (after (exec (.inputSample (-500) 0) upState)).isSome = true :=
  ⟨rfl, rfl, by decide +kernel⟩

theorem test_DrawIsSmoothedUnderTheCaps :
    upState.pwr.applied = true ∧ fget upState PWR_DRAW f_PWR_DRAW_CLOCK ≤ 4 ∧ upState.pwr.heatSteps ≤ 4 ∧ upState.pwr.shutdownStage = 0 ∧
    (let s := fset (withPwr fun p => { p with stepUpAt := some 5000, coolantCap := 2000, level := 1950000 }) PWR_DRAW f_PWR_DRAW_NOW 1950
     s.pwr.stepUpAt = some 5000 ∧ 5000 ≤ s.now ∧ fget s PWR_DRAW f_PWR_DRAW_CLOCK ≤ (clockWanted s).1 ∧
       (clockWanted s).1 < fget (fset s PWR_DRAW f_PWR_DRAW_CLOCK 2) PWR_DRAW f_PWR_DRAW_CLOCK ∧
       (clockWanted (fset s PWR_DRAW f_PWR_DRAW_CLOCK 2)).1 = (clockWanted s).1) ∧
    (withPwr fun p => { p with stepUpAt := some 5001 }).now < 5001 ∧
    ({ State.reset with pwr := Power.off } : State).pwr.applied = false ∧
    (let s : State := { upState with pwr := { upState.pwr with windows := List.replicate 10 1900, floorOff := false }, car := { Carousel.empty with running := true } }
     let s := fset s PWR_FLOOR f_PWR_FLOOR_PCT 70
     (after (exec (.drawWindow 100 0 false) s)).any (fun t => decide (100 < floorDraw t)) = true) ∧
    upState.pins.throt = false ∧ ({ upState with pins := { upState.pins with throt := true } } : State).pins.throt = true ∧
    (let s : State := { heldState with beat := 0xFFFFFFFFFF }
     held s = true ∧ s.car.heldSince + fget s PWR_FLOOR f_PWR_FLOOR_HOLD_LIMIT * beatsPerMs < s.now) := by decide +kernel

theorem test_HeatAndCoolantLimitTheDraw :
    upState.pwr.applied = true ∧ upState.pwr.missedFlow < 2 ∧ upState.pwr.lowFlow < 5 ∧
    4 ≤ (withPwr fun p => { p with lowFlow := 4 }).pwr.lowFlow ∧ 169 < fget upState PWR_COOLANT f_PWR_COOLANT_FLOW_MIN ∧
    fget upState PWR_COOLANT f_PWR_COOLANT_FLOW_MIN ≤ 170 ∧ (List.replicate 768 (40 : Byte)).length = 768 ∧ mayWrite upState .host (some grpPower) = true ∧
    (carState.job.loaded || carState.car.running) = true ∧ (upState.job.loaded || upState.car.running) = false ∧
    fget upState PWR_STATE f_PWR_STATE_STATE = 2 ∧
    (let s := fset (withPwr fun p => { p with readyAt := some 4000 }) PWR_STATE f_PWR_STATE_STATE 4
     fget s PWR_STATE f_PWR_STATE_STATE = 4 ∧ s.pwr.readyAt = some 4000) := by decide +kernel

theorem test_ResetsLoseAllButFlashAndHost :
    Power.off.applied = false ∧ (State.reset.pwr.shutdownStage = 0 ∧ State.reset.pwr.applied = true ∧ State.reset.pins.modrst = true) ∧
    (let s := fset upState PWR_STATE f_PWR_STATE_STATE 1
     fget s PWR_STATE f_PWR_STATE_STATE = 1 ∧ fbit s HIF_STATUS f_HIF_STATUS_RECOVERY = false ∧
       fbit s HIF_STATUS f_HIF_STATUS_RECORD_LOST = false) ∧
    (let w : HostWait := ⟨1, 0, .ring 3⟩
     let s : State := { fset upState HIF_STATUS f_HIF_STATUS_P1_UP 0 with beat := 0xFFFFFFFFFF, pins := { upState.pins with waits := [w] } }
     w ∈ s.pins.waits ∧ w.port = 1 ∧ portUp s 1 = false ∧ w.since + fget s HIF_CTL f_HIF_CTL_LINK_WAIT * beatsPerMs ≤ s.now) ∧
    upState.pins.waits = [] ∧ upState.pwr.applied = true ∧ imageSound State.reset = true ∧ (State.reset.flash.headerA || State.reset.flash.headerB) = true ∧
    (withPwr fun p => { p with shutdownStage := 2 }).pwr.shutdownStage ≠ 0 ∧
    (let s := fset upState PWR_STATE f_PWR_STATE_STATE 1
     let t : State := { s with flash := { s.flash with untrained := [] } }
     trainsCold t = false ∧ fget t PWR_STATE f_PWR_STATE_STATE = 1 ∧ fbit t HIF_STATUS f_HIF_STATUS_RECOVERY = false ∧
       trainsCold { t with devs := [(3, { Dev.empty with identity := 9 })] } = true) ∧
    (let bad : PartCopy := { State.reset.flash.partA with mac := { State.reset.flash.partA.mac with cert := [1] } }
     let s : State := { State.reset with flash := { State.reset.flash with partA := bad, partB := bad } }
     imageSound s = true ∧ s.flash.partA.passes = false ∧ s.flash.partB.passes = false) ∧
    ({ State.reset with flash := { State.reset.flash with headerA := false, headerB := false } } : State).flash.headerA = false := by
  decide +kernel

/-- Ring 0 with a command in execution; its completion queue of 16 records lies in host memory at 0x2000. -/
def cmdState (cmd : List Byte) : State :=
  (withFields upState [(HIF_CQ_CTL 0, f_HIF_CQ_CTL_ENABLE, 1), (HIF_CQ_CTL 0, f_HIF_CQ_CTL_LOG2_ENTRIES, 4),
    (HIF_SQ_CTL 0, f_HIF_SQ_CTL_ENABLE, 1), (HIF_SQ_CTL 0, f_HIF_SQ_CTL_LOG2_ENTRIES, 4)]).setRing 0
      { Ring.empty with cur := some cmd }

/-- A command: opcode and flags, ADDR, SIZE and ARG0. -/
def cmdOf (op flags addr size arg : Nat) : List Byte := bytesOf 64 [(0, 1, op), (1, 1, flags), (8, 8, addr), (16, 8, size), (24, 8, arg)]

theorem test_RingsFetchExecuteAndComplete :
    hostReady upState = true ∧ hostReady State.reset = false ∧ (upState.ring 0).waiting = none ∧ (7 : BitVec 16).toNat ≠ (upState.ring 0).cqHead ∧
    (let s := (cmdState []).setRing 0 { Ring.empty with tail := 1 }
     fetchable s 0 = true ∧ hostDown s (ringAddr s (HIF_SQ_BASE 0) + 64 * fget s (HIF_SQ_CTL 0) f_HIF_SQ_CTL_HEAD) = false) ∧
    (let s := (cmdState []).setRing 0 { Ring.empty with tail := 1 }
     let s := withFields s [(HIF_SQ_BASE 0, f_HIF_SQ_BASE_PORT, 1), (HIF_STATUS, f_HIF_STATUS_P1_UP, 0)]
     fetchable s 0 = true ∧ hostDown s (ringAddr s (HIF_SQ_BASE 0) + 64 * fget s (HIF_SQ_CTL 0) f_HIF_SQ_CTL_HEAD) = true) ∧
    (let s := withFields (upState.setRing 0 { Ring.empty with unannounced := 1 })
       [(HIF_CQ_MOD 0, f_HIF_CQ_MOD_TIME, 1), (HIF_CQ_CTL 0, f_HIF_CQ_CTL_IRQ_EN, 1)]
     (s.ring 0).unannounced ≠ 0 ∧ fbit s (HIF_CQ_CTL 0) f_HIF_CQ_CTL_IRQ_EN = true ∧ fget s (HIF_CQ_MOD 0) f_HIF_CQ_MOD_TIME ≠ 0 ∧
       (s.ring 0).firstBeat + 100 * fget s (HIF_CQ_MOD 0) f_HIF_CQ_MOD_TIME ≤ s.now) ∧
    (∀ op ∈ [0, 4, 5, 6], command (cmdState (cmdOf op 0 0 0 0)) 0 op = some (cmdOf op 0 0 0 0)) ∧
    blackout (cmdState []) = false ∧
    (∀ c ∈ [cmdOf 3 0 0x4000 0 5], let s := cmdState c
      command s 0 3 = some c ∧ chHalted s (.host 0) = false ∧ hostDown s (cmdAddr c) = false ∧ rangeMapped s .other (cmdAddr c) 64 = true ∧
      rangeRetired s (cmdAddr c) 64 = false ∧ (verifyRange s .other (cmdAddr c) 64).1 = []) ∧
    (∀ c ∈ [cmdOf 3 0 (2 ^ 54) 0 5], let s := cmdState c
      command s 0 3 = some c ∧ hostDown s (cmdAddr c) = false ∧ rangeMapped s .other (cmdAddr c) 64 = false) ∧
    (let s := fset (cmdState (cmdOf 2 0 0 0 0)) (chState (.host 0)) f_DMA_CH_STATE_HALTED 1
     command s 0 2 = some (cmdOf 2 0 0 0 0) ∧ chHalted s (.host 0) = true) := by decide +kernel

/-- A completion queue that takes a record, and one that does not. -/
theorem test_RingsFetchExecuteAndComplete_cq : CqTakes (cmdState []) 0 ∧ ¬ CqTakes upState 0 := by
  unfold CqTakes; decide +kernel

/-- A host chain of one copy at 2^55 + 0x4000 in host memory. -/
theorem test_RingsFetchExecuteAndComplete_copy :
    let a := 2 ^ 55 + 0x4000
    let c := cmdOf 2 0 a 0 0xFF
    let d := xferDesc 0 0x88 0 0 0x100 0x300 0 4
    let s := withBytes (cmdState c) a d
    let e : Engine := .host 0
    command s 0 2 = some c ∧ chHalted s e = false ∧ (s.chan e).cur = none ∧ (s.chan e).next = none ∧ cmdAddr c = a ∧
    fetches (s.setChan e Chan.empty) e a d := by dsimp only [fetches]; decide +kernel

/-- An image whose digest is that of a state's repair map: one core's program, a compute phase and a COMMIT phase. -/
def imageFor (s : State) : JobImage :=
  { readable := true, order := 0x4836, modRev := 2, digest := currentDigest s, stateDigest := 0, code := [(c0, [0, 0])]
    preloads := [], scratch := [], tiles := BitVec.allOnes 48, settings := (INF_LS_CTL, 0x03E82801) ::
      (List.range 24).map fun h => (INF_CKPT_STAGE h, BitVec.ofNat 64 (0x100000000000 + h * 2 ^ 36))
    period := 1000
    carousel := [phaseOf 0 0, phaseOf 10 2], tensors := [], tensorTile := [], meshes := [], modules := [], formats := []
    contexts := [], pools := [], lists := [], pinned := [], widths := [] }

/-- A job load of the image is accepted by an idle module. -/
theorem test_loadFault : loadFault upState (imageFor upState) false = 0 := by
  have hd : ((imageFor upState).digest != currentDigest upState) = false := by simp [imageFor]
  unfold loadFault
  rw [hd]
  decide +kernel

/-- A resume load of it is accepted by a held one. -/
theorem test_resumeFault : loadFault heldState (imageFor heldState) true = 0 := by
  have hd : ((imageFor heldState).digest != currentDigest heldState) = false := by simp [imageFor]
  have he : resumeOk heldState (imageFor heldState) = true := by
    have : ((imageFor heldState).digest == currentDigest heldState) = true := by simp [imageFor]
    unfold resumeOk
    rw [this]
    decide +kernel
  unfold loadFault
  rw [hd, he]
  decide +kernel

/-- LOAD_JOB and its resume form in execution, and what they read. -/
theorem test_LoadsPlaceTheJobOrRejectIt :
    (∀ f ∈ [0, 1], command (cmdState (cmdOf 1 f 0x4000 64 0)) 0 1 = some (cmdOf 1 f 0x4000 64 0) ∧
      isResume (cmdOf 1 f 0x4000 64 0) = (f == 1)) ∧
    (let s := cmdState (cmdOf 1 0 0x4000 64 0)
     blackout s = false ∧ fbit s TBU_STATUS f_TBU_STATUS_CAROUSEL_IDLE = true ∧ fget s PWR_STATE f_PWR_STATE_STATE = 2 ∧
       hostDown s 0x4000 = false ∧ rangeMapped s .other 0x4000 64 = true ∧ rangeRetired s 0x4000 64 = false ∧
       loadFault s { imageFor s with readable := false } false = 8 ∧ held s = false) ∧
    fbit (fset upState TBU_STATUS f_TBU_STATUS_CAROUSEL_IDLE 0) TBU_STATUS f_TBU_STATUS_CAROUSEL_IDLE = false ∧
    held (fset (cmdState (cmdOf 1 1 0x4000 64 0)) TBU_RESTART f_TBU_RESTART_HELD 1) = true ∧
    loadFault heldState { imageFor heldState with readable := false } true = 8 ∧
    ((imageFor upState).code.map (·.1)).Nodup := by decide +kernel

/-- The header of an image of one empty section of a type, with a digest. -/
def headerOf (type digest : Nat) : List Byte := bytesOf 80 [(15, 1, 1), (64, 2, type)] ++ leBytes 48 digest
def image6 (digest : Nat) : ConfigImage := { ConfigImage.blank with header := headerOf 6 digest }

/-- The update state is `n`, an image of section 6 staged at 0x10000, section 6 waiting. -/
def updating (n : Nat) (cmd : List Byte) : State :=
  setUpdState { withBytes (cmdState cmd) 0x10000 (headerOf 6 0) with upd := { Update.empty with staged := some (0x10000, 128), waiting := [6] } } n

theorem test_UpdatesStageApplyAndProve :
    (let c := cmdOf 7 0 0x4000 4096 0
     let s := cmdState c
     command s 0 7 = some c ∧ blackout s = false ∧ chHalted s (.host 0) = false ∧ s.upd.agent = none ∧ hostDown s (cmdAddr c) = false ∧
       rangeMapped s .other (cmdAddr c) (cmdSize c) = true ∧ rangeRetired s (cmdAddr c) (cmdSize c) = false ∧ updState s = 0) ∧
    (∀ p ∈ [(0, 0), (1, 1), (2, 1), (3, 3), (0, 1), (1, 3), (2, 2), (2, 3), (3, 1)], let c := cmdOf 8 0 0 0 p.1
      command (updating p.2 c) 0 8 = some c ∧ arg0 c = p.1 ∧ updState (updating p.2 c) = p.2) ∧
    blackout (updating 1 []) = false ∧ (stagedImage (updating 1 [])).isSome = true ∧ (stagedImage (updating 4 [])).isSome = true := by
  decide +kernel

/-- Little-endian bytes read back as their number. -/
theorem leNat_leBytes (n v : Nat) : leNat (leBytes n v) = v % 256 ^ n := by
  induction n generalizing v with
  | zero => simp [leBytes, leNat, Nat.mod_one]
  | succ n ih =>
    rw [leBytes, leNat, ih, BitVec.toNat_ofNat, show 256 ^ (n + 1) = 256 * 256 ^ n by ring, Nat.mod_mul]

/-- The flash's image takes section 6 back, with a digest of its header. -/
def revertingTo (digest : Nat) : State :=
  setUpdState { upState with
    flash := { upState.flash with image := image6 digest }, upd := { Update.empty with waiting := [6] } } 5

/-- A section that is due and sound. -/
theorem test_UpdatesStageApplyAndProve_section :
    let s := revertingTo (Config.sha384 []).toNat
    6 ∈ s.upd.waiting ∧ blackout s = false ∧ sectionDue s 6 = true ∧ (∀ j ∈ s.upd.waiting, j < 6 → sectionDue s j = false) ∧
      ∃ x, pendingSection s 6 = some x ∧ sectionOk x = true := by
  refine ⟨by decide +kernel, by decide +kernel, by decide +kernel, by decide +kernel, imageSection (image6 _) 0, rfl, ?_⟩
  have h : (imageSection (image6 (Config.sha384 []).toNat) 0).digest =
      BitVec.ofNat 384 (leNat (leBytes 48 (Config.sha384 []).toNat)) := rfl
  have b : (imageSection (image6 (Config.sha384 []).toNat) 0).body = [] := rfl
  have lt := (Config.sha384 []).isLt
  rw [sectionOk, h, b, leNat_leBytes, Nat.mod_eq_of_lt (by omega), BitVec.ofNat_toNat, BitVec.setWidth_eq]
  simp

set_option exponentiation.threshold 400 in
/-- Of two staged images whose sections have different digests one is not sound. -/
theorem test_UpdatesStageApplyAndProve_unsound :
    ∃ d ∈ [0, 1], let s := setUpdState (withBytes (updating 2 []) 0x10000 (headerOf 6 d)) 2
      6 ∈ s.upd.waiting ∧ blackout s = false ∧ sectionDue s 6 = true ∧ (∀ j ∈ s.upd.waiting, j < 6 → sectionDue s j = false) ∧
        updState s = 2 ∧ ∃ x, pendingSection s 6 = some x ∧ sectionOk x = false := by
  have k : ∀ d ∈ [0, 1], let s := setUpdState (withBytes (updating 2 []) 0x10000 (headerOf 6 d)) 2
      6 ∈ s.upd.waiting ∧ blackout s = false ∧ sectionDue s 6 = true ∧ (∀ j ∈ s.upd.waiting, j < 6 → sectionDue s j = false) ∧
        updState s = 2 ∧ pendingSection s 6 = some ⟨6, 0, BitVec.ofNat 384 d, []⟩ := by decide +kernel
  have h : ∀ d ∈ [0, 1], sectionOk ⟨6, 0, BitVec.ofNat 384 d, []⟩ = false →
      ∃ d ∈ [0, 1], let s := setUpdState (withBytes (updating 2 []) 0x10000 (headerOf 6 d)) 2
        6 ∈ s.upd.waiting ∧ blackout s = false ∧ sectionDue s 6 = true ∧ (∀ j ∈ s.upd.waiting, j < 6 → sectionDue s j = false) ∧
          updState s = 2 ∧ ∃ x, pendingSection s 6 = some x ∧ sectionOk x = false := fun d hd ho =>
    let v := k d hd
    ⟨d, hd, v.1, v.2.1, v.2.2.1, v.2.2.2.1, v.2.2.2.2.1, _, v.2.2.2.2.2, ho⟩
  by_cases z : Config.sha384 [] = BitVec.ofNat 384 0
  · refine h 1 (by simp) ?_
    rw [sectionOk, z]; decide
  · exact h 0 (by simp) (by simpa [sectionOk] using z)

/-- Where no block is bad and no error waits, every range is sound. -/
theorem blocksSound_of_clean (s : State) (a n : Nat) (hv : s.env = []) (he : s.errs = []) : BlocksSound s a n :=
  fun b _ => Or.inr ⟨by simp [mismatchOf, hv, mapGet], by simp [he]⟩

/-- Witness of UpdatesStageApplyAndProve: what the staging reads is sound or bad, and section 5 in a window of one channel. -/
theorem test_UpdatesStageApplyAndProve_blocks :
    (∀ a n, BlocksSound (ringMoved (hostPlaced (cmdState (cmdOf 7 0 0x4000 4096 0)) (cmdOf 7 0 0x4000 4096 0) []) 0 4096) a n) ∧
    StagedSound (updating 4 []) ∧ StagedSound (revertingTo 0) ∧
    (let c := cmdOf 7 0 0x4000 4096 0
     let s : State := { cmdState c with errs := [⟨keyOf upState 0x1000 / 512, .parity⟩] }
     (verifyRange s .other 0x1000 4096).1 ≠ []) ∧
    (let s : State := { updating 2 [] with errs := [⟨keyOf upState 0x10000 / 512, .parity⟩] }
     (verifySource s).1 = false ∧ (verifyStaged (setUpdState s 4)).1 = false ∧ updState (setUpdState s 4) = 4) := by
  refine ⟨fun a n => blocksSound_of_clean _ a n (by decide +kernel) (by decide +kernel), fun p _ => ?_, fun p _ => ?_, ?_, ?_⟩
  · exact blocksSound_of_clean _ _ _ (by decide +kernel) (by decide +kernel)
  · exact blocksSound_of_clean _ _ _ (by decide +kernel) (by decide +kernel)
  · decide +kernel
  · decide +kernel

/-- A window is open on channel 3 of stack 0, and section 5 waits. -/
theorem test_UpdatesStageApplyAndProve_training :
    let t : State := { updating 2 [] with upd := { (updating 2 []).upd with waiting := [5] } }
    let s := fset (t.setDev (.stack 0) { Dev.empty with windowOpen := some 4000 }) (devMaint (.stack 0)) f_HBM_MAINT_CHANNEL 3
    openChannels s = [(devKey (.stack 0), 3)] ∧ sectionDue s 5 = true ∧ (allDevices.map channelCount).sum = 1152 := by
  decide +kernel

/-- The recovery ROM at work on an update, and out of it. -/
theorem test_UpdatesStageApplyAndProve_recovery :
    let s := fset { upState with upd := { Update.empty with agent := some .i3c } } HIF_STATUS f_HIF_STATUS_RECOVERY 1
    inRecovery s = true ∧ updState s = 0 ∧ rmUp s = true ∧ inRecovery upState = false ∧ updState (updating 1 []) = 1 := by
  decide +kernel

theorem test_UpdatesStageApplyAndProve_agent :
    let s : State := { upState with
      upd := { Update.empty with agent := some .i3c }, mgr := { Manager.empty with ports := List.replicate 3 { Port.empty with eid := some 9 } } }
    rmUp s = true ∧ (s.port .i3c).eid.isSome = true ∧ s.upd.agent = some .i3c ∧ inRecovery s = false ∧ updState s = 0 ∧
    upState.upd.agent = none ∧ updState (updating 4 []) = 4 ∧ fbit (updating 4 []) HIF_STATUS f_HIF_STATUS_RECOVERY = false := by
  decide +kernel

/-! ### Attestation, management, monitoring, snapshots and registers -/

/-- The I3C endpoint has its ID, and has negotiated and signed. -/
def talking (negotiated : Bool) (transcript : Option (BitVec 384)) (f : Flash) : State :=
  { upState with
    mgr := { Manager.empty with ports := List.replicate 3 { Port.empty with eid := some 9, negotiated := negotiated, transcript := transcript } }
    flash := f }

/-- The current LMS state record of sequence 5 has a bottom and a top leaf. -/
def leafFlash (bottom top : Nat) (ready : Bool) : Flash :=
  { Flash.shipped with lmsA := [lmsBytes 4 0 0, lmsBytes 5 top bottom], treeReady := ready }

theorem test_AttestationNeverReusesALeaf :
    (spdmOpen (talking true (some 1) Flash.shipped) .i3c = true ∧ inRecovery (talking true (some 1) Flash.shipped) = false) ∧
    ((talking true (some 1) Flash.shipped).port .i3c).negotiated = true ∧
    ((talking false none Flash.shipped).port .i3c).negotiated = false ∧
    ((talking true (some 1) Flash.shipped).port .i3c).transcript = some 1 ∧
    ((talking false none Flash.shipped).port .i3c).transcript = none ∧
    lmsCurrent { Flash.shipped with lmsA := [] } = none ∧
    (∀ p ∈ [(32767, 0), (32768, 1022), (32768, 1023)], ∀ ready ∈ [true, false],
      let s := talking true (some 1) (leafFlash p.1 p.2 ready)
      s.flash.treeReady = ready ∧ s.flash.lmsBad = [] ∧ (lmsCurrent s.flash).any (fun cur => decide (lmsSeq cur + 2 < 2 ^ 32) &&
        decide (lmsBottom cur = p.1) && decide (lmsTop cur = p.2)) = true) ∧
    (let f := leafFlash 32767 0 true
     let slot := (boolNat (lmsNext f).1, (lmsNext f).2.length)
     slot ∈ ({ f with lmsBad := [slot] } : Flash).lmsBad) ∧
    (let s := talking true none (leafFlash 16384 0 false)
     (lmsCurrent s.flash).any (fun cur => decide (16384 ≤ lmsBottom cur)) = true ∧ s.mgr.hssWaiting = []) ∧
    (let s := talking true none (leafFlash 32768 0 false)
     ({ s with mgr := { s.mgr with hssWaiting := [(.i3c, 1)] } } : State).mgr.hssWaiting = (.i3c, 1) :: []) := by decide +kernel

/-- The record that a module leaves the factory with is valid (Table HST-12). -/
theorem test_shipped_lms_record : lmsCurrent Flash.shipped = some (lmsBytes 0 0 0) := by decide +kernel

theorem test_ManagementAnswersItsRequests :
    let s := talking true none Flash.shipped
    rmUp s = true ∧ s.mgr.ports.length = 3 ∧ (upState.port .i3c).eid = none ∧ (s.port .i3c).eid.isSome = true ∧ inRecovery s = false ∧
    ((s.port .i3c).subscribers.filter fun x => x.1 != 3).length < 4 ∧
    (let u : State := { s with mgr := { s.mgr with
        ports := List.replicate 3 { Port.empty with eid := some 9, subscribers := [(1, 1), (2, 1), (4, 1), (5, 7)] } } }
     4 ≤ ((u.port .i3c).subscribers.filter fun x => x.1 != 3).length) ∧
    upState.pwr.applied = true ∧ State.reset.pins.modrst = true ∧ upState.pins.modrst = false := by decide +kernel

/-- IDCODE of Table MGT-9's text: bit 0 is 1. -/
theorem test_idcode : bitAt 0x248363EB 0 = true := by decide

/-- 128 entries of the RAM log wait to be copied. -/
def logState : State :=
  let e : LogEntry := { beat := 0, seq := 0, kind := .restart, boot := false, unit := 0, data := 0, logged := 0 }
  { upState with mgr := { Manager.empty with queue := [e], ram := List.replicate 128 e } }

theorem test_TheRingmasterRestartsAndCounts :
    pairRuns upState = true ∧ secondMismatch upState = false ∧
    (let s : State := { upState with mgr := { Manager.empty with mismatchBeat := some 0 } }
     s.mgr.mismatchBeat = some 0 ∧ s.now ≤ 0 + 10000 * beatsPerMs) ∧
    (let s : State := { upState with beat := 0xFFFFFFFFFF }
     rmUp s = true ∧ s.mgr.kickBeat + fget s MGS_WDOG f_MGS_WDOG_TIMEOUT * beatsPerMs ≤ s.now) ∧
    (let s : State := { upState with mgr := { Manager.empty with restarting := true } }
     s.mgr.restarting = true ∧ fbit s MGS_STATUS f_MGS_STATUS_RM_HELD = false ∧ 1 ∉ s.upd.waiting ∧ firmwareSound s = true ∧
       firmwareSound { s with upd := { Update.empty with inForce := [(1, (5, 0))] }, flash := { s.flash with image := image6 0 } } = false) ∧
    (let s : State := { fset (withBytes upState 0x10000 (headerOf 1 0)) MGS_STATUS f_MGS_STATUS_LAST_RESTART 4 with
        mgr := { Manager.empty with restarting := true }, upd := { Update.empty with staged := some (0x10000, 128), waiting := [1] } }
     fbit s MGS_STATUS f_MGS_STATUS_RM_HELD = false ∧ fget s MGS_STATUS f_MGS_STATUS_LAST_RESTART = 4 ∧
       (pendingSection s 1).isSome = true) ∧
    (pairRuns (fset upState MGS_STATUS f_MGS_STATUS_RM_HELD 1) = false ∧ upState.pwr.applied = true ∧
      upState.now < upState.mgr.kickBeat + fget upState MGS_WDOG f_MGS_WDOG_TIMEOUT * beatsPerMs) ∧
    (rmUp logState = true ∧ logState.mgr.queue.length = 1 ∧ logState.mgr.ram.length < 32768) ∧
    (rmUp logState = true ∧ 128 ≤ (unflashed logState).length ∧ logState.flash.log.length + (unflashed logState).length ≤ 2097152) ∧
    (∀ p ∈ [((some 47 : Option TileId), (63 : Fin 128)), (none, 127)], ∃ a, mcReg p.1 p.2 = some a) ∧
    mayWrite upState .host (some grpMonitor) = true ∧ fbit upState MGS_MC_CTL f_MGS_MC_CTL_FREEZE = false ∧
    (let s := upState.setReg (MGS_MC_VAL 127 - 8) (0x131 + 2 ^ f_MGS_MC_SEL_ENABLE.lo)
     mcCounts s (MGS_MC_VAL 127) = true) ∧
    (let s := upState.setReg (MGS_MC_VAL 127 - 8) (0x001 + 2 ^ f_MGS_MC_SEL_ENABLE.lo)
     mcCounts s (MGS_MC_VAL 127) = false) := by
  refine ⟨by decide +kernel, by decide +kernel, by decide +kernel, by decide +kernel, by decide +kernel, by decide +kernel,
    by decide +kernel, by decide +kernel, by decide +kernel, ?_, by decide +kernel, by decide +kernel, by decide +kernel⟩
  intro p hp
  simp only [List.mem_cons, List.not_mem_nil, or_false] at hp
  rcases hp with rfl | rfl <;> exact ⟨_, rfl⟩

/-- A trigger fired three beats ago. -/
def triggered : State := { upState with snaps := { Snaps.empty with triggers := [⟨4997, 1, 0⟩] } }

theorem test_SnapshotsLatchEveryEmptyBlock :
    mayWrite upState .host (some grpSnapshot) = true ∧
    (let s := fset upState MGS_SNAP_CTL f_MGS_SNAP_CTL_PIN_EN 1
     fbit s MGS_SNAP_CTL f_MGS_SNAP_CTL_PIN_EN = true ∧ s.snaps.driveFrom = none) ∧
    (let s : State := { upState with snaps := { Snaps.empty with driveFrom := some 4997 } }
     s.snaps.driveFrom = some 4997 ∧ s.now < 4997 + 4) ∧
    (let s := fset upState MGS_SNAP_CTL f_MGS_SNAP_CTL_MATCH_ARM 1
     fbit s MGS_SNAP_CTL f_MGS_SNAP_CTL_MATCH_ARM = true ∧ s.reg MGS_SNAP_BEAT ≤ s.now) ∧
    (triggered.snaps.triggers = [⟨4997, 1, 0⟩] ∧ 4997 + 2 ≤ triggered.now) ∧
    (let s : State := { fset upState MGS_SNAP_CTL f_MGS_SNAP_CTL_AUTO_SAVE 1 with snaps := { Snaps.empty with latches := [(0, [1])] } }
     fbit s MGS_SNAP_CTL f_MGS_SNAP_CTL_AUTO_SAVE = true ∧ s.snaps.latches ≠ [] ∧ s.snaps.saving = false ∧ rmUp s = true) ∧
    (let s : State := { upState with snaps := { Snaps.empty with saving := true } }
     s.snaps.saving = true ∧ rmUp s = true) := by decide +kernel

theorem test_ReleasesEmptyTheLatches : hostReady upState = true ∧ mayWrite upState .host (some grpSnapshot) = true := by
  decide +kernel

/-- A register the host may not write, one of the management space, and one that no row names. -/
theorem test_RegisterWritesObeyRightsAndAccess :
    ((regRow MGS_SEAL).isSome = true ∧ MGS_SEAL % 8 = 0 ∧ isHif MGS_SEAL = false ∧ mayWrite upState .host (regGroup MGS_SEAL) = false ∧
      hostReady upState = true ∧ hostReady State.reset = false) ∧
    ((regRow TBU_CTL).isSome = true ∧ TBU_CTL % 8 = 0) ∧ ((regRow 0x900000).isSome = true ∧ 0x900000 % 8 = 0) ∧
    (mayWrite upState .host (regGroup MGS_SEAL) = false ∧ regRow 0x900000 ≠ none ∧ openEarly (0xA00000 + 0x1000) = false) ∧
    windowClosed 0xA00008 = true ∧ halvesOf 0xF0 = some (false, true) ∧ latchesHalf (TBU_BEAT + 4) = false ∧
    (regRow INF_SEED).any (fun row => writesField row (true, true) && !writesField { row with fields := [] } (true, true)) = true ∧
    (regRow TBU_BEAT).any (fun row => !writesField row (true, true)) = true ∧
    regRow 0x2FFFFF8 = none ∧ halvesOf 0x01 = none ∧ latchesHalf TBU_BEAT = true := by decide +kernel

/-- An INTAKE of one frame of 8 × 8 into one BF16 token at 0x10000; the engines are enabled. -/
def intakeDesc : List Byte :=
  bytesOf 64 [(0, 1, 0x22), (2, 1, 8), (6, 2, 0xFFFF), (28, 4, 1), (36, 2, 8), (38, 2, 8), (40, 8, 0x10000)]

def intakeState (waiting : List (Nat × Nat)) : State :=
  { fset (coreWith (queued 2 intakeDesc)) VID_CTL f_VID_CTL_ENABLE 1 with vid := { Turnstile.empty with waiting := waiting } }

theorem test_IntakesWaitAndAreDecoded :
    currentOf (intakeState []) (coreChan c0) 0x22 = some (storeBase c0, intakeDesc, []) ∧
    ((intakeState []).chan (coreChan c0)).intake = false ∧
    fbit (fset (intakeState []) VID_CTL f_VID_CTL_ENABLE 0) VID_CTL f_VID_CTL_ENABLE = false ∧
    fbit (intakeState []) VID_CTL f_VID_CTL_ENABLE = true ∧ (intakeState []).vid.waiting.length < 256 ∧
    (startDesc (intakeState []) (coreChan c0) (storeBase c0) intakeDesc).1 = [] ∧
    faulty (intakeState []) (.channel (chanKey (coreChan c0))) = false ∧ intakeHeld (intakeState []) (coreChan c0) (storeBase c0) intakeDesc = false ∧
    (verifyRange (startDesc (intakeState []) (coreChan c0) (storeBase c0) intakeDesc).2 (chAgent (coreChan c0))
      (parseIntake intakeDesc).param 64).1 = [] := by decide +kernel

theorem test_IntakesWaitAndAreDecoded_dispatch :
    let s := withBytes (intakeState [(0, 0)]) (ctxAddr (intakeState []) 0) [1]
    let x := parseIntake intakeDesc
    s.vid.waiting = [(0, 0)] ∧ (idleEngine s).isSome = true ∧ coreOf (16 * 0 + 0) = c0 ∧ (x.fmt = 0 ∨ x.fmt = 8) ∧
    currentOf s (coreChan c0) 0x22 = some (storeBase c0, intakeDesc, []) ∧ (∀ q ∈ intakeNeeds s intakeDesc, portUp s q = true) ∧
    (verifyRange s .other (ctxAddr s x.ctx) 64).1 = [] ∧ idleEngine (fset s VID_CTL f_VID_CTL_ENGINE_EN 0) = none ∧
    (let r : EngineRun := ⟨0, 0, 0, readBytes s .other (ctxAddr s x.ctx) 64⟩
     r ∈ ({ s with vid := { Turnstile.empty with running := [r] } } : State).vid.running ∧ bitAt (field r.record 3 1) 0 = false) ∧
    rangeRetired s x.src x.srcBytes = false ∧
    rangeRetired s (parseParam (readBytes s .other x.param 64)).status 16 = false ∧ x.groups = 1 ∧
    groupFaults s x (parseParam (readBytes s .other x.param 64)) 0 none = false ∧ clipHeld s intakeDesc (readBytes s .other (ctxAddr s x.ctx) 64) = false ∧
    blocksHeld s [ctxAddr s x.ctx] = false ∧ rangeAccessible s .other (ctxAddr s x.ctx) 64 = true := by decide +kernel

/-- Witness of IntakesWaitAndAreDecoded: whatever the free value is, with as many engines at work it ends one of them. -/
theorem test_IntakesWaitAndAreDecoded_tick (r : EngineRun) :
    let v := (Config.freeValue upState.free).toNat
    let s : State := { upState with vid := { Turnstile.empty with running := List.replicate (v + 1) r } }
    s.vid.running[v]? = some r ∧ (Config.freeValue s.free).toNat % (s.vid.running.length + 1) = v := by
  simp [Nat.mod_eq_of_lt]

/-! ### The manual's worked examples -/

/-- spec/02, the example of the epochs: step 41. -/
theorem test_worked_epoch :
    epochOf (withFields (atBeat 0) [(TBU_EPOCH_BASE, ⟨0, 64⟩, 120000000), (TBU_STEP_PERIOD, f_TBU_STEP_PERIOD_PERIOD, 2000000)]) 41 =
      202000000 := by decide +kernel

/-- The values v0, v1, v5, v9 and v17 of Tables NUM-11 and NUM-12. -/
def exampleBlock : List Val := [0x3D17F62B, 0xC0100000, 0x4171999A, 0x3A6E8D11, 0xC1500000].map f32

/-- Table NUM-11. -/
theorem test_worked_block_E4M3 :
    (quantise fmtE4M3 .block false exampleBlock).scale = 0x7A ∧
      (quantise fmtE4M3 .block false exampleBlock).codes = [0x39, 0xE9, 0x7E, 0x0F, 0xFD] ∧
      (quantise fmtE4M3 .block false exampleBlock).fl = { clamps := 1 } := by decide +kernel

/-- Table NUM-12. -/
theorem test_worked_block_E2M1 :
    (quantise fmtE2M1 .block false exampleBlock).scale = 0x80 ∧
      (quantise fmtE2M1 .block false exampleBlock).codes = [0x0, 0xA, 0x7, 0x0, 0xF] ∧
      (quantise fmtE2M1 .block false exampleBlock).fl = { clamps := 1 } := by decide +kernel

/-- A group of one product of E4M3 elements. -/
def exampleGroup (a : Acc) (g : Nat × Nat × Nat × Nat) : Acc :=
  accGroup false a g.2.1 g.2.2.2 [(decodeVal fmtE4M3 g.1, decodeVal fmtE4M3 g.2.2.1)]

/-- Table SUM-3 with one split: the two ties go to the even significand. -/
theorem test_worked_sum :
    f32Code ([(0x38, 0x97, 0x38, 0x7F), (0x3C, 0x7F, 0x40, 0x7F), (0x38, 0x7F, 0x38, 0x7F), (0x30, 0x7F, 0x40, 0x7F)].foldl
      exampleGroup ⟨Val.zero, {}, none⟩).v = 0x4B800002 := by decide +kernel

/-- spec/03, the MXINT8 example: a partial beyond FP32, fast and strict. -/
theorem test_worked_partial :
    let g := List.replicate 32 (decodeVal fmtInt8 127, decodeVal fmtInt8 127)
    (f32Code (groupPartial false 0xFE 0xF0 g).1, (groupPartial false 0xFE 0xF0 g).2.1.ovf) = (0x7F7FFFFF, true) ∧
      (f32Code (groupPartial true 0xFE 0xF0 g).1, (groupPartial true 0xFE 0xF0 g).2.1.ovf) = (0x7F800000, true) := by
  decide +kernel

/-- spec/09, the example of an interleaved region: H12, its next page in H13, and the flash entry of the range. -/
theorem test_worked_interleave :
    let s := withFields (atBeat 0) [(HBM_MODE, f_HBM_MODE_INTERLEAVE, 2)]
    hbmLocate s 0x00F08A435000 = (12, 0x8A435000) ∧ hbmLocate s 0x00F08A436000 = (13, 0x8A436000) ∧
      badPage s (.stack 12) 1106 2 = 0x0000000204520C04 := by decide +kernel

/-- Table DMA-15: subblock 0 at 8:3. -/
theorem test_worked_strainer :
    let c := (strainEncode 5 ([0x40400000, 0xBFA00000, 0x3F000000, 0, 0x40000000, 0xC0400000, 0x3DD00000, 0x3F800000].map f32 ++
      List.replicate 120 Val.zero)).1
    c.take 2 = [0x40, 0x40] ∧ (c.drop 16).take 5 = [0x2F, 0x0B, 0xA0, 0x20, 0x28] ∧ c.length = 96 ∧
      (List.range 3).map (fun i => f32Code (strainDecode 5 c i)) = [0x403A0000, 0xBF9C0000, 0x3EF00000] := by decide +kernel

/-- spec/19, the example of register offsets. -/
theorem test_worked_offsets :
    CR_NAN_INFO 14 6 = 0x1D6310 ∧ ARR_WIDTH 19 7 2 = 0x277480 ∧ HBM_TEMP 12 = 0x80C000 := by decide

/-- spec/19, the same example: a host write of HBM_REPAIR of H12 under R460 is counted and noted. -/
theorem test_worked_denied :
    (after (exec (.registerWrite .host 0x80C018 0xFF 0) readyState)).map (fun t =>
      (t.reg 0x80C018, fget t MGS_HOST_DENIED f_MGS_HOST_DENIED_COUNT, fget t MGS_HOST_DENIED f_MGS_HOST_DENIED_OFFSET)) =
        some (readyState.reg 0x80C018, 1, 0x80C018) := by decide +kernel

end Sys2Proof.Tests
end

section
/-! What a write of a unit leaves at an address and in a block's envelope (R3, R232, R233, R255): the reading of a fold of writes,
then one block, then any list of bytes. -/

namespace Sys2Proof.Machine

/-- What is read after a fold whose every step either makes the reading `v` or leaves it: `v`, where a step makes it or it stood
before. -/
theorem foldl_reading {σ β γ : Type} {step : σ → β → σ} {read : σ → γ} {v : γ} {hits : β → Prop} {l : List β}
    (on : ∀ s, ∀ b ∈ l, hits b → read (step s b) = v) (off : ∀ s, ∀ b ∈ l, ¬ hits b → read (step s b) = read s) {s : σ}
    (h : (∃ b ∈ l, hits b) ∨ read s = v) : read (l.foldl step s) = v := by
  induction l generalizing s with
  | nil => exact h.resolve_left (by simp)
  | cons b l ih =>
    refine ih (fun s c hc => on s c (.tail _ hc)) (fun s c hc => off s c (.tail _ hc)) ?_
    by_cases hb : hits b
    · exact .inr (on s b (.head _) hb)
    · rw [off s b (.head _) hb]
      refine h.imp_left fun ⟨c, hc, hit⟩ => ⟨c, (List.mem_cons.1 hc).resolve_left fun e => hb (e ▸ hit), hit⟩

/-! ### One block -/

/-- The byte at a key after the write of a block whose bytes for that key all have one value. -/
theorem byteAt_writeBlock (s : State) (ag : Agent) {b k : Nat} {v : Byte} {bytes : List (Nat × Byte)} (poison : Bool)
    (agree : ∀ p ∈ bytes, b * 512 + p.1 = k → p.2 = v) (h : (∃ p ∈ bytes, b * 512 + p.1 = k) ∨ byteAt s k = v) :
    byteAt (writeBlock s ag b bytes poison) k = v := by
  obtain ⟨env, errs, ts, he, -⟩ := writeBlock_spec s ag b bytes poison
  rw [he]
  refine foldl_reading (read := fun m => mapGet 0 m k) (hits := fun p => b * 512 + p.1 = k) (fun m p hp hit => ?_)
    (fun m p _ miss => mapGet_mapSet_ne 0 0 m p.2 (Ne.symm miss)) h
  rw [← agree p hp hit, ← hit]
  exact mapGet_mapSet_same 0 m _ p.2

/-- The write of a block leaves the envelopes of the others. -/
theorem mismatchOf_writeBlock_ne (s : State) (ag : Agent) {b c : Nat} (bytes : List (Nat × Byte)) (poison : Bool) (h : c ≠ b) :
    mismatchOf (writeBlock s ag b bytes poison) c = mismatchOf s c := by
  obtain ⟨env, errs, ts, he, rfl | ⟨v, rfl⟩, -⟩ := writeBlock_spec s ag b bytes poison
  · rw [he]; rfl
  · rw [he]; exact mapGet_mapSet_ne 0 0 s.env v h

/-- A poisoned write marks its block (R255). -/
theorem mismatchOf_writeBlock_poisoned (s : State) (ag : Agent) (b : Nat) (bytes : List (Nat × Byte)) :
    mismatchOf (writeBlock s ag b bytes true) b = marked := by
  obtain ⟨env, errs, ts, he, -, hp⟩ := writeBlock_spec s ag b bytes true
  rw [he, hp rfl]
  exact mapGet_mapSet_same 0 s.env b marked

/-! ### Any list of bytes -/

/-- The byte at a key after a write whose bytes for that key all have one value. -/
theorem byteAt_writeCells (s : State) (ag : Agent) {ws : List (Nat × Byte × Bool)} {k : Nat} {v : Byte}
    (agree : ∀ w ∈ ws, keyOf s w.1 = k → w.2.1 = v) (h : (∃ w ∈ ws, keyOf s w.1 = k) ∨ byteAt s k = v) :
    byteAt (writeCells s ag ws) k = v := by
  refine foldl_reading (read := fun u => byteAt u k) (hits := fun b => b = k / 512 ∧ ∃ w ∈ ws, keyOf s w.1 = k)
    (fun u b _ ⟨hb, w, hw, hk⟩ => byteAt_writeBlock u ag _ ?_ (.inl ?_))
    (fun u b _ miss => byteAt_writeBlock u ag _ (v := byteAt u k) ?_ (.inr rfl)) (h.imp_left fun ⟨w, hw, hk⟩ => ?_)
  · simp only [List.mem_map, List.mem_filter, beq_iff_eq]
    rintro _ ⟨_, ⟨⟨w, hw, rfl⟩, hb⟩, rfl⟩ hk
    exact agree w hw (by simp only at hk hb; omega)
  · simp only [List.mem_map, List.mem_filter, beq_iff_eq]
    exact ⟨_, ⟨_, ⟨⟨w, hw, rfl⟩, by simp only; omega⟩, rfl⟩, by simp only; omega⟩
  · simp only [List.mem_map, List.mem_filter, beq_iff_eq]
    rintro _ ⟨_, ⟨⟨w, hw, rfl⟩, hb⟩, rfl⟩ hk
    exact absurd ⟨by simp only at hk hb; omega, w, hw, by simp only at hk hb; omega⟩ miss
  · exact ⟨k / 512, by simp only [List.mem_eraseDups, List.mem_map]; exact ⟨_, ⟨w, hw, rfl⟩, by simp only [hk]⟩, rfl, w, hw, hk⟩

/-- A byte at no address of the list reads as before. -/
theorem byteAt_writeCells_ne (s : State) (ag : Agent) {ws : List (Nat × Byte × Bool)} {k : Nat}
    (h : ∀ w ∈ ws, keyOf s w.1 ≠ k) : byteAt (writeCells s ag ws) k = byteAt s k :=
  byteAt_writeCells s ag (fun w hw hk => absurd hk (h w hw)) (.inr rfl)

/-- Of consecutive bytes, one whose place no other has reads back. -/
theorem byteAt_writeBytes (s : State) (ag : Agent) (a : Nat) (bs : List Byte) (poison : Bool) (i : Nat) (h : i < bs.length)
    (apart : ∀ j < bs.length, j ≠ i → keyOf s (a + j) ≠ keyOf s (a + i)) :
    byteAt (writeBytes s ag a bs poison) (keyOf s (a + i)) = bs[i] := by
  refine byteAt_writeCells s ag ?_ (.inl ?_) <;> simp only [List.mem_mapIdx]
  · rintro _ ⟨j, hj, rfl⟩ hk
    have hji : j = i := by_contra fun hne => apart j hj hne hk
    subst hji; rfl
  · exact ⟨_, ⟨i, h, rfl⟩, rfl⟩

/-- A block below host memory in which a poisoned byte lies is marked (R232, R255). -/
theorem mismatchOf_writeCells_poisoned (s : State) (ag : Agent) {ws : List (Nat × Byte × Bool)} {b : Nat} (hb : b < 2 ^ 46)
    (h : ∃ w ∈ ws, keyOf s w.1 / 512 = b ∧ w.2.2 = true) : mismatchOf (writeCells s ag ws) b = marked := by
  obtain ⟨w, hw, hk, hp⟩ := h
  refine foldl_reading (read := fun u => mismatchOf u b) (hits := fun c => c = b) (fun u c _ hc => ?_)
    (fun u c _ hc => mismatchOf_writeBlock_ne u ag _ _ (Ne.symm hc))
    (.inl ⟨b, by simp only [List.mem_eraseDups, List.mem_map]; exact ⟨_, ⟨w, hw, rfl⟩, hk⟩, rfl⟩)
  subst hc
  have hany : ((ws.map fun w => (keyOf s w.1, w.2)).filter fun w => w.1 / 512 == c).any (fun w => w.2.2) = true := by
    simp only [List.any_filter, List.any_map, List.any_eq_true]
    exact ⟨w, hw, by simp [hk, hp]⟩
  simp only [hb, decide_true, hany, Bool.and_self]
  exact mismatchOf_writeBlock_poisoned u ag c _

/-- A block in which no byte of the list lies keeps its envelope (R233). -/
theorem mismatchOf_writeCells_ne (s : State) (ag : Agent) {ws : List (Nat × Byte × Bool)} {b : Nat}
    (h : ∀ w ∈ ws, keyOf s w.1 / 512 ≠ b) : mismatchOf (writeCells s ag ws) b = mismatchOf s b := by
  refine foldl_reading (read := fun u => mismatchOf u b) (hits := fun _ => False) (fun _ _ _ => False.elim)
    (fun u c hc _ => mismatchOf_writeBlock_ne u ag _ _ ?_) (.inr rfl)
  simp only [List.mem_eraseDups, List.mem_map] at hc
  obtain ⟨_, ⟨w, hw, rfl⟩, rfl⟩ := hc
  exact (h w hw).symm

/-- Settles O22: the bytes and the envelopes after a list of writes, read off the fold over its blocks. -/
theorem writesReachTheirAddressesAlone : Obligations.WritesReachTheirAddressesAlone := fun s ag =>
  ⟨fun _ _ h => byteAt_writeCells_ne s ag h, fun a bs poison i h apart => byteAt_writeBytes s ag a bs poison i h apart,
    fun _ _ hb h => mismatchOf_writeCells_poisoned s ag hb h, fun _ _ h => mismatchOf_writeCells_ne s ag h⟩

end Sys2Proof.Machine
end

section
/-! Every step keeps the canonical form of registers, memory and envelopes (R2, R3, R455, log entry 9). Only a few operations touch one
of the three: a register set, a byte set, a mismatch set, and the loss of entries. Each of them keeps the form by a lemma of the sparse
map. For every other function of the model, `State.Canonical.f` says that `f` keeps the form, and its proof names, in order, the functions
that `f` calls: `h.f.g` is the form of `g (f s)`. -/

namespace Sys2Proof.Machine

/-! ### How functions of the state are put together -/

/-- What an instruction answers has the canonical form, where it is a next state. -/
def KeepsForm : Host.Outcome State Fault Refusal → Prop
  | .next t => t.Canonical
  | .fault _ | .refused _ => True

theorem keepsForm_fault (r : Fault) : KeepsForm (.fault r) := trivial

theorem keepsForm_refused (r : Refusal) : KeepsForm (.refused r) := trivial

protected theorem KeepsForm.ite {a b : Host.Outcome State Fault Refusal} (ha : KeepsForm a) (hb : KeepsForm b) {c : Prop} [Decidable c] :
    KeepsForm (if c then a else b) := by
  split
  · exact ha
  · exact hb

section
variable {s : State} (h : s.Canonical)
include h

/-- An update of any other part of the state keeps the form. -/
protected theorem State.Canonical.update {errs seqs tiles slices pools moves chans mesh spanHeld dieHeld dieIn devs dies tempRetired
    beat windowStart slews ptpStamp syncBase car stp job repair links rings qps regions flash upd mgr snaps pwr pins vid halves out free
    pending} :
    State.Canonical ⟨s.regs, s.mem, s.env, errs, seqs, tiles, slices, pools, moves, chans, mesh, spanHeld, dieHeld, dieIn, devs, dies,
      tempRetired, beat, windowStart, slews, ptpStamp, syncBase, car, stp, job, repair, links, rings, qps, regions, flash, upd, mgr,
      snaps, pwr, pins, vid, halves, out, free, pending⟩ := h

protected theorem State.Canonical.ite {t : State} (ht : t.Canonical) {c : Prop} [Decidable c] : (if c then s else t).Canonical := by
  split
  · exact h
  · exact ht

protected theorem State.Canonical.foldl {β : Type} {l : List β} {f : State → β → State}
    (hf : ∀ {u : State} {b : β}, u.Canonical → (f u b).Canonical) : (l.foldl f s).Canonical :=
  List.foldlRecOn l f h fun _ hu _ _ => hf hu

/-- A fold that gathers a result beside the state. -/
protected theorem State.Canonical.foldlSnd {α β : Type} {a : α} {l : List β} {f : α × State → β → α × State}
    (hf : ∀ {u : α × State} {b : β}, u.2.Canonical → (f u b).2.Canonical) : (l.foldl f (a, s)).2.Canonical :=
  List.foldlRecOn (motive := fun u => u.2.Canonical) l f h fun _ hu _ _ => hf hu

/-- One proof for a state that several places name. -/
protected theorem State.Canonical.use {p : Prop} (k : s.Canonical → p) : p := k h

protected theorem State.Canonical.next : KeepsForm (.next s) := h

end

/-! ### Registers, units, events and counters -/

section
variable {s : State} (h : s.Canonical)
include h

protected theorem State.Canonical.setReg {a v} : (s.setReg a v).Canonical := by
  obtain ⟨hr, hme⟩ := h
  exact ⟨mapWf_mapSet regReset a _ hr, hme⟩

protected theorem State.Canonical.fset {a f v} : (fset s a f v).Canonical := h.setReg

protected theorem State.Canonical.fadd {a f n} : (fadd s a f n).Canonical := h.fset

protected theorem State.Canonical.setSeq {c x} : (s.setSeq c x).Canonical := h.update

protected theorem State.Canonical.setTile {t x} : (s.setTile t x).Canonical := h.update

protected theorem State.Canonical.setSlice {t x} : (s.setSlice t x).Canonical := h.update

protected theorem State.Canonical.setChan {e x} : (s.setChan e x).Canonical := h.update

protected theorem State.Canonical.setDev {d x} : (s.setDev d x).Canonical := h.update

protected theorem State.Canonical.setDie {die x} : (s.setDie die x).Canonical := h.update

protected theorem State.Canonical.setRing {q x} : (s.setRing q x).Canonical := h.update

protected theorem State.Canonical.setPort {m p} : (s.setPort m p).Canonical := h.update

protected theorem State.Canonical.setSensor {i x} : (s.setSensor i x).Canonical := h.update

protected theorem State.Canonical.takeFree : (takeFree s).2.Canonical := h.update

protected theorem State.Canonical.emit {m} : (emit s m).Canonical := h.update

protected theorem State.Canonical.waitLink {p w} : (waitLink s p w).Canonical := h.ite h.update

protected theorem State.Canonical.dropWaits {p} : (dropWaits s p).Canonical := h.update

protected theorem State.Canonical.msix {port vector} : (msix s port vector).Canonical := (h.emit.ite h.waitLink).ite h.update.setReg

protected theorem State.Canonical.interrupt {source} : (interrupt s source).Canonical := h.msix.ite h

protected theorem State.Canonical.refreshAlert : (refreshAlert s).Canonical := h.update

protected theorem State.Canonical.raiseAlert {f} : (raiseAlert s f).Canonical :=
  h.refreshAlert.ite (h.fset.refreshAlert.use fun h1 => h1.interrupt.ite h1)

protected theorem State.Canonical.post {k unit data} : (post s k unit data).Canonical := h.fadd.update.raiseAlert.ite h.update

protected theorem State.Canonical.fireSnapshot {source tile} : (fireSnapshot s source tile).Canonical := h.update

protected theorem State.Canonical.mcBump {a sel amount} : (mcBump s a sel amount).Canonical :=
  h.fset.ite (h.ite (h.fset.fset.post.raiseAlert.ite h.fset.fset))

protected theorem State.Canonical.mcAdd {base count source unit amount} : (mcAdd s base count source unit amount).Canonical :=
  h.ite (h.foldl fun hu => hu.mcBump)

protected theorem State.Canonical.mcTile {t source unit amount} : (mcTile s t source unit amount).Canonical := h.mcAdd

protected theorem State.Canonical.mcModule {source unit amount} : (mcModule s source unit amount).Canonical := h.mcAdd

protected theorem State.Canonical.denyWrite {a} : (denyWrite s a).Canonical := h.fadd.fset.ite h

protected theorem State.Canonical.guardedWrite {r a group act} (hact : ∀ {u : State}, u.Canonical → (act u).Canonical) :
    (guardedWrite s r a group act).Canonical :=
  (hact h).ite h.denyWrite

protected theorem State.Canonical.readPart {p} : (readPart s p).Canonical := h.update

protected theorem State.Canonical.writePart : (writePart s).Canonical := h.update

end

/-! ### Memory, envelopes and the cache -/

section
variable {s : State} (h : s.Canonical)
include h

protected theorem State.Canonical.setMismatch {b v} : (setMismatch s b v).Canonical := by
  obtain ⟨hr, hm, he⟩ := h
  exact ⟨hr, hm, mapWf_mapSet (fun _ => 0) b v he⟩

protected theorem State.Canonical.dropBlock {t b} : (dropBlock s t b).Canonical := h.setTile

protected theorem State.Canonical.dropRange {t lo hi} : (dropRange s t lo hi).Canonical := h.setTile

protected theorem State.Canonical.dropAll {t} : (dropAll s t).Canonical := h.setTile

protected theorem State.Canonical.withhold {n} : (withhold s n).Canonical := h.update

protected theorem State.Canonical.integrityEvent {t kind unit core a} : (integrityEvent s t kind unit core a).Canonical :=
  (h.fadd.ite h.fset.fset.fset.fset.fset.fset.fset).use fun h1 => (h1.fset.interrupt.ite h1.fset).post.withhold

protected theorem State.Canonical.clearErr {k} : (clearErr s k).Canonical := h.update

protected theorem State.Canonical.caddyParity {t kind a} : (caddyParity s t kind a).Canonical := h.fadd.ite h.fset.fset.fset.fset

protected theorem State.Canonical.logUncorrectable {k unit bank row} : (logUncorrectable s k unit bank row).Canonical :=
  (h.fset.ite h.fset.fset.fset.fset.fset).post.raiseAlert

protected theorem State.Canonical.verifyKey {ag k a} : (verifyKey s ag k a).2.Canonical := by
  unfold verifyKey
  dsimp only
  split
  · exact h.logUncorrectable
  · exact h.caddyParity.ite h
  · exact h
  · split
    · split
      · exact h.update.mcTile.ite h.update
      · exact h.update
    · exact h.update
  · exact h

protected theorem State.Canonical.verifyMemory {ag a} : (verifyMemory s ag a).2.Canonical := h.verifyKey

protected theorem State.Canonical.verifyBlock {ag a} : (verifyBlock s ag a).2.Canonical := by
  unfold verifyBlock
  dsimp only
  split
  · exact h.verifyMemory
  · split
    · exact h.mcTile.verifyMemory.dropBlock.setTile
    · split
      · exact h.mcTile.update.caddyParity.mcTile.verifyMemory.dropBlock.setTile
      · split
        · exact h.mcTile.verifyMemory.dropBlock.setTile
        · split
          · exact h.mcTile
          · split
            · exact h.mcTile.takeFree
            · exact h.mcTile.takeFree.verifyMemory.dropBlock.setTile

omit h in
protected theorem State.Canonical.verifyAll {ag as} (h : s.Canonical) : (verifyAll s ag as).2.Canonical := by
  induction as generalizing s with
  | nil => exact h
  | cons a as ih => exact ih (by split; exacts [h, h.verifyBlock])

protected theorem State.Canonical.verifyRange {ag a n} : (verifyRange s ag a n).2.Canonical := h.verifyAll

protected theorem State.Canonical.integrityAll {t unit core bad} : (integrityAll s t unit core bad).Canonical :=
  h.foldl fun hu => hu.integrityEvent

protected theorem State.Canonical.writeBlock {ag b bytes poison} : (writeBlock s ag b bytes poison).Canonical := by
  obtain ⟨hr, hm, he⟩ := h
  obtain ⟨env, errs, ts, hw, henv, -⟩ := writeBlock_spec s ag b bytes poison
  have hm' := writeBlock_wf s ag b bytes poison hm
  rw [hw] at hm' ⊢
  refine ⟨hr, hm', ?_⟩
  rcases henv with rfl | ⟨v, rfl⟩
  · exact he
  · exact mapWf_mapSet (fun _ => 0) b v he

protected theorem State.Canonical.writeCells {ag ws} : (writeCells s ag ws).Canonical := h.foldl fun hu => hu.writeBlock

protected theorem State.Canonical.writeBytes {ag a bs poison} : (writeBytes s ag a bs poison).Canonical := h.writeCells

protected theorem State.Canonical.dropEverywhere {lo hi} : (dropEverywhere s lo hi).Canonical := h.foldl fun hu => hu.ite hu.dropRange

end

/-! ### Links between modules and tiles -/

section
variable {s : State} (h : s.Canonical)
include h

protected theorem State.Canonical.sendSpan {k m} : (sendSpan s k m).Canonical := h.emit.ite h.update

protected theorem State.Canonical.releaseSpan {k} : (releaseSpan s k).Canonical := h.update.ite h

protected theorem State.Canonical.linkPassed {k} : (linkPassed s k).Canonical := h.update

protected theorem State.Canonical.sendMesh {f} : (sendMesh s f).Canonical := h.update

protected theorem State.Canonical.takeFlight {f t} (e : takeFlight s f = some t) : t.Canonical := by
  unfold takeFlight at e
  split at e
  · cases e
    exact h.update.foldl fun hu => hu.linkPassed
  · cases e

protected theorem State.Canonical.verifyPeer {k peer} : (verifyPeer s k peer).2.Canonical := h.verifyRange.verifyRange

protected theorem State.Canonical.leavePort {plane m} : (leavePort s plane m).Canonical := h.emit.ite h.sendSpan

protected theorem State.Canonical.passDie {t east} : (passDie s t east).Canonical := h.foldl fun hu => hu.linkPassed

protected theorem State.Canonical.sendPort {t plane m} : (sendPort s t plane m).Canonical := h.update.ite h.passDie.leavePort

protected theorem State.Canonical.releaseDies : (releaseDies s).Canonical := h.update.foldl fun hu => hu.sendPort

protected theorem State.Canonical.takeDie {t east load act} (hact : ∀ {u : State}, u.Canonical → (act u).Canonical) :
    (takeDie s t east load act).Canonical :=
  h.update.ite (hact h.passDie)

protected theorem State.Canonical.sendPacket {src peer p} : (sendPacket s src peer p).Canonical :=
  (h.verifyPeer.sendPort.ite h.verifyPeer).ite (h.sendPort.ite h.sendMesh)

protected theorem State.Canonical.sendVerdict {peer v} : (sendVerdict s peer v).Canonical :=
  (h.verifyPeer.emit.ite h.verifyPeer).ite h.sendSpan

end

/-! ### Format state, verdict, infusers and capture -/

section
variable {s : State} (h : s.Canonical)
include h

protected theorem State.Canonical.verifyFormat {id} : (verifyFormat s id).2.Canonical := by
  unfold verifyFormat
  split
  · exact h
  · exact h.verifyRange

protected theorem State.Canonical.mergeAmax {id v} : (mergeAmax s id v).Canonical := h.ite (h.verifyRange.ite h.verifyRange.writeBytes)

protected theorem State.Canonical.addNonfinite {n} : (addNonfinite s n).Canonical := h.update

protected theorem State.Canonical.pushAmax {push} : (pushAmax s push).Canonical :=
  h.foldl fun hu => State.Canonical.use (by split; exacts [hu.verifyFormat, hu]) fun h2 => (h2.writeBytes.writeBytes.ite h2).writeBytes

protected theorem State.Canonical.stepInterrupt : (stepInterrupt s).Canonical := h.interrupt.ite h

protected theorem State.Canonical.verdictArrives {nf wh slots} : (verdictArrives s nf wh slots).Canonical := by
  unfold verdictArrives
  extract_lets n r outcome oldExp s1 s2 s3 s4 s5 s6 s7 rec_ s8 s9 s10
  have h1 : s1.Canonical := h.fset.fset
  have h2 : s2.Canonical := h1.fset.ite h1
  have h5 : s5.Canonical := (h2.fset.ite h2).fset.fset.fset
  have h6 : s6.Canonical := h5.fadd.ite (h5.fadd.ite h5)
  have h9 : s9.Canonical := (h6.foldl fun hu => hu.writeBytes).writeBytes.pushAmax
  have h10 : s10.Canonical := h9.post.ite (h9.post.ite h9)
  exact h10.update

protected theorem State.Canonical.newRun {n} : (newRun s n).Canonical := h.update.fset.ite h.update

protected theorem State.Canonical.verdictComplete : (verdictComplete s).Canonical := by
  unfold verdictComplete
  split
  · exact h.verdictArrives.ite h
  · exact h

protected theorem State.Canonical.recordSum {part} : (recordSum s part).Canonical := by
  unfold recordSum
  split <;> exact h.update

protected theorem State.Canonical.sendSum {n part} : (sendSum s n part).Canonical :=
  ((h.foldl fun hu => hu.sendVerdict).ite h).use fun h1 => h1.recordSum.ite h1

protected theorem State.Canonical.foldCounts {n} : (foldCounts s n).Canonical := h.update.sendSum.ite h

protected theorem State.Canonical.foldRun {n first} : (foldRun s n first).Canonical := h.update.sendSum.ite h

protected theorem State.Canonical.takePart {n m part} : (takePart s n m part).Canonical := by
  unfold takePart
  split
  · exact h.ite h.update.foldCounts
  · exact h.ite h.update.foldRun

protected theorem State.Canonical.contributePart {n owner part} : (contributePart s n owner part).Canonical :=
  h.takePart.ite h.sendVerdict

protected theorem State.Canonical.normTableBad : (normTableBad s).2.Canonical := by
  unfold normTableBad
  dsimp only
  split
  · exact h
  · split
    · exact h
    · exact h.verifyRange

protected theorem State.Canonical.sendContribution {n} : (sendContribution s n).Canonical :=
  (h.normTableBad.update.fset.contributePart.foldl fun hu5 => hu5.contributePart).verdictComplete

protected theorem State.Canonical.sendDue : (sendDue s).Canonical := by
  unfold sendDue
  split
  · exact h.update.sendContribution
  · exact h

protected theorem State.Canonical.verifyStack {die off n} : (verifyStack s die off n).2.Canonical :=
  (h.clearErr.ite h).foldlSnd fun hu => hu.verifyKey

protected theorem State.Canonical.verifyHyper {e n} : (verifyHyper s e n).2.Canonical := by
  unfold verifyHyper
  split
  · exact h
  · refine State.Canonical.verifyFormat ?_
    split
    · exact h.verifyRange
    · exact h.verifyRange.verifyRange

protected theorem State.Canonical.setCursor {die pos} : (setCursor s die pos).Canonical := h.setDie.fset.fset

protected theorem State.Canonical.refreshBusy {die} : (refreshBusy s die).Canonical := h.fset

protected theorem State.Canonical.uploadStage {die} : (uploadStage s die).Canonical := h.emit

protected theorem State.Canonical.captureCheck : (captureCheck s).Canonical :=
  (h.foldl fun hu => hu.setDie.refreshBusy.ite hu).use fun h1 => (h1.fset.fset.foldl fun hu1 => hu1.uploadStage).ite h1

protected theorem State.Canonical.copyKeys {k a n} : (copyKeys s k a n).Canonical := by
  unfold copyKeys
  extract_lets v
  have hv : v.2.Canonical := h.foldlSnd fun hu => hu.verifyKey
  exact hv.writeCells

protected theorem State.Canonical.copyBytes {src dst n} : (copyBytes s src dst n).Canonical := h.verifyRange.writeCells

protected theorem State.Canonical.captureDie {n die} : (captureDie s n die).Canonical :=
  h.writeBytes.copyKeys.copyBytes.setDie.setCursor.refreshBusy

protected theorem State.Canonical.captureStart {n outcome} : (captureStart s n outcome).Canonical :=
  (h.fset.fset.ite (h.fset.fset.fset.foldl fun hu2 => hu2.captureDie).captureCheck).ite h

protected theorem State.Canonical.mirrorRecord {die off pos} : (mirrorRecord s die off pos).Canonical := h.copyKeys

protected theorem State.Canonical.entryBad {die i} : (entryBad s die i).2.Canonical := h.verifyStack

protected theorem State.Canonical.mirrorPoison {die pos} : (mirrorPoison s die pos).Canonical := h.writeBytes

protected theorem State.Canonical.captureStep {die} : (captureStep s die).Canonical :=
  (h.entryBad.mirrorPoison.ite h.entryBad.mirrorRecord).setCursor.captureCheck.ite h

protected theorem State.Canonical.leaveRecords {die off entry n} : (leaveRecords s die off entry n).Canonical :=
  (h.ite h.fset.fset.fset.fset).fadd

protected theorem State.Canonical.forwardRecord {die off pos left} : (forwardRecord s die off pos left).Canonical :=
  (h.mirrorRecord.setCursor.use fun h1 => h1.ite h1.fadd.mcModule).ite h

protected theorem State.Canonical.walkRecord {die e y n start r} : (walkRecord die e y n start s r).Canonical :=
  h.verifyStack.verifyStack.leaveRecords.forwardRecord.ite
    (h.verifyStack.verifyStack.forwardRecord.use fun h4 => (h4.fadd.ite h4.fadd.fadd.fset).use fun h6 =>
    h6.writeBlock.mergeAmax.mcModule.ite h6)

protected theorem State.Canonical.walkEntry {die n i} : (walkEntry die n s i).Canonical :=
  State.Canonical.use (by split; exacts [h.entryBad, h.entryBad.verifyHyper]) fun h2 =>
    (h2.leaveRecords.foldl fun hu4 => hu4.mirrorPoison.setCursor.ite hu4).ite
    ((h2.foldl fun hu3 => hu3.walkRecord).use fun h4 => h4.writeBlock.writeBlock.ite h4)

protected theorem State.Canonical.walkDie {die} : (walkDie s die).Canonical := by
  unfold walkDie
  split
  · exact h.ite (h.setDie.foldl fun hu1 => hu1.walkEntry).refreshBusy
  · exact h

protected theorem State.Canonical.walkDies : (walkDies s).Canonical := (h.foldl fun hu => hu.walkDie).captureCheck

protected theorem State.Canonical.infuserWalk {n} : (infuserWalk s n).Canonical :=
  (h.update.foldl fun hu1 => hu1.setDie.refreshBusy).walkDies

end

/-! ### The carousel, stopped tiles and pulses -/

section
variable {s : State} (h : s.Canonical)
include h

protected theorem State.Canonical.keepChange : (keepChange s).Canonical := (h.update.ite h).ite h.update

protected theorem State.Canonical.endsPass : (endsPass s).Canonical := h.update

protected theorem State.Canonical.seekStep {n} : (seekStep s n).Canonical := h.foldl fun hu => hu.setTile

protected theorem State.Canonical.setPhaseRec {r} : (setPhaseRec s r).Canonical := h.update

protected theorem State.Canonical.markPhases {more} : (markPhases s more).Canonical := h.update

protected theorem State.Canonical.enterHoldover : (enterHoldover s).Canonical := h.ite h.fset.post

protected theorem State.Canonical.dropRecord : (dropRecord s).Canonical := h.fadd.fset.post

protected theorem State.Canonical.writeRecord {bytes} : (writeRecord s bytes).Canonical := by
  unfold writeRecord
  refine h.dropRecord.ite ?_
  refine h.dropRecord.ite ?_
  split
  · exact h.waitLink
  · exact h.waitLink.ite h.writeBytes.fset

protected theorem State.Canonical.logPhase {r e} : (logPhase s r e).Canonical := h.ite h.update.writeRecord

protected theorem State.Canonical.setUpdState {x} : (setUpdState s x).Canonical := h.ite h.fset.interrupt.post

protected theorem State.Canonical.provingRestart : (provingRestart s).Canonical := h.fset.ite h

protected theorem State.Canonical.startWriting : (startWriting s).Canonical := h.update.setUpdState

protected theorem State.Canonical.provenCheck : (provenCheck s).Canonical := h.startWriting.ite h

protected theorem State.Canonical.provenStep : (provenStep s).Canonical := h.fadd.provenCheck.ite h

protected theorem State.Canonical.hold : (hold s).Canonical := h.fset.fset.update

protected theorem State.Canonical.idleNow : (idleNow s).Canonical := h.update.fset.fset.fset.fset.ite h.update.fset.fset.fset

protected theorem State.Canonical.stopCheck : (stopCheck s).Canonical := h.idleNow.ite h

protected theorem State.Canonical.phaseEnds {n p} : (phaseEnds s n p).Canonical := by
  unfold phaseEnds
  split
  · exact h
  · exact (h.logPhase.update.ite h.logPhase.update).use fun h3 =>
      ((h3.infuserWalk.ite h3).use fun h4 => (h4.provenStep.ite h4).captureStart.use fun h5 => h5.hold.ite h5).ite h3

protected theorem State.Canonical.tilePhaseEnds {t n p flags} : (tilePhaseEnds s t n p flags).Canonical :=
  (h.ite h.setPhaseRec).use fun h1 => (h1.setTile.phaseEnds.ite h1.setTile).stopCheck

protected theorem State.Canonical.settleOnce : (settleOnce s).Canonical := h.foldl fun hu => hu.tilePhaseEnds.ite hu

omit h in
protected theorem State.Canonical.settleAll {n} (h : s.Canonical) : (settleAll n s).Canonical := by
  induction n generalizing s with
  | zero => exact h
  | succ n ih => exact (ih h.settleOnce).ite h

protected theorem State.Canonical.settle : (settle s).Canonical := h.settleAll

protected theorem State.Canonical.stopTile {t data} : (stopTile s t data).Canonical :=
  h.withhold.ite
    ((h.withhold.setTile.foldl fun hu2 => hu2.ite hu2.setSeq).post.raiseAlert.interrupt.provingRestart.use fun h4 =>
    (h4.tilePhaseEnds.ite h4).settle)

protected theorem State.Canonical.faultStop {t data} : (faultStop s t data).Canonical := (h.ite h.fireSnapshot).stopTile

protected theorem State.Canonical.programFault {t cause ev core pc} : (programFault s t cause ev core pc).Canonical :=
  (h.ite h.fset.fset.fset.fset.fset.fset).faultStop

protected theorem State.Canonical.setEv {t ev n} : (setEv s t ev n).Canonical := h.setTile

protected theorem State.Canonical.grantWaits {t ev} : (grantWaits s t ev).Canonical := h.foldl fun hu => hu.setSeq.setEv.ite hu

protected theorem State.Canonical.pulseAt {t ev} : (pulseAt s t ev).Canonical := h.grantWaits.programFault.ite h.grantWaits.setEv

end

/-! ### Flags, the NaN trap and results -/

section
variable {s : State} (h : s.Canonical)
include h

protected theorem State.Canonical.numFlags {c fl} : (numFlags s c fl).Canonical := h.setReg.mcTile

protected theorem State.Canonical.nanRecord {c queue e w} : (nanRecord s c queue e w).Canonical :=
  h.fset.fset.fset.fset.setReg.fset.fset.fset.fset.fset

protected theorem State.Canonical.nanTrap {c queue e ws} : (nanTrap s c queue e ws).Canonical := by
  unfold nanTrap
  dsimp only
  split
  · exact h
  · exact h.ite
      (h.fadd.ite (h.takeFree.nanRecord.fadd.post.fireSnapshot.stopTile.ite
      (h.takeFree.nanRecord.fadd.post.fireSnapshot.ite h.takeFree.nanRecord.fadd.post)))

protected theorem State.Canonical.markDone {c queue} : (markDone s c queue).Canonical := by
  unfold markDone
  dsimp only
  split
  · exact h
  · exact h.setSeq

protected theorem State.Canonical.pathParity {c unit rows} : (pathParity s c unit rows).1.Canonical := by
  unfold pathParity
  dsimp only
  split
  · exact h.clearErr.integrityEvent
  · exact h

protected theorem State.Canonical.writeResults {c queue e tensor rows at_} : (writeResults s c queue e tensor rows at_).Canonical :=
  h.pathParity.writeCells.numFlags.mergeAmax.use fun h4 => (h4.addNonfinite.ite h4).nanTrap.markDone

end

/-! ### The arrays of a core -/

section
variable {s : State} (h : s.Canonical)
include h

protected theorem State.Canonical.matrixIntegrity {c x bad} : (matrixIntegrity s c x bad).Canonical :=
  h.foldl fun hu => hu.integrityEvent

protected theorem State.Canonical.matrixReads {c x} : (matrixReads s c x).2.Canonical := h.verifyAll

protected theorem State.Canonical.holdTile {c x} : (holdTile s c x).Canonical := h.setSeq.ite h

protected theorem State.Canonical.matrixOut {c e} : (matrixOut s c e).1.Canonical := h.matrixReads.matrixIntegrity.holdTile

protected theorem State.Canonical.runMatrix {c e} : (runMatrix s c e).Canonical := h.markDone.ite h.matrixOut.writeResults

protected theorem State.Canonical.queueParity {c queue} : (queueParity s c queue).Canonical := by
  unfold queueParity
  split
  · exact h.clearErr.setSeq.programFault.ite h
  · exact h

protected theorem State.Canonical.execMatrixOperation {c} : KeepsForm (execMatrixOperation c s) := by
  unfold execMatrixOperation
  split
  · exact h.runMatrix.next
  · exact h.queueParity.next

protected theorem State.Canonical.execWeightTileSwap {c} : KeepsForm (execWeightTileSwap c s) := by
  unfold execWeightTileSwap
  split
  · exact h.setSeq.next.ite h.next
  · exact h.queueParity.next

protected theorem State.Canonical.windowReads {c x} : (windowReads s c x).2.Canonical := h.verifyAll

protected theorem State.Canonical.convolutionOut {c e} : (convolutionOut s c e).1.Canonical :=
  h.windowReads.foldl fun hu1 => hu1.integrityEvent

protected theorem State.Canonical.runConvolution {c e} : (runConvolution s c e).Canonical := by
  unfold runConvolution
  exact h.convolutionOut.writeResults

protected theorem State.Canonical.execConvolution {c} : KeepsForm (execConvolution c s) := by
  unfold execConvolution
  split
  · exact h.runConvolution.next
  · exact h.queueParity.next

end

/-! ### Completion records -/

section
variable {s : State} (h : s.Canonical)
include h

protected theorem State.Canonical.announce {q} : (announce s q).Canonical := h.setRing.msix

protected theorem State.Canonical.moderate {q} : (moderate s q).Canonical := (h.setRing.announce.ite h.setRing).ite h

protected theorem State.Canonical.advanceTail {q} : (advanceTail s q).Canonical := h.fset.fset.fset

protected theorem State.Canonical.flushRing {q} : (flushRing s q).Canonical := by
  unfold flushRing
  dsimp only
  split
  · exact h.ite (h.waitLink.ite (h.writeBytes.setRing.advanceTail.use fun h2 => h2.ite h2.moderate))
  · exact h

protected theorem State.Canonical.completeRing {q status detail value} : (completeRing s q status detail value).Canonical :=
  h.setRing.flushRing.ite h

end

/-! ### The registers of a channel -/

section
variable {s : State} (h : s.Canonical)
include h

protected theorem State.Canonical.chBusy {e busy addr} : (chBusy s e busy addr).Canonical := h.fset.fset

protected theorem State.Canonical.abortSeen {t c} : (abortSeen s t c).Canonical := h.setReg.interrupt.ite h.setReg

protected theorem State.Canonical.writeAbort {t c a bytes} : (writeAbort s t c a bytes).Canonical :=
  h.abortSeen.ite (h.waitLink.ite h.writeBytes.abortSeen)

protected theorem State.Canonical.abortChannel {e cause residue addr} : (abortChannel s e cause residue addr).Canonical := by
  unfold abortChannel
  dsimp only
  split
  · split
    · exact h.setReg.chBusy.fset.setChan.writeAbort.post.setSeq.faultStop
    · exact h.setReg.chBusy.fset.setChan.writeAbort.post
  · exact h.setReg.chBusy.fset.setChan.post.completeRing
  · exact h.setReg.chBusy.fset.setChan.post

end

/-! ### The vector unit -/

section
variable {s : State} (h : s.Canonical)
include h

protected theorem State.Canonical.verifyRanges {c rs} : (verifyRanges s c rs).2.Canonical := h.verifyAll

protected theorem State.Canonical.verifyRows {c rs} : (verifyRows s c rs).2.Canonical := h.verifyAll

protected theorem State.Canonical.combineOut {c e} : (combineOut s c e).1.Canonical := h.verifyRows.integrityAll

protected theorem State.Canonical.runCombine {c e} : (runCombine s c e).Canonical := by
  unfold runCombine
  exact h.combineOut.writeResults

protected theorem State.Canonical.execCombine {c} : KeepsForm (execCombine c s) := by
  unfold execCombine
  split
  · exact h.runCombine.next
  · exact h.queueParity.next

protected theorem State.Canonical.poolingOut {c e} : (poolingOut s c e).1.Canonical := h.windowReads.integrityAll

protected theorem State.Canonical.runPooling {c e} : (runPooling s c e).Canonical := by
  unfold runPooling
  exact h.poolingOut.writeResults

protected theorem State.Canonical.execMaxPooling {c} : KeepsForm (execMaxPooling c s) := by
  unfold execMaxPooling
  split
  · exact h.next.ite h.runPooling.next
  · exact h.queueParity.next

protected theorem State.Canonical.execAveragePooling {c} : KeepsForm (execAveragePooling c s) := by
  unfold execAveragePooling
  split
  · exact h.runPooling.next.ite h.next
  · exact h.queueParity.next

protected theorem State.Canonical.mergeOut {c e} : (mergeOut s c e).1.Canonical := h.verifyRows.integrityAll.fadd

protected theorem State.Canonical.runMerge {c e} : (runMerge s c e).Canonical := by
  unfold runMerge
  exact h.mergeOut.writeResults

protected theorem State.Canonical.execMerge {c} : KeepsForm (execMerge c s) := by
  unfold execMerge
  split
  · exact h.runMerge.next
  · exact h.queueParity.next

protected theorem State.Canonical.preconditionOut {c e} : (preconditionOut s c e).1.Canonical := h.verifyRanges.integrityAll

protected theorem State.Canonical.runPrecondition {c e} : (runPrecondition s c e).Canonical :=
  h.preconditionOut.use fun h1 => (h1.writeCells.numFlags.ite h1.writeCells.numFlags.fadd.fset).nanTrap.markDone

protected theorem State.Canonical.execPrecondition {c} : KeepsForm (execPrecondition c s) := by
  unfold execPrecondition
  split
  · exact h.runPrecondition.next
  · exact h.queueParity.next

end

/-! ### The sequence context unit -/

section
variable {s : State} (h : s.Canonical)
include h

protected theorem State.Canonical.putCtx {ctx off bs} : (putCtx s ctx off bs).Canonical := h.writeBytes

protected theorem State.Canonical.poolTake {ag p n r} (e : poolTake s ag p n = some r) : r.2.Canonical := by
  unfold poolTake at e
  dsimp only at e
  split at e
  · cases e
    exact h
  · split at e
    · cases e
    · cases e
      exact h.update.fset.fset

protected theorem State.Canonical.scuStop {t core cause entry ctx gen} : (scuStop s t core cause entry ctx gen).Canonical :=
  (h.ite h.fset.fset.fset.fset.fset.fset).faultStop

protected theorem State.Canonical.poolGive {t p a} : (poolGive s t p a).Canonical := h.scuStop.ite h.writeBytes.update.fadd

protected theorem State.Canonical.refreshQstat {t} : (refreshQstat s t).Canonical := h.fset.fset.fset.fset

protected theorem State.Canonical.putSlice {t x} : (putSlice s t x).Canonical := h.setSlice.refreshQstat

protected theorem State.Canonical.dropDevice {a n} : (dropDevice s a n).Canonical := h.foldl fun hu => hu.dropEverywhere

protected theorem State.Canonical.quarantine {t items} : (quarantine s t items).Canonical := h.putSlice.foldl fun hu1 => hu1.dropDevice

protected theorem State.Canonical.copyPage {ctx old new n} : (copyPage s ctx old new n).Canonical := h.writeBytes

protected theorem State.Canonical.unmapFrom {ctx x keep r} (e : unmapFrom s ctx x keep = some r) : r.2.2.Canonical := by
  unfold unmapFrom at e
  dsimp only at e
  split at e
  · cases e
    exact h
  · split at e
    · cases e
    · next hp =>
      cases e
      have h1 := h.poolTake hp
      dsimp only
      split
      · exact h1.copyPage.copyPage.writeBytes
      · exact h1.copyPage

protected theorem State.Canonical.putMap {ctx root groups gen} : (putMap s ctx root groups gen).Canonical := h.putCtx.putCtx.putCtx

omit h in
protected theorem State.Canonical.mapGroups {ctx root pool as g leaves} (h : s.Canonical) :
    (mapGroups ctx root pool as g leaves s).Canonical := by
  induction as generalizing s g leaves with
  | nil => exact h
  | cons a as ih =>
    unfold mapGroups
    split
    · exact ih h.writeBytes
    · exact ih h.writeBytes.writeBytes.writeBytes

protected theorem State.Canonical.scuAnswer {c k status accepted bad} : (scuAnswer s c k status accepted bad).Canonical :=
  h.markDone.ite (h.waitLink.ite h.writeBytes.markDone)

protected theorem State.Canonical.stallSlice {t who} : (stallSlice s t who).Canonical := h.putSlice

protected theorem State.Canonical.sliceTaint {ctx bad rs} : (sliceTaint s ctx bad rs).Canonical :=
  (h.foldl fun hu => hu.writeBlock).ite h

protected theorem State.Canonical.startMove {c k x park bad} : (startMove s c k x park bad).Canonical := by
  unfold startMove
  refine h.scuAnswer.ite (h.scuAnswer.ite ?_)
  split
  · exact h.scuAnswer
  · next e => exact (h.poolTake e).putCtx.sliceTaint.update

protected theorem State.Canonical.sliceRead {ctx rs} : (sliceRead s ctx rs).2.Canonical := by
  unfold sliceRead
  dsimp only
  split
  · exact h.verifyAll.clearErr
  · exact h.verifyAll

protected theorem State.Canonical.sliceVerify {t core ctx rs} : (sliceVerify s t core ctx rs).2.Canonical := by
  unfold sliceVerify
  split
  · exact h.sliceRead.integrityAll
  · exact h

protected theorem State.Canonical.readTables {t core ctx x r} : (readTables s t core ctx x r).2.Canonical := by
  unfold readTables
  dsimp only
  split
  · exact h.sliceVerify.sliceVerify
  · exact h.sliceVerify

protected theorem State.Canonical.retireWalkers {c} : (retireWalkers s c).Canonical := h.foldl fun hu => hu.putSlice.ite hu

protected theorem State.Canonical.dropHead {c queue} : (dropHead s c queue).Canonical := h.setSeq

protected theorem State.Canonical.scuFault {c cause entry ctx gen} : (scuFault s c cause entry ctx gen).Canonical :=
  h.retireWalkers.dropHead.scuStop

protected theorem State.Canonical.tableFault {c entry ctx gen} : (tableFault s c entry ctx gen).Canonical := h.abortChannel.scuFault

/-- An answer of the slice has the canonical form. -/
def ScuKeepsForm : ScuResult → Prop
  | .answer _ _ s => s.Canonical
  | .wait => True

omit h in
theorem scuKeepsForm_wait : ScuKeepsForm .wait := trivial

protected theorem State.Canonical.answer {status accepted} : ScuKeepsForm (.answer status accepted s) := h

omit h in
protected theorem ScuKeepsForm.ite {a b : ScuResult} (ha : ScuKeepsForm a) (hb : ScuKeepsForm b) {c : Prop} [Decidable c] :
    ScuKeepsForm (if c then a else b) := by
  split
  · exact ha
  · exact hb

omit h in
protected theorem State.Canonical.applyEdit {ctx items accepted after} (h : after.Canonical) :
    ScuKeepsForm (applyEdit s ctx items accepted after) :=
  h.quarantine.answer.ite scuKeepsForm_wait

protected theorem State.Canonical.scuOpen {k x} : ScuKeepsForm (scuOpen s k x) := by
  unfold scuOpen
  refine h.answer.ite (h.answer.ite ?_)
  split
  · exact h.answer
  · next e => exact (h.poolTake e).writeBytes.putCtx.answer

protected theorem State.Canonical.scuClose {k x} : ScuKeepsForm (scuClose s k x) :=
  h.answer.ite h.putCtx.putMap.applyEdit

protected theorem State.Canonical.scuAppend {k x} : ScuKeepsForm (scuAppend s k x) := by
  unfold scuAppend
  refine h.answer.ite (h.answer.ite ?_)
  split
  · exact h.answer
  · next e =>
    split
    · exact h.answer
    · next e' => exact ((h.poolTake e).poolTake e').mapGroups.putMap.applyEdit

protected theorem State.Canonical.trimTo {k x len accepted always} : ScuKeepsForm (trimTo s k x len accepted always) := by
  unfold trimTo
  split
  · exact h.answer
  · next e => exact (h.unmapFrom e).putCtx.answer.ite (h.unmapFrom e).putCtx.putMap.applyEdit

protected theorem State.Canonical.scuTruncate {k x} : ScuKeepsForm (scuTruncate s k x) :=
  h.answer.ite (h.answer.ite h.trimTo)

protected theorem State.Canonical.scuAdvance {k x} : ScuKeepsForm (scuAdvance s k x) :=
  h.answer.ite (h.answer.ite (h.trimTo.ite h.putCtx.answer))

protected theorem State.Canonical.scuSet {k x} : ScuKeepsForm (scuSet s k x) :=
  h.answer.ite (h.answer.ite h.putCtx.putCtx.answer)

protected theorem State.Canonical.scuSwitch {k x park} : ScuKeepsForm (scuSwitch s k x park) :=
  h.answer.ite h.putCtx.answer

protected theorem State.Canonical.runScu {c opcode} : (runScu s c opcode).Canonical := by
  unfold runScu
  split
  · exact h.queueParity
  · extract_lets k t y bad v x r bad' u ws result
    have hv : v.2.Canonical := h.sliceVerify
    have hr : u.Canonical := hv.readTables
    have hresult : ScuKeepsForm result := by
      unfold result
      split
      exacts [hr.scuOpen, hr.scuClose, hr.scuAppend, hr.scuTruncate, hr.scuAdvance, hr.scuSwitch, hr.scuSwitch, hr.scuSet]
    refine h.ite (h.ite (h.tableFault.ite (hv.scuAnswer.ite (hv.tableFault.ite (hr.tableFault.ite (hr.startMove.ite ?_))))))
    clear_value result
    cases result with
    | wait => exact hr.stallSlice
    | answer status accepted w => exact State.Canonical.scuAnswer (State.Canonical.sliceTaint (State.Canonical.stallSlice (s := w) hresult))

protected theorem State.Canonical.execScuOpen {c} : KeepsForm (execScuOpen c s) := h.runScu.next

protected theorem State.Canonical.execScuClose {c} : KeepsForm (execScuClose c s) := h.runScu.next

protected theorem State.Canonical.execScuAppend {c} : KeepsForm (execScuAppend c s) := h.runScu.next

protected theorem State.Canonical.execScuTruncate {c} : KeepsForm (execScuTruncate c s) := h.runScu.next

protected theorem State.Canonical.execScuAdvance {c} : KeepsForm (execScuAdvance c s) := h.runScu.next

protected theorem State.Canonical.execScuPark {c} : KeepsForm (execScuPark c s) := h.runScu.next

protected theorem State.Canonical.execScuResume {c} : KeepsForm (execScuResume c s) := h.runScu.next

protected theorem State.Canonical.execScuSet {c} : KeepsForm (execScuSet c s) := h.runScu.next

protected theorem State.Canonical.copyGroups {ctx x as size} : (copyGroups s ctx x as size).Canonical :=
  h.foldl fun hu => by split; exacts [hu.copyBytes, hu]

protected theorem State.Canonical.endMove {m state status bad} : (endMove s m state status bad).Canonical := by
  unfold endMove
  dsimp only
  split
  · exact h.update.putCtx.scuAnswer
  · exact h.update.putCtx

protected theorem State.Canonical.undoMove {m status bad} : (undoMove s m status bad).Canonical :=
  (h.foldl fun hu => hu.poolGive).endMove

protected theorem State.Canonical.moveFaults {m} : (moveFaults s m).Canonical := h.undoMove.tableFault.ite h.undoMove

protected theorem State.Canonical.applyMove {m bad} : (applyMove s m bad).Canonical := by
  unfold applyMove
  refine h.moveFaults.ite ?_
  split
  · exact h.undoMove
  · next e =>
    have h1 := h.poolTake e
    exact h.stallSlice.ite (h.moveFaults.ite
      h1.copyGroups.writeBytes.mapGroups.putMap.putCtx.sliceTaint.stallSlice.quarantine.endMove)

protected theorem State.Canonical.readMove {m} : (readMove s m).2.Canonical := h.sliceVerify.readTables

protected theorem State.Canonical.completeMove {m} : (completeMove s m).Canonical := h.ite (h.readMove.applyMove.ite h.moveFaults)

protected theorem State.Canonical.execPageMoveComplete {ctx} : KeepsForm (execPageMoveComplete ctx s) := by
  unfold execPageMoveComplete
  split
  · exact h.next
  · exact h.next.ite h.completeMove.next

protected theorem State.Canonical.execStalledEditApply {t} : KeepsForm (execStalledEditApply t s) := by
  unfold execStalledEditApply
  dsimp only
  split
  · exact h.next
  · refine .ite ?_ ?_
    · split
      · exact h.next
      · exact h.completeMove.next
    · split
      · exact h.next
      · exact h.runScu.next

protected theorem State.Canonical.execQuarantineRelease {t} : KeepsForm (execQuarantineRelease t s) := by
  unfold execQuarantineRelease
  dsimp only
  split
  · exact h.next
  · exact h.next.ite (h.putSlice.foldl fun hu1 => hu1.poolGive).next

end

/-! ### Walkers and attention -/

section
variable {s : State} (h : s.Canonical)
include h

protected theorem State.Canonical.startWalker {c x i} : (startWalker s c x i).Canonical :=
  h.ite (h.ite (h.tableFault.ite
    (h.sliceVerify.ite (h.sliceVerify.tableFault.ite (h.sliceVerify.readTables.scuFault.ite h.sliceVerify.readTables.putSlice)))))

protected theorem State.Canonical.execWalkerStart {c entry} : KeepsForm (execWalkerStart c entry s) := by
  unfold execWalkerStart
  split
  · exact h.queueParity.next
  · exact h.startWalker.next.ite h.next

protected theorem State.Canonical.writeKvRow {c bad w} : (writeKvRow s c bad w).Canonical := h.verifyRange.integrityAll.writeBytes

protected theorem State.Canonical.writeKvRows {c x ws} : (writeKvRows s c x ws).Canonical :=
  h.verifyRange.foldl fun hu1 => hu1.writeKvRow

protected theorem State.Canonical.writeNewRows {c x fs} : (writeNewRows s c x fs).Canonical := h.writeKvRows.ite h

protected theorem State.Canonical.attentionOut {c e x fs} : (attentionOut s c e x fs).1.Canonical :=
  h.writeNewRows.verifyAll.integrityAll.integrityAll.fadd

protected theorem State.Canonical.streamAborts {w cause} : (streamAborts s w cause).Canonical := h.takeFree.abortChannel.scuFault

protected theorem State.Canonical.abortStream {w moved} : (abortStream s w moved).Canonical := by
  unfold abortStream
  dsimp only
  split
  · exact h.streamAborts
  · exact (h.writeKvRows.ite h).streamAborts

protected theorem State.Canonical.runAttention {c e x fs} : (runAttention s c e x fs).Canonical := by
  unfold runAttention
  split
  · split
    · exact h.writeNewRows.streamAborts
    · exact h
  · exact h.attentionOut.writeResults.retireWalkers

protected theorem State.Canonical.execAttention {c} : KeepsForm (execAttention c s) := by
  unfold execAttention
  dsimp only
  split
  · exact h.queueParity.next
  · split
    · exact h.next
    · exact h.next.ite h.runAttention.next

end

/-! ### The limits on the draw -/

section
variable {s : State} (h : s.Canonical)
include h

protected theorem State.Canonical.setClock {code gated} : (setClock s code gated).Canonical := h.fset.fset.markPhases

protected theorem State.Canonical.adjustClock : (adjustClock s).Canonical := h.setClock.ite (h.update.setClock.ite h.update.setClock)

protected theorem State.Canonical.stopBallast : (stopBallast s).Canonical := h.update.fset

end

/-! ### Transfers -/

section
variable {s : State} (h : s.Canonical)
include h

protected theorem State.Canonical.getElem_ {ag fmt strict bad written e} : (getElem_ s ag fmt strict bad written e).2.Canonical := by
  unfold getElem_
  split
  · exact h
  · exact h
  · exact h.takeFree
  · extract_lets own ownScale f
    have hf : f.2.Canonical := by unfold f; split; exacts [h.takeFree, h]
    exact hf

omit h in
protected theorem State.Canonical.getElems {ag fmt strict bad written es} (h : s.Canonical) :
    (getElems s ag fmt strict bad written es).2.Canonical := by
  induction es generalizing s with
  | nil => exact h
  | cons e es ih => exact ih h.getElem_

protected theorem State.Canonical.writePuts {ag all} : (writePuts s ag all).Canonical := h.writeCells

protected theorem State.Canonical.sendFar {ps} : (sendFar s ps).Canonical := h.foldl fun hu => hu.sendSpan

protected theorem State.Canonical.groupGot {ag x bad b g} : (groupGot s ag x bad b g).2.Canonical := by
  unfold groupGot
  split
  · exact h
  · exact h.getElems

omit h in
protected theorem State.Canonical.makeUnits {ag x p bad b gs} (h : s.Canonical) : (makeUnits s ag x p bad b gs).2.Canonical := by
  induction gs generalizing s b with
  | nil => exact h
  | cons g gs ih => exact ih h.groupGot

end

/-! ### Transfers on the DMA channels -/

section
variable {s : State} (h : s.Canonical)
include h

protected theorem State.Canonical.recordsBad {e x} : (recordsBad s e x).2.Canonical := h.verifyAll

protected theorem State.Canonical.channelPulse {e ev} : (channelPulse s e ev).Canonical := by
  unfold channelPulse
  split
  · exact h.pulseAt.ite h
  · split
    · exact h.pulseAt
    · exact h
  · exact h

protected theorem State.Canonical.copyEnds {e} : (copyEnds s e).Canonical := by
  unfold copyEnds
  split
  · exact h.completeRing.ite h.completeRing
  · exact h

protected theorem State.Canonical.chRead {e n} : (chRead s e n).Canonical := h.fset

protected theorem State.Canonical.completeDesc {e a d bytes} : (completeDesc s e a d bytes).Canonical := by
  unfold completeDesc
  dsimp only
  refine h.chRead.fset.chBusy.setChan.ite ?_
  split
  · split
    · exact h.chRead.fset.chBusy.setChan.setSeq
    · exact h.chRead.fset.chBusy.setChan
  · exact h.chRead.fset.chBusy.setChan.channelPulse.copyEnds

protected theorem State.Canonical.dmaFlags {e fl} : (dmaFlags s e fl).Canonical := by
  unfold dmaFlags
  split
  · exact h.setReg.mcTile
  · exact h

protected theorem State.Canonical.dmaBytes {e n} : (dmaBytes s e n).Canonical := by
  unfold dmaBytes
  split
  · exact h.mcTile
  · exact h

protected theorem State.Canonical.dmaPoison {e bad} : (dmaPoison s e bad).Canonical := by
  unfold dmaPoison
  dsimp only
  split
  · exact h.integrityAll.ite h
  · split
    · exact h
    · exact h.setChan
  · exact h

protected theorem State.Canonical.dmaMade {e x rec_ m} : (dmaMade s e x rec_ m).Canonical :=
  h.dmaFlags.mergeAmax.use fun h1 => h1.addNonfinite.ite h1

protected theorem State.Canonical.writeHostEnv {ag side touched poisoned} : (writeHostEnv s ag side touched poisoned).Canonical :=
  h.foldl fun hu => hu.writeBytes

protected theorem State.Canonical.pathBad {e x m} : (pathBad s e x m).2.Canonical := by
  unfold pathBad
  split
  · exact h.clearErr.dmaPoison
  · exact h

protected theorem State.Canonical.moveUnits {e x rec_ host us} : (moveUnits s e x rec_ host us).Canonical := by
  unfold moveUnits
  extract_lets ag gs blocks v addrs fromHost bad s1 m1 m2 s2 s3
  have h2 : s2.Canonical := h.verifyAll.dmaPoison.makeUnits.pathBad.writePuts.sendFar
  have h3 : s3.Canonical := by
    unfold s3
    split
    · exact h2.ite h2.writeHostEnv
    · exact h2
  exact h3.dmaMade.dmaBytes

protected theorem State.Canonical.runUnits {e a d rec_ limit us} : (runUnits s e a d rec_ limit us).Canonical :=
  h.ite (h.moveUnits.chRead.use fun h1 => h1.abortChannel.ite (h1.completeDesc.ite h1.abortChannel))

protected theorem State.Canonical.withPorts {e ps act} (hact : ∀ {u : State}, u.Canonical → (act u).Canonical) :
    (withPorts s e ps act).Canonical := by
  unfold withPorts
  split
  · exact h.waitLink
  · exact hact h

protected theorem State.Canonical.startDesc {e a d} : (startDesc s e a d).2.Canonical := by
  unfold startDesc
  dsimp only
  split
  · refine State.Canonical.recordsBad ?_
    split
    · exact h.chBusy.chRead
    · split
      · exact h.chBusy.chRead
      · exact h.chBusy.chRead.verifyRange
  · split
    · exact h.chBusy.chRead
    · split
      · exact h.chBusy.chRead
      · exact h.chBusy.chRead.verifyRange

protected theorem State.Canonical.channelParity {e a} : (channelParity s e a).Canonical := h.clearErr.dmaPoison.abortChannel

protected theorem State.Canonical.withDesc {e a d act} (hact : ∀ {u : State}, u.Canonical → (act u).Canonical) :
    (withDesc s e a d act).Canonical :=
  h.channelParity.ite (h.abortChannel.ite ((hact h.startDesc).ite h.startDesc.dmaPoison.abortChannel))

protected theorem State.Canonical.runCurrent {e which act}
    (hact : ∀ {u : State} {x0 x1 x2}, u.Canonical → (act u x0 x1 x2).Canonical) : (runCurrent s e which act).Canonical := by
  unfold runCurrent
  split
  · exact (h.withPorts fun hu => hu.withDesc fun hu1 => hact hu1).ite h
  · exact h

protected theorem State.Canonical.runPlain {e limit a d rec_} : (runPlain s e limit a d rec_).Canonical := h.runUnits

protected theorem State.Canonical.execTransfer {e} : KeepsForm (execTransfer e s) := (h.runCurrent fun hu => hu.runPlain).next

protected theorem State.Canonical.listEntries {ag l} : (listEntries s ag l).2.Canonical := h.verifyRange

protected theorem State.Canonical.countSkips {t es} : (countSkips s t es).Canonical := h.fadd

protected theorem State.Canonical.indexFault {t ch p dim c} : (indexFault s t ch p dim c).Canonical :=
  h.ite h.fset.fset.fset.fset.fset.fset

protected theorem State.Canonical.endList {t ch a d l es done faulted bytes} :
    (endList s t ch a d l es done faulted bytes).Canonical := by
  unfold endList
  refine h.chRead.abortChannel.ite ?_
  refine h.chRead.abortChannel.ite ?_
  refine h.chRead.dmaPoison.abortChannel.ite ?_
  split
  · exact h.chRead.indexFault.abortChannel
  · exact h.chRead.completeDesc

protected theorem State.Canonical.runList {t ch limit a d rec_ mk gather} : (runList s t ch limit a d rec_ mk gather).Canonical := by
  unfold runList
  dsimp only
  split
  · exact h
  · exact h.withPorts fun hu => hu.ite (hu.ite hu.listEntries.moveUnits.countSkips.endList)

protected theorem State.Canonical.execGather {e} : KeepsForm (execGather e s) := by
  unfold execGather
  split
  · exact (h.runCurrent fun hu => hu.runList).next
  · exact h.next

protected theorem State.Canonical.execScatter {e} : KeepsForm (execScatter e s) := by
  unfold execScatter
  split
  · exact (h.runCurrent fun hu => hu.runList).next
  · exact h.next

omit h in
protected theorem State.Canonical.sumInto {ag fmt conv strict bad g} {m : List Sum × State} {p} (h : m.2.Canonical) :
    (sumInto ag fmt conv strict bad g m p).2.Canonical := by
  unfold sumInto
  dsimp only
  split
  · exact h
  · split
    · exact h
    · exact h.getElem_

protected theorem State.Canonical.sumUnits {e x strict bad us} : (sumUnits s e x strict bad us).2.Canonical :=
  h.foldlSnd fun hu => hu.getElem_.foldlSnd fun hv => hv.sumInto

protected theorem State.Canonical.addUnits {e x strict rec_ us} : (addUnits s e x strict rec_ us).Canonical :=
  h.verifyAll.dmaPoison.sumUnits.pathBad.writePuts.sendFar.dmaMade.dmaBytes

protected theorem State.Canonical.runScatterAdd {t ch limit a d rec_} : (runScatterAdd s t ch limit a d rec_).Canonical := by
  unfold runScatterAdd
  dsimp only
  split
  · exact h
  · exact h.withPorts fun hu => hu.ite (hu.ite hu.listEntries.addUnits.countSkips.endList)

protected theorem State.Canonical.execScatterAdd {e} : KeepsForm (execScatterAdd e s) := by
  unfold execScatterAdd
  split
  · exact (h.runCurrent fun hu => hu.runScatterAdd).next
  · exact h.next

protected theorem State.Canonical.runWindow {t ch limit a d rec_} : (runWindow s t ch limit a d rec_).Canonical := by
  unfold runWindow
  dsimp only
  split
  · exact h
  · exact h.runUnits

protected theorem State.Canonical.execWindowLoad {e} : KeepsForm (execWindowLoad e s) := by
  unfold execWindowLoad
  split
  · exact (h.runCurrent fun hu => hu.runWindow).next
  · exact h.next

omit h in
protected theorem State.Canonical.readOwn {ag written as} (h : s.Canonical) : (readOwn s ag written as).2.Canonical := by
  induction as generalizing s with
  | nil => exact h
  | cons a as ih => exact ih (by split; exacts [h.takeFree, h])

protected theorem State.Canonical.compressBox {ag fmt w bad written b} : (compressBox s ag fmt w bad written b).2.Canonical :=
  h.getElems

protected theorem State.Canonical.expandBox {ag fmt w bad written b} : (expandBox s ag fmt w bad written b).2.Canonical := h.readOwn

omit h in
protected theorem State.Canonical.makeBoxes {ag comp fmt w bad written bs} (h : s.Canonical) :
    (makeBoxes s ag comp fmt w bad written bs).2.Canonical := by
  induction bs generalizing s written with
  | nil => exact h
  | cons b bs ih => exact ih (by split; exacts [h.compressBox, h.expandBox])

protected theorem State.Canonical.runStrain {e limit a d rec_} : (runStrain s e limit a d rec_).Canonical := by
  unfold runStrain
  extract_lets x ag r comp fmt host fromHost
  split
  · exact h.runUnits
  · extract_lets w bs t n done blocks v bad s1 scales m1 boxed m2 made s2 s3 bytes s4
    have h2 : s2.Canonical := h.verifyAll.dmaPoison.makeBoxes.pathBad.writePuts
    have h3 : s3.Canonical := by
      unfold s3
      clear_value host
      split
      · exact h2.ite h2.writeHostEnv
      · exact h2
    have h4 : s4.Canonical := h3.dmaMade.dmaBytes.chRead
    exact h.ite (h4.abortChannel.ite (h4.completeDesc.ite h4.abortChannel))

protected theorem State.Canonical.execCompress {e} : KeepsForm (execCompress e s) := (h.runCurrent fun hu => hu.runStrain).next

protected theorem State.Canonical.execExpand {e} : KeepsForm (execExpand e s) := (h.runCurrent fun hu => hu.runStrain).next

protected theorem State.Canonical.verifyUnits {e x host us} : (verifyUnits s e x host us).Canonical :=
  h.verifyAll.dmaPoison.dmaBytes.chRead

protected theorem State.Canonical.scrubList {t ch limit a d} : (scrubList s t ch limit a d).Canonical := by
  unfold scrubList
  dsimp only
  split
  · exact h
  · exact h.withPorts fun hu => hu.ite (hu.ite hu.listEntries.verifyUnits.countSkips.endList)

protected theorem State.Canonical.scrubPlain {e limit a d} : (scrubPlain s e limit a d).Canonical :=
  h.ite (h.verifyUnits.abortChannel.ite (h.verifyUnits.completeDesc.ite h.verifyUnits.abortChannel))

protected theorem State.Canonical.runScrub {e limit a d} : (runScrub s e limit a d).Canonical := by
  unfold runScrub
  split
  · exact h.scrubList
  · exact h.scrubPlain

protected theorem State.Canonical.execScrub {e} : KeepsForm (execScrub e s) := (h.runCurrent fun hu => hu.runScrub).next

protected theorem State.Canonical.runInvalidate {c a d} : (runInvalidate s c a d).Canonical :=
  (h.dropAll.ite (h.foldl fun hu => hu.dropBlock)).completeDesc

protected theorem State.Canonical.execInvalidate {c} : KeepsForm (execInvalidate c s) := by
  unfold execInvalidate
  dsimp only
  split
  · exact h.next.ite (h.withDesc fun hu => hu.runInvalidate).next
  · exact h.next

protected theorem State.Canonical.rejectFetched {e a} : (rejectFetched s e a).Canonical := by
  unfold rejectFetched
  dsimp only
  split
  · exact h.abortChannel.programFault
  · exact h.abortChannel

protected theorem State.Canonical.fetchDesc {e a} : (fetchDesc s e a).Canonical := by
  unfold fetchDesc
  extract_lets ag held s1 ch v d x recs bad s2 id f
  have h1 : s1.Canonical := h.chBusy.chRead
  have h2 : s2.Canonical := by unfold s2 recs; split; exacts [h1.verifyRange.recordsBad, h1.verifyRange]
  have hf : f.2.Canonical := h2.verifyFormat
  exact h1.abortChannel.ite (h1.channelParity.ite (h1.setChan.ite (h1.setChan.waitLink.ite (h2.dmaPoison.abortChannel.ite
    (h2.abortChannel.ite (h2.rejectFetched.ite (h2.abortChannel.ite (hf.dmaPoison.abortChannel.ite hf.setChan))))))))

protected theorem State.Canonical.chainNext {e} : (chainNext s e).Canonical := by
  unfold chainNext
  split
  · exact h
  · exact (h.setChan.channelPulse.ite h).fetchDesc

protected theorem State.Canonical.execChainNextFetch {e} : KeepsForm (execChainNextFetch e s) := h.next.ite h.chainNext.next

protected theorem State.Canonical.execFirmwareChannelStart {r e head} : KeepsForm (execFirmwareChannelStart r e head s) :=
  (h.guardedWrite fun hu => (hu.fset.ite hu.fset.fetchDesc).ite hu).next

protected theorem State.Canonical.runLimited {e a d rec_ k} : (runLimited s e a d rec_ k).Canonical := by
  unfold runLimited
  refine h.runScrub.ite ?_
  split
  · split
    · exact h.runList
    · exact h.runList
    · exact h.runScatterAdd
  · exact h.runWindow
  · exact h.runPlain.ite h.runStrain

protected theorem State.Canonical.requestAbort {e moved other} : (requestAbort s e moved other).Canonical := by
  unfold requestAbort
  refine h.ite ?_
  refine h.setChan.ite ?_
  split
  · exact h
  · exact h.abortChannel.ite
      (((h.setChan.ite h).withPorts fun hu1 => hu1.withDesc fun hu2 => hu2.runLimited).ite (h.withDesc fun hu => hu.runLimited))

end

/-! ### Collectives -/

section
variable {s : State} (h : s.Canonical)
include h

protected theorem State.Canonical.sendNumbered {src peer p} : (sendNumbered s src peer p).Canonical := h.update.sendPacket

protected theorem State.Canonical.sendData {t c dest seg payload poison} : (sendData s t c dest seg payload poison).Canonical :=
  h.sendNumbered

protected theorem State.Canonical.sendCredit {t c dest seg} : (sendCredit s t c dest seg).Canonical := h.sendPacket

protected theorem State.Canonical.readSegment {e a n} : (readSegment s e a n).2.2.Canonical := by
  unfold readSegment
  refine State.Canonical.dmaPoison ?_
  cases pathError (verifyRange s (chAgent e) a n).2 e false with
  | none => exact h.verifyRange
  | some k => exact h.verifyRange.clearErr

protected theorem State.Canonical.chAdd {e n} : (chAdd s e n).Canonical := h.chRead

protected theorem State.Canonical.writeSegment {e a bs poison} : (writeSegment s e a bs poison).Canonical := h.writeCells

protected theorem State.Canonical.setColl {e c} : (setColl s e c).Canonical := h.setChan

protected theorem State.Canonical.withSegment {e a n act} (hact : ∀ {u : State} {x0}, u.Canonical → (act u x0).Canonical) :
    (withSegment s e a n act).Canonical := by
  unfold withSegment
  split
  · exact h.abortChannel.ite (hact h)
  · exact h

protected theorem State.Canonical.noteSent {e dest seg} : (noteSent s e dest seg).Canonical := by
  unfold noteSent
  split
  · exact h.setColl
  · exact h

protected theorem State.Canonical.noteGot {e seg} : (noteGot s e seg).Canonical := by
  unfold noteGot
  split
  · exact h.setColl
  · exact h

protected theorem State.Canonical.collCheck {e} : (collCheck s e).Canonical := by
  unfold collCheck
  split
  · exact h.setChan.completeDesc.ite h
  · exact h

protected theorem State.Canonical.sendSegment {t e c dest seg} : (sendSegment s t e c dest seg).Canonical :=
  h.withSegment fun hu => hu.readSegment.sendData.noteSent

protected theorem State.Canonical.holdCredit {t id me seg} : (holdCredit s t id me seg).Canonical := h.update

protected theorem State.Canonical.contribute {t e seg} : (contribute s t e seg).Canonical := by
  unfold contribute
  split
  · exact h.ite (h.holdCredit.ite h.chAdd.setColl.sendSegment)
  · exact h

protected theorem State.Canonical.placeSegment {e seg bs poison} : (placeSegment s e seg bs poison).Canonical := by
  unfold placeSegment
  split
  · exact h.withSegment fun hu => hu.writeSegment.noteGot
  · exact h

protected theorem State.Canonical.copyOwn {e c segs} : (copyOwn s e c segs).Canonical :=
  h.foldl fun hu => hu.withSegment fun hu1 => hu1.chAdd.readSegment.placeSegment

protected theorem State.Canonical.sendAll {t e c segs} : (sendAll s t e c segs).Canonical :=
  h.foldl fun hu => hu.foldl fun hu1 => hu1.sendSegment

protected theorem State.Canonical.openSlot {t e seg slot} : (openSlot s t e seg slot).Canonical := by
  unfold openSlot
  split
  · exact h.setColl.foldl fun hu => hu.sendCredit
  · exact h

protected theorem State.Canonical.startReduce {t e c} : (startReduce s t e c).Canonical :=
  (h.foldl fun hu => hu.openSlot).update.foldl fun hu2 => hu2.contribute

protected theorem State.Canonical.storeContribution {e c slot p} : (storeContribution s e c slot p).Canonical := by
  unfold storeContribution
  exact h.withSegment fun hu => hu.dmaPoison.writeCells.setColl

protected theorem State.Canonical.collFault {t id from_ what} : (collFault s t id from_ what).Canonical :=
  (h.ite h.fset.fset.fset.fset).faultStop

protected theorem State.Canonical.payloadPoison {e a poison} : (payloadPoison s e a poison).Canonical := h.dmaPoison

protected theorem State.Canonical.takeData {p e c} : (takeData s p e c).Canonical := by
  unfold takeData
  refine .ite ?_ (h.ite (h.update.ite h.payloadPoison.placeSegment.collCheck))
  refine h.collFault.ite ?_
  refine h.ite ?_
  split
  · exact h.storeContribution
  · exact h.update

protected theorem State.Canonical.deliverEarly {t e} : (deliverEarly s t e).Canonical := by
  unfold deliverEarly
  split
  · exact h.update.foldl fun hu => by split; exacts [hu.takeData, hu]
  · exact h

protected theorem State.Canonical.startColl {c kind} : (startColl s c kind).Canonical := by
  unfold startColl
  extract_lets e
  split
  · dsimp only
    refine h.ite ?_
    split
    · exact h
    · refine h.ite (h.withDesc fun hu => State.Canonical.collCheck (State.Canonical.deliverEarly ?_))
      split
      · exact hu.setColl.copyOwn.sendAll
      · exact hu.setColl.copyOwn.sendAll.ite hu.setColl
      · exact hu.setColl.startReduce
  · exact h

protected theorem State.Canonical.execReduceScatter {c} : KeepsForm (execReduceScatter c s) := h.startColl.next

protected theorem State.Canonical.execAllGather {c} : KeepsForm (execAllGather c s) := h.startColl.next

protected theorem State.Canonical.execAllReduce {c} : KeepsForm (execAllReduce c s) := h.startColl.next

protected theorem State.Canonical.execBroadcast {c} : KeepsForm (execBroadcast c s) := h.startColl.next

protected theorem State.Canonical.readContributions {e c seg slot} : (readContributions s e c seg slot).2.Canonical :=
  h.foldlSnd fun hu => by dsimp only; split <;> exact hu.readSegment

protected theorem State.Canonical.foldSegment {t e c seg slot rec_} : (foldSegment s t e c seg slot rec_).Canonical := by
  refine h.withSegment fun hu => State.Canonical.withSegment hu.chAdd.readContributions fun hv => ?_
  extract_lets s1 fl s2 s3 s4 s5 s6
  have h2 : s2.Canonical := hv.writeSegment.dmaFlags.mergeAmax
  have h4 : s4.Canonical := (h2.addNonfinite.ite h2).setColl
  have h5 : s5.Canonical := by unfold s5; split; exacts [h4.openSlot, h4]
  exact ((h5.foldl fun hw => hw.sendData.noteSent).ite h5).deliverEarly.collCheck

protected theorem State.Canonical.execSegmentFold {c segment} : KeepsForm (execSegmentFold c segment s) := by
  unfold execSegmentFold
  dsimp only
  split
  · split
    · exact h.foldSegment.next.ite h.next
    · exact h.next
  · exact h.next

protected theorem State.Canonical.acknowledge {p back} : (acknowledge s p back).Canonical := h.sendPacket

protected theorem State.Canonical.acceptData {p back} : (acceptData s p back).Canonical := h.update.acknowledge

protected theorem State.Canonical.arrive {p r} (e : arrive s p = some r) : r.1.Canonical := by
  unfold arrive at e
  dsimp only at e
  split at e
  · simp only [Option.bind_eq_some_iff, Option.map_eq_some_iff] at e
    obtain ⟨f, -, u, hu, rfl⟩ := e
    exact h.takeFlight hu
  · split at e
    · split at e
      · cases e
        exact h.ite h.passDie
      · cases e
    · split at e
      · cases e
        exact h.linkPassed.ite h.linkPassed.passDie
      · cases e

protected theorem State.Canonical.congestionOn {ce peer plane} : (congestionOn s ce peer plane).Canonical := h.update.ite h

protected theorem State.Canonical.congestion {p} : (congestion s p).Canonical := h.congestionOn

protected theorem State.Canonical.onPacket {p type act}
    (hact : ∀ {u : State} {x0 x1}, u.Canonical → (act u x0 x1).Canonical) : (onPacket s p type act).Canonical := by
  unfold onPacket
  split
  · split
    · next e =>
      have h1 := (h.arrive e).congestion (p := p)
      exact h1.update.ite (hact h1)
    · exact h
  · exact h

protected theorem State.Canonical.deliverData {p} : (deliverData s p).Canonical := by
  unfold deliverData
  split
  · exact h.takeData
  · split
    · exact h.collFault
    · exact h.update

protected theorem State.Canonical.linkParity {p} : (linkParity s p).2.Canonical := by
  unfold linkParity
  split
  · exact h.clearErr
  · exact h

protected theorem State.Canonical.dataTaken {p back} : (dataTaken s p back).Canonical :=
  (h.fadd.ite h).ite (h.acknowledge.ite h.acceptData.linkParity.deliverData)

protected theorem State.Canonical.execDataPacket {p} : KeepsForm (execDataPacket p s) := (h.onPacket fun hu => hu.dataTaken).next

protected theorem State.Canonical.checkColls {id} : (checkColls s id).Canonical :=
  h.foldl fun hu => hu.foldl fun hu1 => hu1.collCheck.ite hu1

protected theorem State.Canonical.ackTaken {p x} : (ackTaken s p x).Canonical := h.update.checkColls

protected theorem State.Canonical.execAckPacket {p} : KeepsForm (execAckPacket p s) := (h.onPacket fun hu => hu.ackTaken).next

protected theorem State.Canonical.creditTaken {p x} : (creditTaken s p x).Canonical := by
  unfold creditTaken
  split
  · exact h.contribute
  · exact h.holdCredit

protected theorem State.Canonical.execCreditPacket {p} : KeepsForm (execCreditPacket p s) := (h.onPacket fun hu => hu.creditTaken).next

protected theorem State.Canonical.takeLoad {t load} : (takeLoad s t load).Canonical := by
  unfold takeLoad
  split
  · exact h.pulseAt
  · exact h.dataTaken.ite (h.ackTaken.ite h.creditTaken)

protected theorem State.Canonical.deliverDies : (deliverDies s).Canonical := h.update.foldl fun hu => hu.takeDie fun hu1 => hu1.takeLoad

protected theorem State.Canonical.retryColls : (retryColls s).Canonical :=
  (h.foldl fun hu => by split; exacts [hu.update.contribute, hu]).foldl fun hu1 => (hu1.foldl fun hu2 => hu2.deliverEarly).ite hu1

protected theorem State.Canonical.execVerdictPacket {v} : KeepsForm (execVerdictPacket v s) :=
  h.congestionOn.next.ite
    ((h.congestionOn.recordSum.verdictComplete.next.ite h.congestionOn.next).ite h.congestionOn.takePart.verdictComplete.next)

end

/-! ### Retry, training, silent peers and served requests -/

section
variable {s : State} (h : s.Canonical)
include h

protected theorem State.Canonical.pushAll {bit mk} : (pushAll s bit mk).Canonical :=
  h.foldl fun hu => hu.foldl fun hu1 => hu1.emit.ite hu1

protected theorem State.Canonical.netRecord {bit kind rec_} : (netRecord s bit kind rec_).Canonical := h.update.emit.ite h

protected theorem State.Canonical.execRetransmitTimeout {peer plane seq} : KeepsForm (execRetransmitTimeout peer plane seq s) := by
  unfold execRetransmitTimeout
  dsimp only
  split
  · exact h.next
  · exact h.next.ite (h.update.mcModule.ite h.update).sendPacket.next

protected theorem State.Canonical.execFlitCrcError {l} : KeepsForm (execFlitCrcError l s) := by
  unfold execFlitCrcError
  dsimp only
  split
  · exact h.emit.update.mcTile.next
  · exact h.emit.update.fadd.mcModule.next

protected theorem State.Canonical.execLinkRetrain {l} : KeepsForm (execLinkRetrain l s) := h.next.ite h.update.linkPassed.post.next

protected theorem State.Canonical.notePort {plane up} : (notePort s plane up).Canonical := h.update

protected theorem State.Canonical.sendAnew {peer a} : (sendAnew s peer a).Canonical := by
  unfold sendAnew
  split
  · exact h.sendPacket.ite h
  · exact h.sendVerdict
  · exact h

protected theorem State.Canonical.moveToEthernet {k} : (moveToEthernet s k).Canonical :=
  (h.update.foldl fun hu1 => hu1.sendAnew).foldl fun hu2 => hu2.sendNumbered

protected theorem State.Canonical.spanDown {k} : (spanDown s k).Canonical := h.fset.notePort.raiseAlert.moveToEthernet

protected theorem State.Canonical.markFailing {t} : (markFailing s t).Canonical := h.update.writePart.fset.ite h.update.writePart

protected theorem State.Canonical.meshOpens : (meshOpens s).Canonical := h.releaseDies.deliverDies

protected theorem State.Canonical.execLinkRetrainComplete {l ok} : KeepsForm (execLinkRetrainComplete l ok s) := by
  unfold execLinkRetrainComplete
  dsimp only
  refine h.next.ite ?_
  split
  · exact h.update.meshOpens.next
  · exact h.update.markFailing.meshOpens.next
  · exact h.update.fset.releaseSpan.next
  · exact h.update.spanDown.next

protected theorem State.Canonical.execLinkTraining {k r} : KeepsForm (execLinkTraining k r s) :=
  h.next.ite (h.fset.fset.fset.use fun h1 =>
    ((h1.fset.fset.update.post.ite h1.fset.fset.update).fset.post.post.ite (h1.fset.fset.update.post.ite h1.fset.fset.update)).use
    fun h5 => (h5.raiseAlert.ite h5).notePort.releaseSpan.next.ite h5.spanDown.next)

protected theorem State.Canonical.execEthernetLinkDown {k} : KeepsForm (execEthernetLinkDown k s) :=
  h.fset.notePort.raiseAlert.next.ite h.next

protected theorem State.Canonical.execEthernetLinkUp {k} : KeepsForm (execEthernetLinkUp k s) :=
  h.next.ite h.fset.fset.notePort.post.next

protected theorem State.Canonical.execPeerSilent {peer plane} : KeepsForm (execPeerSilent peer plane s) := h.update.next.ite h.next

protected theorem State.Canonical.sendReport {rec_ suspect} : (sendReport s rec_ suspect).Canonical :=
  h.fadd.post.raiseAlert.pushAll.netRecord

protected theorem State.Canonical.execSilentPeerReport {peer plane} : KeepsForm (execSilentPeerReport peer plane s) := by
  unfold execSilentPeerReport
  refine h.next.ite ?_
  refine (h.update.sendReport.next.ite h.next).ite ?_
  refine h.update.sendReport.next.ite ?_
  split
  · exact h.next.ite h.update.sendReport.next
  · exact h.next

protected theorem State.Canonical.execLnkFaultEpoch {r epoch} : KeepsForm (execLnkFaultEpoch r epoch s) :=
  (h.guardedWrite fun hu => hu.fset.update).next

protected theorem State.Canonical.rdmaAnswer {qpn data} : (rdmaAnswer s qpn data).Canonical := h.emit

protected theorem State.Canonical.performRdma {qpn op} : (performRdma s qpn op).Canonical := by
  unfold performRdma
  dsimp only
  split
  · exact h.writeBytes.rdmaAnswer
  · refine State.Canonical.rdmaAnswer ?_
    split
    · exact h.verifyRange
    · exact h.verifyRange.takeFree
  · exact h.takeFree.rdmaAnswer

protected theorem State.Canonical.serveRdma {qpn rkey op} : (serveRdma s qpn rkey op).Canonical := by
  unfold serveRdma
  refine h.rdmaAnswer.ite ?_
  refine h.performRdma.ite ?_
  split
  · exact h.rdmaAnswer
  · exact h.waitLink.ite (h.update.ite h.performRdma)

protected theorem State.Canonical.serveHeld : (serveHeld s).Canonical := h.update.foldl fun hu => hu.serveRdma

protected theorem State.Canonical.execRdmaRequest {qpn rkey op} : KeepsForm (execRdmaRequest qpn rkey op s) :=
  (h.emit.ite h).serveRdma.next

protected theorem State.Canonical.execArpRequest {port addr} : KeepsForm (execArpRequest port addr s) := by
  unfold execArpRequest
  split <;> exact h.emit.next.ite h.next

protected theorem State.Canonical.execPcieLinkDown {port} : KeepsForm (execPcieLinkDown port s) := h.fset.next

end

/-! ### The event log -/

section
variable {s : State} (h : s.Canonical)
include h

protected theorem State.Canonical.appendEntry : (appendEntry s).Canonical := by
  unfold appendEntry
  split
  · exact h
  · exact (h.update.fset.emit.ite h.update.fset).pushAll.netRecord.ite (h.update.fset.emit.ite h.update.fset)

protected theorem State.Canonical.execEventLogAppend : KeepsForm (execEventLogAppend s) := h.appendEntry.next.ite h.next

protected theorem State.Canonical.copyEntries {es} : (copyEntries s es).Canonical := h.update

protected theorem State.Canonical.flashCopy : (flashCopy s).Canonical := h.copyEntries

protected theorem State.Canonical.execFlashLogCopy : KeepsForm (execFlashLogCopy s) := h.copyEntries.next.ite h.next

end

/-! ### The sensor hub -/

section
variable {s : State} (h : s.Canonical)
include h

protected theorem State.Canonical.platformEvent {i v} : (platformEvent s i v).Canonical := by
  unfold platformEvent
  split
  · exact h
  · exact h.emit.ite h.update

protected theorem State.Canonical.sendEvents : (sendEvents s).Canonical := h.update.foldl fun hu => hu.platformEvent

protected theorem State.Canonical.crossOne {i v k} : (crossOne s i v k).Canonical :=
  (h.setSensor.ite h).ite ((h.setSensor.post.platformEvent.use fun h2 => h2.raiseAlert.ite h2).ite h)

protected theorem State.Canonical.hubReading {sensor value} : (hubReading s sensor value).Canonical := by
  unfold hubReading
  dsimp only
  split
  · exact h.setSensor.raiseAlert.ite h.setSensor
  · exact h.setSensor.foldl fun hu1 => hu1.crossOne

omit h in
protected theorem State.Canonical.hubReadings {i vs} (h : s.Canonical) : (hubReadings s i vs).Canonical := by
  induction vs generalizing s i with
  | nil => exact h
  | cons v vs ih => exact ih h.hubReading

end

/-! ### The turnstile -/

section
variable {s : State} (h : s.Canonical)
include h

protected theorem State.Canonical.verifyStamp {x p g} : (verifyStamp s x p g).2.Canonical := by
  unfold verifyStamp
  split
  · exact h
  · exact h.verifyRange

protected theorem State.Canonical.showTurnstile : (showTurnstile s).Canonical := h.fset.fset

protected theorem State.Canonical.leaveTurnstile {e} : (leaveTurnstile s e).Canonical := h.setChan.update.showTurnstile

protected theorem State.Canonical.clampsOf {e fl} : (clampsOf s e fl).Canonical := by
  unfold clampsOf
  split
  · exact h.mcTile
  · exact h

omit h in
protected theorem State.Canonical.runGroups {x p pol m full fs poison tsBase engine g n} {r : ClipRun} (h : r.s.Canonical) :
    (runGroups x p pol m full fs poison tsBase engine g n r).s.Canonical := by
  induction n generalizing g r with
  | zero => exact h
  | succ n ih =>
    unfold runGroups
    dsimp only
    split
    · exact h
    · split
      · exact h
      · refine ih ?_
        dsimp only
        split
        · exact h.writeCells.mergeAmax.verifyStamp.writeBytes
        · exact h.writeCells.mergeAmax

protected theorem State.Canonical.runIntake {e engine a d rec_ k limit} :
    (runIntake s e engine a d rec_ k limit).Canonical := by
  unfold runIntake
  extract_lets x p tsValid finish v u clip fs c ts n fits r w firstBad
  have hfinish {u : State} {status fl done replaced firstBad} (hu : u.Canonical) :
      (finish u status fl done replaced firstBad).Canonical :=
    hu.leaveTurnstile.abortChannel.ite (hu.leaveTurnstile.abortChannel.ite
      (hu.writeBytes.fadd.use fun h1 => (h1.fadd.ite h1).leaveTurnstile.completeDesc))
  have hu : u.Canonical := h.verifyRange
  have hr : r.s.Canonical := State.Canonical.runGroups (r := ⟨u, 0, 0, {}, false, false⟩) hu
  have hw : w.Canonical := hr.mcModule.clampsOf
  exact (hfinish h).ite (h.leaveTurnstile.abortChannel.ite ((hfinish hu).ite (hw.leaveTurnstile.abortChannel.ite (hfinish hw))))

protected theorem State.Canonical.withIntake {e a d act} (hact : ∀ {u : State}, u.Canonical → (act u).Canonical) :
    (withIntake s e a d act).Canonical :=
  h.withDesc fun hu => (hact hu.verifyRange).ite hu.verifyRange.dmaPoison.abortChannel

protected theorem State.Canonical.execIntake {c} : KeepsForm (execIntake c s) := by
  unfold execIntake
  dsimp only
  split
  · exact h.next.ite (h.withIntake fun hu => hu.setChan.update.fset).next
  · exact h.next

protected theorem State.Canonical.startEngine {e i a d w} : (startEngine s e i a d w).Canonical :=
  h.ite (h.leaveTurnstile.abortChannel.ite (h.verifyRange.leaveTurnstile.abortChannel.ite h.verifyRange.update.showTurnstile))

protected theorem State.Canonical.execIntakeDispatch : KeepsForm (execIntakeDispatch s) := by
  unfold execIntakeDispatch
  dsimp only
  split
  · split
    · exact (h.withPorts fun hu => hu.startEngine).next
    · exact h.update.showTurnstile.next
  · exact h.next

protected theorem State.Canonical.finishEngine {r} : (finishEngine s r).Canonical := by
  unfold finishEngine
  dsimp only
  split
  · exact h.ite (h.withPorts fun hu => hu.runIntake)
  · exact h.update.showTurnstile

protected theorem State.Canonical.engineTick : (engineTick s).Canonical := by
  unfold engineTick
  dsimp only
  refine h.ite ?_
  split
  · exact h.takeFree.finishEngine
  · exact h.takeFree

protected theorem State.Canonical.abortIntake {e moved} : (abortIntake s e moved).Canonical := by
  unfold abortIntake
  dsimp only
  split
  · split
    · exact h.runIntake
    · exact h.leaveTurnstile.abortChannel
  · exact h.requestAbort

protected theorem State.Canonical.execAbortRequest {r e moved} : KeepsForm (execAbortRequest r e moved s) :=
  (h.guardedWrite fun hu => hu.abortIntake.ite (by split; exacts [hu.ite hu.abortStream, hu.requestAbort])).next

end

/-! ### Verdict, fills, holds and repair of a site -/

section
variable {s : State} (h : s.Canonical)
include h

protected theorem State.Canonical.execVerdictWarnExpire : KeepsForm (execVerdictWarnExpire s) := by
  unfold execVerdictWarnExpire
  split
  · exact h.next.ite h.update.fset.stepInterrupt.post.next
  · exact h.next

protected theorem State.Canonical.execAbandon {r} : KeepsForm (execAbandon r s) :=
  (h.guardedWrite fun hu => hu.takeFree.verdictArrives.ite hu).next

protected theorem State.Canonical.execInfuserWalkComplete : KeepsForm (execInfuserWalkComplete s) :=
  (h.walkDies.ite h).use fun h1 => h1.next.ite (h1.update.foldl fun hu2 => hu2.refreshBusy).next

protected theorem State.Canonical.execCkptArm {r step} : KeepsForm (execCkptArm r step s) :=
  (h.guardedWrite fun hu => hu.fset.ite hu.fset.fset).next

protected theorem State.Canonical.execCaptureRecordCopy {die} : KeepsForm (execCaptureRecordCopy die s) := h.captureStep.next

protected theorem State.Canonical.execCkptRelease {r} : KeepsForm (execCkptRelease r s) := (h.guardedWrite fun hu => hu.fset).next

protected theorem State.Canonical.execHoldReq {r} : KeepsForm (execHoldReq r s) := (h.guardedWrite fun hu => hu.fset).next

protected theorem State.Canonical.resumeAt {n} : (resumeAt s n).Canonical := h.foldl fun hu => hu.setTile.ite hu.setTile

protected theorem State.Canonical.dropOld : (dropOld s).Canonical := h.update

protected theorem State.Canonical.execGo {r} : KeepsForm (execGo r s) :=
  (h.guardedWrite fun hu => hu.ite hu.fset.update.dropOld.newRun.resumeAt.settle).next

protected theorem State.Canonical.haltChannel {t ch} : (haltChannel s t ch).Canonical := by
  unfold haltChannel
  dsimp only
  refine h.ite ?_
  split
  · exact h.takeFree.abortIntake.ite h.takeFree.requestAbort
  · exact h.takeFree.requestAbort

protected theorem State.Canonical.haltAll : (haltAll s).Canonical :=
  (h.foldl fun hu => hu.stopTile).foldl fun hu1 => hu1.foldl fun hu2 => hu2.haltChannel

protected theorem State.Canonical.execHaltJob {r} : KeepsForm (execHaltJob r s) := (h.guardedWrite fun hu => hu.haltAll).next

protected theorem State.Canonical.selectVertical : (selectVertical s).Canonical := h.update

protected theorem State.Canonical.applyMask {c a mask} : (applyMask s c a mask).Canonical := h.setReg.fset.fset.fset

protected theorem State.Canonical.applyTileMasks {t} : (applyTileMasks s t).Canonical := h.foldl fun hu => hu.applyMask.setReg.fset

protected theorem State.Canonical.computePeak : (computePeak s).Canonical := h.update

protected theorem State.Canonical.execFieldBypassRequest {r c a mask} : KeepsForm (execFieldBypassRequest r c a mask s) :=
  (h.guardedWrite fun hu => hu.setReg.ite hu.setReg.update.computePeak.writePart.fset).next

protected theorem State.Canonical.execSpareSiteSwap {band pos} : KeepsForm (execSpareSiteSwap band pos s) :=
  h.next.ite (h.foldl fun hu => hu.applyMask.setReg.fset).update.computePeak.writePart.selectVertical.next

protected theorem State.Canonical.fillRequest {die} : (fillRequest s die).Canonical := h.emit

protected theorem State.Canonical.execFillStart {r die} : KeepsForm (execFillStart r die s) :=
  (h.guardedWrite fun hu => (hu.fset.fset.fset.ite hu.fset.fset).setDie.fillRequest).next

protected theorem State.Canonical.execFillStop {r die} : KeepsForm (execFillStop r die s) := (h.guardedWrite fun hu => hu.fset).next

protected theorem State.Canonical.writeStack {die off bs} : (writeStack s die off bs).Canonical := h.foldl fun hu => hu.writeBlock

protected theorem State.Canonical.fillTake {die item} : (fillTake s die item).Canonical := by
  unfold fillTake
  dsimp only
  split
  · exact h.setDie.writeStack.writeBytes.fset.fset.fset
  · exact h.setDie.ite (h.setDie.entryBad.ite (h.setDie.entryBad.writeStack.fset.use fun h4 => h4.fset.ite (h4.fillRequest.ite h4)))

protected theorem State.Canonical.fillOffer {die item} : (fillOffer s die item).Canonical := h.setDie.ite h.fillTake

protected theorem State.Canonical.execFillData {die item} : KeepsForm (execFillData die item s) := h.fillOffer.next.ite h.next

protected theorem State.Canonical.retryFill {die} : (retryFill s die).Canonical := h.ite (h.setDie.foldl fun hu => hu.fillOffer)

protected theorem State.Canonical.retryHeld : (retryHeld s).Canonical :=
  (h.walkDies.ite h).use fun h1 => ((h1.foldl fun hu1 => hu1.retryFill).ite h1).use fun h2 => (h2.ite h2.serveHeld).use fun h3 =>
    h3.ite h3.retryColls

protected theorem State.Canonical.execSourceLost {die} : KeepsForm (execSourceLost die s) := h.fset.next.ite h.next

protected theorem State.Canonical.execNanTrapClear {r c} : KeepsForm (execNanTrapClear r c s) :=
  (h.guardedWrite fun hu => hu.foldl fun hu1 => hu1.setReg).next

end

/-! ### The timebase unit and a tick -/

section
variable {s : State} (h : s.Canonical)
include h

protected theorem State.Canonical.setBeat {n} : (setBeat s n).Canonical := h.update

protected theorem State.Canonical.setRemain {n} : (setRemain s n).Canonical := h.fset.fset

protected theorem State.Canonical.heldBeat : (heldBeat s).Canonical := h.endsPass.update

protected theorem State.Canonical.slewBeat : (slewBeat s).Canonical :=
  h.setRemain.markPhases.use fun h1 => (h1.setBeat.ite h1.heldBeat).sendDue.use fun h2 => h2.settle.ite h2

protected theorem State.Canonical.execSlewBeat : KeepsForm (execSlewBeat s) := h.slewBeat.next.ite h.next

protected theorem State.Canonical.execSlew {r amount} : KeepsForm (execSlew r amount s) :=
  (h.guardedWrite fun hu => hu.ite (hu.update.foldl fun hu1 => hu1.sendSpan)).next

protected theorem State.Canonical.execSlewAdd {amount apply} : KeepsForm (execSlewAdd amount apply s) :=
  h.next.ite (h.update.setRemain.fset.ite h.update.setRemain).next

protected theorem State.Canonical.syncSlip : (syncSlip s).Canonical := h.fset.fadd.post

protected theorem State.Canonical.leaveHoldover : (leaveHoldover s).Canonical := h.fset.post.ite h

protected theorem State.Canonical.execSync : KeepsForm (execSync s) := by
  unfold execSync
  dsimp only
  refine h.next.ite ?_
  refine h.setBeat.fset.fset.update.endsPass.leaveHoldover.next.ite ?_
  split
  · exact ((h.leaveHoldover.ite h).syncSlip.ite (h.leaveHoldover.ite h)).next
  · exact (h.leaveHoldover.ite h).next

protected theorem State.Canonical.execSyncArm {r} : KeepsForm (execSyncArm r s) := (h.guardedWrite fun hu => hu.fset).next

protected theorem State.Canonical.execBeatLoss : KeepsForm (execBeatLoss s) :=
  h.next.ite (h.update.fset.enterHoldover.markPhases.use fun h2 => (h2.ite h2.hold).update.next.ite h2.next)

protected theorem State.Canonical.execBeatReturn : KeepsForm (execBeatReturn s) := h.update.fset.next

protected theorem State.Canonical.execPtpEventMessage {port frac offset} : KeepsForm (execPtpEventMessage port frac offset s) :=
  h.next.ite h.update.setReg.emit.next

protected theorem State.Canonical.execCarouselStart {r} : KeepsForm (execCarouselStart r s) :=
  (h.guardedWrite fun hu => hu.fset.ite (hu.update.fset.ite (hu.ite hu.fset.fset.fset.update.newRun.seekStep.settle))).next

protected theorem State.Canonical.execCarouselStop {r} : KeepsForm (execCarouselStop r s) :=
  (h.guardedWrite fun hu => hu.update.fset.stopCheck.ite hu).next

protected theorem State.Canonical.execEnvelopeDeclare {phase} : KeepsForm (execEnvelopeDeclare phase s) := by
  unfold execEnvelopeDeclare
  dsimp only
  split
  · exact h.next
  · exact h.update.next.ite h.next

protected theorem State.Canonical.tickTile {t} : (tickTile s t).Canonical := by
  unfold tickTile
  extract_lets s1
  have h1 : s1.Canonical := h.foldl fun hu => by split; exacts [hu.mcTile, hu]
  exact h1.mcTile.ite h1

protected theorem State.Canonical.tickModule : (tickModule s).Canonical :=
  (h.foldl fun hu => hu.ite hu.mcModule).use fun h1 => h1.mcModule.ite h1

protected theorem State.Canonical.releasePin : (releasePin s).Canonical := h.update.ite h

protected theorem State.Canonical.bootTick : (bootTick s).Canonical := h.ite (h.update.fset.ite h.update.fset.update)

protected theorem State.Canonical.tick : (tick s).Canonical :=
  h.ite ((h.slewBeat.ite h.setBeat.sendDue).releasePin.retryHeld.use fun h1 =>
    ((h1.fset.foldl fun hu2 => hu2.tickTile).tickModule.ite h1.fset).use fun h3 => (h3.settle.ite h3).engineTick.bootTick)

end

/-! ### Power, coolant and shutdown -/

section
variable {s : State} (h : s.Canonical)
include h

/-- Bytes and envelopes are forgotten. -/
protected theorem State.Canonical.forget {p q} : State.Canonical { s with mem := s.mem.filter p, env := s.env.filter q } := by
  obtain ⟨hr, hm, he⟩ := h
  exact ⟨hr, memory_wf_filter p hm, mapWf_filter _ q he⟩

protected theorem State.Canonical.loseMemory : (loseMemory s).Canonical :=
  h.forget.update

protected theorem State.Canonical.loseSram : (loseSram s).Canonical :=
  h.forget.update

protected theorem State.Canonical.linksDown : (linksDown s).Canonical :=
  (h.update.foldl fun hu1 => hu1.fset.notePort.raiseAlert.ite hu1).foldl fun hu2 => hu2.fset.notePort.raiseAlert.ite hu2

protected theorem State.Canonical.coldState : (coldState s).Canonical := by
  unfold coldState
  extract_lets up reset dev pins r
  obtain ⟨-, hme⟩ := h.loseMemory
  have hr : r.Canonical := ⟨mapWf_nil regReset, hme⟩
  exact hr.fset.fset

omit h in
/-- Registers set one after another keep the canonical form. -/
theorem mapWf_foldSet (l : List (Nat × Word)) {m : List (Nat × Word)} (h : mapWf regReset m = true) :
    mapWf regReset (l.foldl (fun m p => mapSet (regReset p.1) m p.1 p.2) m) = true :=
  List.foldlRecOn (motive := fun m => mapWf regReset m = true) l _ h fun _ hm p _ => mapWf_mapSet regReset p.1 p.2 hm

protected theorem State.Canonical.standbyState : (standbyState s).Canonical := by
  unfold standbyState
  extract_lets kept c snaps pwr pins d
  obtain ⟨hr, hme⟩ := h.coldState
  have hd : d.Canonical := ⟨mapWf_foldSet kept hr, hme⟩
  exact hd.fset.refreshAlert

protected theorem State.Canonical.ballastEnergy {ballast} : (ballastEnergy s ballast).Canonical := h.update.mcModule

protected theorem State.Canonical.drawWindow {draw ballast freeCycles} : (drawWindow s draw ballast freeCycles).Canonical :=
  h.update.ballastEnergy.fset.fset.fset.use fun h2 =>
    ((h2.markPhases.ite h2.markPhases.post).fset.raiseAlert.ite h2.markPhases).adjustClock.update

protected theorem State.Canonical.execDrawWindow {draw ballast freeCycles} : KeepsForm (execDrawWindow draw ballast freeCycles s) :=
  h.drawWindow.next.ite h.next

protected theorem State.Canonical.execClockStepUp : KeepsForm (execClockStepUp s) := by
  unfold execClockStepUp
  split
  · exact h.next.ite (h.update.setClock.ite h.update).next
  · exact h.next

protected theorem State.Canonical.execFloorHoldLimitExpire : KeepsForm (execFloorHoldLimitExpire s) := h.update.next.ite h.next

protected theorem State.Canonical.forecastRecord : (forecastRecord s).2.Canonical := h.takeFree.takeFree.takeFree

protected theorem State.Canonical.execForecast : KeepsForm (execForecast s) :=
  h.next.ite ((h.forecastRecord.foldl fun hu1 => hu1.setReg).use fun h2 => h2.next.ite h2.pushAll.netRecord.next)

protected theorem State.Canonical.execThrotFall : KeepsForm (execThrotFall s) :=
  h.next.ite (h.update.next.ite h.update.fset.post.raiseAlert.stopBallast.adjustClock.next)

protected theorem State.Canonical.execThrotRise : KeepsForm (execThrotRise s) :=
  h.next.ite (h.update.next.ite h.update.fset.post.adjustClock.next)

protected theorem State.Canonical.beginShutdown {cause} : (beginShutdown s cause).Canonical :=
  h.ite (h.update.fset.post.refreshAlert.use fun h2 => (h2.ite h2.haltAll).stopBallast.setClock)

protected theorem State.Canonical.execInputSample {millivolts centiamps} : KeepsForm (execInputSample millivolts centiamps s) :=
  (keepsForm_fault _).ite (h.next.ite h.update.next)

protected theorem State.Canonical.execUndervolt : KeepsForm (execUndervolt s) := by
  unfold execUndervolt
  split
  · exact (h.beginShutdown.ite h).next
  · exact h.next

protected theorem State.Canonical.execOvervolt : KeepsForm (execOvervolt s) := by
  unfold execOvervolt
  split
  · exact (h.beginShutdown.ite h).next
  · exact h.next

protected theorem State.Canonical.execShutdownMemoryOff : KeepsForm (execShutdownMemoryOff s) :=
  (h.flashCopy.ite h).update.loseMemory.linksDown.next.ite h.next

protected theorem State.Canonical.execShutdownRegulatorsOff : KeepsForm (execShutdownRegulatorsOff s) := h.update.next.ite h.next

protected theorem State.Canonical.execTileThermalReading {diodes} : KeepsForm (execTileThermalReading diodes s) :=
  h.next.ite (h.hubReadings.fset.fset.beginShutdown.next.ite h.hubReadings.fset.fset.update.fset.adjustClock.next)

protected theorem State.Canonical.coolantActs : (coolantActs s).Canonical :=
  (h.update.post.raiseAlert.ite h.update).use fun h2 => h2.fset.beginShutdown.ite (h2.fset.beginShutdown.ite h2.fset.adjustClock)

protected theorem State.Canonical.takeFlow {flow} : (takeFlow s flow).Canonical := h.update.fset

protected theorem State.Canonical.assignSensors : (assignSensors s).Canonical := h.ite (h.update.foldl fun hu => hu.emit)

protected theorem State.Canonical.execCoolantReading {flow inlet outlet} :
    KeepsForm (execCoolantReading flow inlet outlet s) := by
  unfold execCoolantReading
  extract_lets s1 missed temp pwr s2 s3 s4 s5
  have h2 : s2.Canonical := h.assignSensors.hubReadings.update
  have h3 : s3.Canonical := by unfold s3; split; exacts [h2.fset, h2]
  have h4 : s4.Canonical := by unfold s4; split; exacts [h3.fset, h3]
  have h5 : s5.Canonical := by unfold s5; split; exacts [h4.takeFlow, h4.takeFlow.ite h4]
  exact h.next.ite h5.coolantActs.next

protected theorem State.Canonical.dropJob : (dropJob s).Canonical := h.update

protected theorem State.Canonical.execParkRequest {r} : KeepsForm (execParkRequest r s) :=
  (h.guardedWrite fun hu => hu.fset.ite (hu.loseSram.dropJob.linksDown.fset.ite hu)).next

protected theorem State.Canonical.execReadyRequest {r} : KeepsForm (execReadyRequest r s) :=
  (h.guardedWrite fun hu => hu.update.ite hu).next

protected theorem State.Canonical.execUnparkComplete : KeepsForm (execUnparkComplete s) := h.loseSram.update.fset.next.ite h.next

protected theorem State.Canonical.execInputPowerApplied : KeepsForm (execInputPowerApplied s) := h.next.ite h.coldState.update.next

protected theorem State.Canonical.execInputPowerLoss : KeepsForm (execInputPowerLoss s) := h.coldState.fset.fset.update.next

end

/-! ### Memory devices -/

section
variable {s : State} (h : s.Canonical)
include h

protected theorem State.Canonical.takeReading {d temp} : (takeReading s d temp).Canonical :=
  h.fset.fset.fset.use fun h1 => h1.ite (h1.fset.raiseAlert.ite h1).setDev.post.markPhases

protected theorem State.Canonical.execThermalReading {die stack pkg0 pkg1} : KeepsForm (execThermalReading die stack pkg0 pkg1 s) :=
  h.hubReadings.hubReadings.takeReading.takeReading.takeReading.next.ite h.next

protected theorem State.Canonical.execHaltLimitExpire {d} : KeepsForm (execHaltLimitExpire d s) := by
  unfold execHaltLimitExpire
  split
  · exact (h.beginShutdown.ite h).next
  · exact h.next

protected theorem State.Canonical.execMaintArm {r d value} : KeepsForm (execMaintArm r d value s) :=
  (h.guardedWrite fun hu => hu.fset.fset.fset.use fun h2 => ((h2.fset.ite h2).fset.ite (h2.fset.ite h2)).fset.ite
    ((h2.fset.ite h2).fset.ite (h2.fset.ite h2))).next

protected theorem State.Canonical.execMaintenanceWindowOpen {d} : KeepsForm (execMaintenanceWindowOpen d s) := h.setDev.next.ite h.next

protected theorem State.Canonical.closeWindow {d done} : (closeWindow s d done).Canonical := h.setDev.fset.fset

protected theorem State.Canonical.execMaintenanceWindowEnd {d} : KeepsForm (execMaintenanceWindowEnd d s) :=
  h.closeWindow.next.ite h.next

protected theorem State.Canonical.execMaintenanceWindowLimit {d} : KeepsForm (execMaintenanceWindowLimit d s) := by
  unfold execMaintenanceWindowLimit
  split
  · exact (h.closeWindow.ite h).next
  · exact h.next

protected theorem State.Canonical.repairFields {d pc bank row} : (repairFields s d pc bank row).Canonical := h.fset.fset.fset

protected theorem State.Canonical.putBytes {k bs} : State.Canonical { s with mem := putBytes s.mem k bs } := by
  obtain ⟨hr, hm, he⟩ := h
  exact ⟨hr, memory_wf_putBytes bs k hm, he⟩

protected theorem State.Canonical.remapRow {blocks} : (remapRow s blocks).Canonical :=
  (h.foldl fun hu => (hu.takeFree.foldl fun hv => hv.takeFree.putBytes).setMismatch).update

protected theorem State.Canonical.useSpare {d k} : (useSpare s d k).Canonical := h.setDev

protected theorem State.Canonical.execReadSpareRows {r d pc bank} : KeepsForm (execReadSpareRows r d pc bank s) :=
  (h.guardedWrite fun hu => hu.repairFields.fset.fset).next

protected theorem State.Canonical.execSppr {r d pc bank row} : KeepsForm (execSppr r d pc bank row s) :=
  (h.guardedWrite fun hu => hu.repairFields.use fun h2 => h2.fset.ite h2.useSpare.setDev.remapRow.update.writePart.fset.post).next

protected theorem State.Canonical.execHppr {r d pc bank row} : KeepsForm (execHppr r d pc bank row s) :=
  (h.guardedWrite fun hu => hu.repairFields.use fun h2 => h2.fset.ite
    (h2.setDev.ite h2.useSpare).setDev.remapRow.update.writePart.fset.post).next

protected theorem State.Canonical.showRetired : (showRetired s).Canonical := h.fset.fset

protected theorem State.Canonical.execRetireRange {d range cause} : KeepsForm (execRetireRange d range cause s) :=
  h.next.ite (h.update.post.raiseAlert.ite h.update.writePart).post.raiseAlert.showRetired.next

end

/-! ### Start-up, restarts and updates -/

section
variable {s : State} (h : s.Canonical)
include h

protected theorem State.Canonical.verifyStaged : (verifyStaged s).2.Canonical := by
  unfold verifyStaged
  split
  · split
    · exact h
    · exact h.verifyRange
  · exact h

protected theorem State.Canonical.warmRestart {cause} : (warmRestart s cause).Canonical :=
  (h.update.fset.fset.post.raiseAlert.ite h.update.fset.fset.post).provingRestart

protected theorem State.Canonical.showUpdate : (showUpdate s).Canonical := h.fset.fset

protected theorem State.Canonical.updateCheck : (updateCheck s).Canonical :=
  h.showUpdate.ite (h.showUpdate.fset.setUpdState.provenCheck.ite (h.showUpdate.fset.update.setUpdState.showUpdate.ite h.showUpdate))

protected theorem State.Canonical.applyPolicy : (applyPolicy s).Canonical := h.foldl fun hu => hu.fset

protected theorem State.Canonical.applyGrants : (applyGrants s).Canonical := (h.ite h.setReg).fset.ite (h.ite h.setReg)

protected theorem State.Canonical.forceSection {x} : (forceSection s x).Canonical := (h.update.applyPolicy.ite h.update).updateCheck

protected theorem State.Canonical.namePolicyBeat : (namePolicyBeat s).Canonical := h.takeFree.update

protected theorem State.Canonical.startRevert : (startRevert s).Canonical := h.setUpdState.namePolicyBeat.update.updateCheck

protected theorem State.Canonical.startApply : (startApply s).Canonical := by
  unfold startApply
  split
  · exact h.setUpdState.namePolicyBeat.update.updateCheck
  · exact h

protected theorem State.Canonical.sectionFails {t} : (sectionFails s t).Canonical := h.fset.startRevert.ite h.fset.update.updateCheck

protected theorem State.Canonical.verifySource : (verifySource s).2.Canonical := by
  unfold verifySource
  split
  · exact h
  · exact h.verifyStaged

protected theorem State.Canonical.applySection {x} : (applySection s x).Canonical :=
  h.warmRestart.ite ((h.update.forceSection.ite h.update).ite h.forceSection)

protected theorem State.Canonical.execSectionApply {type} : KeepsForm (execSectionApply type s) := by
  unfold execSectionApply
  split
  · exact h.next.ite (h.verifySource.applySection.ite h.verifySource.sectionFails).next
  · exact h.next

protected theorem State.Canonical.restartDone : (restartDone s).Canonical := h.update.fset.sendEvents

protected theorem State.Canonical.execWarmRestartComplete : KeepsForm (execWarmRestartComplete s) := by
  unfold execWarmRestartComplete
  refine h.next.ite ?_
  split
  · exact (h.verifySource.restartDone.forceSection.ite h.verifySource.restartDone.sectionFails).next
  · exact (h.restartDone.ite h).next

protected theorem State.Canonical.bootStart : (bootStart s).Canonical := by
  unfold bootStart
  extract_lets upd mgr pins s1 mgr' s2 s3 s4 s5 s6 s7 s8 s9 s10 hard
  have h5 : s5.Canonical := h.update.fset.fset.fset.fset
  have h9 : s9.Canonical := (h5.ite h5.enterHoldover).fset.fset.raiseAlert
  have h10 : s10.Canonical := h9.raiseAlert.ite h9
  refine h10.fset.interrupt.ite ?_
  split
  · exact h10.fset
  · extract_lets s11 s12 pend flash s13
    have h12 : s12.Canonical := h10.readPart.foldl fun hu => hu.applyTileMasks
    have h13 : s13.Canonical := h12.ite (h12.update.foldl fun hu => hu.update).writePart
    exact h13.showRetired

protected theorem State.Canonical.execModrstAssert : KeepsForm (execModrstAssert s) := h.update.next.ite h.coldState.update.next

protected theorem State.Canonical.execModrstRelease {boardPos slotId} : KeepsForm (execModrstRelease boardPos slotId s) :=
  h.next.ite (h.update.next.ite (h.update.next.ite h.update.bootStart.next))

protected theorem State.Canonical.execStandbyReached : KeepsForm (execStandbyReached s) :=
  h.next.ite ((h.coldState.update.use fun h1 => (h1.bootStart.ite h1).next).ite h.standbyState.next)

protected theorem State.Canonical.storeTraining : (storeTraining s).Canonical := h.update.writePart

protected theorem State.Canonical.execReady {ms failed} : KeepsForm (execReady ms failed s) :=
  h.next.ite ((h.applyPolicy.applyGrants.ite h).fset.fset.fset.fset.update.fset.computePeak.selectVertical.interrupt.sendEvents.use
    fun h5 => (h5.storeTraining.ite h5).next)

protected theorem State.Canonical.execPerst {port} : KeepsForm (execPerst port s) := h.fset.update.next

protected theorem State.Canonical.execFlashImageWriteComplete : KeepsForm (execFlashImageWriteComplete s) := by
  unfold execFlashImageWriteComplete
  split
  · exact h.verifyStaged.update.setUpdState.use fun h3 => h3.fset.next.ite (h3.coldState.update.bootStart.next.ite h3.next)
  · exact h.next

end

/-! ### Job loads -/

section
variable {s : State} (h : s.Canonical)
include h

protected theorem State.Canonical.writeRw {a v} : (writeRw s a v).Canonical := by
  unfold writeRw
  split
  · exact h.setReg
  · exact h

protected theorem State.Canonical.applySettings {img resume} : (applySettings s img resume).Canonical :=
  (h.foldl fun hu => hu.writeRw).foldl fun hu1 => hu1.fset

protected theorem State.Canonical.clearChannels : (clearChannels s).Canonical :=
  (h.foldl fun hu => by dsimp only; split; exacts [hu.fset.fset.chBusy, hu.fset.fset]).update

protected theorem State.Canonical.clearForLoad {resume} : (clearForLoad s resume).Canonical := by
  obtain ⟨hr, hm, he⟩ := h
  have h1 : State.Canonical { s with regs := s.regs.filter fun p => !clearedAtLoad resume p.1 } := ⟨mapWf_filter _ _ hr, hm, he⟩
  exact h1.dropWaits.clearChannels.update.setReg

protected theorem State.Canonical.zeroKeys {lo hi} : (zeroKeys s lo hi).Canonical :=
  h.forget.update

protected theorem State.Canonical.zeroSteps {old} : (zeroSteps old s).Canonical := h.foldl fun hu => hu.zeroKeys.ite hu

protected theorem State.Canonical.startCores {img} : (startCores s img).Canonical := h.update.foldl fun hu1 => hu1.setSeq

protected theorem State.Canonical.writeList {img die} : (writeList img s die).Canonical :=
  (h.fset.foldl fun hu1 => hu1.writeStack).setDie.refreshBusy

protected theorem State.Canonical.fillPool {p} : (fillPool s p).Canonical := h.update.fset.fset

protected theorem State.Canonical.loadCommon {img resume} : (loadCommon s img resume).Canonical :=
  ((h.clearForLoad.applySettings.zeroSteps.foldl fun hu1 => hu1.writeBytes).startCores.foldl fun hu2 => hu2.applyTileMasks).update

protected theorem State.Canonical.cancelCapture : (cancelCapture s).Canonical := h.fset.fset.ite h

protected theorem State.Canonical.loadJob {img} : (loadJob s img).Canonical :=
  (((((h.loadCommon.cancelCapture.update.foldl fun hu2 => hu2.refreshQstat).foldl fun hu3 => hu3.fillPool).foldl fun hu4 =>
    hu4.writeList).foldl fun hu5 => hu5.writeBytes).foldl fun hu6 => hu6.writeBytes).fset.fset.fset.showUpdate

protected theorem State.Canonical.pinnedFlags {p fl} : (pinnedFlags s p fl).Canonical := by
  unfold pinnedFlags
  split
  · exact h.dmaFlags
  · exact h

protected theorem State.Canonical.convertPinned {p} : (convertPinned s p).Canonical := by
  unfold convertPinned
  extract_lets v f bad rec_ made
  have hmade : made.2.1.Canonical :=
    List.foldlRecOn (motive := fun m : Made × State × Nat => m.2.1.Canonical) _ _ h.verifyRange.verifyFormat fun m hm r _ => by
      dsimp only
      exact hm.getElems
  exact hmade.pinnedFlags.writePuts

protected theorem State.Canonical.resumeLoad {img} : (resumeLoad s img).Canonical :=
  (h.loadCommon.update.foldl fun hu2 => hu2.refreshQstat).foldl fun hu2 => hu2.convertPinned

end

/-! ### The host rings -/

section
variable {s : State} (h : s.Canonical)
include h

protected theorem State.Canonical.execSqDoorbell {q tail} : KeepsForm (execSqDoorbell q tail s) := h.setRing.next.ite h.next

protected theorem State.Canonical.execCqDoorbell {q head} : KeepsForm (execCqDoorbell q head s) :=
  (h.setRing.fset.ite h.setRing).flushRing.next.ite h.next

protected theorem State.Canonical.writeSqCtl {q v} : (writeSqCtl s q v).Canonical :=
  (h.fset.fset.ite h.fset.fset.dropWaits).use fun h2 => h2.fset.ite h2

protected theorem State.Canonical.execRingEnable {q value} : KeepsForm (execRingEnable q value s) := h.writeSqCtl.next.ite h.next

protected theorem State.Canonical.stopRing {q} : (stopRing s q).Canonical := h.fset.interrupt

protected theorem State.Canonical.execCommandFetch {q failed} : KeepsForm (execCommandFetch q failed s) := by
  unfold execCommandFetch
  dsimp only
  refine h.next.ite ?_
  refine h.waitLink.next.ite ?_
  refine h.stopRing.next.ite ?_
  split
  · exact h.fset.setRing.completeRing.next
  · exact h.fset.setRing.next

protected theorem State.Canonical.execCqTimerExpire {q} : KeepsForm (execCqTimerExpire q s) := h.next.ite h.announce.next

protected theorem State.Canonical.execNop {q} : KeepsForm (execNop q s) := by
  unfold execNop
  split
  · exact h.completeRing.next
  · exact h.next

protected theorem State.Canonical.ringMoved {q bytes} : (ringMoved s q bytes).Canonical := h.fset

protected theorem State.Canonical.haltedRing {q} : (haltedRing s q).Canonical := h.completeRing

protected theorem State.Canonical.runLoad {q cmd img resume} : (runLoad s q cmd img resume).Canonical :=
  h.waitLink.ite (h.completeRing.ite (h.ringMoved.completeRing.ite (h.ringMoved.resumeLoad.ite h.ringMoved.loadJob).completeRing))

protected theorem State.Canonical.execLoadJob {q img} : KeepsForm (execLoadJob q img s) := by
  unfold execLoadJob
  split
  · exact h.next.ite (h.completeRing.next.ite (h.next.ite h.runLoad.next))
  · exact h.next

protected theorem State.Canonical.execResumeLoad {q img} : KeepsForm (execResumeLoad q img s) := by
  unfold execResumeLoad
  split
  · exact h.next.ite (h.completeRing.next.ite h.runLoad.next)
  · exact h.next

protected theorem State.Canonical.execCopy {q} : KeepsForm (execCopy q s) := by
  unfold execCopy
  split
  · exact h.haltedRing.next.ite (h.next.ite h.setChan.fetchDesc.next)
  · exact h.next

protected theorem State.Canonical.commandAbort {q cause cmd} : (commandAbort s q cause cmd).Canonical := h.abortChannel

protected theorem State.Canonical.execQpSet {q} : KeepsForm (execQpSet q s) := by
  unfold execQpSet
  split
  · exact h.next.ite
      (h.haltedRing.next.ite
      (h.waitLink.next.ite
      (h.commandAbort.next.ite
      (h.verifyRange.ringMoved.commandAbort.next.ite
      (h.verifyRange.ringMoved.completeRing.next.ite
      (h.verifyRange.ringMoved.completeRing.next.ite h.verifyRange.ringMoved.update.completeRing.next))))))
  · exact h.next

protected theorem State.Canonical.execQpDestroy {q} : KeepsForm (execQpDestroy q s) := by
  unfold execQpDestroy
  split
  · exact h.update.completeRing.next
  · exact h.next

protected theorem State.Canonical.execMrSet {q} : KeepsForm (execMrSet q s) := by
  unfold execMrSet
  split
  · exact h.next.ite (h.update.completeRing.next.ite h.update.completeRing.next)
  · exact h.next

protected theorem State.Canonical.execMrClear {q} : KeepsForm (execMrClear q s) := by
  unfold execMrClear
  split
  · exact h.update.completeRing.next
  · exact h.next

protected theorem State.Canonical.stageNow {bs poison} : (stageNow s bs poison).2.Canonical := by
  unfold stageNow
  extract_lets base s1 r s2 f f'
  have h2 : s2.Canonical := h.writeCells.verifyRange
  split
  · exact h2.fset
  · exact h2.update.setUpdState.showUpdate

protected theorem State.Canonical.hostPlaced {cmd img} : (hostPlaced s cmd img).Canonical := h.writeBytes.ite h

protected theorem State.Canonical.execStageImage {q img} : KeepsForm (execStageImage q img s) := by
  unfold execStageImage
  split
  · exact h.next.ite
      (h.completeRing.next.ite
      (h.haltedRing.next.ite
      (h.waitLink.next.ite (h.commandAbort.next.ite h.hostPlaced.verifyRange.ringMoved.stageNow.completeRing.next))))
  · exact h.next

protected theorem State.Canonical.runUpdate {q action valid act} (hact : ∀ {u : State}, u.Canonical → (act u).Canonical) :
    (runUpdate s q action valid act).Canonical := by
  unfold runUpdate
  split
  · exact h.ite ((hact h).completeRing.ite h.completeRing)
  · exact h

protected theorem State.Canonical.execUpdateApply {q} : KeepsForm (execUpdateApply q s) := (h.runUpdate fun hu => hu.startApply).next

protected theorem State.Canonical.execUpdateDeclareProven {q} : KeepsForm (execUpdateDeclareProven q s) :=
  (h.runUpdate fun hu => hu.startWriting).next

protected theorem State.Canonical.execUpdateRevert {q} : KeepsForm (execUpdateRevert q s) := (h.runUpdate fun hu => hu.startRevert).next

protected theorem State.Canonical.execUpdateDiscard {q} : KeepsForm (execUpdateDiscard q s) :=
  (h.runUpdate fun hu => hu.update.setUpdState.showUpdate).next

protected theorem State.Canonical.proceed {port w} : (proceed port s w).Canonical := by
  unfold proceed
  split
  · exact h
  · exact h.flushRing
  · exact h.emit
  · exact h.writeRecord
  · exact h.writeAbort
  · exact h.writeBytes.markDone
  · exact h.serveRdma

protected theorem State.Canonical.sendPending {vector} : (sendPending s vector).Canonical := h.setReg.update.msix.ite h

protected theorem State.Canonical.configurePort {port} : (configurePort s port).Canonical :=
  h.takeFree.update.foldl fun hu2 => hu2.sendPending

protected theorem State.Canonical.execPcieLinkUp {port} : KeepsForm (execPcieLinkUp port s) :=
  h.next.ite (h.fset.dropWaits.use fun h1 => ((h1.ite h1.configurePort).foldl fun hu2 => hu2.proceed).next)

protected theorem State.Canonical.failChannel {p e} : (failChannel p s e).Canonical := by
  unfold failChannel
  refine h.ite ?_
  split
  · exact h.abortChannel.ite h
  · split
    · exact h.ite (h.leaveTurnstile.abortChannel.ite h.abortChannel)
    · exact h

protected theorem State.Canonical.failRing {p q} : (failRing p s q).Canonical := by
  unfold failRing
  split
  · exact h.stopRing.ite h
  · refine (h.setRing.ite h).ite ?_
    refine h.ite ?_
    split
    · exact h.completeRing
    · exact h.ite h.commandAbort
    · exact h.commandAbort
    · exact h.commandAbort
    · exact h

protected theorem State.Canonical.failWait {port w} : (failWait port s w).Canonical := by
  unfold failWait
  split
  · exact h.failChannel
  · exact h.failRing
  · exact h
  · exact h.dropRecord
  · exact h.abortSeen
  · exact h.markDone
  · exact h.rdmaAnswer

protected theorem State.Canonical.execLinkWaitExpire {port} : KeepsForm (execLinkWaitExpire port s) :=
  h.next.ite (h.dropWaits.fset.foldl fun hu1 => hu1.failWait).next

end

/-! ### Attestation -/

section
variable {s : State} (h : s.Canonical)
include h

protected theorem State.Canonical.respond {m r} : (respond s m r).Canonical := h.emit

protected theorem State.Canonical.spdmAnswer {m act} (hact : ∀ {u : State}, u.Canonical → (act u).Canonical) :
    (spdmAnswer s m act).Canonical :=
  h.ite ((hact h).ite h.respond)

protected theorem State.Canonical.freeDigest : (freeDigest s).2.Canonical := h.update

protected theorem State.Canonical.signWith {m mk} : (signWith s m mk).Canonical := h.freeDigest.setPort.respond

protected theorem State.Canonical.execGetVersion {m} : KeepsForm (execGetVersion m s) := h.setPort.respond.next.ite h.next

protected theorem State.Canonical.execGetCapabilities {m} : KeepsForm (execGetCapabilities m s) := h.respond.next.ite h.next

protected theorem State.Canonical.execNegotiateAlgorithms {m p384 sha384} : KeepsForm (execNegotiateAlgorithms m p384 sha384 s) :=
  h.setPort.respond.next.ite h.next

protected theorem State.Canonical.execGetDigests {m} : KeepsForm (execGetDigests m s) := (h.spdmAnswer fun hu => hu.respond).next

protected theorem State.Canonical.execGetCertificate {m slot} : KeepsForm (execGetCertificate m slot s) :=
  (h.spdmAnswer fun hu => hu.respond).next

protected theorem State.Canonical.execChallenge {m _nonce} : KeepsForm (execChallenge m _nonce s) :=
  (h.spdmAnswer fun hu => hu.signWith).next

protected theorem State.Canonical.execGetMeasurements {m _nonce} : KeepsForm (execGetMeasurements m _nonce s) :=
  (h.spdmAnswer fun hu => hu.signWith).next

protected theorem State.Canonical.lmsStep {cur top bottom} : (lmsStep s cur top bottom).2.Canonical := h.update

protected theorem State.Canonical.signLeaf {m msg} : (signLeaf s m msg).Canonical := by
  unfold signLeaf
  split
  · exact h.lmsStep.respond
  · exact h.respond

protected theorem State.Canonical.nextTree {cur} : (nextTree s cur).2.Canonical := h.lmsStep.update.ite h.lmsStep

protected theorem State.Canonical.hssSignature {m d} : (hssSignature s m d).Canonical := by
  unfold hssSignature
  split
  · exact h.respond
  · exact h.signLeaf.ite (h.respond.ite (h.update.ite (h.nextTree.signLeaf.ite h.nextTree.respond)))

protected theorem State.Canonical.execHssSignatureRequest {m} : KeepsForm (execHssSignatureRequest m s) := by
  unfold execHssSignatureRequest
  refine h.next.ite ?_
  split
  · exact h.hssSignature.next
  · exact h.respond.next

protected theorem State.Canonical.execSignaturesLeftRequest {m} : KeepsForm (execSignaturesLeftRequest m s) := h.respond.next.ite h.next

protected theorem State.Canonical.execBottomTreeBuildComplete : KeepsForm (execBottomTreeBuildComplete s) :=
  (h.update.foldl fun hu => hu.hssSignature).next.ite h.next

end

/-! ### JTAG -/

section
variable {s : State} (h : s.Canonical)
include h

protected theorem State.Canonical.execExtest {scan} : KeepsForm (execExtest scan s) := h.next.ite (h.update.ite h.update.emit).next

protected theorem State.Canonical.execBypass {tdi} : KeepsForm (execBypass tdi s) := h.emit.next.ite h.next

protected theorem State.Canonical.execIdcode : KeepsForm (execIdcode s) := h.emit.next.ite h.next

end

/-! ### Management messages -/

section
variable {s : State} (h : s.Canonical)
include h

protected theorem State.Canonical.control {m r} : (control s m r).Canonical := h.respond.ite h

protected theorem State.Canonical.execSetEndpointId {m eid} : KeepsForm (execSetEndpointId m eid s) := h.setPort.respond.next.ite h.next

protected theorem State.Canonical.execGetEndpointId {m} : KeepsForm (execGetEndpointId m s) := h.control.next

protected theorem State.Canonical.execGetEndpointUuid {m} : KeepsForm (execGetEndpointUuid m s) := h.control.next

protected theorem State.Canonical.execGetMctpVersionSupport {m type} : KeepsForm (execGetMctpVersionSupport m type s) := h.control.next

protected theorem State.Canonical.execGetMessageTypeSupport {m} : KeepsForm (execGetMessageTypeSupport m s) := h.control.next

protected theorem State.Canonical.managed {m act} (hact : ∀ {u : State}, u.Canonical → (act u).Canonical) :
    (managed s m act).Canonical :=
  (hact h).ite h

protected theorem State.Canonical.managed5 {m act} (hact : ∀ {u : State}, u.Canonical → (act u).Canonical) :
    (managed5 s m act).Canonical :=
  (hact h).ite h

protected theorem State.Canonical.execGetTid {m} : KeepsForm (execGetTid m s) := (h.managed fun hu => hu.respond).next

protected theorem State.Canonical.execSetTid {m tid} : KeepsForm (execSetTid m tid s) := (h.managed fun hu => hu.update.respond).next

protected theorem State.Canonical.execGetPldmTypes {m} : KeepsForm (execGetPldmTypes m s) := (h.managed fun hu => hu.respond).next

protected theorem State.Canonical.execGetPldmVersion {m type} : KeepsForm (execGetPldmVersion m type s) :=
  (h.managed fun hu => hu.respond).next

protected theorem State.Canonical.execGetPldmCommands {m type} : KeepsForm (execGetPldmCommands m type s) :=
  (h.managed fun hu => hu.respond).next

protected theorem State.Canonical.execGetSensorReading {m sensor} : KeepsForm (execGetSensorReading m sensor s) :=
  (h.managed fun hu => hu.respond).next

protected theorem State.Canonical.execGetPdrRepositoryInfo {m} : KeepsForm (execGetPdrRepositoryInfo m s) :=
  (h.managed fun hu => hu.respond).next

protected theorem State.Canonical.execGetPdr {m handle} : KeepsForm (execGetPdr m handle s) := (h.managed fun hu => hu.respond).next

protected theorem State.Canonical.execSetEventReceiver {m eid} : KeepsForm (execSetEventReceiver m eid s) :=
  (h.managed fun hu => hu.update.respond).next

protected theorem State.Canonical.execQueryDeviceIdentifiers {m} : KeepsForm (execQueryDeviceIdentifiers m s) :=
  (h.managed5 fun hu => hu.respond).next

protected theorem State.Canonical.execGetFirmwareParameters {m} : KeepsForm (execGetFirmwareParameters m s) :=
  (h.managed5 fun hu => hu.respond).next

protected theorem State.Canonical.setAgent {a} : (setAgent s a).Canonical := h.update

protected theorem State.Canonical.execRequestUpdate {m} : KeepsForm (execRequestUpdate m s) :=
  (h.managed5 fun hu => hu.respond.ite hu.setAgent.respond).next

protected theorem State.Canonical.agentOnly {m act} (hact : ∀ {u : State}, u.Canonical → (act u).Canonical) :
    (agentOnly s m act).Canonical :=
  h.managed5 fun hu => (hact hu).ite hu.respond

protected theorem State.Canonical.execPassComponentTable {m} : KeepsForm (execPassComponentTable m s) :=
  (h.agentOnly fun hu => hu.respond).next

protected theorem State.Canonical.execUpdateComponent {m} : KeepsForm (execUpdateComponent m s) :=
  (h.agentOnly fun hu => hu.setAgent.respond).next

protected theorem State.Canonical.receiveImage {m} : (receiveImage s m).Canonical :=
  h.respond.ite ((h.respond.ite h.update.startWriting.respond.respond).ite (h.stageNow.respond.ite h.stageNow.respond.respond))

protected theorem State.Canonical.execRequestFirmwareDataResponse {m data last} : KeepsForm
    (execRequestFirmwareDataResponse m data last s) :=
  (h.agentOnly fun hu => hu.update.respond.receiveImage.ite hu.update.respond).next

protected theorem State.Canonical.execActivateFirmware {m selfContained} : KeepsForm (execActivateFirmware m selfContained s) :=
  (h.agentOnly fun hu => hu.setAgent.respond.ite (hu.respond.ite (hu.startApply.ite hu).setAgent.respond)).next

protected theorem State.Canonical.execGetStatus {m} : KeepsForm (execGetStatus m s) := (h.managed5 fun hu => hu.respond).next

protected theorem State.Canonical.execCancelUpdate {m} : KeepsForm (execCancelUpdate m s) :=
  (h.agentOnly fun hu => (hu.update.setUpdState.showUpdate.ite hu).setAgent.respond).next

protected theorem State.Canonical.execSubscribe {m eid bits} : KeepsForm (execSubscribe m eid bits s) :=
  (h.managed fun hu => hu.setPort.respond.ite (hu.respond.ite hu.setPort.respond)).next

protected theorem State.Canonical.execReadFlashLog {m seq} : KeepsForm (execReadFlashLog m seq s) :=
  (h.managed fun hu => hu.respond).next

end

/-! ### Checks and monitoring counters -/

section
variable {s : State} (h : s.Canonical)
include h

protected theorem State.Canonical.execLockstepMismatch {parity} : KeepsForm (execLockstepMismatch parity s) :=
  h.next.ite (h.warmRestart.next.ite (h.update.fset.post.refreshAlert.next.ite h.update.warmRestart.next))

protected theorem State.Canonical.execWatchdogExpire : KeepsForm (execWatchdogExpire s) :=
  (h.post.warmRestart.use fun h1 => (h1.startRevert.ite h1).next).ite h.next

protected theorem State.Canonical.execWatchdogKick {r} : KeepsForm (execWatchdogKick r s) := (h.guardedWrite fun hu => hu.update).next

protected theorem State.Canonical.execSensorReading {sensor value} : KeepsForm (execSensorReading sensor value s) :=
  h.next.ite h.hubReading.next

protected theorem State.Canonical.mcStore {a value added} : (mcStore s a value added).Canonical :=
  (h.fset.ite h).fset.mcBump.ite (h.fset.ite h).fset

protected theorem State.Canonical.execMcWrite {r tile n value added} : KeepsForm (execMcWrite r tile n value added s) := by
  unfold execMcWrite
  split
  · exact (h.guardedWrite fun hu => hu.mcStore).next
  · exact h.next

end

/-! ### Snapshots -/

section
variable {s : State} (h : s.Canonical)
include h

protected theorem State.Canonical.execSnapshotFire {r} : KeepsForm (execSnapshotFire r s) :=
  (h.guardedWrite fun hu => hu.fireSnapshot).next

protected theorem State.Canonical.execSnapLSampled : KeepsForm (execSnapLSampled s) := h.fireSnapshot.next.ite h.next

protected theorem State.Canonical.execMatchArm {r} : KeepsForm (execMatchArm r s) := (h.guardedWrite fun hu => hu.fset).next

protected theorem State.Canonical.execBeatMatch : KeepsForm (execBeatMatch s) := h.fset.fireSnapshot.next.ite h.next

protected theorem State.Canonical.latchBlock {old beat b} : (latchBlock old beat s b).Canonical := h.fadd.ite h.fset.fset.update

protected theorem State.Canonical.setCause {ts beat} : (setCause s ts beat).Canonical := h.fset.fset.fset.fset.post

protected theorem State.Canonical.drivePin {ts beat} : (drivePin s ts beat).Canonical := h.update.ite h

protected theorem State.Canonical.capture {ts beat} : (capture s ts beat).Canonical :=
  (h.update.foldl fun hu1 => hu1.latchBlock).use fun h2 => (h2.setCause.ite h2).use fun h3 => (h3.fadd.post.ite h3).drivePin

protected theorem State.Canonical.execSnapshotLatch : KeepsForm (execSnapshotLatch s) := by
  unfold execSnapshotLatch
  split
  · exact h.next
  · exact h.next.ite h.update.capture.next

protected theorem State.Canonical.releaseLatch {b} : (releaseLatch s b).Canonical := h.fset.update

protected theorem State.Canonical.interfaceWrite {r act} (hact : ∀ {u : State}, u.Canonical → (act u).Canonical) :
    (interfaceWrite s r act).Canonical :=
  (hact h).ite h

protected theorem State.Canonical.execLatchRelease {r b} : KeepsForm (execLatchRelease r b s) :=
  (h.interfaceWrite fun hu => hu.releaseLatch).next.ite (h.guardedWrite fun hu => hu.releaseLatch).next

protected theorem State.Canonical.releaseAll : (releaseAll s).Canonical := h.foldl fun hu => hu.releaseLatch

protected theorem State.Canonical.execRelease {r} : KeepsForm (execRelease r s) := (h.guardedWrite fun hu => hu.releaseAll).next

protected theorem State.Canonical.execSnapshotAutoSave : KeepsForm (execSnapshotAutoSave s) := h.update.next.ite h.next

protected theorem State.Canonical.freeBytes {words} : (freeBytes s words).2.Canonical := h.update

protected theorem State.Canonical.execSnapshotDumpComplete : KeepsForm (execSnapshotDumpComplete s) :=
  (h.freeBytes.writeBytes.ite h).update.releaseAll.next.ite h.next

end

/-! ### The register region -/

section
variable {s : State} (h : s.Canonical)
include h

protected theorem State.Canonical.plainWrite {a row v} : (plainWrite s a row v).Canonical := h.setReg

protected theorem State.Canonical.rearm {a valid count} : (rearm s a valid count).Canonical := h.ite h.fset

protected theorem State.Canonical.commandState {o} (ho : KeepsForm o) : (commandState s o).Canonical := by
  cases o with
  | next t => exact ho
  | fault r => exact h
  | refused r => exact h

protected theorem State.Canonical.runIf {b c} (hc : ∀ {u : State}, u.Canonical → KeepsForm (c u)) : (runIf b s c).Canonical :=
  (h.commandState (hc h)).ite h

protected theorem State.Canonical.abortNow {e} : (abortNow s e).Canonical := by
  unfold abortNow
  dsimp only
  split
  · exact h.commandState h.takeFree.execAbortRequest
  · exact (h.commandState h.takeFree.execAbortRequest).ite (h.commandState h.execAbortRequest)

protected theorem State.Canonical.writeChCtl {e v} : (writeChCtl s e v).Canonical :=
  (h.abortNow.ite h).use fun h1 => h1.ite ((h1.commandState h1.execFirmwareChannelStart).ite h1.fset)

protected theorem State.Canonical.writeRepair {d v} : (writeRepair s d v).Canonical := by
  unfold writeRepair
  dsimp only
  split
  · exact h.repairFields.commandState h.repairFields.execReadSpareRows
  · exact h.repairFields.commandState h.repairFields.execSppr
  · exact h.repairFields.commandState h.repairFields.execHppr
  · exact h.repairFields

protected theorem State.Canonical.writeTile {t o a row v} : (writeTile s t o a row v).Canonical :=
  ((h.runIf fun hu => hu.execNanTrapClear).ite ((h.commandState h.execFieldBypassRequest).ite h.plainWrite)).ite
    (h.writeChCtl.ite (h.mcStore.ite ((h.releaseLatch.ite h).ite (h.plainWrite.rearm.ite (h.plainWrite.rearm.ite h.plainWrite)))))

protected theorem State.Canonical.writeDie {die o a row v} : (writeDie s die o a row v).Canonical :=
  h.writeRepair.ite
    (h.writeRepair.ite
    (h.writeRepair.ite
    ((h.commandState h.execMaintArm).ite
    ((h.commandState h.execMaintArm).ite
    ((h.commandState h.execMaintArm).ite
    (((h.plainWrite.runIf fun hu => hu.execFillStart).runIf fun hu1 => hu1.execFillStop).ite
    (h.writeChCtl.ite ((h.releaseLatch.ite h).ite (h.plainWrite.rearm.ite h.plainWrite)))))))))

protected theorem State.Canonical.writeStep {a row v} : (writeStep s a row v).Canonical :=
  (h.plainWrite.runIf fun hu1 => hu1.execAbandon).ite
    (((h.plainWrite.runIf fun hu1 => hu1.execCkptRelease).runIf fun hu2 => hu2.execCkptArm).ite h.plainWrite)

protected theorem State.Canonical.writeTimebase {a row v} : (writeTimebase s a row v).Canonical :=
  ((h.plainWrite.fset.runIf fun hu1 => hu1.execSyncArm).use fun h2 => (h2.commandState h2.execCarouselStart).ite
    (h2.commandState h2.execCarouselStop)).ite
    ((h.runIf fun hu => hu.execSlew).ite
    ((((h.plainWrite.runIf fun hu => hu.execHoldReq).runIf fun hu1 => hu1.execHaltJob).runIf fun hu2 => hu2.execGo).ite
    ((h.ite h.update.plainWrite).ite
    (h.keepChange.plainWrite.ite ((h.plainWrite.update.ite h.plainWrite).ite ((h.releaseLatch.ite h).ite h.plainWrite))))))

protected theorem State.Canonical.writePower {a row v} : (writePower s a row v).Canonical := by
  unfold writePower
  refine .ite ?_ ((h.releaseLatch.ite h).ite (h.plainWrite.post.adjustClock.ite (h.plainWrite.adjustClock.ite h.plainWrite)))
  split
  · exact h.commandState h.execParkRequest
  · exact h.commandState h.execReadyRequest
  · exact h

protected theorem State.Canonical.writeLink {a row v} : (writeLink s a row v).Canonical :=
  (h.commandState h.execLnkFaultEpoch).ite ((h.releaseLatch.ite h).ite h.plainWrite)

protected theorem State.Canonical.writeAlert {row v} : (writeAlert s row v).Canonical :=
  h.plainWrite.refreshAlert.foldl fun hu => hu.raiseAlert.ite hu

protected theorem State.Canonical.writeSnapCtl {row v} : (writeSnapCtl s row v).Canonical :=
  ((h.plainWrite.runIf fun hu => hu.execRelease).runIf fun hu1 => hu1.execMatchArm).runIf fun hu2 => hu2.execSnapshotFire

protected theorem State.Canonical.sealNow : (sealNow s).Canonical := h.fset

protected theorem State.Canonical.writeManagement {a row v} : (writeManagement s a row v).Canonical :=
  h.writeAlert.ite
    (h.plainWrite.refreshAlert.ite
    ((h.plainWrite.runIf fun hu => hu.execWatchdogKick).ite (h.writeSnapCtl.ite ((h.sealNow.ite h).ite (h.mcStore.ite h.plainWrite)))))

protected theorem State.Canonical.writeInterface {a row v} : (writeInterface s a row v).Canonical := by
  unfold writeInterface
  exact (h.releaseLatch.ite h).ite ((h.writeSqCtl.ite (h.plainWrite.flushRing.ite h.plainWrite)).ite
    (((h.commandState h.execSqDoorbell).ite (h.commandState h.execCqDoorbell)).ite
      (h.plainWrite.sendPending.ite (h.plainWrite.provenCheck.ite h.plainWrite))))

protected theorem State.Canonical.writeReg {a row v} : (writeReg s a row v).Canonical := by
  unfold writeReg
  refine .ite ?_ ?_
  · split
    · exact h.writeTile
    · exact h
  · refine h.writeDie.ite ?_
    split
    · exact h.writeStep
    · exact h.writeTimebase
    · exact h.writePower
    · exact h.writeLink
    · exact (h.releaseLatch.ite h).ite h.plainWrite
    · exact h.writeChCtl.ite h
    · exact h.writeManagement
    · exact h.writeInterface.ite h.plainWrite

protected theorem State.Canonical.execRegisterWrite {r reg enables value} : KeepsForm (execRegisterWrite r reg enables value s) := by
  unfold execRegisterWrite
  split
  · exact h.next.ite (((h.writeReg.ite h).ite h).next.ite (h.guardedWrite fun hu => hu.writeReg.ite hu).next)
  · exact h.next

protected theorem State.Canonical.execSeal {r} : KeepsForm (execSeal r s) := (h.guardedWrite fun hu => hu.sealNow).next

protected theorem State.Canonical.execHalfReadLatch {r reg} : KeepsForm (execHalfReadLatch r reg s) :=
  h.next.ite (h.update.next.ite (h.update.next.ite h.next))

end

/-! ### The core sequencers -/

section
variable {s : State} (h : s.Canonical)
include h

protected theorem State.Canonical.onCore {c act} (hact : ∀ {u : State} {x0}, u.Canonical → (act u x0).Canonical) :
    (onCore s c act).Canonical :=
  h.ite (h.programFault.ite (hact h))

protected theorem State.Canonical.illegal {c} : (illegal s c).Canonical := h.programFault

protected theorem State.Canonical.rejectIssue {c} : (rejectIssue s c).Canonical := h.programFault

protected theorem State.Canonical.advance {c} : (advance s c).Canonical := h.setSeq

protected theorem State.Canonical.waitAs {c st} : (waitAs s c st).Canonical := h.setSeq

protected theorem State.Canonical.verifyIssue {c queue a d} : (verifyIssue s c queue a d).2.Canonical := by
  unfold verifyIssue
  split
  · exact h
  · exact h.verifyAll

protected theorem State.Canonical.enqueue {c queue e} : (enqueue s c queue e).Canonical := h.waitAs.ite h.setSeq.advance

protected theorem State.Canonical.issueDesc {c queue scratch off} : (issueDesc s c queue scratch off).Canonical :=
  h.rejectIssue.ite
    (h.verifyIssue.integrityAll.rejectIssue.ite
    (h.verifyIssue.rejectIssue.ite (h.verifyIssue.verifyFormat.use fun h2 => h2.integrityAll.rejectIssue.ite h2.enqueue)))

protected theorem State.Canonical.execIssue {c queue space offset} : KeepsForm (execIssue c queue space offset s) :=
  (h.onCore fun hu => hu.illegal.ite hu.issueDesc).next

protected theorem State.Canonical.execIssueQueueRoom {c} : KeepsForm (execIssueQueueRoom c s) := by
  unfold execIssueQueueRoom
  split
  · exact h.next.ite h.enqueue.next
  · exact h.next

protected theorem State.Canonical.execWaitEv {c ev count} : KeepsForm (execWaitEv c ev count s) :=
  (h.onCore fun hu => hu.advance.ite hu.waitAs.grantWaits).next

protected theorem State.Canonical.execWaitEvGrant {t ev} : KeepsForm (execWaitEvGrant t ev s) := h.grantWaits.next

protected theorem State.Canonical.execPulse {c ev target pos tile} : KeepsForm (execPulse c ev target pos tile s) :=
  (h.onCore fun hu => hu.illegal.ite (by dsimp only; split; exacts [hu.advance.pulseAt, hu.advance.sendMesh, hu.advance.sendPort])).next

protected theorem State.Canonical.execPulseArrive {t ev} : KeepsForm (execPulseArrive t ev s) := by
  unfold execPulseArrive
  split
  · split
    · next e => exact (h.takeFlight e).pulseAt.next
    · exact h.next
  · exact (h.takeDie fun hu => hu.pulseAt).next

protected theorem State.Canonical.execEvWaitLimitExpire {c} : KeepsForm (execEvWaitLimitExpire c s) := by
  unfold execEvWaitLimitExpire
  split
  · exact h.programFault.next.ite h.next
  · exact h.next

protected theorem State.Canonical.execWaitBeat {c offset} : KeepsForm (execWaitBeat c offset s) :=
  (h.onCore fun hu => hu.advance.ite hu.waitAs).next

protected theorem State.Canonical.execWaitBeatRelease {c} : KeepsForm (execWaitBeatRelease c s) := by
  unfold execWaitBeatRelease
  split
  · exact h.advance.next.ite h.next
  · exact h.next

protected theorem State.Canonical.execPhaseBegin {c phase} : KeepsForm (execPhaseBegin c phase s) :=
  (h.onCore fun hu => hu.illegal.ite hu.waitAs).next

protected theorem State.Canonical.noteGrant {n p e} : (noteGrant s n p e).Canonical := h.setPhaseRec.markPhases

protected theorem State.Canonical.grantPhase {t e} : (grantPhase s t e).Canonical := by
  unfold grantPhase
  dsimp only
  split
  · exact ((h.noteGrant.adjustClock.ite h.noteGrant).setTile.foldl fun hu3 => hu3.setSeq).infuserWalk.ite
      ((h.noteGrant.adjustClock.ite h.noteGrant).setTile.foldl fun hu3 => hu3.setSeq)
  · exact (h.noteGrant.adjustClock.ite h.noteGrant).setTile.foldl fun hu3 => hu3.setSeq

protected theorem State.Canonical.execPhaseGrant {t phase} : KeepsForm (execPhaseGrant t phase s) := by
  unfold execPhaseGrant
  dsimp only
  split
  · exact h.settle.grantPhase.next.ite h.settle.next
  · exact h.settle.next

protected theorem State.Canonical.tryPhaseEnd {c phase} : (tryPhaseEnd s c phase).Canonical :=
  (h.setSeq.setTile.tilePhaseEnds.ite h.setSeq.setTile).ite h.waitAs

protected theorem State.Canonical.execPhaseEnd {c phase} : KeepsForm (execPhaseEnd c phase s) := by
  unfold execPhaseEnd
  split
  · exact h.tryPhaseEnd.settle.next.ite h.next
  · exact (h.onCore fun hu => hu.tryPhaseEnd.settle.ite hu.illegal).next

protected theorem State.Canonical.jumpTo {c target} : (jumpTo s c target).Canonical := h.setSeq

protected theorem State.Canonical.execLoop {c count target} : KeepsForm (execLoop c count target s) := by
  refine State.Canonical.next (h.onCore fun hu => ?_)
  extract_lets push
  have hpush : (push ()).Canonical := hu.advance.ite (hu.illegal.ite hu.setSeq.jumpTo)
  refine hu.illegal.ite ?_
  split
  · exact (hu.setSeq.advance.ite hu.setSeq.jumpTo).ite hpush
  · exact hpush

protected theorem State.Canonical.execJump {c target} : KeepsForm (execJump c target s) :=
  (h.onCore fun hu => hu.illegal.ite hu.jumpTo).next

protected theorem State.Canonical.execDrain {c mask} : KeepsForm (execDrain c mask s) :=
  (h.onCore fun hu => hu.advance.ite hu.waitAs).next

protected theorem State.Canonical.execDrainRelease {c} : KeepsForm (execDrainRelease c s) := by
  unfold execDrainRelease
  split
  · exact h.advance.next.ite h.next
  · exact h.next

protected theorem State.Canonical.execHalt {c} : KeepsForm (execHalt c s) := (h.onCore fun hu => hu.waitAs).next

protected theorem State.Canonical.execCompletionPulse {c queue} : KeepsForm (execCompletionPulse c queue s) := by
  unfold execCompletionPulse
  dsimp only
  split
  · exact h.setSeq.pulseAt.next.ite h.next
  · exact h.next

end

/-! ### Any command -/

section
variable {s : State} (h : s.Canonical)
include h

protected theorem State.Canonical.exec {i} : KeepsForm (exec i s) := by
  unfold exec
  split
  · exact h.execIssue
  · exact h.execIssueQueueRoom
  · exact h.execWaitEv
  · exact h.execWaitEvGrant
  · exact h.execPulse
  · exact h.execPulseArrive
  · exact h.execEvWaitLimitExpire
  · exact h.execWaitBeat
  · exact h.execWaitBeatRelease
  · exact h.execPhaseBegin
  · exact h.execPhaseGrant
  · exact h.execPhaseEnd
  · exact h.execLoop
  · exact h.execJump
  · exact h.execDrain
  · exact h.execDrainRelease
  · exact h.execHalt
  · exact h.execCompletionPulse
  · exact h.execSync
  · exact h.execSyncArm
  · exact h.execBeatLoss
  · exact h.execBeatReturn
  · exact h.execSlew
  · exact h.execSlewAdd
  · exact h.execSlewBeat
  · exact h.execPtpEventMessage
  · exact h.execCarouselStart
  · exact h.execCarouselStop
  · exact h.execEnvelopeDeclare
  · exact h.execNanTrapClear
  · exact h.execMatrixOperation
  · exact h.execWeightTileSwap
  · exact h.execConvolution
  · exact h.execCombine
  · exact h.execMaxPooling
  · exact h.execAveragePooling
  · exact h.execMerge
  · exact h.execPrecondition
  · exact h.execAttention
  · exact h.execWalkerStart
  · exact h.execScuOpen
  · exact h.execScuClose
  · exact h.execScuAppend
  · exact h.execScuTruncate
  · exact h.execScuAdvance
  · exact h.execScuPark
  · exact h.execScuResume
  · exact h.execScuSet
  · exact h.execPageMoveComplete
  · exact h.execStalledEditApply
  · exact h.execQuarantineRelease
  · exact h.execTransfer
  · exact h.execGather
  · exact h.execScatter
  · exact h.execScatterAdd
  · exact h.execWindowLoad
  · exact h.execCompress
  · exact h.execExpand
  · exact h.execScrub
  · exact h.execInvalidate
  · exact h.execChainNextFetch
  · exact h.execFirmwareChannelStart
  · exact h.execAbortRequest
  · exact h.execReduceScatter
  · exact h.execAllGather
  · exact h.execAllReduce
  · exact h.execBroadcast
  · exact h.execSegmentFold
  · exact h.execDataPacket
  · exact h.execAckPacket
  · exact h.execCreditPacket
  · exact h.execVerdictPacket
  · exact h.execRetransmitTimeout
  · exact h.execFlitCrcError
  · exact h.execLinkRetrain
  · exact h.execLinkTraining
  · exact h.execPeerSilent
  · exact h.execSilentPeerReport
  · exact h.execLnkFaultEpoch
  · exact h.execRdmaRequest
  · exact h.execArpRequest
  · exact h.execVerdictWarnExpire
  · exact h.execAbandon
  · exact h.execInfuserWalkComplete
  · exact h.execCkptArm
  · exact h.execCaptureRecordCopy
  · exact h.execCkptRelease
  · exact h.execHoldReq
  · exact h.execGo
  · exact h.execHaltJob
  · exact h.execSpareSiteSwap
  · exact h.execFillStart
  · exact h.execFillStop
  · exact h.execFillData
  · exact h.execSourceLost
  · exact h.execFieldBypassRequest
  · exact h.execThermalReading
  · exact h.execHaltLimitExpire
  · exact h.execMaintArm
  · exact h.execMaintenanceWindowOpen
  · exact h.execMaintenanceWindowEnd
  · exact h.execMaintenanceWindowLimit
  · exact h.execReadSpareRows
  · exact h.execSppr
  · exact h.execHppr
  · exact h.execRetireRange
  · exact h.execSqDoorbell
  · exact h.execCqDoorbell
  · exact h.execRingEnable
  · exact h.execCommandFetch
  · exact h.execCqTimerExpire
  · exact h.execNop
  · exact h.execLoadJob
  · exact h.execResumeLoad
  · exact h.execCopy
  · exact h.execQpSet
  · exact h.execQpDestroy
  · exact h.execMrSet
  · exact h.execMrClear
  · exact h.execStageImage
  · exact h.execUpdateApply
  · exact h.execUpdateDeclareProven
  · exact h.execUpdateRevert
  · exact h.execUpdateDiscard
  · exact h.execSectionApply
  · exact h.execFlashImageWriteComplete
  · exact h.execPerst
  · exact h.execLinkWaitExpire
  · exact h.execModrstAssert
  · exact h.execModrstRelease
  · exact h.execReady
  · exact h.execGetVersion
  · exact h.execGetCapabilities
  · exact h.execNegotiateAlgorithms
  · exact h.execGetDigests
  · exact h.execGetCertificate
  · exact h.execChallenge
  · exact h.execGetMeasurements
  · exact h.execHssSignatureRequest
  · exact h.execSignaturesLeftRequest
  · exact h.execBottomTreeBuildComplete
  · exact h.execSetEndpointId
  · exact h.execGetEndpointId
  · exact h.execGetEndpointUuid
  · exact h.execGetMctpVersionSupport
  · exact h.execGetMessageTypeSupport
  · exact h.execGetTid
  · exact h.execSetTid
  · exact h.execGetPldmVersion
  · exact h.execGetPldmTypes
  · exact h.execGetPldmCommands
  · exact h.execGetSensorReading
  · exact h.execGetPdrRepositoryInfo
  · exact h.execGetPdr
  · exact h.execSetEventReceiver
  · exact h.execQueryDeviceIdentifiers
  · exact h.execGetFirmwareParameters
  · exact h.execRequestUpdate
  · exact h.execPassComponentTable
  · exact h.execUpdateComponent
  · exact h.execRequestFirmwareDataResponse
  · exact h.execActivateFirmware
  · exact h.execGetStatus
  · exact h.execCancelUpdate
  · exact h.execSubscribe
  · exact h.execReadFlashLog
  · exact h.execInputSample
  · exact h.execUndervolt
  · exact h.execOvervolt
  · exact h.execDrawWindow
  · exact h.execClockStepUp
  · exact h.execFloorHoldLimitExpire
  · exact h.execForecast
  · exact h.execParkRequest
  · exact h.execReadyRequest
  · exact h.execUnparkComplete
  · exact h.execThrotFall
  · exact h.execThrotRise
  · exact h.execTileThermalReading
  · exact h.execCoolantReading
  · exact h.execShutdownMemoryOff
  · exact h.execShutdownRegulatorsOff
  · exact h.execStandbyReached
  · exact h.execLockstepMismatch
  · exact h.execWatchdogExpire
  · exact h.execWatchdogKick
  · exact h.execWarmRestartComplete
  · exact h.execSensorReading
  · exact h.execEventLogAppend
  · exact h.execFlashLogCopy
  · exact h.execMcWrite
  · exact h.execSnapshotFire
  · exact h.execSnapLSampled
  · exact h.execMatchArm
  · exact h.execBeatMatch
  · exact h.execSnapshotLatch
  · exact h.execLatchRelease
  · exact h.execRelease
  · exact h.execSnapshotAutoSave
  · exact h.execSeal
  · exact h.execHalfReadLatch
  · exact h.execRegisterWrite
  · exact h.execIntake
  · exact h.execIntakeDispatch
  · exact h.execExtest
  · exact h.execBypass
  · exact h.execIdcode
  · exact h.execInputPowerApplied
  · exact h.execInputPowerLoss
  · exact h.execEthernetLinkDown
  · exact h.execEthernetLinkUp
  · exact h.execPcieLinkDown
  · exact h.execPcieLinkUp
  · exact h.execLinkRetrainComplete
  · exact h.execSnapshotDumpComplete

end

/-! ### A step -/

section
variable {s : State} (h : s.Canonical)
include h

protected theorem State.Canonical.step : KeepsForm (step s) := by
  unfold step
  split
  · exact h.tick.next
  · exact h.update.exec

end

/-- Settles O13: the invariant is kept by the tick and by every command. -/
theorem stepsKeepTheCanonicalForm : Obligations.StepsKeepTheCanonicalForm := by
  intro s t h e
  have ht : KeepsForm (step s) := h.step
  rw [e] at ht
  exact ht

end Sys2Proof.Machine
end

section
/-! A stopped tile stays stopped, and of a tile that ran no core runs again (R32, R327, R330). Of the operations on units only two matter:
the write of a tile, which keeps `stopped`, and that of a sequencer, which keeps a quiet core quiet. For every other function that stopping
a tile or aborting a channel calls, `State.Halted.f` says that `f` keeps this, and its proof names the functions that `f` calls, as the
layer of `State.Canonical` does. -/

namespace Sys2Proof.Machine

/-! ### Tiles that stop -/

/-- A core runs nothing and waits for nothing: it is stopped, or has ended by HALT. -/
def Seq.Quiet (q : Seq) : Prop := q.status = .stopped ∨ q.status = .halted

/-- The tiles of `down` are stopped, and of a tile of `ran` that is stopped every core is quiet. -/
def State.Halted (s : State) (down ran : Set TileId) : Prop :=
  (∀ k ∈ down, (s.tile k).stopped = true) ∧ ∀ k ∈ ran, (s.tile k).stopped = true → ∀ c, (s.seq ⟨k, c⟩).Quiet

/-- At first no tile of those that run has stopped. -/
theorem halted_running (s : State) : s.Halted ∅ {k | (s.tile k).stopped = false} :=
  ⟨fun _ hk => hk.elim, fun _ hk hs => absurd (hk.symm.trans hs) (by decide)⟩

section
variable {s : State} {down ran : Set TileId} (h : s.Halted down ran)
include h

protected theorem State.Halted.mono {down' ran' : Set TileId} (hd : down' ⊆ down) (hr : ran' ⊆ ran) : s.Halted down' ran' := by
  obtain ⟨hdown, hquiet⟩ := h
  exact ⟨fun k hk => hdown k (hd hk), fun k hk => hquiet k (hr hk)⟩

/-- An update of any other part of the state. -/
protected theorem State.Halted.update {regs mem env errs slices pools moves chans mesh spanHeld dieHeld dieIn devs dies tempRetired
    beat windowStart slews ptpStamp syncBase car stp job repair links rings qps regions flash upd mgr snaps pwr pins vid halves out free
    pending} :
    State.Halted ⟨regs, mem, env, errs, s.seqs, s.tiles, slices, pools, moves, chans, mesh, spanHeld, dieHeld, dieIn, devs, dies,
      tempRetired, beat, windowStart, slews, ptpStamp, syncBase, car, stp, job, repair, links, rings, qps, regions, flash, upd, mgr,
      snaps, pwr, pins, vid, halves, out, free, pending⟩ down ran := h

protected theorem State.Halted.ite {t : State} (ht : t.Halted down ran) {c : Prop} [Decidable c] :
    (if c then s else t).Halted down ran := by
  split
  · exact h
  · exact ht

protected theorem State.Halted.foldl {β : Type} {l : List β} {f : State → β → State}
    (hf : ∀ {u : State} {b : β}, u.Halted down ran → (f u b).Halted down ran) : (l.foldl f s).Halted down ran :=
  List.foldlRecOn (motive := fun u => u.Halted down ran) l f h fun _ hu _ _ => hf hu

/-- A fold that gathers a result beside the state. -/
protected theorem State.Halted.foldlSnd {α β : Type} {a : α} {l : List β} {f : α × State → β → α × State}
    (hf : ∀ {u : α × State} {b : β}, u.2.Halted down ran → (f u b).2.Halted down ran) : (l.foldl f (a, s)).2.Halted down ran :=
  List.foldlRecOn (motive := fun u => u.2.Halted down ran) l f h fun _ hu _ _ => hf hu

/-- One proof for a state that several places name. -/
protected theorem State.Halted.use {p : Prop} (k : s.Halted down ran → p) : p := k h

/-- A sequencer is written that may run: its tile runs, or is none of `ran`. -/
protected theorem State.Halted.setSeq_running {c x} (hc : c.tile ∈ ran → (s.tile c.tile).stopped = true → x.Quiet) :
    (s.setSeq c x).Halted down ran := by
  obtain ⟨hdown, hquiet⟩ := h
  refine ⟨hdown, fun k hk hs d => ?_⟩
  by_cases hd : (⟨k, d⟩ : CoreId) = c
  · subst hd
    rw [seq_setSeq]
    exact hc hk hs
  · rw [seq_setSeq_ne s x hd]
    exact hquiet k hk hs d

/-- The queues of a core are written. -/
protected theorem State.Halted.setQueues {c qs} : (s.setSeq c { s.seq c with queues := qs }).Halted down ran :=
  h.setSeq_running fun hk hs => h.2 c.tile hk hs c.core

protected theorem State.Halted.setTile {t x} (hx : x.stopped = (s.tile t).stopped) : (s.setTile t x).Halted down ran := by
  have hs (k : TileId) : ((s.setTile t x).tile k).stopped = (s.tile k).stopped := by
    by_cases hk : k = t
    · rw [hk, tile_setTile, hx]
    · rw [tile_setTile_ne s x hk]
  obtain ⟨hdown, hquiet⟩ := h
  exact ⟨fun k hk => (hs k).trans (hdown k hk), fun k hk hk' => hquiet k hk ((hs k).symm.trans hk')⟩

protected theorem State.Halted.setReg {a v} : (s.setReg a v).Halted down ran := h.update

protected theorem State.Halted.setChan {e x} : (s.setChan e x).Halted down ran := h.update

protected theorem State.Halted.setDie {die x} : (s.setDie die x).Halted down ran := h.update

protected theorem State.Halted.setRing {q x} : (s.setRing q x).Halted down ran := h.update

end

/-! ### Registers, units, events and counters -/

section
variable {s : State} {down ran : Set TileId} (h : s.Halted down ran)
include h

protected theorem State.Halted.fset {a f v} : (fset s a f v).Halted down ran := h.setReg

protected theorem State.Halted.fadd {a f n} : (fadd s a f n).Halted down ran := h.fset

protected theorem State.Halted.takeFree : (takeFree s).2.Halted down ran := h.update

protected theorem State.Halted.emit {m} : (emit s m).Halted down ran := h.update

protected theorem State.Halted.waitLink {p w} : (waitLink s p w).Halted down ran := h.ite h.update

protected theorem State.Halted.msix {port vector} : (msix s port vector).Halted down ran := (h.emit.ite h.waitLink).ite h.update.setReg

protected theorem State.Halted.interrupt {source} : (interrupt s source).Halted down ran := h.msix.ite h

protected theorem State.Halted.refreshAlert : (refreshAlert s).Halted down ran := h.update

protected theorem State.Halted.raiseAlert {f} : (raiseAlert s f).Halted down ran :=
  h.refreshAlert.ite (h.fset.refreshAlert.use fun h1 => h1.interrupt.ite h1)

protected theorem State.Halted.post {k unit data} : (post s k unit data).Halted down ran := h.fadd.update.raiseAlert.ite h.update

protected theorem State.Halted.fireSnapshot {source tile} : (fireSnapshot s source tile).Halted down ran := h.update

protected theorem State.Halted.mcBump {a sel amount} : (mcBump s a sel amount).Halted down ran :=
  h.fset.ite (h.ite (h.fset.fset.post.raiseAlert.ite h.fset.fset))

protected theorem State.Halted.mcAdd {base count source unit amount} : (mcAdd s base count source unit amount).Halted down ran :=
  h.ite (h.foldl fun hu => hu.mcBump)

protected theorem State.Halted.mcTile {t source unit amount} : (mcTile s t source unit amount).Halted down ran := h.mcAdd

protected theorem State.Halted.mcModule {source unit amount} : (mcModule s source unit amount).Halted down ran := h.mcAdd

end

/-! ### Memory, envelopes and the cache -/

section
variable {s : State} {down ran : Set TileId} (h : s.Halted down ran)
include h

protected theorem State.Halted.setMismatch {b v} : (setMismatch s b v).Halted down ran := h.update

protected theorem State.Halted.dropBlock {t b} : (dropBlock s t b).Halted down ran := h.setTile rfl

protected theorem State.Halted.withhold {n} : (withhold s n).Halted down ran := h.update

protected theorem State.Halted.integrityEvent {t kind unit core a} : (integrityEvent s t kind unit core a).Halted down ran :=
  (h.fadd.ite h.fset.fset.fset.fset.fset.fset.fset).use fun h1 => (h1.fset.interrupt.ite h1.fset).post.withhold

protected theorem State.Halted.clearErr {k} : (clearErr s k).Halted down ran := h.update

protected theorem State.Halted.caddyParity {t kind a} : (caddyParity s t kind a).Halted down ran := h.fadd.ite h.fset.fset.fset.fset

protected theorem State.Halted.logUncorrectable {k unit bank row} : (logUncorrectable s k unit bank row).Halted down ran :=
  (h.fset.ite h.fset.fset.fset.fset.fset).post.raiseAlert

protected theorem State.Halted.verifyKey {ag k a} : (verifyKey s ag k a).2.Halted down ran := by
  unfold verifyKey
  dsimp only
  split
  · exact h.logUncorrectable
  · exact h.caddyParity.ite h
  · exact h
  · split
    · split
      · exact h.update.mcTile.ite h.update
      · exact h.update
    · exact h.update
  · exact h

protected theorem State.Halted.verifyMemory {ag a} : (verifyMemory s ag a).2.Halted down ran := h.verifyKey

protected theorem State.Halted.verifyBlock {ag a} : (verifyBlock s ag a).2.Halted down ran := by
  unfold verifyBlock
  dsimp only
  split
  · exact h.verifyMemory
  · split
    · exact h.mcTile.verifyMemory.dropBlock.setTile rfl
    · split
      · exact h.mcTile.update.caddyParity.mcTile.verifyMemory.dropBlock.setTile rfl
      · split
        · exact h.mcTile.verifyMemory.dropBlock.setTile rfl
        · split
          · exact h.mcTile
          · split
            · exact h.mcTile.takeFree
            · exact h.mcTile.takeFree.verifyMemory.dropBlock.setTile rfl

omit h in
protected theorem State.Halted.verifyAll {ag as} (h : s.Halted down ran) : (verifyAll s ag as).2.Halted down ran := by
  induction as generalizing s with
  | nil => exact h
  | cons a as ih => exact ih (by split; exacts [h, h.verifyBlock])

protected theorem State.Halted.verifyRange {ag a n} : (verifyRange s ag a n).2.Halted down ran := h.verifyAll

protected theorem State.Halted.integrityAll {t unit core bad} : (integrityAll s t unit core bad).Halted down ran :=
  h.foldl fun hu => hu.integrityEvent

protected theorem State.Halted.writeThrough {ag b bytes env} : (writeThrough s ag b bytes env).Halted down ran := by
  unfold writeThrough
  split
  · exact h
  · split
    · exact h
    · exact h.setTile rfl

protected theorem State.Halted.writeBlock {ag b bytes poison} : (writeBlock s ag b bytes poison).Halted down ran := by
  unfold writeBlock
  refine State.Halted.writeThrough ?_
  split
  · exact h.update.setMismatch
  · exact h.update

protected theorem State.Halted.writeCells {ag ws} : (writeCells s ag ws).Halted down ran := h.foldl fun hu => hu.writeBlock

protected theorem State.Halted.writeBytes {ag a bs poison} : (writeBytes s ag a bs poison).Halted down ran := h.writeCells

end

/-! ### Links between modules and tiles -/

section
variable {s : State} {down ran : Set TileId} (h : s.Halted down ran)
include h

protected theorem State.Halted.sendSpan {k m} : (sendSpan s k m).Halted down ran := h.emit.ite h.update

end

/-! ### Format state, verdict, infusers and capture -/

section
variable {s : State} {down ran : Set TileId} (h : s.Halted down ran)
include h

protected theorem State.Halted.verifyFormat {id} : (verifyFormat s id).2.Halted down ran := by
  unfold verifyFormat
  split
  · exact h
  · exact h.verifyRange

protected theorem State.Halted.mergeAmax {id v} : (mergeAmax s id v).Halted down ran := h.ite (h.verifyRange.ite h.verifyRange.writeBytes)

protected theorem State.Halted.addNonfinite {n} : (addNonfinite s n).Halted down ran := h.update

protected theorem State.Halted.verifyStack {die off n} : (verifyStack s die off n).2.Halted down ran :=
  (h.clearErr.ite h).foldlSnd fun hu => hu.verifyKey

protected theorem State.Halted.verifyHyper {e n} : (verifyHyper s e n).2.Halted down ran := by
  unfold verifyHyper
  split
  · exact h
  · refine State.Halted.verifyFormat ?_
    split
    · exact h.verifyRange
    · exact h.verifyRange.verifyRange

protected theorem State.Halted.setCursor {die pos} : (setCursor s die pos).Halted down ran := h.setDie.fset.fset

protected theorem State.Halted.refreshBusy {die} : (refreshBusy s die).Halted down ran := h.fset

protected theorem State.Halted.uploadStage {die} : (uploadStage s die).Halted down ran := h.emit

protected theorem State.Halted.captureCheck : (captureCheck s).Halted down ran :=
  (h.foldl fun hu => hu.setDie.refreshBusy.ite hu).use fun h1 => (h1.fset.fset.foldl fun hu1 => hu1.uploadStage).ite h1

protected theorem State.Halted.copyKeys {k a n} : (copyKeys s k a n).Halted down ran := by
  unfold copyKeys
  extract_lets v
  have hv : v.2.Halted down ran := h.foldlSnd fun hu => hu.verifyKey
  exact hv.writeCells

protected theorem State.Halted.copyBytes {src dst n} : (copyBytes s src dst n).Halted down ran := h.verifyRange.writeCells

protected theorem State.Halted.captureDie {n die} : (captureDie s n die).Halted down ran :=
  h.writeBytes.copyKeys.copyBytes.setDie.setCursor.refreshBusy

protected theorem State.Halted.captureStart {n outcome} : (captureStart s n outcome).Halted down ran :=
  (h.fset.fset.ite (h.fset.fset.fset.foldl fun hu2 => hu2.captureDie).captureCheck).ite h

protected theorem State.Halted.mirrorRecord {die off pos} : (mirrorRecord s die off pos).Halted down ran := h.copyKeys

protected theorem State.Halted.entryBad {die i} : (entryBad s die i).2.Halted down ran := h.verifyStack

protected theorem State.Halted.mirrorPoison {die pos} : (mirrorPoison s die pos).Halted down ran := h.writeBytes

protected theorem State.Halted.leaveRecords {die off entry n} : (leaveRecords s die off entry n).Halted down ran :=
  (h.ite h.fset.fset.fset.fset).fadd

protected theorem State.Halted.forwardRecord {die off pos left} : (forwardRecord s die off pos left).Halted down ran :=
  (h.mirrorRecord.setCursor.use fun h1 => h1.ite h1.fadd.mcModule).ite h

protected theorem State.Halted.walkRecord {die e y n start r} : (walkRecord die e y n start s r).Halted down ran :=
  h.verifyStack.verifyStack.leaveRecords.forwardRecord.ite
    (h.verifyStack.verifyStack.forwardRecord.use fun h4 => (h4.fadd.ite h4.fadd.fadd.fset).use fun h6 =>
    h6.writeBlock.mergeAmax.mcModule.ite h6)

protected theorem State.Halted.walkEntry {die n i} : (walkEntry die n s i).Halted down ran :=
  State.Halted.use (by split; exacts [h.entryBad, h.entryBad.verifyHyper]) fun h2 =>
    (h2.leaveRecords.foldl fun hu4 => hu4.mirrorPoison.setCursor.ite hu4).ite
    ((h2.foldl fun hu3 => hu3.walkRecord).use fun h4 => h4.writeBlock.writeBlock.ite h4)

protected theorem State.Halted.walkDie {die} : (walkDie s die).Halted down ran := by
  unfold walkDie
  split
  · exact h.ite (h.setDie.foldl fun hu1 => hu1.walkEntry).refreshBusy
  · exact h

protected theorem State.Halted.walkDies : (walkDies s).Halted down ran := (h.foldl fun hu => hu.walkDie).captureCheck

protected theorem State.Halted.infuserWalk {n} : (infuserWalk s n).Halted down ran :=
  (h.update.foldl fun hu1 => hu1.setDie.refreshBusy).walkDies

end

/-! ### The carousel, stopped tiles and pulses -/

/-- The cores of a tile stop, but for those that have ended by HALT (R32). -/
def stopCores (s : State) (t : TileId) : State :=
  (tileCores t).foldl (fun s c => if (s.seq c).status = .halted then s else s.setSeq c { s.seq c with status := .stopped }) s

theorem stopCores_quiet (s : State) (t : TileId) (c : Fin 16) : ((stopCores s t).seq ⟨t, c⟩).Quiet :=
  of_eq_true (foldl_reading (read := fun u : State => (u.seq ⟨t, c⟩).Quiet) (v := True) (hits := fun d => d = ⟨t, c⟩)
    (fun u d _ hd => by
      subst hd
      split
      · next hq => exact eq_true (.inr hq)
      · rw [seq_setSeq]; exact eq_true (.inl rfl))
    (fun u d _ hd => by
      split
      · rfl
      · rw [seq_setSeq_ne u _ (Ne.symm hd)])
    (.inl ⟨⟨t, c⟩, List.mem_map.2 ⟨c, List.mem_finRange c, rfl⟩, rfl⟩))

/-- Only cores of a tile wait on its counters. -/
theorem tile_of_mem_waiters {s : State} {t : TileId} {ev : Nat} {w : CoreId × Nat} (h : w ∈ waiters s t ev) : w.1.tile = t := by
  simp only [waiters, tileCores, List.mem_filterMap, List.mem_map] at h
  obtain ⟨_, ⟨c, -, rfl⟩, hc⟩ := h
  split at hc
  · split at hc
    · cases hc; rfl
    · cases hc
  · cases hc

/-- Quiet cores wait on nothing. -/
theorem waiters_of_quiet {s : State} {t : TileId} (h : ∀ c, (s.seq ⟨t, c⟩).Quiet) (ev : Nat) : waiters s t ev = [] := by
  simp only [waiters, tileCores, List.filterMap_eq_nil_iff, List.mem_map]
  rintro _ ⟨c, -, rfl⟩
  rcases h c with hq | hq <;> simp [hq]

section
variable {s : State} {down ran : Set TileId} (h : s.Halted down ran)
include h

protected theorem State.Halted.setPhaseRec {r} : (setPhaseRec s r).Halted down ran := h.update

protected theorem State.Halted.dropRecord : (dropRecord s).Halted down ran := h.fadd.fset.post

protected theorem State.Halted.writeRecord {bytes} : (writeRecord s bytes).Halted down ran := by
  unfold writeRecord
  refine h.dropRecord.ite ?_
  refine h.dropRecord.ite ?_
  split
  · exact h.waitLink
  · exact h.waitLink.ite h.writeBytes.fset

protected theorem State.Halted.logPhase {r e} : (logPhase s r e).Halted down ran := h.ite h.update.writeRecord

protected theorem State.Halted.setUpdState {x} : (setUpdState s x).Halted down ran := h.ite h.fset.interrupt.post

protected theorem State.Halted.provingRestart : (provingRestart s).Halted down ran := h.fset.ite h

protected theorem State.Halted.startWriting : (startWriting s).Halted down ran := h.update.setUpdState

protected theorem State.Halted.provenCheck : (provenCheck s).Halted down ran := h.startWriting.ite h

protected theorem State.Halted.provenStep : (provenStep s).Halted down ran := h.fadd.provenCheck.ite h

protected theorem State.Halted.hold : (hold s).Halted down ran := h.fset.fset.update

protected theorem State.Halted.idleNow : (idleNow s).Halted down ran := h.update.fset.fset.fset.fset.ite h.update.fset.fset.fset

protected theorem State.Halted.stopCheck : (stopCheck s).Halted down ran := h.idleNow.ite h

protected theorem State.Halted.phaseEnds {n p} : (phaseEnds s n p).Halted down ran := by
  unfold phaseEnds
  split
  · exact h
  · exact (h.logPhase.update.ite h.logPhase.update).use fun h3 =>
      ((h3.infuserWalk.ite h3).use fun h4 => (h4.provenStep.ite h4).captureStart.use fun h5 => h5.hold.ite h5).ite h3

protected theorem State.Halted.tilePhaseEnds {t n p flags} : (tilePhaseEnds s t n p flags).Halted down ran := by
  unfold tilePhaseEnds
  extract_lets r ended resume lost s1 x old s2
  have h1 : s1.Halted down ran := h.ite h.setPhaseRec
  have h2 : s2.Halted down ran := h1.setTile rfl
  exact (h2.phaseEnds.ite h2).stopCheck

protected theorem State.Halted.settleOnce : (settleOnce s).Halted down ran := h.foldl fun hu => hu.tilePhaseEnds.ite hu

omit h in
protected theorem State.Halted.settleAll {n} (h : s.Halted down ran) : (settleAll n s).Halted down ran := by
  induction n generalizing s with
  | zero => exact h
  | succ n ih => exact (ih h.settleOnce).ite h

protected theorem State.Halted.settle : (settle s).Halted down ran := h.settleAll

omit h in
/-- Once every core of a tile has been told to stop, it is quiet, and the tile is again one of those whose cores stay so. -/
protected theorem State.Halted.stopCores {t} (h : s.Halted down (ran \ {t})) : (stopCores s t).Halted down ran := by
  have hrest : (stopCores s t).Halted down (ran \ {t}) := h.foldl fun hu => hu.ite (hu.setSeq_running fun _ _ => .inl rfl)
  refine ⟨hrest.1, fun k hk hs c => ?_⟩
  by_cases hkt : k = t
  · subst hkt
    exact stopCores_quiet s k c
  · exact hrest.2 k ⟨hk, hkt⟩ hs c

/-- A tile that is to stop is stopped afterwards, and what was quiet stays so (R32, R330). -/
protected theorem State.Halted.stopTile_insert {t data} : (stopTile s t data).Halted (insert t down) ran := by
  unfold stopTile
  split
  · next ht => exact State.Halted.withhold ⟨fun k hk => hk.elim (fun e => e ▸ ht) (h.1 k), h.2⟩
  · extract_lets s1 old s2 s3 s4 x s5
    have h2 : s2.Halted (insert t down) (ran \ {t}) := by
      have hs (k : TileId) (hk : k ≠ t) : s2.tile k = s.tile k := tile_setTile_ne s1 _ hk
      refine ⟨fun k hk => ?_, fun k hk hks => h.2 k hk.1 (hs k hk.2 ▸ hks)⟩
      by_cases e : k = t
      · rw [e]; exact congrArg Tile.stopped (tile_setTile s1 t _)
      · rw [hs k e]; exact h.1 k (hk.resolve_left e)
    have h4 : s4.Halted (insert t down) ran := h2.stopCores.post.raiseAlert.interrupt.provingRestart
    exact (h4.tilePhaseEnds.ite h4).settle

protected theorem State.Halted.stopTile {t data} : (stopTile s t data).Halted down ran :=
  h.stopTile_insert.mono (Set.subset_insert t down) subset_rfl

protected theorem State.Halted.faultStop {t data} : (faultStop s t data).Halted down ran := (h.ite h.fireSnapshot).stopTile

protected theorem State.Halted.programFault {t cause ev core pc} : (programFault s t cause ev core pc).Halted down ran :=
  (h.ite h.fset.fset.fset.fset.fset.fset).faultStop

protected theorem State.Halted.setEv {t ev n} : (setEv s t ev n).Halted down ran := h.setTile rfl

protected theorem State.Halted.grantWaits {t ev} : (grantWaits s t ev).Halted down ran := by
  by_cases ht : t ∈ ran ∧ (s.tile t).stopped = true
  · rw [grantWaits, waiters_of_quiet (h.2 t ht.1 ht.2)]
    exact h
  · refine (List.foldlRecOn (motive := fun u : State => u.Halted down ran ∧ (u.tile t).stopped = (s.tile t).stopped) _ _ ⟨h, rfl⟩
      fun u ⟨hu, hut⟩ w hw => ?_).1
    split
    · refine ⟨State.Halted.setEv (hu.setSeq_running fun hk hs => ?_), ?_⟩
      · rw [tile_of_mem_waiters hw] at hk hs
        exact absurd ⟨hk, hut ▸ hs⟩ ht
      · unfold setEv; rw [tile_setTile]; exact hut
    · exact ⟨hu, hut⟩

protected theorem State.Halted.pulseAt {t ev} : (pulseAt s t ev).Halted down ran := h.grantWaits.programFault.ite h.grantWaits.setEv

end

/-! ### Completion records -/

section
variable {s : State} {down ran : Set TileId} (h : s.Halted down ran)
include h

protected theorem State.Halted.announce {q} : (announce s q).Halted down ran := h.setRing.msix

protected theorem State.Halted.moderate {q} : (moderate s q).Halted down ran := (h.setRing.announce.ite h.setRing).ite h

protected theorem State.Halted.advanceTail {q} : (advanceTail s q).Halted down ran := h.fset.fset.fset

protected theorem State.Halted.flushRing {q} : (flushRing s q).Halted down ran := by
  unfold flushRing
  dsimp only
  split
  · exact h.ite (h.waitLink.ite (h.writeBytes.setRing.advanceTail.use fun h2 => h2.ite h2.moderate))
  · exact h

protected theorem State.Halted.completeRing {q status detail value} : (completeRing s q status detail value).Halted down ran :=
  h.setRing.flushRing.ite h

end

/-! ### The registers of a channel -/

section
variable {s : State} {down ran : Set TileId} (h : s.Halted down ran)
include h

protected theorem State.Halted.chBusy {e busy addr} : (chBusy s e busy addr).Halted down ran := h.fset.fset

protected theorem State.Halted.abortSeen {t c} : (abortSeen s t c).Halted down ran := h.setReg.interrupt.ite h.setReg

protected theorem State.Halted.writeAbort {t c a bytes} : (writeAbort s t c a bytes).Halted down ran :=
  h.abortSeen.ite (h.waitLink.ite h.writeBytes.abortSeen)

protected theorem State.Halted.abortChannel {e cause residue addr} : (abortChannel s e cause residue addr).Halted down ran := by
  unfold abortChannel
  dsimp only
  split
  · split
    · exact h.setReg.chBusy.fset.setChan.writeAbort.post.setQueues.faultStop
    · exact h.setReg.chBusy.fset.setChan.writeAbort.post
  · exact h.setReg.chBusy.fset.setChan.post.completeRing
  · exact h.setReg.chBusy.fset.setChan.post

end

/-! ### Transfers -/

section
variable {s : State} {down ran : Set TileId} (h : s.Halted down ran)
include h

protected theorem State.Halted.getElem_ {ag fmt strict bad written e} : (getElem_ s ag fmt strict bad written e).2.Halted down ran := by
  unfold getElem_
  split
  · exact h
  · exact h
  · exact h.takeFree
  · extract_lets own ownScale f
    have hf : f.2.Halted down ran := by unfold f; split; exacts [h.takeFree, h]
    exact hf

omit h in
protected theorem State.Halted.getElems {ag fmt strict bad written es} (h : s.Halted down ran) :
    (getElems s ag fmt strict bad written es).2.Halted down ran := by
  induction es generalizing s with
  | nil => exact h
  | cons e es ih => exact ih h.getElem_

protected theorem State.Halted.writePuts {ag all} : (writePuts s ag all).Halted down ran := h.writeCells

protected theorem State.Halted.sendFar {ps} : (sendFar s ps).Halted down ran := h.foldl fun hu => hu.sendSpan

protected theorem State.Halted.groupGot {ag x bad b g} : (groupGot s ag x bad b g).2.Halted down ran := by
  unfold groupGot
  split
  · exact h
  · exact h.getElems

omit h in
protected theorem State.Halted.makeUnits {ag x p bad b gs} (h : s.Halted down ran) : (makeUnits s ag x p bad b gs).2.Halted down ran := by
  induction gs generalizing s b with
  | nil => exact h
  | cons g gs ih => exact ih h.groupGot

end

/-! ### Transfers on the DMA channels -/

section
variable {s : State} {down ran : Set TileId} (h : s.Halted down ran)
include h

protected theorem State.Halted.recordsBad {e x} : (recordsBad s e x).2.Halted down ran := h.verifyAll

protected theorem State.Halted.channelPulse {e ev} : (channelPulse s e ev).Halted down ran := by
  unfold channelPulse
  split
  · exact h.pulseAt.ite h
  · split
    · exact h.pulseAt
    · exact h
  · exact h

protected theorem State.Halted.copyEnds {e} : (copyEnds s e).Halted down ran := by
  unfold copyEnds
  split
  · exact h.completeRing.ite h.completeRing
  · exact h

protected theorem State.Halted.chRead {e n} : (chRead s e n).Halted down ran := h.fset

protected theorem State.Halted.completeDesc {e a d bytes} : (completeDesc s e a d bytes).Halted down ran := by
  unfold completeDesc
  dsimp only
  refine h.chRead.fset.chBusy.setChan.ite ?_
  split
  · split
    · exact h.chRead.fset.chBusy.setChan.setQueues
    · exact h.chRead.fset.chBusy.setChan
  · exact h.chRead.fset.chBusy.setChan.channelPulse.copyEnds

protected theorem State.Halted.dmaFlags {e fl} : (dmaFlags s e fl).Halted down ran := by
  unfold dmaFlags
  split
  · exact h.setReg.mcTile
  · exact h

protected theorem State.Halted.dmaBytes {e n} : (dmaBytes s e n).Halted down ran := by
  unfold dmaBytes
  split
  · exact h.mcTile
  · exact h

protected theorem State.Halted.dmaPoison {e bad} : (dmaPoison s e bad).Halted down ran := by
  unfold dmaPoison
  dsimp only
  split
  · exact h.integrityAll.ite h
  · split
    · exact h
    · exact h.setChan
  · exact h

protected theorem State.Halted.dmaMade {e x rec_ m} : (dmaMade s e x rec_ m).Halted down ran :=
  h.dmaFlags.mergeAmax.use fun h1 => h1.addNonfinite.ite h1

protected theorem State.Halted.writeHostEnv {ag side touched poisoned} : (writeHostEnv s ag side touched poisoned).Halted down ran :=
  h.foldl fun hu => hu.writeBytes

protected theorem State.Halted.pathBad {e x m} : (pathBad s e x m).2.Halted down ran := by
  unfold pathBad
  split
  · exact h.clearErr.dmaPoison
  · exact h

protected theorem State.Halted.moveUnits {e x rec_ host us} : (moveUnits s e x rec_ host us).Halted down ran := by
  unfold moveUnits
  extract_lets ag gs blocks v addrs fromHost bad s1 m1 m2 s2 s3
  have h2 : s2.Halted down ran := h.verifyAll.dmaPoison.makeUnits.pathBad.writePuts.sendFar
  have h3 : s3.Halted down ran := by
    unfold s3
    split
    · exact h2.ite h2.writeHostEnv
    · exact h2
  exact h3.dmaMade.dmaBytes

protected theorem State.Halted.runUnits {e a d rec_ limit us} : (runUnits s e a d rec_ limit us).Halted down ran :=
  h.ite (h.moveUnits.chRead.use fun h1 => h1.abortChannel.ite (h1.completeDesc.ite h1.abortChannel))

protected theorem State.Halted.withPorts {e ps act} (hact : ∀ {u : State}, u.Halted down ran → (act u).Halted down ran) :
    (withPorts s e ps act).Halted down ran := by
  unfold withPorts
  split
  · exact h.waitLink
  · exact hact h

protected theorem State.Halted.startDesc {e a d} : (startDesc s e a d).2.Halted down ran := by
  unfold startDesc
  dsimp only
  split
  · refine State.Halted.recordsBad ?_
    split
    · exact h.chBusy.chRead
    · split
      · exact h.chBusy.chRead
      · exact h.chBusy.chRead.verifyRange
  · split
    · exact h.chBusy.chRead
    · split
      · exact h.chBusy.chRead
      · exact h.chBusy.chRead.verifyRange

protected theorem State.Halted.channelParity {e a} : (channelParity s e a).Halted down ran := h.clearErr.dmaPoison.abortChannel

protected theorem State.Halted.withDesc {e a d act} (hact : ∀ {u : State}, u.Halted down ran → (act u).Halted down ran) :
    (withDesc s e a d act).Halted down ran :=
  h.channelParity.ite (h.abortChannel.ite ((hact h.startDesc).ite h.startDesc.dmaPoison.abortChannel))

protected theorem State.Halted.runPlain {e limit a d rec_} : (runPlain s e limit a d rec_).Halted down ran := h.runUnits

protected theorem State.Halted.listEntries {ag l} : (listEntries s ag l).2.Halted down ran := h.verifyRange

protected theorem State.Halted.countSkips {t es} : (countSkips s t es).Halted down ran := h.fadd

protected theorem State.Halted.indexFault {t ch p dim c} : (indexFault s t ch p dim c).Halted down ran :=
  h.ite h.fset.fset.fset.fset.fset.fset

protected theorem State.Halted.endList {t ch a d l es done faulted bytes} :
    (endList s t ch a d l es done faulted bytes).Halted down ran := by
  unfold endList
  refine h.chRead.abortChannel.ite ?_
  refine h.chRead.abortChannel.ite ?_
  refine h.chRead.dmaPoison.abortChannel.ite ?_
  split
  · exact h.chRead.indexFault.abortChannel
  · exact h.chRead.completeDesc

protected theorem State.Halted.runList {t ch limit a d rec_ mk gather} : (runList s t ch limit a d rec_ mk gather).Halted down ran := by
  unfold runList
  dsimp only
  split
  · exact h
  · exact h.withPorts fun hu => hu.ite (hu.ite hu.listEntries.moveUnits.countSkips.endList)

omit h in
protected theorem State.Halted.sumInto {ag fmt conv strict bad g} {m : List Sum × State} {p} (h : m.2.Halted down ran) :
    (sumInto ag fmt conv strict bad g m p).2.Halted down ran := by
  unfold sumInto
  dsimp only
  split
  · exact h
  · split
    · exact h
    · exact h.getElem_

protected theorem State.Halted.sumUnits {e x strict bad us} : (sumUnits s e x strict bad us).2.Halted down ran :=
  h.foldlSnd fun hu => hu.getElem_.foldlSnd fun hv => hv.sumInto

protected theorem State.Halted.addUnits {e x strict rec_ us} : (addUnits s e x strict rec_ us).Halted down ran :=
  h.verifyAll.dmaPoison.sumUnits.pathBad.writePuts.sendFar.dmaMade.dmaBytes

protected theorem State.Halted.runScatterAdd {t ch limit a d rec_} : (runScatterAdd s t ch limit a d rec_).Halted down ran := by
  unfold runScatterAdd
  dsimp only
  split
  · exact h
  · exact h.withPorts fun hu => hu.ite (hu.ite hu.listEntries.addUnits.countSkips.endList)

protected theorem State.Halted.runWindow {t ch limit a d rec_} : (runWindow s t ch limit a d rec_).Halted down ran := by
  unfold runWindow
  dsimp only
  split
  · exact h
  · exact h.runUnits

omit h in
protected theorem State.Halted.readOwn {ag written as} (h : s.Halted down ran) : (readOwn s ag written as).2.Halted down ran := by
  induction as generalizing s with
  | nil => exact h
  | cons a as ih => exact ih (by split; exacts [h.takeFree, h])

protected theorem State.Halted.compressBox {ag fmt w bad written b} : (compressBox s ag fmt w bad written b).2.Halted down ran :=
  h.getElems

protected theorem State.Halted.expandBox {ag fmt w bad written b} : (expandBox s ag fmt w bad written b).2.Halted down ran := h.readOwn

omit h in
protected theorem State.Halted.makeBoxes {ag comp fmt w bad written bs} (h : s.Halted down ran) :
    (makeBoxes s ag comp fmt w bad written bs).2.Halted down ran := by
  induction bs generalizing s written with
  | nil => exact h
  | cons b bs ih => exact ih (by split; exacts [h.compressBox, h.expandBox])

protected theorem State.Halted.runStrain {e limit a d rec_} : (runStrain s e limit a d rec_).Halted down ran := by
  unfold runStrain
  extract_lets x ag r comp fmt host fromHost
  split
  · exact h.runUnits
  · extract_lets w bs t n done blocks v bad s1 scales m1 boxed m2 made s2 s3 bytes s4
    have h2 : s2.Halted down ran := h.verifyAll.dmaPoison.makeBoxes.pathBad.writePuts
    have h3 : s3.Halted down ran := by
      unfold s3
      clear_value host
      split
      · exact h2.ite h2.writeHostEnv
      · exact h2
    have h4 : s4.Halted down ran := h3.dmaMade.dmaBytes.chRead
    exact h.ite (h4.abortChannel.ite (h4.completeDesc.ite h4.abortChannel))

protected theorem State.Halted.verifyUnits {e x host us} : (verifyUnits s e x host us).Halted down ran :=
  h.verifyAll.dmaPoison.dmaBytes.chRead

protected theorem State.Halted.scrubList {t ch limit a d} : (scrubList s t ch limit a d).Halted down ran := by
  unfold scrubList
  dsimp only
  split
  · exact h
  · exact h.withPorts fun hu => hu.ite (hu.ite hu.listEntries.verifyUnits.countSkips.endList)

protected theorem State.Halted.scrubPlain {e limit a d} : (scrubPlain s e limit a d).Halted down ran :=
  h.ite (h.verifyUnits.abortChannel.ite (h.verifyUnits.completeDesc.ite h.verifyUnits.abortChannel))

protected theorem State.Halted.runScrub {e limit a d} : (runScrub s e limit a d).Halted down ran := by
  unfold runScrub
  split
  · exact h.scrubList
  · exact h.scrubPlain

protected theorem State.Halted.runLimited {e a d rec_ k} : (runLimited s e a d rec_ k).Halted down ran := by
  unfold runLimited
  refine h.runScrub.ite ?_
  split
  · split
    · exact h.runList
    · exact h.runList
    · exact h.runScatterAdd
  · exact h.runWindow
  · exact h.runPlain.ite h.runStrain

protected theorem State.Halted.requestAbort {e moved other} : (requestAbort s e moved other).Halted down ran := by
  unfold requestAbort
  refine h.ite ?_
  refine h.setChan.ite ?_
  split
  · exact h
  · exact h.abortChannel.ite
      (((h.setChan.ite h).withPorts fun hu1 => hu1.withDesc fun hu2 => hu2.runLimited).ite (h.withDesc fun hu => hu.runLimited))

end

/-! ### The turnstile -/

section
variable {s : State} {down ran : Set TileId} (h : s.Halted down ran)
include h

protected theorem State.Halted.verifyStamp {x p g} : (verifyStamp s x p g).2.Halted down ran := by
  unfold verifyStamp
  split
  · exact h
  · exact h.verifyRange

omit h in
protected theorem State.Halted.runGroups {x p pol m full fs poison tsBase engine g n} {r : ClipRun} (h : r.s.Halted down ran) :
    (runGroups x p pol m full fs poison tsBase engine g n r).s.Halted down ran := by
  induction n generalizing g r with
  | zero => exact h
  | succ n ih =>
    unfold runGroups
    dsimp only
    split
    · exact h
    · split
      · exact h
      · refine ih ?_
        dsimp only
        split
        · exact h.writeCells.mergeAmax.verifyStamp.writeBytes
        · exact h.writeCells.mergeAmax

protected theorem State.Halted.showTurnstile : (showTurnstile s).Halted down ran := h.fset.fset

protected theorem State.Halted.leaveTurnstile {e} : (leaveTurnstile s e).Halted down ran := h.setChan.update.showTurnstile

protected theorem State.Halted.clampsOf {e fl} : (clampsOf s e fl).Halted down ran := by
  unfold clampsOf
  split
  · exact h.mcTile
  · exact h

protected theorem State.Halted.runIntake {e engine a d rec_ k limit} :
    (runIntake s e engine a d rec_ k limit).Halted down ran := by
  unfold runIntake
  extract_lets x p tsValid finish v u clip fs c ts n fits r w firstBad
  have hfinish {u : State} {status fl done replaced firstBad} (hu : u.Halted down ran) :
      (finish u status fl done replaced firstBad).Halted down ran :=
    hu.leaveTurnstile.abortChannel.ite (hu.leaveTurnstile.abortChannel.ite
      (hu.writeBytes.fadd.use fun h1 => (h1.fadd.ite h1).leaveTurnstile.completeDesc))
  have hu : u.Halted down ran := h.verifyRange
  have hr : r.s.Halted down ran := State.Halted.runGroups (r := ⟨u, 0, 0, {}, false, false⟩) hu
  have hw : w.Halted down ran := hr.mcModule.clampsOf
  exact (hfinish h).ite (h.leaveTurnstile.abortChannel.ite ((hfinish hu).ite (hw.leaveTurnstile.abortChannel.ite (hfinish hw))))

protected theorem State.Halted.abortIntake {e moved} : (abortIntake s e moved).Halted down ran := by
  unfold abortIntake
  dsimp only
  split
  · split
    · exact h.runIntake
    · exact h.leaveTurnstile.abortChannel
  · exact h.requestAbort

end

/-! ### Verdict, fills, holds and repair of a site -/

section
variable {s : State} {down ran : Set TileId} (h : s.Halted down ran)
include h

protected theorem State.Halted.haltChannel {t ch} : (haltChannel s t ch).Halted down ran := by
  unfold haltChannel
  dsimp only
  refine h.ite ?_
  split
  · exact h.takeFree.abortIntake.ite h.takeFree.requestAbort
  · exact h.takeFree.requestAbort

omit h in
protected theorem State.Halted.stopTiles {l : List TileId} (h : s.Halted down ran) :
    (l.foldl (fun s t => stopTile s t 0) s).Halted ({t | t ∈ l} ∪ down) ran := by
  induction l generalizing s down with
  | nil => exact h.mono (by simp) subset_rfl
  | cons t l ih =>
    refine (ih h.stopTile_insert).mono (fun k hk => ?_) subset_rfl
    simp only [Set.mem_union, Set.mem_ofPred_eq, List.mem_cons, Set.mem_insert_iff] at hk ⊢
    tauto

/-- HALT_JOB stops every tile (R330). -/
protected theorem State.Halted.haltAll : (haltAll s).Halted Set.univ ran := by
  unfold haltAll
  refine State.Halted.foldl ?_ fun hu => hu.foldl fun hu' => hu'.haltChannel
  exact h.stopTiles.mono (fun k _ => .inl (List.mem_finRange k)) subset_rfl

end

end Sys2Proof.Machine
end

section
/-! Holds, halts and the repair of a site (R94, R328 to R330, R340, R341). -/

namespace Sys2Proof.Machine

/-- A write that its requester has the right to takes effect. -/
theorem guardedWrite_allowed {s : State} {r : Requester} {g : Option Nat} (h : mayWrite s r g = true) (a : Nat) (act : State → State) :
    guardedWrite s r a g act = act s := if_pos h

/-! ### What the write of a field leaves

Stated for any register and value, and `(rfl)` keeps `simp` from using the equations by definition: at a register of the map the kernel
would work out its reset value. -/

theorem keepsRegsBut_fset (s : State) (a : Nat) (f : Fld) (v : Nat) : KeepsRegsBut [a] s (fset s a f v) :=
  fun _ hb => reg_fset_ne s f v (List.ne_of_not_mem_cons hb)

theorem keepsMemory_fset (s : State) (a : Nat) (f : Fld) (v : Nat) : KeepsMemory s (fset s a f v) := ⟨rfl, rfl, rfl⟩

theorem keepsUnits_fset (s : State) (a : Nat) (f : Fld) (v : Nat) : KeepsUnits s (fset s a f v) := ⟨rfl, rfl, rfl, rfl, rfl, rfl⟩

theorem keepsJob_fset (s : State) (a : Nat) (f : Fld) (v : Nat) : KeepsJob s (fset s a f v) := ⟨rfl, rfl, rfl, rfl⟩

@[simp] theorem fset_tile (s : State) (a : Nat) (f : Fld) (v : Nat) (k : TileId) : (fset s a f v).tile k = s.tile k := (rfl)

@[simp] theorem fset_car (s : State) (a : Nat) (f : Fld) (v : Nat) : (fset s a f v).car = s.car := (rfl)

@[simp] theorem fset_stp (s : State) (a : Nat) (f : Fld) (v : Nat) : (fset s a f v).stp = s.stp := (rfl)

@[simp] theorem dropOld_fset_records (s : State) (a : Nat) (f : Fld) (v : Nat) :
    (dropOld (fset s a f v)).car.records = (dropOld s).car.records := (rfl)

/-! ### HOLD_REQ -/

theorem exec_holdReq (r : Requester) (s : State) : exec (.holdReq r) s = execHoldReq r s := rfl

/-- HOLD_REQ sets its bit and nothing else (R328). -/
theorem execHoldReq_spec {s : State} {r : Requester} (hr : mayWrite s r (some grpTimebase) = true) :
    ∃ t, exec (.holdReq r) s = .next t ∧ fbit t TBU_RESTART f_TBU_RESTART_HOLD_REQ = true ∧ held t = held s ∧
      KeepsRegsBut [TBU_RESTART] s t ∧ KeepsMemory s t ∧ KeepsUnits s t ∧ KeepsJob s t := by
  rw [exec_holdReq, execHoldReq, guardedWrite_allowed hr]
  exact ⟨_, rfl, fbit_fset_one _ _ _ (by decide), fbit_fset_other _ _ _ (by decide) (by decide),
    keepsRegsBut_fset _ _ _ _, keepsMemory_fset _ _ _ _, keepsUnits_fset _ _ _ _, keepsJob_fset _ _ _ _⟩

/-! ### GO -/

/-- The carousel goes on with step n: the hold's marks, declarations and envelopes are gone, while the tiles' places, the step
controller and the records of phases stand. -/
def released (s : State) (n : Nat) : State :=
  { s with car := { s.car with beatHold := false, startStep := some n, declared := [] }
           pwr := { s.pwr with floorOff := false, envelopes := [] } }

/-- A tile after a GO for step n: one that runs a phase takes the step once that ends, another takes its first phase of it next (R329). -/
def resumedTile (es : List PhaseEntry) (n : Nat) (t : TileId) (x : Tile) : Tile :=
  if x.active then { x with resume := some n }
  else { x with nextStep := (nextFrom es t n 0).1, nextPhase := (nextFrom es t n 0).2, reported := [] }

theorem exec_go (r : Requester) (s : State) : exec (.go r) s = execGo r s := rfl

theorem execGo_eq (r : Requester) (s : State) : execGo r s =
    .next (guardedWrite s r TBU_RESTART (some grpTimebase) fun s =>
      if !held s || (s.car.beatHold && !onBeat s) then s
      else
        let n := fget s TBU_RESTART f_TBU_RESTART_STEP
        settle (resumeAt (newRun (dropOld (released (fset s TBU_RESTART f_TBU_RESTART_HELD 0) n)) n) n)) := rfl

/-- Outside a hold GO changes nothing. -/
theorem execGo_free {s : State} {r : Requester} (hr : mayWrite s r (some grpTimebase) = true) (hs : held s = false) :
    exec (.go r) s = .next s := by
  rw [exec_go, execGo_eq, guardedWrite_allowed hr, if_pos (by simp [hs])]

theorem settle_of_running {s : State} (h : ∀ k : TileId, (s.tile k).stopped = false) : settle s = s := by
  simp [settle, settleAll, h]

theorem resumedTile_stopped (es : List PhaseEntry) (n : Nat) (t : TileId) (x : Tile) : (resumedTile es n t x).stopped = x.stopped := by
  unfold resumedTile
  split <;> rfl

/-- A fold that takes each tile of a list of different ones to its place touches the tiles alone. -/
theorem foldl_resume_spec (n : Nat) (l : List TileId) (hl : l.Nodup) (s : State) :
    ∃ ts, l.foldl (fun s t => s.setTile t (resumedTile s.car.entries n t (s.tile t))) s = { s with tiles := ts } ∧
      ∀ k : TileId, (mapGet Tile.empty ts k.val : Tile) = if k ∈ l then resumedTile s.car.entries n k (s.tile k) else s.tile k := by
  induction l generalizing s with
  | nil => exact ⟨s.tiles, rfl, fun k => rfl⟩
  | cons t l ih =>
    obtain ⟨htl, hl⟩ := List.nodup_cons.1 hl
    obtain ⟨ts, he, htile⟩ := ih hl (s.setTile t (resumedTile s.car.entries n t (s.tile t)))
    refine ⟨ts, he, fun k => (htile k).trans ?_⟩
    by_cases hk : k = t
    · subst hk
      simp [htl]
    · simp only [List.mem_cons, hk, false_or, tile_setTile_ne s _ hk]
      rfl

/-- GO's placing of the tiles: nothing else changes. -/
theorem resumeAt_spec (s : State) (n : Nat) :
    ∃ ts, resumeAt s n = { s with tiles := ts } ∧
      ∀ k : TileId, (mapGet Tile.empty ts k.val : Tile) = resumedTile s.car.entries n k (s.tile k) := by
  have he : resumeAt s n =
      (List.finRange 48).foldl (fun s t => s.setTile t (resumedTile s.car.entries n t (s.tile t))) s := by
    refine congrArg (fun f => List.foldl f s (List.finRange 48)) (funext₂ fun u t => ?_)
    unfold resumedTile
    split <;> rfl
  obtain ⟨ts, hs, ht⟩ := foldl_resume_spec n _ (List.nodup_finRange 48) s
  exact ⟨ts, he.trans hs, fun k => (ht k).trans (if_pos (List.mem_finRange k))⟩

/-- A new run of step n: causes to withhold, verdict and contribution of that step or later are gone, the non-finite count stays, and
beyond the step controller at most INF_STATUS changes. -/
theorem newRun_spec (s : State) (n : Nat) :
    ∃ stp regs, newRun s n = { s with stp := stp, regs := regs } ∧ (∀ m ∈ stp.withhold, m < n) ∧ stp.nonfinite = s.stp.nonfinite ∧
      (∀ v, stp.verdict = some v → v.1 < n) ∧ (∀ v, stp.sent = some v → v.1 < n) ∧
      KeepsRegsBut [INF_STATUS] s (newRun s n) := by
  have hsent (v : Nat × Nat) : (if s.stp.sent.any fun c => decide (n ≤ c.1) then none else s.stp.sent) = some v → v.1 < n := by
    split
    · simp
    · next hold => intro hv; simpa [hv] using hold
  unfold newRun
  extract_lets old stp s1
  refine ⟨s1.stp, (if old = true then fset s1 INF_STATUS f_INF_STATUS_VERDICT_WAIT 0 else s1).regs, ?_, ?_, rfl, ?_, hsent, ?_⟩
  · split <;> rfl
  · simp [s1]
  · simp [s1, Option.filter_eq_some_iff]
  · split
    · exact keepsRegsBut_fset s1 _ _ _
    · exact fun _ _ => rfl

/-- What the carousel finds when it goes on with step n and no tile is stopped (R329). -/
theorem resume_spec (s : State) (n : Nat) (hrun : ∀ k : TileId, (s.tile k).stopped = false) :
    let t := settle (resumeAt (newRun (dropOld (released s n)) n) n)
    t.car = { s.car with beatHold := false, startStep := some n, declared := [], records := (dropOld s).car.records } ∧
      (∀ k : TileId, t.tile k = resumedTile s.car.entries n k (s.tile k)) ∧
      (∀ m ∈ t.stp.withhold, m < n) ∧ t.stp.nonfinite = s.stp.nonfinite ∧ (∀ v, t.stp.verdict = some v → v.1 < n) ∧
      (∀ v, t.stp.sent = some v → v.1 < n) ∧ KeepsRegsBut [INF_STATUS] s t ∧ KeepsMemory s t ∧ t.seqs = s.seqs ∧
      t.chans = s.chans ∧ t.job = s.job := by
  obtain ⟨stp, regs, hnew, hwithhold, hnf, hverdict, hsent, hreg⟩ := newRun_spec (dropOld (released s n)) n
  obtain ⟨ts, hres, htile⟩ := resumeAt_spec (newRun (dropOld (released s n)) n) n
  rw [hnew] at hres htile hreg
  rw [hnew, hres, settle_of_running fun k => by
    rw [State.tile, htile k, resumedTile_stopped]; exact hrun k]
  exact ⟨rfl, htile, hwithhold, hnf, hverdict, hsent, hreg, ⟨rfl, rfl, rfl⟩, rfl, rfl, rfl⟩

/-- In a hold that may end, with no tile stopped, GO clears HELD and the carousel goes on with step STEP (R329). -/
theorem execGo_spec {s : State} {r : Requester} (hr : mayWrite s r (some grpTimebase) = true) (hs : held s = true)
    (hb : s.car.beatHold = true → onBeat s = true) (hrun : ∀ k : TileId, (s.tile k).stopped = false) :
    let n := fget s TBU_RESTART f_TBU_RESTART_STEP
    ∃ t, exec (.go r) s = .next t ∧ held t = false ∧
      t.car = { s.car with beatHold := false, startStep := some n, declared := [], records := (dropOld s).car.records } ∧
      (∀ k : TileId, (s.tile k).active = false → (t.tile k).nextStep = (nextFrom s.car.entries k n 0).1 ∧
        (t.tile k).nextPhase = (nextFrom s.car.entries k n 0).2) ∧
      (∀ k : TileId, (s.tile k).active = true → t.tile k = { s.tile k with resume := some n }) ∧
      (∀ m ∈ t.stp.withhold, m < n) ∧ t.stp.nonfinite = s.stp.nonfinite ∧ (∀ v, t.stp.verdict = some v → v.1 < n) ∧
      (∀ v, t.stp.sent = some v → v.1 < n) ∧ KeepsRegsBut [TBU_RESTART, INF_STATUS] s t ∧ KeepsMemory s t ∧ t.seqs = s.seqs ∧
      t.chans = s.chans ∧ t.job = s.job := by
  intro n
  have hgo : exec (.go r) s =
      .next (settle (resumeAt (newRun (dropOld (released (fset s TBU_RESTART f_TBU_RESTART_HELD 0) n)) n) n)) := by
    rw [exec_go, execGo_eq, guardedWrite_allowed hr, if_neg (by simpa [hs] using hb)]
  have hresume := resume_spec (fset s TBU_RESTART f_TBU_RESTART_HELD 0) n (by simpa only [fset_tile] using hrun)
  generalize settle (resumeAt (newRun (dropOld (released (fset s TBU_RESTART f_TBU_RESTART_HELD 0) n)) n) n) = t at hgo hresume
  obtain ⟨hcar, htile, hwithhold, hnf, hverdict, hsent, hreg, ⟨hmem, henv, herrs⟩, hseqs, hchans, hjob⟩ := hresume
  obtain ⟨hm, he, herr⟩ := keepsMemory_fset s TBU_RESTART f_TBU_RESTART_HELD 0
  obtain ⟨hq, -, -, -, -, hc⟩ := keepsUnits_fset s TBU_RESTART f_TBU_RESTART_HELD 0
  obtain ⟨hj, -⟩ := keepsJob_fset s TBU_RESTART f_TBU_RESTART_HELD 0
  simp only [fset_car, fset_tile, fset_stp, dropOld_fset_records] at hcar htile hnf
  refine ⟨t, hgo, ?_, hcar, fun k hk => ?_, fun k hk => ?_, hwithhold, hnf, hverdict, hsent, fun a ha => ?_,
    ⟨hmem.trans hm, henv.trans he, herrs.trans herr⟩, hseqs.trans hq, hchans.trans hc, hjob.trans hj⟩
  · rw [held, fbit, fget_congr (hreg TBU_RESTART (by simp [TBU_RESTART, INF_STATUS])), ← fbit]
    exact fbit_fset_zero s _ _ (by decide)
  · simp [htile, resumedTile, hk]
  · simp [htile, resumedTile, hk]
  · simp only [List.mem_cons, List.not_mem_nil, or_false, not_or] at ha
    exact (hreg a (by simpa using ha.2)).trans (reg_fset_ne s _ _ ha.1)

/-! ### HALT_JOB -/

theorem exec_haltJob (r : Requester) (s : State) : exec (.haltJob r) s = execHaltJob r s := rfl

/-- HALT_JOB leaves every tile stopped and, of a tile that ran, every core quiet (R330). -/
theorem execHaltJob_spec {s : State} {r : Requester} (hr : mayWrite s r (some grpTimebase) = true) :
    ∃ t, exec (.haltJob r) s = .next t ∧ ∀ k : TileId, (t.tile k).stopped = true ∧
      ((s.tile k).stopped = false → ∀ c : Fin 16, (t.seq ⟨k, c⟩).Quiet) := by
  obtain ⟨hdown, hquiet⟩ := (halted_running s).haltAll
  rw [exec_haltJob, execHaltJob, guardedWrite_allowed hr]
  exact ⟨_, rfl, fun k => ⟨hdown k trivial, fun hk => hquiet k hk (hdown k trivial)⟩⟩

/-! ### The registers of an array -/

/-- At most registers differ. -/
def OnlyRegs (s t : State) : Prop := ∃ regs, t = { s with regs := regs }

theorem OnlyRegs.refl (s : State) : OnlyRegs s s := ⟨s.regs, rfl⟩

theorem OnlyRegs.setReg {s t : State} (h : OnlyRegs s t) {a v : Nat} : OnlyRegs s (t.setReg a v) := by
  obtain ⟨_, rfl⟩ := h
  exact ⟨_, rfl⟩

theorem OnlyRegs.fset {s t : State} (h : OnlyRegs s t) {a : Nat} {f : Fld} {v : Nat} : OnlyRegs s (fset t a f v) := h.setReg

theorem bypass_ne_width (t c n t' c' n' : Nat) : ARR_BYPASS t c n ≠ ARR_WIDTH t' c' n' := by
  unfold ARR_BYPASS ARR_WIDTH
  omega

theorem bypass_ne_pend (t c n t' c' n' : Nat) : ARR_BYPASS t c n ≠ ARR_BYPASS_PEND t' c' n' := by
  unfold ARR_BYPASS ARR_BYPASS_PEND
  omega

theorem pend_ne_width (t c n t' c' n' : Nat) : ARR_BYPASS_PEND t c n ≠ ARR_WIDTH t' c' n' := by
  unfold ARR_BYPASS_PEND ARR_WIDTH
  omega

/-- Arrays have masks of their own. -/
theorem bypass_inj {t c n t' c' n' : Nat} (hc : c < 16) (hn : n < 4) (hc' : c' < 16) (hn' : n' < 4)
    (h : ARR_BYPASS t c n = ARR_BYPASS t' c' n') : t = t' ∧ c = c' ∧ n = n' := by
  unfold ARR_BYPASS at h
  omega

/-! ### Widths and sites follow from the repair map -/

theorem bypassOf_lt (s : State) (key : Nat) : bypassOf s key < 2 ^ 64 := BitVec.isLt _

theorem retiredPos_congr {s t : State} (h : t.repair.retired = s.repair.retired) (band : Nat) : retiredPos t band = retiredPos s band := by
  rw [retiredPos, h, ← retiredPos]

theorem posOf_congr {s t : State} (h : t.repair.retired = s.repair.retired) (k : Nat) : posOf t k = posOf s k := by
  rw [posOf, retiredPos_congr h, ← posOf]

theorem siteOf_congr {s t : State} {k : TileId} (h : retiredPos t (k.val / 12) = retiredPos s (k.val / 12)) : siteOf t k = siteOf s k := by
  rw [siteOf, posOf, h, ← posOf, ← siteOf]

theorem usableWidths_congr {s t : State} (hr : t.repair.retired = s.repair.retired) (hb : t.repair.bypass = s.repair.bypass) :
    usableWidths t = usableWidths s := by
  simp only [usableWidths, siteOf_congr (retiredPos_congr hr _), bypassOf, hb]

/-! ### The masks of the moved columns -/

theorem movedMask_lt (s : State) (band col core a : Nat) : movedMask s band col core a < 2 ^ 64 := by
  unfold movedMask
  split
  · exact reg_lt s _
  · exact bypassOf_lt s _

/-- The arrays of the columns that a swap moves, each with the mask of its new site, applied and recorded (R341). -/
def movedArrays (s : State) (band : Fin 4) (pos : Fin 13) : List ((CoreId × Nat) × Nat × Nat) :=
  ((List.finRange 12).filter fun c => decide (pos.val ≤ c.val)).flatMap fun col => (List.finRange 16).flatMap fun core =>
    (List.range 4).map fun a =>
      (((⟨⟨12 * band.val + col.val, by omega⟩, core⟩ : CoreId), a), movedMask s band.val col.val core.val a,
        bypassOf s (arrayKey (13 * band.val + col.val + 1) core.val a))

/-- An array of a moved column takes its masks. -/
def takeMask (s : State) (m : (CoreId × Nat) × Nat × Nat) : State :=
  let s := applyMask s m.1.1 m.1.2 m.2.1
  let s := s.setReg (ARR_BYPASS_PEND m.1.1.tile.val m.1.1.core.val m.1.2) m.2.2
  fset s (ARR_WIDTH m.1.1.tile.val m.1.1.core.val m.1.2) f_ARR_WIDTH_PENDING (boolNat (m.2.1 != m.2.2))

theorem mem_movedArrays {s : State} {band : Fin 4} {pos : Fin 13} {m : (CoreId × Nat) × Nat × Nat} :
    m ∈ movedArrays s band pos ↔ ∃ (col : Fin 12) (core : Fin 16) (a : Fin 4), pos.val ≤ col.val ∧
      m = (((⟨⟨12 * band.val + col.val, by omega⟩, core⟩ : CoreId), a.val), movedMask s band.val col.val core.val a.val,
        bypassOf s (arrayKey (13 * band.val + col.val + 1) core.val a.val)) := by
  simp only [movedArrays, List.mem_flatMap, List.mem_filter, List.mem_finRange, true_and, decide_eq_true_eq, List.mem_map,
    List.mem_range, eq_comm (b := m)]
  constructor
  · rintro ⟨col, hcol, core, a, ha, rfl⟩
    exact ⟨col, core, ⟨a, ha⟩, hcol, rfl⟩
  · rintro ⟨col, core, a, hcol, rfl⟩
    exact ⟨col, hcol, core, a, a.isLt, rfl⟩

theorem takeMask_bypass_same (s : State) (m : (CoreId × Nat) × Nat × Nat) (h : m.2.1 < 2 ^ 64) :
    (takeMask s m).reg (ARR_BYPASS m.1.1.tile.val m.1.1.core.val m.1.2) = m.2.1 := by
  simp only [takeMask, applyMask, reg_fset_ne _ _ _ (bypass_ne_width _ _ _ _ _ _), reg_setReg_ne _ _ (bypass_ne_pend _ _ _ _ _ _),
    reg_setReg_same, Nat.mod_eq_of_lt h]

/-- The mask of an array stands as another array takes its masks. -/
theorem takeMask_bypass_ne (s : State) (m : (CoreId × Nat) × Nat × Nat) {t c n : Nat}
    (h : ARR_BYPASS t c n ≠ ARR_BYPASS m.1.1.tile.val m.1.1.core.val m.1.2) :
    (takeMask s m).reg (ARR_BYPASS t c n) = s.reg (ARR_BYPASS t c n) := by
  simp only [takeMask, applyMask, reg_fset_ne _ _ _ (bypass_ne_width _ _ _ _ _ _), reg_setReg_ne _ _ (bypass_ne_pend _ _ _ _ _ _),
    reg_setReg_ne _ _ h]

theorem OnlyRegs.takeMasks (s : State) (l : List ((CoreId × Nat) × Nat × Nat)) : OnlyRegs s (l.foldl takeMask s) :=
  List.foldlRecOn (motive := OnlyRegs s) l takeMask (OnlyRegs.refl s) fun _ hu _ _ => hu.setReg.fset.fset.fset.setReg.fset

/-- An array of a moved column has the mask of its new site. -/
theorem movedArrays_moved (s : State) {band : Fin 4} {pos : Fin 13} {col : Fin 12} (core : Fin 16) (a : Fin 4) (h : pos.val ≤ col.val) :
    ((movedArrays s band pos).foldl takeMask s).reg (ARR_BYPASS (12 * band.val + col.val) core.val a.val) =
      movedMask s band.val col.val core.val a.val := by
  refine foldl_reading (read := fun u : State => u.reg (ARR_BYPASS (12 * band.val + col.val) core.val a.val))
    (hits := fun m => ARR_BYPASS (12 * band.val + col.val) core.val a.val = ARR_BYPASS m.1.1.tile.val m.1.1.core.val m.1.2)
    (fun u m hm hit => ?_) (fun u m _ miss => takeMask_bypass_ne u m miss)
    (.inl ⟨_, mem_movedArrays.2 ⟨col, core, a, h, rfl⟩, rfl⟩)
  obtain ⟨col', core', a', -, rfl⟩ := mem_movedArrays.1 hm
  obtain ⟨ht, hcore, ha⟩ := bypass_inj core.isLt a.isLt core'.isLt a'.isLt hit
  have hcol : col.val = col'.val := Nat.add_left_cancel ht
  simp only [hcol, hcore, ha]
  exact takeMask_bypass_same u _ (movedMask_lt s _ _ _ _)

/-- An array of another tile keeps its mask. -/
theorem movedArrays_unmoved (s : State) {band : Fin 4} {pos : Fin 13} {k : TileId} (core : Fin 16) (a : Fin 4)
    (h : k.val / 12 ≠ band.val ∨ k.val % 12 < pos.val) :
    ((movedArrays s band pos).foldl takeMask s).reg (ARR_BYPASS k.val core.val a.val) = s.reg (ARR_BYPASS k.val core.val a.val) := by
  refine foldl_reading (read := fun u : State => u.reg (ARR_BYPASS k.val core.val a.val)) (hits := fun _ => False)
    (fun _ _ _ => False.elim) (fun u m hm _ => takeMask_bypass_ne u m fun hit => ?_) (.inr rfl)
  obtain ⟨col, core', a', hcol, rfl⟩ := mem_movedArrays.1 hm
  obtain ⟨ht, -, -⟩ := bypass_inj core.isLt a.isLt core'.isLt a'.isLt hit
  have hk : k.val = 12 * band.val + col.val := ht
  omega

/-! ### SPARE_SITE_SWAP -/

/-- The logical tiles of a band. -/
def bandTiles (band : Fin 4) : BitVec 48 := BitVec.ofNat 48 ((2 ^ 12 - 1) * 2 ^ (12 * band.val))

/-- The logical tile that stood at a band's position; none at the spare's. -/
def siteTile (band : Fin 4) (pos : Fin 13) : BitVec 48 := if pos.val < 12 then BitVec.ofNat 48 (2 ^ (12 * band.val + pos.val)) else 0

/-- The repair map retires a position: the band's failing tiles but the one that stood there are failed (R9, R340). -/
def retireSite (s : State) (band : Fin 4) (pos : Fin 13) : State :=
  let lost := s.repair.failing &&& bandTiles band &&& ~~~siteTile band pos
  { s with
    repair := { s.repair with
      retired := setNth s.repair.retired band.val pos.val, failing := s.repair.failing &&& ~~~bandTiles band
      failed := s.repair.failed ||| lost }
    job := { s.job with mapChanged := s.job.mapChanged || lost != 0 } }

theorem exec_spareSiteSwap (band : Fin 4) (pos : Fin 13) (s : State) :
    exec (.spareSiteSwap band pos) s = execSpareSiteSwap band pos s := rfl

theorem execSpareSiteSwap_eq (band : Fin 4) (pos : Fin 13) (s : State) : execSpareSiteSwap band pos s =
    if !held s || retiredPos s band.val != 13 || !swapFits s band.val pos.val then .next s
    else .next (selectVertical (writePart (computePeak (retireSite ((movedArrays s band pos).foldl takeMask s) band pos)))) := rfl

/-- Outside a hold a swap changes nothing. -/
theorem execSpareSiteSwap_free {s : State} (band : Fin 4) (pos : Fin 13) (hs : held s = false) :
    exec (.spareSiteSwap band pos) s = .next s := by
  rw [exec_spareSiteSwap, execSpareSiteSwap_eq, if_pos (by simp [hs])]

theorem bandTiles_getLsbD (band : Fin 4) (k : TileId) : (bandTiles band).getLsbD k.val = decide (k.val / 12 = band.val) := by
  simp only [bandTiles, BitVec.getLsbD_ofNat, k.isLt, decide_true, Bool.true_and, Nat.testBit_mul_two_pow, Nat.testBit_two_pow_sub_one,
    ← Bool.decide_and, decide_eq_decide]
  omega

theorem siteTile_getLsbD {band : Fin 4} (pos : Fin 13) {k : TileId} (h : k.val / 12 = band.val) :
    (siteTile band pos).getLsbD k.val = decide (k.val % 12 = pos.val) := by
  unfold siteTile
  split
  · simp only [BitVec.getLsbD_ofNat, k.isLt, decide_true, Bool.true_and, Nat.testBit_two_pow, decide_eq_decide]
    omega
  · simp only [BitVec.ofNat_eq_ofNat, BitVec.getLsbD_zero, eq_comm (a := false), decide_eq_false_iff_not]
    omega

theorem computePeak_peak (s : State) : (computePeak s).repair.peak = usableWidths s := by
  simp only [computePeak]

/-- The links selected join the positions of the sites (R10). -/
theorem mem_selectVertical (s : State) {i : Nat} (hi : i < 36) :
    (i, (posOf (selectVertical s) i, posOf (selectVertical s) (i + 12))) ∈ (selectVertical s).links.vertical := by
  rw [posOf_congr (t := selectVertical s) (s := s) rfl, posOf_congr (t := selectVertical s) (s := s) rfl]
  exact List.mem_map.2 ⟨i, List.mem_range.2 hi, rfl⟩

theorem writePart_frame (s : State) : ∃ flash, writePart s = { s with flash := flash } := ⟨_, rfl⟩

theorem computePeak_frame (s : State) : ∃ peak, computePeak s = { s with repair := { s.repair with peak := peak } } := ⟨_, rfl⟩

theorem selectVertical_frame (s : State) : ∃ links, selectVertical s = { s with links := links } := ⟨_, rfl⟩

/-- Where the repair map is written, only the peak recorded in it and the flash change beside (R14, R374). -/
theorem mapWritten_frame (s : State) : ∃ peak flash, writePart (computePeak s) =
    { s with repair := { s.repair with peak := peak }, flash := flash } := by
  obtain ⟨peak, hp⟩ := computePeak_frame s
  obtain ⟨flash, hf⟩ := writePart_frame (computePeak s)
  rw [hf, hp]
  exact ⟨peak, flash, rfl⟩

theorem mapWritten_peak (s : State) : (writePart (computePeak s)).repair.peak = usableWidths (writePart (computePeak s)) := by
  obtain ⟨peak, flash, h⟩ := mapWritten_frame s
  rw [usableWidths_congr (s := s) (t := writePart (computePeak s)) (by rw [h]) (by rw [h])]
  exact computePeak_peak s

/-- The repair map after a position of a band is retired and the map is used: sites, links and peak follow it, and nothing changes but the
map, the links, the job's note of the change and the flash (R8, R10, R14, R374). -/
theorem retireSite_spec {s t : State} {band : Fin 4} {pos : Fin 13}
    (ht : t = selectVertical (writePart (computePeak (retireSite s band pos)))) (h : band.val < s.repair.retired.length) :
    (∀ b, retiredPos t b = if b = band.val then pos.val else retiredPos s b) ∧
      t.repair.failing = s.repair.failing &&& ~~~bandTiles band ∧
      t.repair.failed = s.repair.failed ||| (s.repair.failing &&& bandTiles band &&& ~~~siteTile band pos) ∧
      (∀ i < 36, (i, (posOf t i, posOf t (i + 12))) ∈ t.links.vertical) ∧ t.repair.peak = usableWidths t ∧
      (∀ a, t.reg a = s.reg a) ∧ KeepsMemory s t ∧ KeepsUnits s t ∧ t.job = { s.job with mapChanged := t.job.mapChanged } ∧
      t.car = s.car ∧ t.stp = s.stp := by
  obtain ⟨peak, flash, hw⟩ := mapWritten_frame (retireSite s band pos)
  have hpeak := mapWritten_peak (retireSite s band pos)
  have hlinks (i : Nat) (hi : i < 36) := mem_selectVertical (writePart (computePeak (retireSite s band pos))) hi
  obtain ⟨links, hl⟩ := selectVertical_frame (writePart (computePeak (retireSite s band pos)))
  rw [← ht] at hl hlinks
  rw [hw] at hpeak hl
  subst hl
  refine ⟨fun b => ?_, rfl, rfl, hlinks, hpeak.trans (usableWidths_congr rfl rfl), fun _ => rfl, ⟨rfl, rfl, rfl⟩,
    ⟨rfl, rfl, rfl, rfl, rfl, rfl⟩, rfl, rfl, rfl⟩
  simp only [retiredPos, retireSite, nthD, setNth, List.getD_eq_getElem?_getD, List.getElem?_set, eq_comm (a := b)]
  split <;> simp [*]

/-- In a hold, a swap that fits retires the position: the columns from it on have the masks of their new sites, every other tile is as
before, and the band's other failing tiles are failed (R9, R340, R341). -/
theorem execSpareSiteSwap_spec {s : State} {band : Fin 4} {pos : Fin 13} (hs : held s = true) (hspare : retiredPos s band.val = 13)
    (hfits : swapFits s band.val pos.val = true) (hband : band.val < s.repair.retired.length) :
    ∃ t, exec (.spareSiteSwap band pos) s = .next t ∧ retiredPos t band.val = pos.val ∧
      (∀ (col : Fin 12) (core : Fin 16) (a : Fin 4), pos.val ≤ col.val →
        t.reg (ARR_BYPASS (12 * band.val + col.val) core.val a.val) = movedMask s band.val col.val core.val a.val) ∧
      (∀ (k : TileId), k.val / 12 ≠ band.val ∨ k.val % 12 < pos.val → siteOf t k = siteOf s k ∧
        ∀ (core : Fin 16) (a : Fin 4), t.reg (ARR_BYPASS k.val core.val a.val) = s.reg (ARR_BYPASS k.val core.val a.val)) ∧
      (∀ k : TileId, k.val / 12 = band.val → t.repair.failing.getLsbD k.val = false ∧
        t.repair.failed.getLsbD k.val = (s.repair.failed.getLsbD k.val ||
          (s.repair.failing.getLsbD k.val && k.val % 12 != pos.val))) ∧
      (∀ i < 36, (i, (posOf t i, posOf t (i + 12))) ∈ t.links.vertical) ∧ t.repair.peak = usableWidths t ∧
      KeepsMemory s t ∧ KeepsUnits s t ∧ t.job = { s.job with mapChanged := t.job.mapChanged } ∧ t.car = s.car ∧ t.stp = s.stp := by
  have hmoved (col : Fin 12) := movedArrays_moved s (band := band) (pos := pos) (col := col)
  have hunmoved (k : TileId) := movedArrays_unmoved s (band := band) (pos := pos) (k := k)
  have hexec : exec (.spareSiteSwap band pos) s =
      .next (selectVertical (writePart (computePeak (retireSite ((movedArrays s band pos).foldl takeMask s) band pos)))) := by
    rw [exec_spareSiteSwap, execSpareSiteSwap_eq, if_neg (by simp [hs, hspare, hfits])]
  obtain ⟨regs, hu⟩ := OnlyRegs.takeMasks s (movedArrays s band pos)
  rw [hu] at hexec hmoved hunmoved
  obtain ⟨hpos, hfailing, hfailed, hlinks, hpeak, hreg, hmem, hunits, hjob, hcar, hstp⟩ :=
    retireSite_spec (s := { s with regs := regs }) (pos := pos) rfl hband
  refine ⟨_, hexec, ?_, fun col core a h => (hreg _).trans (hmoved col core a h), fun k hk => ⟨?_, fun core a => ?_⟩, fun k hk => ?_,
    hlinks, hpeak, hmem, hunits, hjob, hcar, hstp⟩
  · rw [hpos, if_pos rfl]
  · by_cases hin : k.val / 12 = band.val
    · have hlt : k.val % 12 < pos.val := hk.resolve_left (not_not_intro hin)
      have hlt' : k.val % 12 < 13 := by omega
      rw [siteOf, posOf, hin, hpos, if_pos rfl, if_pos hlt, siteOf, posOf, hin, hspare, if_pos hlt']
    · exact siteOf_congr ((hpos _).trans (if_neg hin))
  · exact (hreg _).trans (hunmoved k core a hk)
  · rw [hfailing, hfailed]
    simp only [BitVec.getLsbD_and, BitVec.getLsbD_or, BitVec.getLsbD_not, k.isLt, bandTiles_getLsbD, siteTile_getLsbD pos hk, hk,
      decide_true, Bool.true_and, Bool.and_true, Bool.not_true, Bool.and_false, true_and]
    rfl

/-! ### FIELD_BYPASS_REQUEST -/

theorem exec_fieldBypassRequest (r : Requester) (c : CoreId) (a : Fin 4) (mask : Word) (s : State) :
    exec (.fieldBypassRequest r c a mask) s = execFieldBypassRequest r c a mask s := rfl

/-- The repair map takes a bypass mask of an array, and is used. -/
def recordBypass (s : State) (key mask : Nat) : State :=
  writePart (computePeak { s with
    repair := { s.repair with bypass := mapSet 0 s.repair.bypass key (BitVec.ofNat 64 mask) }, job := { s.job with mapChanged := true } })

theorem execFieldBypassRequest_firmware (c : CoreId) (a : Fin 4) (mask : Word) (s : State) :
    execFieldBypassRequest .firmware c a mask s =
      let p := ARR_BYPASS_PEND c.tile.val c.core.val a.val
      let u := s.setReg p (s.reg p ||| mask.toNat)
      let k := arrayKey (siteOf u c.tile) c.core.val a.val
      let m := bypassOf u k ||| mask.toNat
      .next (if m = bypassOf u k then u
        else fset (recordBypass u k m) (ARR_WIDTH c.tile.val c.core.val a.val) f_ARR_WIDTH_PENDING 1) := by
  rw [execFieldBypassRequest, guardedWrite_firmware]
  rfl

/-- A recorded mask is read back, with the peak of the widths that follow; sites, registers and all else stand. -/
theorem recordBypass_spec (s : State) {key mask : Nat} (h : mask < 2 ^ 64) :
    let t := recordBypass s key mask
    bypassOf t key = mask ∧ t.repair.peak = usableWidths t ∧ (∀ a, t.reg a = s.reg a) ∧ KeepsMemory s t ∧ KeepsUnits s t ∧
      t.car = s.car ∧ t.stp = s.stp := by
  obtain ⟨peak, flash, hw⟩ := mapWritten_frame { s with
    repair := { s.repair with bypass := mapSet 0 s.repair.bypass key (BitVec.ofNat 64 mask) }, job := { s.job with mapChanged := true } }
  have hpeak : (recordBypass s key mask).repair.peak = usableWidths (recordBypass s key mask) := mapWritten_peak _
  rw [← recordBypass] at hw
  rw [hw] at hpeak ⊢
  refine ⟨?_, hpeak, fun _ => rfl, ⟨rfl, rfl, rfl⟩, ⟨rfl, rfl, rfl, rfl, rfl, rfl⟩, rfl, rfl⟩
  refine (congrArg BitVec.toNat (mapGet_mapSet_same 0 s.repair.bypass key (BitVec.ofNat 64 mask))).trans ?_
  rw [BitVec.toNat_ofNat, Nat.mod_eq_of_lt h]

theorem execFieldBypassRequest_spec (s : State) (c : CoreId) (a : Fin 4) (mask : Word) :
    ∃ t, exec (.fieldBypassRequest .firmware c a mask) s = .next t ∧
      t.reg (ARR_BYPASS_PEND c.tile.val c.core.val a.val) =
        s.reg (ARR_BYPASS_PEND c.tile.val c.core.val a.val) ||| mask.toNat ∧
      bypassOf t (arrayKey (siteOf s c.tile) c.core.val a.val) =
        bypassOf s (arrayKey (siteOf s c.tile) c.core.val a.val) ||| mask.toNat ∧
      t.reg (ARR_BYPASS c.tile.val c.core.val a.val) = s.reg (ARR_BYPASS c.tile.val c.core.val a.val) ∧
      fget t (ARR_WIDTH c.tile.val c.core.val a.val) f_ARR_WIDTH_WIDTH =
        fget s (ARR_WIDTH c.tile.val c.core.val a.val) f_ARR_WIDTH_WIDTH ∧
      (t.repair.bypass ≠ s.repair.bypass → t.repair.peak = usableWidths t) ∧
      KeepsRegsBut [ARR_BYPASS_PEND c.tile.val c.core.val a.val, ARR_WIDTH c.tile.val c.core.val a.val] s t ∧
      KeepsMemory s t ∧ KeepsUnits s t ∧ t.car = s.car ∧ t.stp = s.stp := by
  rw [exec_fieldBypassRequest, execFieldBypassRequest_firmware]
  extract_lets p u k m
  have hpend : u.reg p = s.reg p ||| mask.toNat :=
    (reg_setReg_same s p _).trans (Nat.mod_eq_of_lt (Nat.or_lt_two_pow (reg_lt s p) mask.isLt))
  have hreg (b : Nat) (hb : b ≠ p) : u.reg b = s.reg b := reg_setReg_ne s _ hb
  have hframe : OnlyRegs s u := (OnlyRegs.refl s).setReg
  clear_value u
  obtain ⟨regs, rfl⟩ := hframe
  split
  · next hm =>
    exact ⟨_, rfl, hpend, hm.symm, hreg _ (bypass_ne_pend _ _ _ _ _ _), fget_congr (hreg _ (pend_ne_width _ _ _ _ _ _).symm) _,
      fun h => absurd rfl h, fun b hb => hreg b (List.ne_of_not_mem_cons hb), ⟨rfl, rfl, rfl⟩, ⟨rfl, rfl, rfl, rfl, rfl, rfl⟩, rfl, rfl⟩
  · obtain ⟨hmask, hpeak, hreg', ⟨hmem, henv, herrs⟩, ⟨hseqs, htiles, hslices, hpools, hmoves, hchans⟩, hcar, hstp⟩ :=
      recordBypass_spec { s with regs := regs } (key := k) (mask := m) (Nat.or_lt_two_pow (bypassOf_lt _ _) mask.isLt)
    generalize recordBypass { s with regs := regs } k m = v at *
    have hwidth := fget_fset_other v (ARR_WIDTH c.tile.val c.core.val a.val) (f := f_ARR_WIDTH_PENDING) (g := f_ARR_WIDTH_WIDTH) 1
      (by decide) (by decide)
    have hother := keepsRegsBut_fset v (ARR_WIDTH c.tile.val c.core.val a.val) f_ARR_WIDTH_PENDING 1
    have hframe : OnlyRegs v (fset v (ARR_WIDTH c.tile.val c.core.val a.val) f_ARR_WIDTH_PENDING 1) := (OnlyRegs.refl v).fset
    generalize fset v (ARR_WIDTH c.tile.val c.core.val a.val) f_ARR_WIDTH_PENDING 1 = t at *
    obtain ⟨regs', rfl⟩ := hframe
    have hkept (b : Nat) (hw : b ≠ ARR_WIDTH c.tile.val c.core.val a.val) := (hother b (by simpa using hw)).trans (hreg' b)
    refine ⟨_, rfl, (hkept p (pend_ne_width _ _ _ _ _ _)).trans hpend, hmask,
      (hkept _ (bypass_ne_width _ _ _ _ _ _)).trans (hreg _ (bypass_ne_pend _ _ _ _ _ _)),
      hwidth.trans (fget_congr ((hreg' _).trans (hreg _ (pend_ne_width _ _ _ _ _ _).symm)) _),
      fun _ => hpeak.trans (usableWidths_congr rfl rfl), fun b hb => ?_, ⟨hmem, henv, herrs⟩,
      ⟨hseqs, htiles, hslices, hpools, hmoves, hchans⟩, hcar, hstp⟩
    simp only [List.mem_cons, List.not_mem_nil, or_false, not_or] at hb
    exact (hkept b hb.2).trans (hreg b hb.1)

/-- Settles O44: HOLD_REQ and GO by what they write, HALT_JOB by the invariant that stopped tiles stay stopped and quiet, swap and
bypass by the registers and the parts of the repair map that they touch. -/
theorem holdsEndAndSparesSwapWhileHeld : Obligations.HoldsEndAndSparesSwapWhileHeld := fun s =>
  ⟨fun _ hr => ⟨execHoldReq_spec hr, execGo_free hr, execGo_spec hr, execHaltJob_spec hr⟩,
    fun band pos => ⟨execSpareSiteSwap_free band pos, execSpareSiteSwap_spec⟩, execFieldBypassRequest_spec s⟩

end Sys2Proof.Machine
end

section
/-! One core's sequencer: what its instructions leave, and what makes them illegal (R25, R464, R465, R467, Table PRG-2). -/

namespace Sys2Proof.Machine

/-! ### Sequencers written twice -/

theorem mapInsert_mapInsert {α : Type} (m : List (Nat × α)) (i : Nat) (x y : α) :
    mapInsert (mapInsert m i x) i y = mapInsert m i y := by
  induction m with
  | nil => simp [mapInsert]
  | cons p m ih =>
    obtain ⟨k, v⟩ := p
    by_cases hlt : i < k
    · simp [mapInsert, hlt]
    · by_cases heq : i = k <;> simp [mapInsert, hlt, heq, ih]

theorem mapErase_mapInsert {α : Type} (m : List (Nat × α)) (i : Nat) (x : α) : mapErase (mapInsert m i x) i = mapErase m i := by
  induction m with
  | nil => simp [mapInsert, mapErase]
  | cons p m ih =>
    obtain ⟨k, v⟩ := p
    by_cases hlt : i < k
    · simp [mapInsert, hlt, mapErase]
    · by_cases heq : i = k <;> simp [mapInsert, mapErase, hlt, heq, ih]

/-- Of two values set at a key the second stands, where the first is listed at all. -/
theorem mapSet_mapSet {α : Type} [DecidableEq α] {d x : α} (hx : x ≠ d) (m : List (Nat × α)) (i : Nat) (y : α) :
    mapSet d (mapSet d m i x) i y = mapSet d m i y := by
  simp only [mapSet, hx, if_false, mapInsert_mapInsert, mapErase_mapInsert]

/-- A sequencer that runs, or goes on, is none that is not listed. -/
theorem ne_empty_of_running {q : Seq} (h : q.status = .running) : q ≠ Seq.empty := by
  rintro rfl
  exact absurd h (by decide)

theorem setSeq_setSeq (s : State) (c : CoreId) {x : Seq} (hx : x.status = .running) (y : Seq) :
    (s.setSeq c x).setSeq c y = s.setSeq c y := by
  simp only [State.setSeq, mapSet_mapSet (ne_empty_of_running hx)]

theorem goOn_of_running {q : Seq} (h : q.status = .running) : { q with pc := q.pc + 1 } = q.goOn := by rw [Seq.goOn, ← h]

theorem advance_eq (s : State) (c : CoreId) : advance s c = s.setSeq c (s.seq c).goOn := rfl

theorem advance_setSeq (s : State) (c : CoreId) {x : Seq} (hx : x.status = .running) :
    advance (s.setSeq c x) c = s.setSeq c { x with pc := x.pc + 1 } := by
  rw [advance_eq, seq_setSeq, setSeq_setSeq s c hx, goOn_of_running hx]

theorem jumpTo_setSeq (s : State) (c : CoreId) {x : Seq} (hx : x.status = .running) (target : Nat) :
    jumpTo (s.setSeq c x) c target = s.setSeq c { x with pc := target } := by
  rw [jumpTo, seq_setSeq, setSeq_setSeq s c hx]

/-! ### Running an instruction -/

theorem onCore_runs {s : State} {c : CoreId} (h : Runs s c) (act : State → Seq → State) : onCore s c act = act s (s.seq c) := by
  obtain ⟨hrun, hok⟩ := h
  simp [onCore, hrun, hok]

/-- Of a running core, where the word at the PC is no instruction the act does not matter. -/
theorem onCore_of_not_instrOk {s : State} {c : CoreId} (hrun : (s.seq c).status = .running) (hok : instrOk (s.seq c) = false)
    (act : State → Seq → State) : onCore s c act = illegal s c := by
  simp [onCore, hrun, hok, illegal]

/-- Of a running core an act that is illegal is illegal whatever the word at the PC. -/
theorem onCore_illegal {s : State} {c : CoreId} (hrun : (s.seq c).status = .running) {act : State → Seq → State}
    (h : act s (s.seq c) = illegal s c) : onCore s c act = illegal s c := by
  cases hok : instrOk (s.seq c) with
  | false => exact onCore_of_not_instrOk hrun hok act
  | true => rw [onCore_runs ⟨hrun, hok⟩, h]

theorem instrOk_false_iff (q : Seq) : instrOk q = false ↔ q.code.length ≤ q.pc ∨ q.code[q.pc]?.any definedOpcode = false := by
  refine ⟨.inr, fun h => h.elim (fun hpc => ?_) id⟩
  rw [instrOk, List.getElem?_eq_none hpc, Option.any_none]

/-! ### Transfers of control -/

theorem exec_loop (c : CoreId) (count : BitVec 16) (target : BitVec 15) (s : State) :
    exec (.loop c count target) s = execLoop c count target s := rfl

theorem exec_halt (c : CoreId) (s : State) : exec (.halt c) s = execHalt c s := rfl

section
variable {s : State} {c : CoreId} (h : Runs s c)
include h

theorem execJump_runs {target : BitVec 15} (ht : target.toNat < (s.seq c).code.length) :
    execJump c target s = .next (s.setSeq c { s.seq c with pc := target.toNat }) := by
  rw [execJump, onCore_runs h, if_neg (Nat.not_le.2 ht), jumpTo]

/-- LOOP with its own entry on top counts it down and jumps, or removes it and falls through. -/
theorem execLoop_own {count : BitVec 16} {target : BitVec 15} (hc : count ≠ 0) (ht : target.toNat < (s.seq c).code.length) {n : Nat}
    {rest : List (Nat × Nat)} (hl : (s.seq c).loops = ((s.seq c).pc, n) :: rest) :
    execLoop c count target s = .next (s.setSeq c (if n ≤ 1 then { s.seq c with loops := rest, pc := (s.seq c).pc + 1 }
      else { s.seq c with loops := ((s.seq c).pc, n - 1) :: rest, pc := target.toNat })) := by
  obtain ⟨hrun, -⟩ := id h
  rw [execLoop, onCore_runs h, if_neg (not_or.2 ⟨hc, Nat.not_le.2 ht⟩), hl]
  simp only [if_true]
  split
  · rw [advance_setSeq]
    exact hrun
  · rw [jumpTo_setSeq]
    exact hrun

/-- LOOP without an entry of its own on top pushes one, unless it runs its body once. -/
theorem execLoop_new {count : BitVec 16} {target : BitVec 15} (hc : count ≠ 0) (ht : target.toNat < (s.seq c).code.length)
    (hl : (s.seq c).loops.head?.map (·.1) ≠ some (s.seq c).pc) :
    execLoop c count target s = .next (if count = 1 then advance s c else if (s.seq c).loops.length ≥ 4 then illegal s c
      else s.setSeq c { s.seq c with loops := ((s.seq c).pc, count.toNat - 1) :: (s.seq c).loops, pc := target.toNat }) := by
  obtain ⟨hrun, -⟩ := id h
  rw [execLoop, onCore_runs h, if_neg (not_or.2 ⟨hc, Nat.not_le.2 ht⟩), jumpTo_setSeq]
  split
  · next i n rest he =>
    rw [he] at hl
    rw [if_neg (fun hi => hl (by simp [hi]))]
  · rfl
  · exact hrun

theorem execDrain_runs (mask : BitVec 4) : execDrain c mask s =
    .next (s.setSeq c (if queuesEmpty (s.seq c) mask.toNat then (s.seq c).goOn
      else { s.seq c with status := .waitDrain mask.toNat })) := by
  rw [execDrain, onCore_runs h]
  split <;> rfl

theorem execWaitBeat_runs (offset : BitVec 32) : execWaitBeat c offset s =
    .next (s.setSeq c (if beatReached s c offset.toNat then (s.seq c).goOn
      else { s.seq c with status := .waitBeat offset.toNat })) := by
  rw [execWaitBeat, onCore_runs h]
  split <;> rfl

end

/-- Settles O1, instruction by instruction. -/
theorem sequencerTransfersOfControl : Obligations.SequencerTransfersOfControl := by
  intro s c h q
  refine ⟨fun target ht => execJump_runs h ht, fun count target hc ht => ⟨fun n rest hl => execLoop_own h hc ht hl,
    fun hl h1 => ?_, fun hl h1 hlen => ?_⟩, ?_, execDrain_runs h, execWaitBeat_runs h⟩
  · rw [exec_loop, execLoop_new h hc ht hl, if_pos h1, advance_eq, goOn_of_running h.1]
  · rw [exec_loop, execLoop_new h hc ht hl, if_neg h1, if_neg (Nat.not_le.2 hlen)]
  · rw [exec_halt, execHalt, onCore_runs h, waitAs]

/-! ### Illegal instructions -/

theorem exec_issue (c : CoreId) (queue : BitVec 4) (space : Bool) (offset : BitVec 32) (s : State) :
    exec (.issue c queue space offset) s = execIssue c queue space offset s := rfl

theorem exec_waitEv (c : CoreId) (ev : BitVec 8) (count : BitVec 16) (s : State) :
    exec (.waitEv c ev count) s = execWaitEv c ev count s := rfl

theorem exec_phaseEnd (c : CoreId) (phase : BitVec 12) (s : State) : exec (.phaseEnd c phase) s = execPhaseEnd c phase s := rfl

/-- PHASE_END of a running core: it reports the end of the phase it runs, and is illegal elsewhere. -/
theorem execPhaseEnd_running {s : State} {c : CoreId} (hrun : (s.seq c).status = .running) (phase : BitVec 12) :
    execPhaseEnd c phase s = .next (onCore s c fun s q =>
      if q.inPhase && (q.granted.map (·.2)) == some phase.toNat then settle (tryPhaseEnd s c phase.toNat) else illegal s c) := by
  rw [execPhaseEnd, hrun]

/-- Where the word at the PC is no instruction, every instruction of a running core is illegal. -/
theorem instructions_illegal {s : State} {c : CoreId} (hrun : (s.seq c).status = .running) (hok : instrOk (s.seq c) = false) :
    (∀ queue space offset, execIssue c queue space offset s = .next (illegal s c)) ∧
      (∀ ev count, execWaitEv c ev count s = .next (illegal s c)) ∧
      (∀ ev target pos tile, execPulse c ev target pos tile s = .next (illegal s c)) ∧
      (∀ phase, execPhaseBegin c phase s = .next (illegal s c) ∧ execPhaseEnd c phase s = .next (illegal s c)) ∧
      (∀ offset, execWaitBeat c offset s = .next (illegal s c)) ∧ (∀ count target, execLoop c count target s = .next (illegal s c)) ∧
      (∀ target, execJump c target s = .next (illegal s c)) ∧ (∀ mask, execDrain c mask s = .next (illegal s c)) ∧
      execHalt c s = .next (illegal s c) := by
  have hfault (act : State → Seq → State) : Host.Outcome.next (φ := Fault) (ρ := Refusal) (onCore s c act) = .next (illegal s c) :=
    congrArg _ (onCore_of_not_instrOk hrun hok act)
  exact ⟨fun _ _ _ => hfault _, fun _ _ => hfault _, fun _ _ _ _ => hfault _,
    fun phase => ⟨hfault _, (execPhaseEnd_running hrun phase).trans (hfault _)⟩, fun _ => hfault _, fun _ _ => hfault _,
    fun _ => hfault _, fun _ => hfault _, hfault _⟩

/-- Settles O2: each guard answers the fault, and so does the check of the word at the PC. -/
theorem illegalInstructionsAreProgramFaults : Obligations.IllegalInstructionsAreProgramFaults := by
  intro s c hrun
  have hfault {act : State → Seq → State} (h : act s (s.seq c) = illegal s c) :
      Host.Outcome.next (φ := Fault) (ρ := Refusal) (onCore s c act) = .next (illegal s c) := congrArg _ (onCore_illegal hrun h)
  refine ⟨fun queue space offset hq => hfault (if_pos hq), fun ev target pos tile ht => hfault (if_pos ht),
    fun count target ht => hfault (if_pos ht), fun count target hl hlen h1 => hfault ?_, fun target ht => hfault (if_pos ht),
    fun phase hp => hfault (if_pos (by simpa using hp)), fun phase hp => ?_,
    fun hok => instructions_illegal hrun ((instrOk_false_iff _).2 hok)⟩
  · dsimp only
    rw [if_neg h1, if_pos hlen]
    split
    · rfl
    · split
      · next i n rest he =>
        rw [he] at hl
        rw [if_neg (fun hi => hl (by simp [hi]))]
      · rfl
  · rw [exec_phaseEnd, execPhaseEnd_running hrun]
    refine hfault (if_neg ?_)
    rcases hp with hp | hp <;> simp [hp]

end Sys2Proof.Machine
end

section
/-! Waits of a core, event counters and pulses (R25 to R31, R467). -/

namespace Sys2Proof.Machine

/-! ### Waits that end -/

/-- A descriptor takes the last place of a queue with room, and its core goes on (R25). -/
theorem enqueue_room {s : State} {c : CoreId} {queue : Nat} (hlen : (nthD [] (s.seq c).queues queue).length < 16) (e : QEntry) :
    ∃ t, enqueue s c queue e = t ∧
      t.seq c = { (s.seq c).goOn with
        queues := setNth (s.seq c).queues queue (nthD [] (s.seq c).queues queue ++ [e])
        issued := setNth (s.seq c).issued queue (nthD 0 (s.seq c).issued queue + 1) } ∧
      (∀ d, d ≠ c → t.seq d = s.seq d) ∧ t.regs = s.regs ∧ t.mem = s.mem ∧ t.tiles = s.tiles := by
  refine ⟨_, rfl, ?_, fun d hd => ?_, ?_⟩ <;> rw [enqueue, if_neg (Nat.not_le.2 hlen), advance_eq]
  · simp only [seq_setSeq, Seq.goOn]
  · simp only [seq_setSeq_ne _ _ hd]
  · exact ⟨rfl, rfl, rfl⟩

theorem exec_completionPulse (c : CoreId) (queue : Fin 4) (s : State) :
    exec (.completionPulse c queue) s = execCompletionPulse c queue s := rfl

theorem exec_drainRelease (c : CoreId) (s : State) : exec (.drainRelease c) s = execDrainRelease c s := rfl

theorem exec_waitBeatRelease (c : CoreId) (s : State) : exec (.waitBeatRelease c) s = execWaitBeatRelease c s := rfl

theorem exec_issueQueueRoom (c : CoreId) (s : State) : exec (.issueQueueRoom c) s = execIssueQueueRoom c s := rfl

/-- Settles O3, wait by wait. -/
theorem waitsOfACoreAreReleased : Obligations.WaitsOfACoreAreReleased := by
  intro s c
  refine ⟨fun queue e rest hq hdone => ?_, fun mask hw hempty => ?_, fun offset hw hb => ?_, fun queue e hw hlen => ?_⟩
  · rw [exec_completionPulse, execCompletionPulse, hq]
    simp only [hdone, if_true]
  · rw [exec_drainRelease, execDrainRelease, hw]
    exact if_pos hempty
  · rw [exec_waitBeatRelease, execWaitBeatRelease, hw]
    exact if_pos hb
  · rw [exec_issueQueueRoom, execIssueQueueRoom, hw]
    obtain ⟨t, rfl, ht⟩ := enqueue_room hlen e
    exact ⟨_, if_neg (Nat.not_le.2 hlen), ht⟩

/-! ### Event counters -/

theorem evCount_lt (s : State) (t : TileId) (ev : Nat) : evCount s t ev < 2 ^ 16 := BitVec.isLt _

theorem evCount_setEv_same (s : State) (t : TileId) (ev : Nat) {n : Nat} (hn : n < 2 ^ 16) : evCount (setEv s t ev n) t ev = n := by
  simpa [evCount, setEv] using hn

theorem evCount_setEv_ne (s : State) (t : TileId) {ev e : Nat} (n : Nat) (h : e ≠ ev) :
    evCount (setEv s t ev n) t e = evCount s t e := by
  simp [evCount, setEv, mapGet_mapSet_ne _ _ _ _ h]

/-- To set a counter touches its tile alone. -/
theorem setEv_frame (s : State) (t : TileId) (ev n : Nat) : ∃ ts, setEv s t ev n = { s with tiles := ts } := ⟨_, rfl⟩

@[simp] theorem seq_setEv (s : State) (t : TileId) (ev n : Nat) (c : CoreId) : (setEv s t ev n).seq c = s.seq c := rfl

/-- Waiters are cores of the tile that wait on the counter for their count. -/
theorem mem_waiters {s : State} {t : TileId} {ev : Nat} {w : CoreId × Nat} :
    w ∈ waiters s t ev ↔ w.1 ∈ tileCores t ∧ ∃ since, (s.seq w.1).status = .waitEv ev w.2 since := by
  rw [waiters, List.mem_filterMap]
  constructor
  · rintro ⟨c, hc, hw⟩
    split at hw
    · next e n since hs =>
      split at hw
      · next he =>
        cases hw
        exact ⟨hc, since, he ▸ hs⟩
      · cases hw
    · cases hw
  · rintro ⟨hc, since, hs⟩
    exact ⟨w.1, hc, by rw [hs]; simp⟩

/-- No core waits twice. -/
theorem waiters_apart (s : State) (t : TileId) (ev : Nat) : (waiters s t ev).Pairwise fun w v => w.1 ≠ v.1 := by
  have hcores : (tileCores t).Pairwise (· ≠ ·) := (List.nodup_finRange 16).map fun a b h => by simpa using h
  have hcore {c : CoreId} {w : CoreId × Nat} (h : (match (s.seq c).status with
      | .waitEv e n _ => if e = ev then some (c, n) else none
      | _ => none) = some w) : w.1 = c := by
    split at h
    · split at h
      · cases h; rfl
      · cases h
    · cases h
  refine hcores.filterMap _ fun c d hcd w hw v hv => ?_
  rw [hcore hw, hcore hv]
  exact hcd

/-! ### Grants -/

/-- A wait is granted if its counter holds the count (R28). -/
def grantOne (t : TileId) (ev : Nat) (s : State) (w : CoreId × Nat) : State :=
  if w.2 ≤ evCount s t ev then setEv (s.setSeq w.1 (s.seq w.1).goOn) t ev (evCount s t ev - w.2) else s

theorem grantWaits_eq (s : State) (t : TileId) (ev : Nat) : grantWaits s t ev = (waiters s t ev).foldl (grantOne t ev) s := rfl

/-- Without waiters nothing is granted. -/
theorem grantWaits_nil {s : State} {t : TileId} {ev : Nat} (h : waiters s t ev = []) : grantWaits s t ev = s := by
  rw [grantWaits_eq, h, List.foldl_nil]

/-- What grants leave: they touch sequencers and tiles alone, and of the tile one counter. -/
structure Granted (t : TileId) (ev : Nat) (l : List (CoreId × Nat)) (s u : State) : Prop where
  conserve : evCount s t ev = evCount u t ev + ((l.filter fun w => (u.seq w.1).status == .running).map (·.2)).sum
  each : ∀ w ∈ l, u.seq w.1 = (s.seq w.1).goOn ∨ (u.seq w.1 = s.seq w.1 ∧ evCount u t ev < w.2)
  other : ∀ c, (∀ w ∈ l, w.1 ≠ c) → u.seq c = s.seq c
  counters : ∀ e, e ≠ ev → evCount u t e = evCount s t e
  frame : ∃ seqs tiles, u = { s with seqs := seqs, tiles := tiles }

theorem granted_foldl {t : TileId} {ev : Nat} {l : List (CoreId × Nat)} (hl : l.Pairwise fun w v => w.1 ≠ v.1) {s : State}
    (hw : ∀ w ∈ l, (s.seq w.1).status ≠ .running) : Granted t ev l s (l.foldl (grantOne t ev) s) := by
  induction l generalizing s with
  | nil => exact ⟨by simp, by simp, fun _ _ => rfl, fun _ _ => rfl, _, _, rfl⟩
  | cons w l ih =>
    obtain ⟨hwl, hl⟩ := List.pairwise_cons.1 hl
    have hwait := hw w (.head _)
    rw [List.foldl_cons]
    by_cases hle : w.2 ≤ evCount s t ev
    · have hone : grantOne t ev s w = setEv (s.setSeq w.1 (s.seq w.1).goOn) t ev (evCount s t ev - w.2) := if_pos hle
      have hseq (v : CoreId × Nat) (hv : v ∈ l) : (grantOne t ev s w).seq v.1 = s.seq v.1 := by
        rw [hone, seq_setEv, seq_setSeq_ne s _ (hwl v hv).symm]
      have hself : (grantOne t ev s w).seq w.1 = (s.seq w.1).goOn := by rw [hone, seq_setEv, seq_setSeq]
      have hcount : evCount (grantOne t ev s w) t ev = evCount s t ev - w.2 := by
        rw [hone]; exact evCount_setEv_same _ t ev ((Nat.sub_le _ _).trans_lt (evCount_lt s t ev))
      obtain ⟨hsum, heach, hother, hcounters, seqs, tiles, hu⟩ :=
        ih hl (s := grantOne t ev s w) fun v hv => by rw [hseq v hv]; exact hw v (.tail _ hv)
      have hw1 := (hother w.1 fun v hv => (hwl v hv).symm).trans hself
      refine ⟨?_, fun v hv => ?_, fun c hc => ?_, fun e he => ?_, seqs, tiles, ?_⟩
      · rw [List.filter_cons_of_pos (by rw [hw1]; rfl), List.map_cons, List.sum_cons]
        omega
      · rcases List.mem_cons.1 hv with rfl | hv
        · exact .inl hw1
        · rw [← hseq v hv]; exact heach v hv
      · rw [hother c fun v hv => hc v (.tail _ hv), hone, seq_setEv, seq_setSeq_ne s _ (hc w (.head _)).symm]
      · rw [hcounters e he, hone]
        exact evCount_setEv_ne _ t _ he
      · rw [hu, hone]; rfl
    · have hone : grantOne t ev s w = s := if_neg hle
      rw [hone]
      obtain ⟨hsum, heach, hother, hcounters, hframe⟩ := ih hl fun v hv => hw v (.tail _ hv)
      have hw1 := hother w.1 fun v hv => (hwl v hv).symm
      refine ⟨?_, fun v hv => ?_, fun c hc => hother c fun v hv => hc v (.tail _ hv), hcounters, hframe⟩
      · rw [List.filter_cons_of_neg (by rw [hw1]; simpa using hwait)]
        exact hsum
      · rcases List.mem_cons.1 hv with rfl | hv
        · exact .inr ⟨hw1, by omega⟩
        · exact heach v hv

theorem granted_grantWaits (s : State) (t : TileId) (ev : Nat) : Granted t ev (waiters s t ev) s (grantWaits s t ev) :=
  granted_foldl (waiters_apart s t ev) fun w hw => by
    obtain ⟨-, since, hs⟩ := mem_waiters.1 hw
    rw [hs]
    simp

/-- Settles O4: what one grant does, summed over the waiters, of whom no two are one core. -/
theorem grantsOfACounterConserveItsCount : Obligations.GrantsOfACounterConserveItsCount := by
  intro s t ev
  obtain ⟨hsum, heach, -, hcounters, seqs, tiles, hu⟩ := granted_grantWaits s t ev.toNat
  exact ⟨_, rfl, hsum, heach, hcounters, by rw [hu], by rw [hu]⟩

/-! ### Pulses -/

/-- A pulse that finds no waiter adds one, or is lost at 0xFFFF (R27, R30). -/
theorem pulseAt_nil {s : State} {t : TileId} {ev : Nat} (h : waiters s t ev = []) : pulseAt s t ev =
    if evCount s t ev = 0xFFFF then programFault s t 1 ev 0 0 else setEv s t ev (evCount s t ev + 1) := by
  rw [pulseAt, grantWaits_nil h, h]
  rfl

/-- Of a pulse below 0xFFFF that finds no waiter. -/
theorem pulseAt_counts {s : State} {t : TileId} {ev : Nat} (h : waiters s t ev = []) (hn : evCount s t ev < 0xFFFF) :
    evCount (pulseAt s t ev) t ev = evCount s t ev + 1 ∧ (∀ e, e ≠ ev → evCount (pulseAt s t ev) t e = evCount s t e) ∧
      ∃ ts, pulseAt s t ev = { s with tiles := ts } := by
  rw [pulseAt_nil h, if_neg (by omega)]
  exact ⟨evCount_setEv_same s t ev (by omega), fun e he => evCount_setEv_ne s t _ he, setEv_frame s t ev _⟩

/-- A core that runs, and goes on, waits on no counter before or after. -/
theorem waiters_advance {s : State} {c : CoreId} (hrun : (s.seq c).status = .running) (t : TileId) (ev : Nat) :
    waiters (advance s c) t ev = waiters s t ev := by
  refine congrArg (List.filterMap · (tileCores t)) (funext fun d => ?_)
  by_cases hd : d = c
  · subst hd
    rw [advance_eq, seq_setSeq, hrun, Seq.goOn]
  · rw [advance_eq, seq_setSeq_ne s _ hd]

/-- A packet that arrives leaves the mesh; of the rest only the links' counts of failed flits change. -/
theorem takeFlight_spec {s v : State} {f : Flight} (h : takeFlight s f = some v) :
    ∃ flits, v = { s with mesh := s.mesh.erase f, links := { s.links with flits := flits } } := by
  rw [takeFlight] at h
  split at h
  · cases h
    generalize pathLinks (meshPath f.src f.dst) = l
    generalize he : ({ s with mesh := s.mesh.erase f } : State) = u
    suffices ∀ u : State, ∃ flits, l.foldl linkPassed u = { u with links := { u.links with flits := flits } } by
      obtain ⟨flits, hf⟩ := this u
      exact ⟨flits, by rw [hf, ← he]⟩
    intro u
    induction l generalizing u with
    | nil => exact ⟨_, rfl⟩
    | cons k l ih =>
      obtain ⟨flits, hf⟩ := ih (linkPassed u k)
      exact ⟨flits, by rw [List.foldl_cons, hf]; rfl⟩
  · cases h

theorem exec_pulseArrive (w : PulseWay) (ev : BitVec 8) (s : State) : exec (.pulseArrive w ev) s = execPulseArrive w ev s := rfl

/-- A pulse that nothing delays acts on a state in which only the mesh and the links' counts of failed flits differ. -/
theorem execPulseArrive_acts {s : State} {src : Option TileId} {t : TileId} {ev : BitVec 8}
    (hdie : src = none → dieDelays s t true = false)
    (hmesh : ∀ a, src = some a → (takeFlight s { src := a, dst := t, response := false, load := .pulse ev.toNat }).isSome = true) :
    ∃ mesh flits, execPulseArrive ⟨src, t⟩ ev s =
      .next (pulseAt { s with mesh := mesh, links := { s.links with flits := flits } } t ev.toNat) := by
  cases src with
  | none =>
    obtain ⟨flits, hf⟩ := passDie_flits s t true
    refine ⟨s.mesh, flits, ?_⟩
    rw [execPulseArrive]
    dsimp only
    rw [takeDie, hdie rfl, hf]
    rfl
  | some a =>
    obtain ⟨v, hv⟩ := Option.isSome_iff_exists.1 (hmesh a rfl)
    obtain ⟨flits, hf⟩ := takeFlight_spec hv
    refine ⟨s.mesh.erase { src := a, dst := t, response := false, load := .pulse ev.toNat }, flits, ?_⟩
    rw [execPulseArrive]
    dsimp only
    rw [hv, hf]

/-- PULSE of a running core to its own tile. -/
theorem execPulse_own {s : State} {c : CoreId} (h : Runs s c) (ev : BitVec 8) (pos : BitVec 2) (tile : BitVec 6) :
    execPulse c ev 0 pos tile s = .next (pulseAt (advance s c) c.tile ev.toNat) := by
  rw [execPulse, onCore_runs h, if_neg (by simp)]
  rfl

/-- Settles O6: a pulse that acts adds one, on a state whose counters and sequencers are those of the one before. -/
theorem pulseAddsOneToItsCounter : Obligations.PulseAddsOneToItsCounter := by
  intro s t ev
  refine ⟨fun src hw hn hdie hmesh => ?_, fun c hc h hw hn pos tile => ?_⟩
  · obtain ⟨mesh, flits, he⟩ := execPulseArrive_acts hdie hmesh
    obtain ⟨hadd, hother, ts, hframe⟩ :=
      pulseAt_counts (s := { s with mesh := mesh, links := { s.links with flits := flits } }) hw hn
    exact ⟨_, he, hadd, hother, by rw [hframe], by rw [hframe], by rw [hframe]⟩
  · subst hc
    obtain ⟨hadd, -, ts, hframe⟩ := pulseAt_counts (s := advance s c) ((waiters_advance h.1 _ _).trans hw) hn
    have hseq : (pulseAt (advance s c) c.tile ev.toNat).seq c = (advance s c).seq c := by rw [hframe]; rfl
    exact ⟨_, execPulse_own h ev pos tile, hadd, hseq.trans (seq_setSeq s c _), by rw [hframe]; rfl, by rw [hframe]; rfl⟩

/-! ### Waits on a counter, and pulses that leave their tile -/

theorem execWaitEv_runs {s : State} {c : CoreId} (h : Runs s c) (ev : BitVec 8) (count : BitVec 16) : execWaitEv c ev count s =
    .next (if count = 0 then s.setSeq c (s.seq c).goOn
      else grantWaits (s.setSeq c { s.seq c with status := .waitEv ev.toNat count.toNat s.now }) c.tile ev.toNat) := by
  rw [execWaitEv, onCore_runs h]
  rfl

theorem execEvWaitLimitExpire_fault {s : State} {c : CoreId} {e n since : Nat} (hw : (s.seq c).status = .waitEv e n since)
    (hlimit : fget s (TL_EV_WDOG c.tile.val) f_TL_EV_WDOG_LIMIT ≠ 0)
    (hlate : since + fget s (TL_EV_WDOG c.tile.val) f_TL_EV_WDOG_LIMIT * 1024 < s.now) :
    execEvWaitLimitExpire c s = .next (programFault s c.tile 2 e c.core.val (s.seq c).pc) := by
  rw [execEvWaitLimitExpire, hw]
  exact if_pos ⟨hlimit, hlate⟩

/-- PULSE of a running core to another tile, or another module of the board. -/
theorem execPulse_away {s : State} {c : CoreId} (h : Runs s c) (ev : BitVec 8) (pos : BitVec 2) {tile : BitVec 6}
    (ht : tile.toNat < 48) :
    execPulse c ev 1 pos tile s = .next (sendMesh (advance s c)
        { src := c.tile, dst := ⟨tile.toNat % 48, Nat.mod_lt _ (by decide)⟩, response := false, load := .pulse ev.toNat }) ∧
      (pos.toNat ≠ s.pins.boardPos → execPulse c ev 2 pos tile s =
        .next (sendPort (advance s c) c.tile (16 + spanPortTo s pos.toNat)
          (.pulse (spanPortTo s pos.toNat) pos.toNat tile.toNat ev.toNat))) := by
  refine ⟨?_, fun hpos => ?_⟩ <;> rw [execPulse, onCore_runs h, if_neg (by simp [*])] <;> rfl

/-- A port carries traffic after a crossing as before it. -/
theorem spanOpen_passDie (s : State) (t : TileId) (east : Bool) (k : Nat) : spanOpen (passDie s t east) k = spanOpen s k := by
  obtain ⟨f, hf⟩ := passDie_flits s t east
  rw [hf]; rfl

/-- What a tile sends through the east port die waits behind a link of its way that retrains, or what waits there (R296, R298). -/
def waitsAtDie (s : State) (t : TileId) : Bool := dieBlocked s t true || s.dieHeld.any fun x => x.1 == t && decide (16 ≤ x.2.1)

section
variable {s : State} {t : TileId} {k : Nat} {m : OutMsg}

theorem sendPort_eq (s : State) (t : TileId) (k : Nat) (m : OutMsg) : sendPort s t (16 + k) m =
    if waitsAtDie s t then { s with dieHeld := s.dieHeld ++ [(t, 16 + k, m)] } else sendSpan (passDie s t true) k m := by
  have h16 : decide (16 ≤ 16 + k) = true := decide_eq_true (by omega)
  have hk : ¬ 16 + k < 16 := by omega
  simp only [sendPort, leavePort, waitsAtDie, h16, hk, beq_true, if_false, Nat.add_sub_cancel_left]
  rfl

theorem sendPort_waits (hb : waitsAtDie s t = true) :
    sendPort s t (16 + k) m = { s with dieHeld := s.dieHeld ++ [(t, 16 + k, m)] } := by rw [sendPort_eq, if_pos hb]

theorem sendPort_open (hb : waitsAtDie s t = false) (ho : spanOpen s k = true) :
    sendPort s t (16 + k) m = emit (passDie s t true) m := by
  rw [sendPort_eq, if_neg (ne_true_of_eq_false hb), sendSpan, spanOpen_passDie, if_pos ho]

theorem sendPort_shut (hb : waitsAtDie s t = false) (ho : spanOpen s k = false) :
    sendPort s t (16 + k) m = { passDie s t true with spanHeld := s.spanHeld ++ [(k, m)] } := by
  rw [sendPort_eq, if_neg (ne_true_of_eq_false hb), sendSpan, spanOpen_passDie, if_neg (ne_true_of_eq_false ho)]
  obtain ⟨f, hf⟩ := passDie_flits s t true
  rw [hf]

end

/-- Settles O5: each wait and pulse by the branch that its hypotheses choose. -/
theorem waitsAndPulsesMeetAtTheCounter : Obligations.WaitsAndPulsesMeetAtTheCounter := by
  intro s
  refine ⟨fun c ev h => ⟨?_, fun count hc => ?_⟩, fun c e n since hw hlimit hlate => execEvWaitLimitExpire_fault hw hlimit hlate,
    fun c ev pos tile h ht => ⟨(execPulse_away h ev pos ht).1, fun hpos => ?_⟩, fun t ev => ⟨fun hd => ?_, fun hd hw hn => ?_⟩,
    fun a t ev => ⟨fun hblocked => ?_, fun hfirst hopen => ?_⟩⟩
  · rw [exec_waitEv, execWaitEv_runs h, if_pos rfl]
  · rw [exec_waitEv, execWaitEv_runs h, if_neg hc]
  · have hsend := (execPulse_away h ev pos ht).2 hpos
    exact ⟨fun hb => hsend.trans (congrArg _ (sendPort_waits hb)), fun hb ho => hsend.trans (congrArg _ (sendPort_open hb ho)),
      fun hb ho => hsend.trans (congrArg _ (sendPort_shut hb ho))⟩
  · rw [exec_pulseArrive, execPulseArrive]
    exact congrArg _ (if_pos hd)
  · rw [exec_pulseArrive, execPulseArrive]
    refine congrArg _ ((if_neg (ne_true_of_eq_false hd)).trans ?_)
    obtain ⟨f, hf⟩ := passDie_flits s t true
    rw [hf]
    exact (pulseAt_nil (s := { s with links := { s.links with flits := f } }) hw).trans (if_pos hn)
  · rw [exec_pulseArrive, execPulseArrive]
    dsimp only
    rw [takeFlight, if_neg]
    simpa [or_iff_not_imp_left] using hblocked
  · have htake : takeFlight s { src := a, dst := t, response := false, load := .pulse ev.toNat } =
        some ((pathLinks (meshPath a t)).foldl linkPassed
          { s with mesh := s.mesh.erase { src := a, dst := t, response := false, load := .pulse ev.toNat } }) := by
      rw [takeFlight, if_pos]
      simp [hfirst, hopen]
    obtain ⟨flits, hv⟩ := takeFlight_spec htake
    refine ⟨_, htake, by rw [hv], ?_⟩
    rw [exec_pulseArrive, execPulseArrive]
    dsimp only
    rw [htake]

end Sys2Proof.Machine
end

section
/-! What a function of the model can change. The classes name, level by level, the parts of the state that a group of functions writes: the
notes of events, the verification of blocks, writes of memory, the infusers' walk and the capture. A property of states that those parts
leave has the class, and for each function `f` of the group `State.Has.f` says that `f` keeps every such property; its proof names the
functions that `f` calls, as the layer of `State.Canonical` does. What a function leaves unchanged is then one case of it. -/

namespace Sys2Proof.Machine

/-- A state has a property. -/
def State.Has (s : State) (I : State → Prop) : Prop := I s

/-! ### Registers -/

/-- Registers of tiles, base dies, the management block and MSI-X: those in which units note events. -/
def LogReg (a : Nat) : Prop := a < 0x900000 ∨ (0x908000 ≤ a ∧ a < 0x909000) ∨ 0xA20000 ≤ a

/-- Registers that the step and the phases write: all but the slew's and TBU_RESTART. -/
def StepReg (a : Nat) : Prop := a ≠ TBU_SLEW ∧ a ≠ TBU_RESTART

theorem LogReg.stepReg {a : Nat} (h : LogReg a) : StepReg a := by
  unfold LogReg at h
  unfold StepReg TBU_SLEW TBU_RESTART
  omega

section
variable (n : Nat) (t : TileId) (die : StackId)

@[simp] theorem logReg_alert : LogReg MGS_ALERT := by unfold LogReg MGS_ALERT; omega
@[simp] theorem logReg_status : LogReg MGS_STATUS := by unfold LogReg MGS_STATUS; omega
@[simp] theorem logReg_pba : LogReg (MSIX_PBA n) := by unfold LogReg MSIX_PBA; omega
@[simp] theorem logReg_flags : LogReg (DMA_FLAGS t.val) := by unfold LogReg DMA_FLAGS; omega
@[simp] theorem logReg_cursor : LogReg (INF_CKPT_CURSOR die.val) := by unfold LogReg INF_CKPT_CURSOR; omega
@[simp] theorem logReg_dieStatus : LogReg (INF_DIE_STATUS die.val) := by unfold LogReg INF_DIE_STATUS; omega
@[simp] theorem logReg_poison : LogReg (INF_POISON die.val) := by unfold LogReg INF_POISON; omega
@[simp] theorem logReg_forwarded : LogReg (INF_CKPT_FWD die.val) := by unfold LogReg INF_CKPT_FWD; omega
@[simp] theorem logReg_frozen : LogReg (INF_FROZEN die.val) := by unfold LogReg INF_FROZEN; omega
@[simp] theorem logReg_badLanes : LogReg (INF_BAD_LANES die.val) := by unfold LogReg INF_BAD_LANES; omega
@[simp] theorem stepReg_ckptStatus : StepReg INF_CKPT_STATUS := by unfold StepReg INF_CKPT_STATUS TBU_SLEW TBU_RESTART; omega
@[simp] theorem stepReg_ckptCtl : StepReg INF_CKPT_CTL := by unfold StepReg INF_CKPT_CTL TBU_SLEW TBU_RESTART; omega
@[simp] theorem stepReg_updStatus : StepReg HIF_UPD_STATUS := by unfold StepReg HIF_UPD_STATUS TBU_SLEW TBU_RESTART; omega
@[simp] theorem stepReg_plogDrop : StepReg TBU_PLOG_DROP := by unfold StepReg TBU_PLOG_DROP TBU_SLEW TBU_RESTART; omega
@[simp] theorem stepReg_plogWp : StepReg TBU_PLOG_WP := by unfold StepReg TBU_PLOG_WP TBU_SLEW TBU_RESTART; omega
@[simp] theorem stepReg_tbuStatus : StepReg TBU_STATUS := by unfold StepReg TBU_STATUS TBU_SLEW TBU_RESTART; omega

end

/-! ### The classes -/

/-- A property that notes of events keep: messages, alerts, the event log, snapshot triggers, and registers of `LogReg`. -/
class Noted (I : State → Prop) : Prop where
  note : ∀ {s : State} {mgr waits msiPending alert out snaps}, s.Has I → State.Has { s with
    mgr := mgr, pins := { s.pins with waits := waits, msiPending := msiPending, alert := alert }, out := out, snaps := snaps } I
  log : ∀ {s : State} {a v : Nat}, LogReg a → s.Has I → (s.setReg a v).Has I

/-- A property that the verification of blocks by units that pass no cache keeps, and a free value that is taken. -/
class Checked (I : State → Prop) : Prop extends Noted I where
  check : ∀ {s : State} {errs free}, s.Has I → State.Has { s with errs := errs, free := free } I

/-- A property that the verification of blocks by any unit keeps. -/
class Cached (I : State → Prop) : Prop extends Checked I where
  cache : ∀ {s : State} {t : TileId} {cache}, s.Has I → (s.setTile t { s.tile t with cache := cache }).Has I

/-- A property that writes of memory by units that pass no cache keep. -/
class Written (I : State → Prop) : Prop extends Checked I where
  write : ∀ {s : State} {mem env errs}, s.Has I → State.Has { s with mem := mem, env := env, errs := errs } I

/-- A property that the infusers' walk and the capture keep. -/
class Walked (I : State → Prop) : Prop extends Written I where
  die : ∀ {s : State} {dies}, s.Has I → State.Has { s with dies := dies } I
  step : ∀ {s : State} {a v : Nat}, StepReg a → s.Has I → (s.setReg a v).Has I

/-! ### How functions of the state are put together -/

section
variable {I : State → Prop} {s : State} (h : s.Has I)
include h

protected theorem State.Has.ite {t : State} (ht : t.Has I) {c : Prop} [Decidable c] : (if c then s else t).Has I := by
  split
  · exact h
  · exact ht

protected theorem State.Has.foldl {β : Type} {l : List β} {f : State → β → State}
    (hf : ∀ {u : State} {b : β}, u.Has I → (f u b).Has I) : (l.foldl f s).Has I :=
  List.foldlRecOn (motive := fun u => u.Has I) l f h fun _ hu _ _ => hf hu

/-- A fold that gathers a result beside the state. -/
protected theorem State.Has.foldlSnd {α β : Type} {a : α} {l : List β} {f : α × State → β → α × State}
    (hf : ∀ {u : α × State} {b : β}, u.2.Has I → (f u b).2.Has I) : (l.foldl f (a, s)).2.Has I :=
  List.foldlRecOn (motive := fun u => u.2.Has I) l f h fun _ hu _ _ => hf hu

/-- One proof for a state that several places name. -/
protected theorem State.Has.use {p : Prop} (k : s.Has I → p) : p := k h

end

/-! ### Notes of events -/

section
variable {I : State → Prop} [Noted I] {s : State} (h : s.Has I)
include h

protected theorem State.Has.note {mgr waits msiPending alert out snaps} : State.Has { s with
    mgr := mgr, pins := { s.pins with waits := waits, msiPending := msiPending, alert := alert }, out := out, snaps := snaps } I :=
  Noted.note h

protected theorem State.Has.setReg {a v : Nat} (ha : LogReg a := by simp) : (s.setReg a v).Has I := Noted.log ha h

protected theorem State.Has.fset {a : Nat} {f : Fld} {v : Nat} (ha : LogReg a := by simp) : (fset s a f v).Has I := h.setReg ha

protected theorem State.Has.fadd {a : Nat} {f : Fld} {n : Nat} (ha : LogReg a := by simp) : (fadd s a f n).Has I := h.fset ha

protected theorem State.Has.emit {m} : (emit s m).Has I := h.note

protected theorem State.Has.waitLink {p w} : (waitLink s p w).Has I := h.ite h.note

protected theorem State.Has.msix {port vector} : (msix s port vector).Has I := (h.emit.ite h.waitLink).ite h.note.setReg

protected theorem State.Has.interrupt {source} : (interrupt s source).Has I := h.msix.ite h

protected theorem State.Has.refreshAlert : (refreshAlert s).Has I := h.note

protected theorem State.Has.raiseAlert {f} : (raiseAlert s f).Has I :=
  h.refreshAlert.ite (h.fset.refreshAlert.use fun h1 => h1.interrupt.ite h1)

protected theorem State.Has.post {k unit data} : (post s k unit data).Has I := h.fadd.note.raiseAlert.ite h.note

protected theorem State.Has.fireSnapshot {source tile} : (fireSnapshot s source tile).Has I := h.note

protected theorem State.Has.mcBump {a sel amount} (ha : LogReg a) : (mcBump s a sel amount).Has I :=
  (h.fset ha).ite (h.ite (((h.fset ha).fset ha).post.raiseAlert.ite ((h.fset ha).fset ha)))

/-- Counters of the run at a base note an amount. -/
protected theorem State.Has.mcAdd {base count source unit amount : Nat} (ha : ∀ a, base ≤ a → a < base + 16 * count → LogReg (a + 8)) :
    (mcAdd s base count source unit amount).Has I := by
  refine h.ite (List.foldlRecOn (motive := fun u : State => u.Has I) _ _ h fun u hu p hp => State.Has.mcBump hu ?_)
  simp only [List.mem_filter, Bool.and_eq_true, decide_eq_true_eq] at hp
  obtain ⟨-, ⟨⟨⟨hlo, hhi, -⟩, -⟩, -⟩, -⟩ := hp
  exact ha _ hlo hhi

protected theorem State.Has.mcTile {t source unit amount} : (mcTile s t source unit amount).Has I :=
  h.mcAdd fun a _ hhi => .inl (by unfold TL_MC_SEL at hhi; omega)

protected theorem State.Has.mcModule {source unit amount} : (mcModule s source unit amount).Has I :=
  h.mcAdd fun a hlo hhi => .inr (.inl (by unfold MGS_MC_SEL at hlo hhi; omega))

protected theorem State.Has.caddyParity {t kind a : Nat} (ht : t < 64) : (caddyParity s t kind a).Has I := by
  have ha : LogReg (CAD_PERR t) := .inl (by unfold CAD_PERR; omega)
  exact (h.fadd ha).ite ((((h.fset ha).fset ha).fset ha).fset ha)

omit h [Noted I] in
theorem logReg_errlogOf (k : Nat) : LogReg (errlogOf k) := by
  refine .inl ?_
  unfold errlogOf
  split
  · unfold HBM_ERRLOG
    omega
  · have := bitsAt_lt k 36 6
    unfold DTR_ERRLOG
    omega

protected theorem State.Has.logUncorrectable {k unit bank row} : (logUncorrectable s k unit bank row).Has I := by
  have ha := logReg_errlogOf k
  exact ((h.fset ha).ite (((((h.fset ha).fset ha).fset ha).fset ha).fset ha)).post.raiseAlert

end

/-! ### Verification -/

section
variable {I : State → Prop} [Checked I] {s : State} (h : s.Has I)
include h

protected theorem State.Has.check {errs free} : State.Has { s with errs := errs, free := free } I := Checked.check h

protected theorem State.Has.takeFree : (takeFree s).2.Has I := h.check

protected theorem State.Has.clearErr {k} : (clearErr s k).Has I := h.check

protected theorem State.Has.verifyKey {ag k a} : (verifyKey s ag k a).2.Has I := by
  unfold verifyKey
  dsimp only
  split
  · exact h.logUncorrectable
  · exact (h.caddyParity (bitsAt_lt a 28 6)).ite h
  · exact h
  · split
    · split
      · exact h.check.mcTile.ite h.check
      · exact h.check
    · exact h.check
  · exact h

protected theorem State.Has.verifyMemory {ag a} : (verifyMemory s ag a).2.Has I := h.verifyKey

omit h in
/-- A unit that passes no cache verifies blocks. -/
protected theorem State.Has.verifyOther {as} (h : s.Has I) : (verifyAll s .other as).2.Has I := by
  induction as generalizing s with
  | nil => exact h
  | cons a as ih => exact ih (by split; exacts [h, h.verifyMemory])

protected theorem State.Has.verifyOtherRange {a n} : (verifyRange s .other a n).2.Has I := h.verifyOther

protected theorem State.Has.verifyFormat {id} : (verifyFormat s id).2.Has I := by
  unfold verifyFormat
  split
  · exact h
  · exact h.verifyOtherRange

protected theorem State.Has.verifyStack {die off n} : (verifyStack s die off n).2.Has I :=
  (h.clearErr.ite h).foldlSnd fun hu => hu.verifyKey

protected theorem State.Has.verifyHyper {e n} : (verifyHyper s e n).2.Has I := by
  unfold verifyHyper
  split
  · exact h
  · refine State.Has.verifyFormat ?_
    split
    · exact h.verifyOtherRange
    · exact h.verifyOtherRange.verifyOtherRange

protected theorem State.Has.entryBad {die i} : (entryBad s die i).2.Has I := h.verifyStack

end

section
variable {I : State → Prop} [Cached I] {s : State} (h : s.Has I)
include h

protected theorem State.Has.cache {t : TileId} {cache} : (s.setTile t { s.tile t with cache := cache }).Has I := Cached.cache h

protected theorem State.Has.dropBlock {t b} : (dropBlock s t b).Has I := h.cache

protected theorem State.Has.verifyBlock {ag a} : (verifyBlock s ag a).2.Has I := by
  unfold verifyBlock
  dsimp only
  split
  · exact h.verifyMemory
  · next t _ =>
    split
    · exact h.mcTile.verifyMemory.dropBlock.cache
    · split
      · exact (h.mcTile.check.caddyParity (by omega)).mcTile.verifyMemory.dropBlock.cache
      · split
        · exact h.mcTile.verifyMemory.dropBlock.cache
        · split
          · exact h.mcTile
          · split
            · exact h.mcTile.takeFree
            · exact h.mcTile.takeFree.verifyMemory.dropBlock.cache

omit h in
protected theorem State.Has.verifyAll {ag as} (h : s.Has I) : (verifyAll s ag as).2.Has I := by
  induction as generalizing s with
  | nil => exact h
  | cons a as ih => exact ih (by split; exacts [h, h.verifyBlock])

protected theorem State.Has.verifyRange {ag a n} : (verifyRange s ag a n).2.Has I := h.verifyAll

end

/-! ### Writes of memory -/

section
variable {I : State → Prop} [Written I] {s : State} (h : s.Has I)
include h

protected theorem State.Has.write {mem env errs} : State.Has { s with mem := mem, env := env, errs := errs } I := Written.write h

/-- A unit that passes no cache writes a block. -/
protected theorem State.Has.writeBlock {b bytes poison} : (writeBlock s .other b bytes poison).Has I := by
  unfold writeBlock writeThrough
  dsimp only
  split
  · exact h.write
  · exact h.write

protected theorem State.Has.writeCells {ws} : (writeCells s .other ws).Has I := h.foldl fun hu => hu.writeBlock

protected theorem State.Has.writeBytes {a bs poison} : (writeBytes s .other a bs poison).Has I := h.writeCells

protected theorem State.Has.writeStack {die off bs} : (writeStack s die off bs).Has I := h.foldl fun hu => hu.writeBlock

protected theorem State.Has.mergeAmax {id v} : (mergeAmax s id v).Has I :=
  h.ite (h.verifyOtherRange.ite h.verifyOtherRange.writeBytes)

protected theorem State.Has.copyKeys {k a n} : (copyKeys s k a n).Has I := by
  unfold copyKeys
  extract_lets v
  have hv : v.2.Has I := h.foldlSnd fun hu => hu.verifyKey
  exact hv.writeCells

protected theorem State.Has.copyBytes {src dst n} : (copyBytes s src dst n).Has I := h.verifyOtherRange.writeCells

protected theorem State.Has.mirrorRecord {die off pos} : (mirrorRecord s die off pos).Has I := h.copyKeys

protected theorem State.Has.mirrorPoison {die pos} : (mirrorPoison s die pos).Has I := h.writeBytes

end

/-! ### The infusers' walk and the capture -/

section
variable {I : State → Prop} [Walked I] {s : State} (h : s.Has I)
include h

protected theorem State.Has.setDie {die x} : (s.setDie die x).Has I := Walked.die h

/-- A register of the step or of the phases is written. -/
protected theorem State.Has.fsetStep {a : Nat} {f : Fld} {v : Nat} (ha : StepReg a := by simp) : (fset s a f v).Has I :=
  Walked.step ha h

protected theorem State.Has.faddStep {a : Nat} {f : Fld} {n : Nat} (ha : StepReg a := by simp) : (fadd s a f n).Has I := h.fsetStep ha

protected theorem State.Has.setCursor {die pos} : (setCursor s die pos).Has I := h.setDie.fset.fset

protected theorem State.Has.refreshBusy {die} : (refreshBusy s die).Has I := h.fset

protected theorem State.Has.uploadStage {die} : (uploadStage s die).Has I := h.emit

protected theorem State.Has.captureCheck : (captureCheck s).Has I :=
  (h.foldl fun hu => hu.setDie.refreshBusy.ite hu).use fun h1 => (h1.fsetStep.fsetStep.foldl fun hu => hu.uploadStage).ite h1

protected theorem State.Has.captureDie {n die} : (captureDie s n die).Has I :=
  h.writeBytes.copyKeys.copyBytes.setDie.setCursor.refreshBusy

protected theorem State.Has.captureStart {n outcome} : (captureStart s n outcome).Has I :=
  (h.fsetStep.fsetStep.ite (h.fsetStep.fsetStep.fsetStep.foldl fun hu => hu.captureDie).captureCheck).ite h

protected theorem State.Has.leaveRecords {die off entry n} : (leaveRecords s die off entry n).Has I :=
  (h.ite h.fset.fset.fset.fset).fadd

protected theorem State.Has.forwardRecord {die off pos left} : (forwardRecord s die off pos left).Has I :=
  (h.mirrorRecord.setCursor.use fun h1 => h1.ite h1.fadd.mcModule).ite h

protected theorem State.Has.walkRecord {die e y n start r} : (walkRecord die e y n start s r).Has I :=
  h.verifyStack.verifyStack.leaveRecords.forwardRecord.ite
    (h.verifyStack.verifyStack.forwardRecord.use fun h1 => (h1.fadd.ite h1.fadd.fadd.fset).use fun h2 =>
      h2.writeBlock.mergeAmax.mcModule.ite h2)

protected theorem State.Has.walkEntry {die n i} : (walkEntry die n s i).Has I :=
  State.Has.use (by split; exacts [h.entryBad, h.entryBad.verifyHyper]) fun h1 =>
    (h1.leaveRecords.foldl fun hu => hu.mirrorPoison.setCursor.ite hu).ite
      ((h1.foldl fun hu => hu.walkRecord).use fun h2 => h2.writeBlock.writeBlock.ite h2)

protected theorem State.Has.walkDie {die} : (walkDie s die).Has I := by
  unfold walkDie
  split
  · exact h.ite (h.setDie.foldl fun hu => hu.walkEntry).refreshBusy
  · exact h

protected theorem State.Has.walkDies : (walkDies s).Has I := (h.foldl fun hu => hu.walkDie).captureCheck

protected theorem State.Has.setUpdState {x} : (setUpdState s x).Has I := h.ite h.fsetStep.interrupt.post

protected theorem State.Has.dropRecord : (dropRecord s).Has I := h.faddStep.fsetStep.post

protected theorem State.Has.writeRecord {bytes} : (writeRecord s bytes).Has I := by
  unfold writeRecord
  refine h.dropRecord.ite ?_
  refine h.dropRecord.ite ?_
  split
  · exact h.waitLink
  · exact h.waitLink.ite h.writeBytes.fsetStep

end

/-- The infusers' walk for a step clears the mark that it is done, and walks (R277). -/
theorem State.Has.infuserWalk {I : State → Prop} [Walked I] {s : State} {n : Nat}
    (h : State.Has { s with stp := { s.stp with walkDone := false } } I) : (infuserWalk s n).Has I :=
  (h.foldl fun hu => hu.setDie.refreshBusy).walkDies

end Sys2Proof.Machine
end

section
/-! ISSUE of a descriptor that is accepted (R25, R466). -/

namespace Sys2Proof.Machine

/-- Verification leaves every sequencer. -/
theorem cached_seqs (x : List (Nat × Seq)) : Cached fun u => u.seqs = x where
  note h := h
  log _ h := h
  check h := h
  cache h := h

theorem verifyIssue_seqs (s : State) (c : CoreId) (queue a : Nat) (d : List Byte) : (verifyIssue s c queue a d).2.seqs = s.seqs := by
  have := cached_seqs s.seqs
  unfold verifyIssue
  split
  · rfl
  · exact State.Has.verifyAll (I := fun u => u.seqs = s.seqs) rfl

theorem verifyFormat_seqs (s : State) (id : Nat) : (verifyFormat s id).2.seqs = s.seqs := by
  have := cached_seqs s.seqs
  exact State.Has.verifyFormat (I := fun u => u.seqs = s.seqs) rfl

/-- A descriptor whose block is sound is read as memory holds it (R469). -/
theorem descRead_sound {s : State} {c : CoreId} {a : Nat} (h : descPoisoned s c a = none) (queue : Nat) :
    descRead s c queue a = readBytes s (.tile c.tile false) a 64 := by
  unfold descRead
  split
  · next hk => exact absurd (h.symm.trans hk) (by simp)
  · rfl

/-- A descriptor that passes every check is placed, with what was read at issue (R466). -/
theorem issueDesc_accepts {s : State} {c : CoreId} {queue : Nat} {scratch : Bool} {off : Nat} (halign : off % 64 = 0)
    (hsize : off + 64 ≤ spaceSize s c scratch) {d : List Byte} (hd : descRead s c queue (spaceBase c scratch + off) = d)
    {v : List (Nat × Nat) × State} (hv : verifyIssue s c queue (spaceBase c scratch + off) d = v) (hsound : v.1 = [])
    (hok : descOk v.2 c queue d = true) {f : List (Nat × Nat) × State} (hf : verifyFormat v.2 (descTensor queue d) = f)
    (hformat : f.1 = []) :
    issueDesc s c queue scratch off = enqueue f.2 c queue
      { desc := d, addr := spaceBase c scratch + off, pc := (s.seq c).pc, index := nthD 0 (s.seq c).issued queue
        format := formatRecord f.2 (descTensor queue d), done := false } := by
  have hseq : f.2.seq c = s.seq c := by
    rw [State.seq, State.seq, ← hf, verifyFormat_seqs, ← hv, verifyIssue_seqs]
  subst hd hv hf
  rw [issueDesc, if_neg (by omega), if_neg (by simp [hsound]), if_neg (by simp [hok]), if_neg (by simp [hformat]), hseq]

/-- Settles O7: each check passes in turn, and the verification leaves the sequencers. -/
theorem issuePlacesTheDescriptor : Obligations.IssuePlacesTheDescriptor := by
  intro s c queue space offset hruns hq halign hsize a d v hv hpoison hok hformat hlen
  have hissue : issueDesc s c queue.toNat space offset.toNat = _ :=
    issueDesc_accepts halign hsize (descRead_sound hpoison queue.toNat) rfl hv hok rfl hformat
  have hseq : (verifyFormat v.2 (descTensor queue.toNat d)).2.seq c = s.seq c := by
    rw [State.seq, State.seq, verifyFormat_seqs, verifyIssue_seqs]
  obtain ⟨t, ht, htc, -⟩ := enqueue_room (s := (verifyFormat v.2 (descTensor queue.toNat d)).2) (c := c) (queue := queue.toNat)
    (by rw [hseq]; exact hlen) { desc := d, addr := a, pc := (s.seq c).pc, index := nthD 0 (s.seq c).issued queue.toNat
                                 format := formatRecord (verifyFormat v.2 (descTensor queue.toNat d)).2 (descTensor queue.toNat d)
                                 done := false }
  rw [hseq] at htc
  refine ⟨t, _, ?_, htc, rfl, rfl, rfl, rfl, rfl⟩
  rw [exec_issue, execIssue, onCore_runs hruns, if_neg (Nat.not_le.2 hq), hissue]
  exact congrArg _ ht

end Sys2Proof.Machine
end

section
/-! The timebase unit: SYNC, loss and return of BEAT, slews, and the start and stop of the carousel (R34 to R42, R48, R468). -/

namespace Sys2Proof.Machine

/-! ### What notes of events leave -/

/-- At most registers, messages, alerts, the event log and snapshot triggers differ. -/
def NoteFrame (s u : State) : Prop := ∃ regs mgr waits msiPending alert out snaps, u = { s with
  regs := regs, mgr := mgr, pins := { s.pins with waits := waits, msiPending := msiPending, alert := alert }, out := out, snaps := snaps }

/-- Notes of events were taken: of the registers none but those of `LogReg` differ. -/
def Notes (s u : State) : Prop := NoteFrame s u ∧ ∀ a, ¬ LogReg a → u.reg a = s.reg a

theorem NoteFrame.refl (s : State) : NoteFrame s s := ⟨_, _, _, _, _, _, _, rfl⟩

theorem NoteFrame.setReg {s u : State} (h : NoteFrame s u) (a v : Nat) : NoteFrame s (u.setReg a v) := by
  obtain ⟨_, _, _, _, _, _, _, rfl⟩ := h
  exact ⟨_, _, _, _, _, _, _, rfl⟩

theorem NoteFrame.fset {s u : State} (h : NoteFrame s u) (a : Nat) (f : Fld) (v : Nat) : NoteFrame s (fset u a f v) := h.setReg a _

theorem NoteFrame.trans {s u v : State} (h : NoteFrame s u) (h' : NoteFrame u v) : NoteFrame s v := by
  obtain ⟨_, _, _, _, _, _, _, rfl⟩ := h
  obtain ⟨_, _, _, _, _, _, _, rfl⟩ := h'
  exact ⟨_, _, _, _, _, _, _, rfl⟩

theorem NoteFrame.keepsMemory {s u : State} (h : NoteFrame s u) : KeepsMemory s u := by
  obtain ⟨_, _, _, _, _, _, _, rfl⟩ := h
  exact ⟨rfl, rfl, rfl⟩

theorem NoteFrame.keepsUnits {s u : State} (h : NoteFrame s u) : KeepsUnits s u := by
  obtain ⟨_, _, _, _, _, _, _, rfl⟩ := h
  exact ⟨rfl, rfl, rfl, rfl, rfl, rfl⟩

theorem NoteFrame.keepsJob {s u : State} (h : NoteFrame s u) : KeepsJob s u := by
  obtain ⟨_, _, _, _, _, _, _, rfl⟩ := h
  exact ⟨rfl, rfl, rfl, rfl⟩

theorem NoteFrame.beat {s u : State} (h : NoteFrame s u) : u.beat = s.beat := by
  obtain ⟨_, _, _, _, _, _, _, rfl⟩ := h
  rfl

theorem NoteFrame.beatPresent {s u : State} (h : NoteFrame s u) : u.pins.beatPresent = s.pins.beatPresent := by
  obtain ⟨_, _, _, _, _, _, _, rfl⟩ := h
  rfl

theorem noted_notes (s : State) : Noted (Notes s) where
  note := by
    rintro u _ _ _ _ _ _ ⟨⟨_, _, _, _, _, _, _, rfl⟩, hreg⟩
    exact ⟨⟨_, _, _, _, _, _, _, rfl⟩, hreg⟩
  log := by
    rintro u a v ha ⟨hframe, hreg⟩
    exact ⟨hframe.setReg a v, fun b hb => (reg_setReg_ne u v fun e : b = a => hb (e ▸ ha)).trans (hreg b hb)⟩

theorem notes_post (s : State) (k : EventKind) (unit data : Nat) : Notes s (post s k unit data) := by
  have := noted_notes s
  exact State.Has.post (I := Notes s) ⟨.refl s, fun _ _ => rfl⟩

/-- Registers of the timebase unit are none in which events are noted. -/
theorem not_logReg_of_timebase {a : Nat} (hlo : 0x903000 ≤ a) (hhi : a < 0x904000) : ¬ LogReg a := by
  unfold LogReg
  omega

theorem not_logReg_tbuStatus : ¬ LogReg TBU_STATUS := not_logReg_of_timebase (by unfold TBU_STATUS; omega) (by unfold TBU_STATUS; omega)

theorem not_logReg_tbuCtl : ¬ LogReg TBU_CTL := not_logReg_of_timebase (by unfold TBU_CTL; omega) (by unfold TBU_CTL; omega)

theorem not_logReg_tbuRestart : ¬ LogReg TBU_RESTART :=
  not_logReg_of_timebase (by unfold TBU_RESTART; omega) (by unfold TBU_RESTART; omega)

theorem fbit_congr {s t : State} {a : Nat} (h : t.reg a = s.reg a) (f : Fld) : fbit t a f = fbit s a f := by
  rw [fbit, fbit, fget_congr h]

/-! ### Holdover -/

/-- The counter returns to BEAT: HOLDOVER is clear, and of the timebase unit's registers nothing else changes (R37). -/
theorem leaveHoldover_spec (s : State) :
    fbit (leaveHoldover s) TBU_STATUS f_TBU_STATUS_HOLDOVER = false ∧
      (∀ f : Fld, 2 ≤ f.lo → fget (leaveHoldover s) TBU_STATUS f = fget s TBU_STATUS f) ∧
      (∀ a, ¬ LogReg a → a ≠ TBU_STATUS → (leaveHoldover s).reg a = s.reg a) ∧ NoteFrame s (leaveHoldover s) := by
  unfold leaveHoldover
  split
  · obtain ⟨hframe, hreg⟩ := notes_post (fset s TBU_STATUS f_TBU_STATUS_HOLDOVER 0) .holdoverLeft 0 s.now
    have hstatus := hreg TBU_STATUS not_logReg_tbuStatus
    exact ⟨(fbit_congr hstatus _).trans (fbit_fset_zero s _ _ (by decide)),
      fun f hf => (fget_congr hstatus f).trans (fget_fset_other s _ _ (by decide) (.inr hf)),
      fun a ha hne => (hreg a ha).trans (reg_fset_ne s _ _ hne), (NoteFrame.refl s).fset _ _ _ |>.trans hframe⟩
  · next h => exact ⟨eq_false_of_ne_true h, fun _ _ => rfl, fun _ _ _ => rfl, .refl s⟩

/-- The counter runs on in holdover: HOLDOVER is set, and of the timebase unit's registers nothing else changes (R37). -/
theorem enterHoldover_spec (s : State) :
    fbit (enterHoldover s) TBU_STATUS f_TBU_STATUS_HOLDOVER = true ∧
      fbit (enterHoldover s) TBU_STATUS f_TBU_STATUS_BEAT_OK = fbit s TBU_STATUS f_TBU_STATUS_BEAT_OK ∧
      (∀ a, ¬ LogReg a → a ≠ TBU_STATUS → (enterHoldover s).reg a = s.reg a) ∧ NoteFrame s (enterHoldover s) := by
  unfold enterHoldover
  split
  · next h => exact ⟨h, rfl, fun _ _ _ => rfl, .refl s⟩
  · obtain ⟨hframe, hreg⟩ := notes_post (fset s TBU_STATUS f_TBU_STATUS_HOLDOVER 1) .holdoverEntered 0 s.now
    have hstatus := hreg TBU_STATUS not_logReg_tbuStatus
    exact ⟨(fbit_congr hstatus _).trans (fbit_fset_one s _ _ (by decide)),
      (fbit_congr hstatus _).trans (fbit_fset_other s _ _ (by decide) (by decide)),
      fun a ha hne => (hreg a ha).trans (reg_fset_ne s _ _ hne), (NoteFrame.refl s).fset _ _ _ |>.trans hframe⟩

/-! ### SYNC -/

theorem mapGet_map {α : Type} {d : α} {f : α → α} (hf : f d = d) (m : List (Nat × α)) (i : Nat) :
    mapGet d (m.map fun p => (p.1, f p.2)) i = f (mapGet d m i) := by
  induction m with
  | nil => exact hf.symm
  | cons p m ih =>
    simp only [List.map_cons, mapGet]
    split
    · rfl
    · exact ih

/-- What ended on a tile ended in an earlier beat. -/
theorem endsPass_tile (s : State) (k : TileId) :
    (endsPass s).tile k = { s.tile k with endBeat := min (s.tile k).endBeat s.now } :=
  mapGet_map (f := fun x : Tile => { x with endBeat := min x.endBeat s.now }) (by simp [Tile.empty]) s.tiles k.val

theorem exec_syncArm (r : Requester) (s : State) : exec (.syncArm r) s = execSyncArm r s := rfl

theorem now_setBeat {s : State} {n : Nat} (h : n < 2 ^ 64) : (setBeat s n).now = n := by
  simpa [State.now, setBeat] using h

/-- The state that a SYNC load leaves, but for holdover. -/
def syncLoaded (s : State) : State :=
  { fset (fset (setBeat s (s.reg TBU_SYNC_VALUE)) TBU_CTL f_TBU_CTL_SYNC_ARM 0) TBU_STATUS f_TBU_STATUS_SYNC_SEEN 1 with
    syncBase := some (s.reg TBU_SYNC_VALUE) }

/-- SYNC with BEAT present, armed and idle: a load (R35). -/
theorem execSync_load {s : State} (hbeat : s.pins.beatPresent = true) (harm : fbit s TBU_CTL f_TBU_CTL_SYNC_ARM = true)
    (hidle : s.car.running = false) : execSync s = .next (leaveHoldover (endsPass (syncLoaded s))) := by
  rw [execSync, if_neg (by simp [hbeat]), if_pos (by simp [harm, hidle])]
  rfl

/-- SYNC with BEAT present, not armed, out of holdover: nothing before the first load, then a check against the period (R36). -/
theorem execSync_check {s : State} (hbeat : s.pins.beatPresent = true) (harm : fbit s TBU_CTL f_TBU_CTL_SYNC_ARM = false)
    (hlocked : fbit s TBU_STATUS f_TBU_STATUS_HOLDOVER = false) :
    (s.syncBase = none → execSync s = .next s) ∧ ∀ b, s.syncBase = some b →
      execSync s = .next (if faddr s TBU_SYNC_PERIOD f_TBU_SYNC_PERIOD_PERIOD ≠ 0 ∧
        ((s.now : Int) - b) % faddr s TBU_SYNC_PERIOD f_TBU_SYNC_PERIOD_PERIOD ≠ 0 then syncSlip s else s) := by
  have hleave : (if fbit s TBU_CTL f_TBU_CTL_RELOCK_AT_SYNC then leaveHoldover s else s) = s := by
    rw [leaveHoldover, if_neg (ne_true_of_eq_false hlocked), ite_self]
  refine ⟨fun hb => ?_, fun b hb => ?_⟩ <;>
    simp only [execSync, hbeat, harm, hleave, hb, Bool.not_true, Bool.false_and, Bool.false_eq_true, if_false]

/-- A slip sets SYNC_SLIP, counts itself, and changes nothing else but notes of the event (R36). -/
theorem syncSlip_spec (s : State) :
    fbit (syncSlip s) TBU_STATUS f_TBU_STATUS_SYNC_SLIP = true ∧
      fget (syncSlip s) TBU_STATUS f_TBU_STATUS_SLIP_COUNT = min 0xFFFF (fget s TBU_STATUS f_TBU_STATUS_SLIP_COUNT + 1) ∧
      NoteFrame s (syncSlip s) := by
  let u := fset s TBU_STATUS f_TBU_STATUS_SYNC_SLIP 1
  let v := fadd u TBU_STATUS f_TBU_STATUS_SLIP_COUNT 1
  obtain ⟨hframe, hreg⟩ := notes_post v .syncSlip 0 u.now
  have hstatus := hreg TBU_STATUS not_logReg_tbuStatus
  refine ⟨(fbit_congr hstatus _).trans ?_, (fget_congr hstatus _).trans ?_, ((NoteFrame.refl s).fset _ _ _).fset _ _ _ |>.trans hframe⟩
  · exact (fbit_fset_other u TBU_STATUS _ (by decide) (by decide)).trans (fbit_fset_one s _ _ (by decide))
  · have hcount : fget u TBU_STATUS f_TBU_STATUS_SLIP_COUNT = fget s TBU_STATUS f_TBU_STATUS_SLIP_COUNT :=
      fget_fset_other s TBU_STATUS _ (by decide) (by decide)
    refine (fget_fset_same u TBU_STATUS f_TBU_STATUS_SLIP_COUNT _ (by decide)).trans ?_
    rw [hcount]
    exact Nat.mod_eq_of_lt (Nat.lt_of_le_of_lt (Nat.min_le_left _ _) (by decide))

/-- Settles O14: the arm and the load by what they write, the check by its two outcomes. -/
theorem syncLoadsTheBeatCounter : Obligations.SyncLoadsTheBeatCounter := by
  intro s
  refine ⟨fun r hr => ?_, fun hbeat harm hidle => ?_, fun hbeat harm hlocked => ⟨fun hb => ?_, fun b hb => ⟨fun hon => ?_, fun hp hoff => ?_⟩⟩⟩
  · rw [exec_syncArm, execSyncArm, guardedWrite_allowed hr]
  · have hnow : (syncLoaded s).now = s.reg TBU_SYNC_VALUE := now_setBeat (s := s) (reg_lt s _)
    obtain ⟨hhold, hfields, hreg, hframe⟩ := leaveHoldover_spec (endsPass (syncLoaded s))
    have hnow' : (leaveHoldover (endsPass (syncLoaded s))).now = s.reg TBU_SYNC_VALUE :=
      (congrArg BitVec.toNat hframe.beat).trans hnow
    obtain ⟨hseqs, htiles, hslices, hpools, hmoves, hchans⟩ := hframe.keepsUnits
    refine ⟨_, execSync_load hbeat harm hidle, hnow', ?_, ?_, hhold, fun k => ?_, hframe.keepsMemory,
      ⟨hseqs, rfl, hslices, hpools, hmoves, hchans⟩, hframe.keepsJob⟩
    · refine (fbit_congr (hreg TBU_CTL not_logReg_tbuCtl (by decide)) _).trans ?_
      exact (fbit_fset_ne _ _ _ _ (by decide)).trans (fbit_fset_zero _ _ _ (by decide))
    · have hseen := fbit_fset_one (fset (setBeat s (s.reg TBU_SYNC_VALUE)) TBU_CTL f_TBU_CTL_SYNC_ARM 0) TBU_STATUS 2 (by decide)
      rw [fbit, hfields _ (by decide)]
      exact hseen
    · rw [State.tile, htiles, hnow', ← hnow]
      exact endsPass_tile (syncLoaded s) k
  · exact (execSync_check hbeat harm hlocked).1 hb
  · exact ((execSync_check hbeat harm hlocked).2 b hb).trans (congrArg _ (if_neg (by tauto)))
  · obtain ⟨hslip, hcount, hframe⟩ := syncSlip_spec s
    exact ⟨_, ((execSync_check hbeat harm hlocked).2 b hb).trans (congrArg _ (if_pos ⟨hp, hoff⟩)), hframe.beat, hslip, hcount,
      hframe.keepsMemory, hframe.keepsUnits, hframe.keepsJob⟩

/-! ### Loss and return of BEAT -/

theorem reg_setCar (s : State) (c : Carousel) (a : Nat) : State.reg { s with car := c } a = s.reg a := reg_congr rfl a

theorem held_setCar (s : State) (c : Carousel) : held { s with car := c } = held s := fbit_congr (reg_setCar s c _) _

/-- A hold writes HELD and HOLD_REQ, and notes its beat (R328). -/
theorem hold_eq (s : State) :
    ∃ c, hold s = { fset (fset s TBU_RESTART f_TBU_RESTART_HELD 1) TBU_RESTART f_TBU_RESTART_HOLD_REQ 0 with car := c } := ⟨_, rfl⟩

theorem held_hold (s : State) : held (hold s) = true := by
  obtain ⟨c, hc⟩ := hold_eq s
  rw [hc, held_setCar, held, fbit_fset_other _ _ _ (by decide) (by decide)]
  exact fbit_fset_one s _ _ (by decide)

theorem reg_hold {s : State} {a : Nat} (h : a ≠ TBU_RESTART) : (hold s).reg a = s.reg a := by
  obtain ⟨c, hc⟩ := hold_eq s
  rw [hc, reg_setCar, reg_fset_ne _ _ _ h, reg_fset_ne _ _ _ h]

/-- The carousel is held, for loss of BEAT (R38). -/
def beatHold (s : State) : State :=
  let u := if held s then s else hold s
  { u with car := { u.car with beatHold := true } }

theorem held_beatHold (s : State) : held (beatHold s) = true := by
  rw [beatHold, held_setCar]
  split
  · next h => exact h
  · exact held_hold s

theorem reg_beatHold {s : State} {a : Nat} (h : a ≠ TBU_RESTART) : (beatHold s).reg a = s.reg a := by
  rw [beatHold, reg_setCar]
  split
  · rfl
  · exact reg_hold h

/-- A hold changes registers and, of the carousel, the beat it notes. -/
theorem hold_frame (s : State) : ∃ regs since, hold s = { s with regs := regs, car := { s.car with heldSince := since } } := by
  have hc : ∃ since, hold s = { fset (fset s TBU_RESTART f_TBU_RESTART_HELD 1) TBU_RESTART f_TBU_RESTART_HOLD_REQ 0 with
      car := { s.car with heldSince := since } } := by
    rw [hold]
    simp only [fset_car]
    exact ⟨_, rfl⟩
  obtain ⟨since, hc⟩ := hc
  obtain ⟨regs, hregs⟩ := ((OnlyRegs.refl s).fset (a := TBU_RESTART) (f := f_TBU_RESTART_HELD) (v := 1)).fset
    (a := TBU_RESTART) (f := f_TBU_RESTART_HOLD_REQ) (v := 0)
  rw [hc, hregs]
  exact ⟨regs, since, rfl⟩

theorem beatHold_frame (s : State) : ∃ regs c, beatHold s = { s with regs := regs, car := c } := by
  have hu : ∃ regs c, (if held s then s else hold s) = { s with regs := regs, car := c } := by
    split
    · exact ⟨s.regs, s.car, rfl⟩
    · obtain ⟨regs, since, h⟩ := hold_frame s
      exact ⟨regs, _, h⟩
  unfold beatHold
  obtain ⟨regs, c, hu⟩ := hu
  rw [hu]
  exact ⟨regs, _, rfl⟩

/-- BEAT is absent, and BEAT_OK says so. -/
def beatGone (s : State) : State := fset { s with pins := { s.pins with beatPresent := false } } TBU_STATUS f_TBU_STATUS_BEAT_OK 0

theorem reg_beatGone {s : State} {a : Nat} (h : a ≠ TBU_STATUS) : (beatGone s).reg a = s.reg a :=
  (reg_fset_ne _ _ _ h).trans (reg_congr rfl a)

theorem execBeatLoss_eq {s : State} (hbeat : s.pins.beatPresent = true) :
    execBeatLoss s = .next (if !fbit (markPhases (enterHoldover (beatGone s)) 0) TBU_CTL f_TBU_CTL_HOLDOVER_EN &&
      (markPhases (enterHoldover (beatGone s)) 0).car.running then beatHold (markPhases (enterHoldover (beatGone s)) 0)
      else markPhases (enterHoldover (beatGone s)) 0) := by
  rw [execBeatLoss, if_neg (by simp [hbeat]), apply_ite Host.Outcome.next]
  rfl

/-- What the loss of BEAT leaves, but for a hold: BEAT_OK and HOLDOVER are told, and the carousel runs as before. -/
theorem beatLost_spec {s t : State} (ht : markPhases (enterHoldover (beatGone s)) 0 = t) :
    fbit t TBU_STATUS f_TBU_STATUS_BEAT_OK = false ∧ fbit t TBU_STATUS f_TBU_STATUS_HOLDOVER = true ∧
      (∀ a, ¬ LogReg a → a ≠ TBU_STATUS → t.reg a = s.reg a) ∧ t.car.running = s.car.running ∧
      t.pins.beatPresent = false ∧ t.beat = s.beat ∧ KeepsMemory s t ∧ KeepsUnits s t := by
  have hgone : fbit (beatGone s) TBU_STATUS f_TBU_STATUS_BEAT_OK = false := fbit_fset_zero _ _ _ (by decide)
  have hreg0 (a : Nat) (ha : a ≠ TBU_STATUS) : (beatGone s).reg a = s.reg a := reg_beatGone ha
  obtain ⟨hhold, hok, hreg, hframe⟩ := enterHoldover_spec (beatGone s)
  have hregs (a : Nat) : t.reg a = (enterHoldover (beatGone s)).reg a := ht ▸ reg_setCar _ _ a
  have hrun : t.car.running = (enterHoldover (beatGone s)).car.running := ht ▸ rfl
  obtain ⟨hm1, hm2, hm3⟩ := hframe.keepsMemory
  refine ⟨(fbit_congr (hregs _) _).trans (hok.trans hgone), (fbit_congr (hregs _) _).trans hhold,
    fun a ha hne => (hregs a).trans ((hreg a ha hne).trans (hreg0 a hne)),
    hrun.trans (congrArg Carousel.running hframe.keepsJob.2.1), ?_⟩
  obtain ⟨_, _, _, _, _, _, _, hu⟩ := hframe
  rw [← ht, hu]
  exact ⟨rfl, rfl, ⟨rfl, rfl, rfl⟩, ⟨rfl, rfl, rfl, rfl, rfl, rfl⟩⟩

/-- Settles O15: the loss by what it tells in TBU_STATUS and by the hold of a running carousel, the return by the one bit it sets. -/
theorem beatLossHoldsOrRunsOn : Obligations.BeatLossHoldsOrRunsOn := by
  intro s
  refine ⟨fun hbeat => ⟨_, execBeatLoss_eq hbeat, ?_⟩, _, rfl, rfl, fbit_fset_one _ _ _ (by decide),
    (fget_fset_other _ _ _ (by decide) (by decide)).trans (fget_congr (reg_congr rfl _) _), fun a ha => ?_,
    ⟨rfl, rfl, rfl⟩, ⟨rfl, rfl, rfl, rfl, rfl, rfl⟩, ⟨rfl, rfl, rfl, rfl⟩⟩
  · generalize ht : markPhases (enterHoldover (beatGone s)) 0 = t
    obtain ⟨hok, hover, hreg, hrun, hpin, hb, hmem, hunits⟩ := beatLost_spec ht
    have hen : fbit t TBU_CTL f_TBU_CTL_HOLDOVER_EN = fbit s TBU_CTL f_TBU_CTL_HOLDOVER_EN :=
      fbit_congr (hreg _ not_logReg_tbuCtl (by decide)) _
    have hheld : held t = held s := fbit_congr (hreg _ not_logReg_tbuRestart (by decide)) _
    rw [hen, hrun]
    split
    · next h =>
      obtain ⟨hen0, hr⟩ : fbit s TBU_CTL f_TBU_CTL_HOLDOVER_EN = false ∧ s.car.running = true := by simpa using h
      have hstatus : (beatHold t).reg TBU_STATUS = t.reg TBU_STATUS := reg_beatHold (by decide)
      refine ⟨?_, (fbit_congr hstatus _).trans hok, (fbit_congr hstatus _).trans hover, fun _ _ => ?_, fun _ _ => ⟨held_beatHold t, ?_⟩, ?_⟩
      · obtain ⟨_, _, hu⟩ := beatHold_frame t
        rw [hu]
        exact hpin
      · rw [held_beatHold, hen0]
        rfl
      · rfl
      · obtain ⟨_, _, hu⟩ := beatHold_frame t
        rw [hu]
        exact ⟨hb, hmem, hunits⟩
    · next h =>
      refine ⟨hpin, hok, hover, fun hr hn => ?_, fun hr hen0 => absurd (by simp [hr, hen0]) h, hb, hmem, hunits⟩
      rw [hheld, hn]
      simpa [hr] using h
  · exact (reg_fset_ne _ _ _ (by simpa using ha)).trans (reg_congr rfl a)

end Sys2Proof.Machine
end

section
/-! The start and the stop of the carousel, and the declarations of envelopes (R42, R48, R468). -/

namespace Sys2Proof.Machine

theorem exec_carouselStop (r : Requester) (s : State) : exec (.carouselStop r) s = execCarouselStop r s := rfl

theorem exec_envelopeDeclare (phase : BitVec 12) (s : State) : exec (.envelopeDeclare phase) s = execEnvelopeDeclare phase s := rfl

/-! ### CAROUSEL_START -/

/-- A tile that takes its first phase of step n next. -/
def soughtTile (es : List PhaseEntry) (n : Nat) (t : TileId) (x : Tile) : Tile :=
  { x with nextStep := (nextFrom es t n 0).1, nextPhase := (nextFrom es t n 0).2, active := false, reported := [] }

/-- A fold that gives each tile of a list of different ones a new value touches the tiles alone. -/
theorem foldl_setTile_spec (g : List PhaseEntry → TileId → Tile → Tile) (l : List TileId) (hl : l.Nodup) (s : State) :
    ∃ ts, l.foldl (fun s t => s.setTile t (g s.car.entries t (s.tile t))) s = { s with tiles := ts } ∧
      ∀ k : TileId, (mapGet Tile.empty ts k.val : Tile) = if k ∈ l then g s.car.entries k (s.tile k) else s.tile k := by
  induction l generalizing s with
  | nil => exact ⟨s.tiles, rfl, fun k => rfl⟩
  | cons t l ih =>
    obtain ⟨htl, hl⟩ := List.nodup_cons.1 hl
    obtain ⟨ts, he, htile⟩ := ih hl (s.setTile t (g s.car.entries t (s.tile t)))
    refine ⟨ts, he, fun k => (htile k).trans ?_⟩
    by_cases hk : k = t
    · subst hk
      simp [htl]
    · simp only [List.mem_cons, hk, false_or, tile_setTile_ne s _ hk]
      rfl

theorem seekStep_spec (s : State) (n : Nat) :
    ∃ ts, seekStep s n = { s with tiles := ts } ∧
      ∀ k : TileId, (mapGet Tile.empty ts k.val : Tile) = soughtTile s.car.entries n k (s.tile k) := by
  obtain ⟨ts, hs, ht⟩ := foldl_setTile_spec (fun es t x => soughtTile es n t x) _ (List.nodup_finRange 48) s
  exact ⟨ts, hs, fun k => (ht k).trans (if_pos (List.mem_finRange k))⟩

/-- The registers that tell that the carousel runs: CAROUSEL_RUN, CAROUSEL_IDLE and the module's state. -/
def toldRunning (s : State) : State :=
  fset (fset (fset s TBU_CTL f_TBU_CTL_CAROUSEL_RUN 1) TBU_STATUS f_TBU_STATUS_CAROUSEL_IDLE 0) PWR_STATE f_PWR_STATE_STATE 3

/-- The carousel runs from step n. -/
def carouselOn (s : State) (n : Nat) : State :=
  { s with car := { s.car with running := true, stopping := false, startStep := some n, declared := [] }
           pwr := { s.pwr with floorOff := false } }

theorem toldRunning_spec (s : State) :
    fbit (toldRunning s) TBU_CTL f_TBU_CTL_CAROUSEL_RUN = true ∧ fbit (toldRunning s) TBU_STATUS f_TBU_STATUS_CAROUSEL_IDLE = false ∧
      fget (toldRunning s) PWR_STATE f_PWR_STATE_STATE = 3 ∧ KeepsRegsBut [TBU_CTL, TBU_STATUS, PWR_STATE] s (toldRunning s) ∧
      OnlyRegs s (toldRunning s) := by
  unfold toldRunning
  refine ⟨?_, ?_, fget_fset_same _ _ f_PWR_STATE_STATE 3 (by decide), fun a ha => ?_, (((OnlyRegs.refl s).fset).fset).fset⟩
  · rw [fbit_fset_ne _ _ _ _ (by decide), fbit_fset_ne _ _ _ _ (by decide)]
    exact fbit_fset_one _ _ _ (by decide)
  · rw [fbit_fset_ne _ _ _ _ (by decide)]
    exact fbit_fset_zero _ _ _ (by decide)
  · simp only [List.mem_cons, List.not_mem_nil, or_false, not_or] at ha
    rw [reg_fset_ne _ _ _ ha.2.2, reg_fset_ne _ _ _ ha.2.1, reg_fset_ne _ _ _ ha.1]

/-- CAROUSEL_START's three outcomes: no period, a carousel that runs, and an idle one of a ready module (R42, R468). -/
theorem execCarouselStart_eq {s : State} {r : Requester} (hr : mayWrite s r (some grpTimebase) = true) :
    (stepPeriod s = 0 → execCarouselStart r s = .next (fset s TBU_STATUS f_TBU_STATUS_PERIOD_ERR 1)) ∧
      (stepPeriod s ≠ 0 → s.car.running = true → execCarouselStart r s =
        .next (fset { s with car := { s.car with stopping := false } } TBU_CTL f_TBU_CTL_CAROUSEL_RUN 1)) ∧
      (stepPeriod s ≠ 0 → s.car.running = false → fget s PWR_STATE f_PWR_STATE_STATE = 2 →
        let n := fget s TBU_RESTART f_TBU_RESTART_STEP
        execCarouselStart r s = .next (settle (seekStep (newRun (carouselOn (toldRunning s) n) n) n))) := by
  refine ⟨fun hp => ?_, fun hp hrun => ?_, fun hp hrun hst => ?_⟩ <;> rw [execCarouselStart, guardedWrite_allowed hr]
  · rw [if_pos hp]
  · rw [if_neg hp, if_pos hrun]
  · rw [if_neg hp, if_neg (by simp [hrun]), if_neg (by simp [hst])]
    rfl

/-- What an idle carousel becomes when it starts with no stopped tile, for the state whose registers already tell it. -/
theorem startRun_spec (s : State) (n : Nat) (hup : ∀ k : TileId, (s.tile k).stopped = false) :
    ∃ t, settle (seekStep (newRun (carouselOn s n) n) n) = t ∧ t.car.running = true ∧ t.car.startStep = some n ∧
      (∀ v, t.stp.verdict = some v → v.1 < n) ∧ (∀ v, t.stp.sent = some v → v.1 < n) ∧
      (∀ k, t.tile k = soughtTile s.car.entries n k (s.tile k)) ∧ KeepsRegsBut [INF_STATUS] s t ∧ KeepsMemory s t ∧
      t.seqs = s.seqs := by
  obtain ⟨stp, regs, hnew, -, -, hverdict, hsent, hreg⟩ := newRun_spec (carouselOn s n) n
  obtain ⟨ts, hseek, htile⟩ := seekStep_spec (newRun (carouselOn s n) n) n
  rw [hnew] at hseek htile hreg
  rw [hnew, hseek, settle_of_running fun k => by rw [State.tile, htile k]; exact hup k]
  exact ⟨_, rfl, rfl, rfl, hverdict, hsent, htile, hreg, ⟨rfl, rfl, rfl⟩, rfl⟩

/-! ### CAROUSEL_STOP -/

/-- An idle carousel is told, does not run, and leaves memory and units (R468). -/
theorem idleNow_spec (s : State) : (idleNow s).car.running = false ∧ fbit (idleNow s) TBU_STATUS f_TBU_STATUS_CAROUSEL_IDLE = true ∧
    fbit (idleNow s) TBU_CTL f_TBU_CTL_CAROUSEL_RUN = false ∧ KeepsMemory s (idleNow s) ∧ KeepsUnits s (idleNow s) := by
  let c : Carousel := { s.car with running := false, stopping := false, records := [], declared := [], beatHold := false }
  let p : Power := { s.pwr with envelopes := [] }
  let u := fset (fset (fset { s with car := c, pwr := p } TBU_STATUS f_TBU_STATUS_CAROUSEL_IDLE 1) TBU_CTL f_TBU_CTL_CAROUSEL_RUN 0)
    TBU_RESTART f_TBU_RESTART_HELD 0
  have hu : idleNow s = if fget u PWR_STATE f_PWR_STATE_STATE = 3 then fset u PWR_STATE f_PWR_STATE_STATE 2 else u := rfl
  have hframe : OnlyRegs { s with car := c, pwr := p } (idleNow s) := by
    rw [hu]
    split
    · exact (OnlyRegs.refl _).fset.fset.fset.fset
    · exact (OnlyRegs.refl _).fset.fset.fset
  have hreg (a : Nat) (ha : a ≠ PWR_STATE) : (idleNow s).reg a = u.reg a := by
    rw [hu]
    split
    · exact reg_fset_ne _ _ _ ha
    · rfl
  have hidle : fbit u TBU_STATUS f_TBU_STATUS_CAROUSEL_IDLE = true :=
    (fbit_fset_ne _ _ _ _ (by decide)).trans ((fbit_fset_ne _ _ _ _ (by decide)).trans (fbit_fset_one _ _ _ (by decide)))
  have hctl : fbit u TBU_CTL f_TBU_CTL_CAROUSEL_RUN = false :=
    (fbit_fset_ne _ _ _ _ (by decide)).trans (fbit_fset_zero _ _ _ (by decide))
  have hrest : (idleNow s).car.running = false ∧ KeepsMemory s (idleNow s) ∧ KeepsUnits s (idleNow s) := by
    obtain ⟨regs, hregs⟩ := hframe
    rw [hregs]
    exact ⟨rfl, ⟨rfl, rfl, rfl⟩, ⟨rfl, rfl, rfl, rfl, rfl, rfl⟩⟩
  exact ⟨hrest.1, (fbit_congr (hreg _ (by decide)) _).trans hidle, (fbit_congr (hreg _ (by decide)) _).trans hctl, hrest.2⟩

/-- CAROUSEL_STOP of a running carousel. -/
theorem execCarouselStop_eq {s : State} {r : Requester} (hr : mayWrite s r (some grpTimebase) = true) (hrun : s.car.running = true) :
    execCarouselStop r s = .next (stopCheck (fset { s with car := { s.car with stopping := true } } TBU_CTL f_TBU_CTL_CAROUSEL_RUN 0)) := by
  rw [execCarouselStop, guardedWrite_allowed hr, if_pos hrun]

theorem stopCheck_waits {s : State} {k : TileId} (h : (s.tile k).active = true) : stopCheck s = s :=
  if_neg (by simpa using fun _ => ⟨k, h⟩)

theorem stopCheck_idles {s : State} (hstop : s.car.stopping = true) (h : ∀ k : TileId, (s.tile k).active = false) :
    stopCheck s = idleNow s := if_pos (by simp [hstop, h])

/-- Settles O17: the outcomes of the three commands, the start's by the new run's step controller and the tiles' places. -/
theorem theCarouselStartsAndStops : Obligations.TheCarouselStartsAndStops := by
  intro s r
  refine ⟨fun hr => ?_, fun hr hrun => ?_, fun phase e he hrun hheld hlead => ?_⟩
  · obtain ⟨hnone, hon, hidle⟩ := execCarouselStart_eq hr
    refine ⟨hnone, hon, fun hp hrun hst hup => ⟨_, hidle hp hrun hst, ?_⟩⟩
    obtain ⟨hctl, hidle, hst, hreg, regs, hregs⟩ := toldRunning_spec s
    have hup' (k : TileId) : ((toldRunning s).tile k).stopped = false := by rw [hregs]; exact hup k
    obtain ⟨t, ht, hruns, hstart, hverdict, hsent, htile, hreg', ⟨hm, he, herr⟩, hseqs⟩ :=
      startRun_spec (toldRunning s) (fget s TBU_RESTART f_TBU_RESTART_STEP) hup'
    have htold (a : Nat) (ha : a ≠ INF_STATUS) := hreg' a (by simpa using ha)
    have htiles (k : TileId) : t.tile k = soughtTile s.car.entries (fget s TBU_RESTART f_TBU_RESTART_STEP) k (s.tile k) := by
      rw [htile k, hregs]
      rfl
    rw [ht]
    refine ⟨hruns, hstart, hverdict, hsent, (fbit_congr (htold _ (by decide)) _).trans hctl, (fbit_congr (htold _ (by decide)) _).trans hidle,
      (fget_congr (htold _ (by decide)) _).trans hst, fun k => ?_, fun a ha => ?_, ⟨hm.trans ?_, he.trans ?_, herr.trans ?_⟩, hseqs.trans ?_⟩
    · rw [htiles k]
      exact ⟨rfl, rfl⟩
    · simp only [List.mem_cons, List.not_mem_nil, or_false, not_or] at ha
      exact (htold a ha.2.2.2).trans (hreg a (by simp [ha]))
    all_goals rw [hregs]
  · rw [exec_carouselStop, execCarouselStop_eq hr hrun]
    refine ⟨_, rfl, ?_⟩
    generalize hu : fset { s with car := { s.car with stopping := true } } TBU_CTL f_TBU_CTL_CAROUSEL_RUN 0 = u
    have hcar : u.car = { s.car with stopping := true } := hu ▸ rfl
    have htile (k : TileId) : u.tile k = s.tile k := hu ▸ rfl
    have hctl : fbit u TBU_CTL f_TBU_CTL_CAROUSEL_RUN = false := hu ▸ fbit_fset_zero _ _ _ (by decide)
    have hreg : KeepsRegsBut [TBU_CTL] s u := fun a ha => hu ▸ (reg_fset_ne _ _ _ (by simpa using ha)).trans (reg_congr rfl a)
    have hmem : KeepsMemory s u := hu ▸ ⟨rfl, rfl, rfl⟩
    have hunits : KeepsUnits s u := hu ▸ ⟨rfl, rfl, rfl, rfl, rfl, rfl⟩
    clear hu
    by_cases hact : ∃ k, (s.tile k).active = true
    · obtain ⟨k, hk⟩ := hact
      rw [stopCheck_waits (k := k) (by rw [htile, hk])]
      exact ⟨hctl, fun _ => ⟨hcar, hreg⟩, fun h => absurd hk (by simp [h k]), hmem, hunits⟩
    · have hquiet : ∀ k, (s.tile k).active = false := by simpa using hact
      obtain ⟨hrun', hidle, hctl', ⟨hm, he, herr⟩, hq, ht, hsl, hp, hmv, hch⟩ := idleNow_spec u
      obtain ⟨hm', he', herr'⟩ := hmem
      obtain ⟨hq', ht', hsl', hp', hmv', hch'⟩ := hunits
      rw [stopCheck_idles (by rw [hcar]) (fun k => by rw [htile, hquiet k])]
      exact ⟨hctl', fun h => absurd h hact, fun _ => ⟨hrun', hidle⟩, ⟨hm.trans hm', he.trans he', herr.trans herr'⟩,
        ⟨hq.trans hq', ht.trans ht', hsl.trans hsl', hp.trans hp', hmv.trans hmv', hch.trans hch'⟩⟩
  · rw [exec_envelopeDeclare, execEnvelopeDeclare]
    simp only [he]
    rw [if_pos (by simpa [hrun, hheld] using hlead)]
    exact ⟨_, rfl, rfl, rfl, ⟨rfl, rfl, rfl⟩, ⟨rfl, rfl, rfl, rfl, rfl, rfl⟩⟩

end Sys2Proof.Machine
end

section
/-! What the carousel and the contribution of a step leave: the beat counter and the slew's remainder (R40, R262, R327). -/

namespace Sys2Proof.Machine

/-! ### The class -/

/-- A property that only the beat counter and the slew's register can end. -/
class Timed (I : State → Prop) : Prop extends Walked I, Cached I where
  keep : ∀ {s t : State}, t.regs = s.regs → t.beat = s.beat → s.Has I → t.Has I
  timed : ∀ {s : State} {a v : Nat}, a ≠ TBU_SLEW → s.Has I → (s.setReg a v).Has I

section
variable {I : State → Prop} [Timed I] {s : State} (h : s.Has I)
include h

/-- Everything but the registers and the beat counter may differ. -/
protected theorem State.Has.update {mem env errs seqs tiles slices pools moves chans mesh spanHeld dieHeld dieIn devs dies tempRetired
    windowStart slews ptpStamp syncBase car stp job repair links rings qps regions flash upd mgr snaps pwr pins vid halves out free
    pending} :
    State.Has ⟨s.regs, mem, env, errs, seqs, tiles, slices, pools, moves, chans, mesh, spanHeld, dieHeld, dieIn, devs, dies, tempRetired,
      s.beat, windowStart, slews, ptpStamp, syncBase, car, stp, job, repair, links, rings, qps, regions, flash, upd, mgr, snaps, pwr,
      pins, vid, halves, out, free, pending⟩ I := Timed.keep (s := s) rfl rfl h

protected theorem State.Has.fsetTimed {a : Nat} {f : Fld} {v : Nat} (ha : a ≠ TBU_SLEW := by decide) : (fset s a f v).Has I :=
  Timed.timed ha h

protected theorem State.Has.faddTimed {a : Nat} {f : Fld} {n : Nat} (ha : a ≠ TBU_SLEW := by decide) : (fadd s a f n).Has I :=
  h.fsetTimed ha

/-! ### The contribution of a step -/

protected theorem State.Has.sendSpan {k m} : (sendSpan s k m).Has I := h.emit.ite h.update

protected theorem State.Has.verifyPeer {k peer} : (verifyPeer s k peer).2.Has I := h.verifyRange.verifyRange

protected theorem State.Has.sendVerdict {peer v} : (sendVerdict s peer v).Has I :=
  (h.verifyPeer.emit.ite h.verifyPeer).ite h.sendSpan

end

section
variable {I : State → Prop} [Timed I] {s : State} (h : s.Has I)
include h

protected theorem State.Has.pushAmax {push} : (pushAmax s push).Has I :=
  h.foldl fun hu => State.Has.use (by split; exacts [hu.verifyFormat, hu]) fun h2 => (h2.writeBytes.writeBytes.ite h2).writeBytes

protected theorem State.Has.verdictArrives {nf wh slots} : (verdictArrives s nf wh slots).Has I := by
  unfold verdictArrives
  extract_lets n r outcome oldExp s1 s2 s3 s4 s5 s6 s7 rec_ s8 s9 s10
  have h1 : s1.Has I := h.fsetTimed.fsetTimed
  have h2 : s2.Has I := h1.fsetTimed.ite h1
  have h5 : s5.Has I := (h2.fsetTimed.ite h2).fsetTimed.fsetTimed.fsetTimed
  have h6 : s6.Has I := h5.faddTimed.ite (h5.faddTimed.ite h5)
  have h9 : s9.Has I := (h6.foldl fun hu => hu.writeBytes).writeBytes.pushAmax
  have h10 : s10.Has I := h9.post.ite (h9.post.ite h9)
  exact h10.update

protected theorem State.Has.verdictComplete : (verdictComplete s).Has I := by
  unfold verdictComplete
  split
  · exact h.verdictArrives.ite h
  · exact h

protected theorem State.Has.recordSum {part} : (recordSum s part).Has I := by
  unfold recordSum
  split <;> exact h.update

protected theorem State.Has.sendSum {n part} : (sendSum s n part).Has I :=
  ((h.foldl fun hu => hu.sendVerdict).ite h).use fun h1 => h1.recordSum.ite h1

protected theorem State.Has.foldCounts {n} : (foldCounts s n).Has I := h.update.sendSum.ite h

protected theorem State.Has.foldRun {n first} : (foldRun s n first).Has I := h.update.sendSum.ite h

protected theorem State.Has.takePart {n m part} : (takePart s n m part).Has I := by
  unfold takePart
  split
  · exact h.ite h.update.foldCounts
  · exact h.ite h.update.foldRun

protected theorem State.Has.contributePart {n owner part} : (contributePart s n owner part).Has I :=
  h.takePart.ite h.sendVerdict

protected theorem State.Has.normTableBad : (normTableBad s).2.Has I := by
  unfold normTableBad
  dsimp only
  split
  · exact h
  · split
    · exact h
    · exact h.verifyRange

protected theorem State.Has.sendContribution {n} : (sendContribution s n).Has I :=
  (h.normTableBad.update.fsetTimed.contributePart.foldl fun hu => hu.contributePart).verdictComplete

protected theorem State.Has.sendDue : (sendDue s).Has I := by
  unfold sendDue
  split
  · exact h.update.sendContribution
  · exact h

/-! ### Ends of phases -/

protected theorem State.Has.setTile {t x} : (s.setTile t x).Has I := h.update

protected theorem State.Has.setPhaseRec {r} : (setPhaseRec s r).Has I := h.update

protected theorem State.Has.logPhase {r e} : (logPhase s r e).Has I := h.ite h.update.writeRecord

protected theorem State.Has.startWriting : (startWriting s).Has I := h.update.setUpdState

protected theorem State.Has.provenCheck : (provenCheck s).Has I := h.startWriting.ite h

protected theorem State.Has.provenStep : (provenStep s).Has I := h.faddTimed.provenCheck.ite h

protected theorem State.Has.hold : (hold s).Has I := h.fsetTimed.fsetTimed.update

protected theorem State.Has.idleNow : (idleNow s).Has I :=
  h.update.fsetTimed.fsetTimed.fsetTimed.fsetTimed.ite h.update.fsetTimed.fsetTimed.fsetTimed

protected theorem State.Has.stopCheck : (stopCheck s).Has I := h.idleNow.ite h

protected theorem State.Has.phaseEnds {n p} : (phaseEnds s n p).Has I := by
  unfold phaseEnds
  split
  · exact h
  · exact (h.logPhase.update.ite h.logPhase.update).use fun h3 =>
      ((h3.update.infuserWalk.ite h3).use fun h4 => (h4.provenStep.ite h4).captureStart.use fun h5 => h5.hold.ite h5).ite h3

protected theorem State.Has.tilePhaseEnds {t n p flags} : (tilePhaseEnds s t n p flags).Has I :=
  (h.ite h.setPhaseRec).use fun h1 => (h1.setTile.phaseEnds.ite h1.setTile).stopCheck

protected theorem State.Has.settleOnce : (settleOnce s).Has I := h.foldl fun hu => hu.tilePhaseEnds.ite hu

omit h in
protected theorem State.Has.settleAll {n} (h : s.Has I) : (settleAll n s).Has I := by
  induction n generalizing s with
  | zero => exact h
  | succ n ih => exact (ih h.settleOnce).ite h

protected theorem State.Has.settle : (settle s).Has I := h.settleAll

end

end Sys2Proof.Machine
end

section
/-! Slews, slew beats and the servo of the PTP port (R39, R40, Table PRG-11). -/

namespace Sys2Proof.Machine

/-! ### Reads by units other than a tile's -/

theorem keyOf_congr {s t : State} (h : t.reg HBM_MODE = s.reg HBM_MODE) (a : Nat) : keyOf t a = keyOf s a := by
  simp only [keyOf, hbmLocate, fget_congr h]

theorem readBytes_other_congr {s t : State} (hmem : t.mem = s.mem) (h : t.reg HBM_MODE = s.reg HBM_MODE) (a n : Nat) :
    readBytes t .other a n = readBytes s .other a n := by
  simp only [readBytes, readByte, throughCache, byteAt, hmem, keyOf_congr h]

/-! ### The signed remainder -/

theorem signed_codeOf {w : Nat} {n : Int} (hw : 0 < w) (hlo : -(2 ^ (w - 1) : Nat) ≤ n) (hhi : n < (2 ^ (w - 1) : Nat)) :
    signed w (codeOf w n) = n := by
  obtain ⟨k, rfl⟩ : ∃ k, w = k + 1 := ⟨w - 1, by omega⟩
  have hpos : (0 : Int) < (2 ^ (k + 1) : Nat) := by positivity
  have hdouble : (2 ^ (k + 1) : Nat) = 2 * 2 ^ k := by rw [Nat.pow_succ]; omega
  have hlt : codeOf (k + 1) n < 2 ^ (k + 1) := by
    have := Int.emod_lt_of_pos n hpos
    have := Int.emod_nonneg n hpos.ne'
    unfold codeOf
    omega
  have hcode : (codeOf (k + 1) n : Int) = n % (2 ^ (k + 1) : Nat) := Int.toNat_of_nonneg (Int.emod_nonneg n hpos.ne')
  rw [signed, Nat.mod_eq_of_lt hlt]
  simp only [Nat.add_sub_cancel] at hlo hhi ⊢
  rw [hdouble] at hcode hlt ⊢
  generalize 2 ^ k = p at *
  rcases Int.lt_or_le n 0 with h | h
  · have : n % ((2 * p : Nat) : Int) = n + (2 * p : Nat) := by
      rw [← Int.add_emod_right]
      exact Int.emod_eq_of_lt (by omega) (by omega)
    rw [if_neg (by omega)]
    omega
  · have : n % ((2 * p : Nat) : Int) = n := Int.emod_eq_of_lt h (by omega)
    rw [if_pos (by omega)]
    omega

theorem signed_bounds {w : Nat} (hw : 0 < w) (n : Nat) : -(2 ^ (w - 1) : Nat) ≤ signed w n ∧ signed w n < (2 ^ (w - 1) : Nat) := by
  obtain ⟨k, rfl⟩ : ∃ k, w = k + 1 := ⟨w - 1, by omega⟩
  have hdouble : (2 ^ (k + 1) : Nat) = 2 * 2 ^ k := by rw [Nat.pow_succ]; omega
  have hlt : n % 2 ^ (k + 1) < 2 ^ (k + 1) := Nat.mod_lt _ (by positivity)
  unfold signed
  simp only [Nat.add_sub_cancel]
  split <;> omega

theorem slewRemain_congr {s t : State} (h : t.reg TBU_SLEW = s.reg TBU_SLEW) : slewRemain t = slewRemain s := by
  rw [slewRemain, slewRemain, fget_congr h]

theorem slewRemain_setRemain (s : State) {n : Int} (hlo : -2 ^ 31 ≤ n) (hhi : n < 2 ^ 31) : slewRemain (setRemain s n) = n := by
  have hcode : codeOf 32 n < 2 ^ 32 := by
    have := Int.emod_lt_of_pos n (show (0 : Int) < (2 ^ 32 : Nat) by decide)
    unfold codeOf
    omega
  rw [slewRemain, setRemain, fget_fset_other _ _ _ (by decide) (by decide),
    fget_fset_same s TBU_SLEW f_TBU_SLEW_REMAIN (codeOf 32 n) (by decide)]
  have hmod : codeOf 32 n % 2 ^ f_TBU_SLEW_REMAIN.width = codeOf 32 n := Nat.mod_eq_of_lt hcode
  rw [hmod]
  exact signed_codeOf (w := 32) (by decide) (by simpa using hlo) (by simpa using hhi)

/-- A remainder taken one nearer zero is a remainder again. -/
theorem slewRemain_step (s : State) {n : Int}
    (hn : n = if 0 < slewRemain s then slewRemain s - 1 else slewRemain s + 1) : -2 ^ 31 ≤ n ∧ n < 2 ^ 31 := by
  have hb := signed_bounds (w := 32) (by decide) (fget s TBU_SLEW f_TBU_SLEW_REMAIN)
  rw [← slewRemain] at hb
  norm_num at hb
  split at hn <;> omega

theorem setRemain_frame (s : State) (n : Int) : OnlyRegs s (setRemain s n) := (OnlyRegs.refl s).fset.fset

theorem reg_setRemain {s : State} {n : Int} {a : Nat} (h : a ≠ TBU_SLEW) : (setRemain s n).reg a = s.reg a :=
  (reg_fset_ne _ _ _ h).trans (reg_fset_ne _ _ _ h)

/-! ### SLEW -/

theorem exec_slew (r : Requester) (amount : BitVec 16) (s : State) : exec (.slew r amount) s = execSlew r amount s := rfl

/-- Messages to Span ports, one each: those of open ports leave, the others wait in order. -/
theorem foldl_sendSpan (l : List Nat) (m : Nat → OutMsg) (s : State) :
    l.foldl (fun s k => sendSpan s k (m k)) s = { s with
      out := s.out ++ (l.filter fun k => spanOpen s k).map m
      spanHeld := s.spanHeld ++ (l.filter fun k => !spanOpen s k).map fun k => (k, m k) } := by
  induction l generalizing s with
  | nil => simp
  | cons k l ih =>
    rw [List.foldl_cons, ih, sendSpan]
    by_cases h : spanOpen s k = true
    · have hopen (j : Nat) : spanOpen (emit s (m k)) j = spanOpen s j := rfl
      simp [h, hopen]
    · have hopen (j : Nat) : spanOpen { s with spanHeld := s.spanHeld ++ [(k, m k)] } j = spanOpen s j := rfl
      simp [h, hopen]

/-! ### SLEW_ADD -/

/-- A slew that is taken joins the remainder; SLEW_SPREAD may tell that it takes more than one window (R39, R40). -/
theorem execSlewAdd_takes {s : State} {amount : BitVec 16} {apply : Word} (hdue : apply.toNat ≤ s.now)
    (htakes : s.pins.boardPos = 0 ∧ s.slews.contains (signed 16 amount.toNat, apply.toNat) = true ∨
      s.pins.boardPos ≠ 0 ∧ fbit s TBU_CTL f_TBU_CTL_SLEW_FROM_SPAN = true) :
    let u := setRemain { s with slews := s.slews.erase (signed 16 amount.toNat, apply.toNat) } (slewRemain s + signed 16 amount.toNat)
    execSlewAdd amount apply s = .next (if (slewRemain s + signed 16 amount.toNat).natAbs > 1
      then fset u TBU_STATUS f_TBU_STATUS_SLEW_SPREAD 1 else u) := by
  intro u
  have hremain : slewRemain { s with slews := s.slews.erase (signed 16 amount.toNat, apply.toNat) } = slewRemain s :=
    slewRemain_congr (reg_congr rfl _)
  have htook : ¬ (s.now < apply.toNat || !(if s.pins.boardPos = 0 then s.slews.contains (signed 16 amount.toNat, apply.toNat)
      else fbit s TBU_CTL f_TBU_CTL_SLEW_FROM_SPAN)) = true := by
    rcases htakes with ⟨hp, ht⟩ | ⟨hp, ht⟩ <;> simp only [hp, ht, if_true, if_false, Bool.not_true, Bool.or_false] <;> simpa using hdue
  rw [execSlewAdd]
  dsimp only
  rw [if_neg htook, hremain]

/-! ### SLEW_BEAT -/

theorem exec_slewBeat (s : State) : exec .slewBeat s = execSlewBeat s := rfl

/-- The state of a slew beat before a due contribution and the phases of stopped tiles: the remainder one nearer zero, the counter two on
or held (R40). -/
def slewed (s : State) : State :=
  let u := markPhases (setRemain s (if 0 < slewRemain s then slewRemain s - 1 else slewRemain s + 1)) 0x100
  if 0 < slewRemain s then setBeat u (u.now + 2) else heldBeat u

theorem slewBeat_eq (s : State) :
    slewBeat s = if (sendDue (slewed s)).car.running then settle (sendDue (slewed s)) else sendDue (slewed s) := rfl

/-- The counter and the slew's register as in a state. -/
def SameTime (s t : State) : Prop := t.beat = s.beat ∧ t.reg TBU_SLEW = s.reg TBU_SLEW

theorem timed_sameTime (s : State) : Timed (SameTime s) where
  note := fun ⟨hb, hr⟩ => ⟨hb, (reg_congr rfl _).trans hr⟩
  log := fun ha ⟨hb, hr⟩ => ⟨hb, (reg_setReg_ne _ _ fun e => (e ▸ ha).stepReg.1 rfl).trans hr⟩
  check := fun ⟨hb, hr⟩ => ⟨hb, (reg_congr rfl _).trans hr⟩
  cache := fun ⟨hb, hr⟩ => ⟨hb, (reg_congr rfl _).trans hr⟩
  write := fun ⟨hb, hr⟩ => ⟨hb, (reg_congr rfl _).trans hr⟩
  die := fun ⟨hb, hr⟩ => ⟨hb, (reg_congr rfl _).trans hr⟩
  step := fun ha ⟨hb, hr⟩ => ⟨hb, (reg_setReg_ne _ _ ha.1.symm).trans hr⟩
  keep := fun hregs hbeat ⟨hb, hr⟩ => ⟨hbeat.trans hb, (reg_congr hregs _).trans hr⟩
  timed := fun ha ⟨hb, hr⟩ => ⟨hb, (reg_setReg_ne _ _ ha.symm).trans hr⟩

/-- A contribution that is due and the phases of stopped tiles leave the counter and the remainder. -/
theorem sameTime_slewBeat (s : State) : SameTime (slewed s) (slewBeat s) := by
  have := timed_sameTime (slewed s)
  have hdue : (sendDue (slewed s)).Has (SameTime (slewed s)) := State.Has.sendDue ⟨rfl, rfl⟩
  rw [slewBeat_eq]
  exact hdue.settle.ite hdue

/-- With no contribution due and no stopped tile, a slew beat does nothing beside. -/
theorem slewBeat_plain {s : State} (hdue : (slewed s).stp.due = none) (hup : ∀ k, ((slewed s).tile k).stopped = false) :
    slewBeat s = slewed s := by
  have hsend : sendDue (slewed s) = slewed s := by simp only [sendDue, hdue]
  rw [slewBeat_eq, hsend, settle_of_running hup, ite_self]

theorem slewed_spec (s : State) (hnow : s.now + 2 < 2 ^ 64) :
    (slewed s).now = (if 0 < slewRemain s then s.now + 2 else s.now) ∧
      slewRemain (slewed s) = (if 0 < slewRemain s then slewRemain s - 1 else slewRemain s + 1) ∧
      (slewed s).stp.due = s.stp.due ∧ KeepsRegsBut [TBU_SLEW] s (slewed s) ∧ KeepsMemory s (slewed s) ∧
      KeepsUnits { s with tiles := (slewed s).tiles } (slewed s) ∧
      ∀ k : TileId, (slewed s).tile k = if 0 < slewRemain s then s.tile k else { s.tile k with endBeat := min (s.tile k).endBeat s.now } := by
  obtain ⟨n, hn⟩ : ∃ n, n = if 0 < slewRemain s then slewRemain s - 1 else slewRemain s + 1 := ⟨_, rfl⟩
  obtain ⟨hlo, hhi⟩ := slewRemain_step s hn
  have hremain := slewRemain_setRemain s hlo hhi
  have hreg (a : Nat) (ha : a ≠ TBU_SLEW) : (setRemain s n).reg a = s.reg a := reg_setRemain ha
  obtain ⟨regs, hframe⟩ := setRemain_frame s n
  unfold slewed
  rw [← hn]
  dsimp only
  rw [hframe] at hremain hreg ⊢
  split
  · refine ⟨now_setBeat (s := markPhases { s with regs := regs } 0x100) hnow, ?_, rfl, fun a ha => ?_, ⟨rfl, rfl, rfl⟩,
      ⟨rfl, rfl, rfl, rfl, rfl, rfl⟩, fun k => rfl⟩
    · exact (slewRemain_congr (reg_congr rfl _)).trans hremain
    · exact (reg_congr rfl a).trans (hreg a (by simpa using ha))
  · refine ⟨rfl, (slewRemain_congr (reg_congr rfl _)).trans hremain, rfl, fun a ha => ?_, ⟨rfl, rfl, rfl⟩,
      ⟨rfl, rfl, rfl, rfl, rfl, rfl⟩, fun k => ?_⟩
    · exact (reg_congr rfl a).trans (hreg a (by simpa using ha))
    · exact endsPass_tile (markPhases { s with regs := regs } 0x100) k

/-! ### PTP -/

theorem exec_ptpEventMessage (port : Fin 16) (frac : Byte) (offset : BitVec 32) (s : State) :
    exec (.ptpEventMessage port frac offset) s = execPtpEventMessage port frac offset s := rfl

/-- The frame of a port reads memory and registers beside those of the timebase unit. -/
theorem frameAt_congr {s t : State} (hmem : t.mem = s.mem) (hreg : ∀ a, a ≠ TBU_PTP_OFFSET → t.reg a = s.reg a) (k dscp udp : Nat)
    (dest : List Byte) : frameAt t k dscp udp dest = frameAt s k dscp udp dest := by
  have hcfg : t.reg (LNK_ETH_CFG k) = s.reg (LNK_ETH_CFG k) := hreg _ (by unfold LNK_ETH_CFG TBU_PTP_OFFSET; omega)
  have haddr : t.reg (LNK_ETH_ADDR k) = s.reg (LNK_ETH_ADDR k) := hreg _ (by unfold LNK_ETH_ADDR TBU_PTP_OFFSET; omega)
  have hbase : faddr t LNK_PEER_BASE f_LNK_PEER_BASE_BASE = faddr s LNK_PEER_BASE f_LNK_PEER_BASE_BASE :=
    congrArg (· * _) (fget_congr (hreg _ (by decide)) _)
  have hmodule : moduleIndex t = moduleIndex s := fget_congr (hreg _ (by decide)) _
  have hport : portAddress t k = portAddress s k := by
    rw [portAddress, portAddress, haddr, hbase, hmodule, readNat, readNat, readBytes_other_congr hmem (hreg _ (by decide))]
  rw [frameAt, frameAt, fget_congr hcfg, fget_congr hcfg, fbit_congr hcfg, hport]

/-- Settles O16: the slew's messages by a fold over the ports, the remainder by its signed field, and the slew beat by a contribution and
ends of phases that leave the counter. -/
theorem slewsMoveTheCounterOneBeatAWindow : Obligations.SlewsMoveTheCounterOneBeatAWindow := by
  intro s
  refine ⟨fun amount hpos => ?_, fun amount apply hdue htakes hlo hhi => ?_, fun hwin hr hnow => ?_, fun port frac offset hport => ?_⟩
  · rw [exec_slew, execSlew, guardedWrite_firmware, if_neg (not_not_intro hpos)]
    exact congrArg _ (foldl_sendSpan [0, 1, 2] (fun k => .slew k (signed 16 amount.toNat) (s.now + 1024)) _)
  · refine ⟨_, execSlewAdd_takes hdue htakes, ?_⟩
    have hremain := slewRemain_setRemain { s with slews := s.slews.erase (signed 16 amount.toNat, apply.toNat) } hlo hhi
    generalize hn : slewRemain s + signed 16 amount.toNat = n at *
    have hreg (a : Nat) (ha : a ≠ TBU_SLEW) :
        (setRemain { s with slews := s.slews.erase (signed 16 amount.toNat, apply.toNat) } n).reg a = s.reg a :=
      (reg_setRemain ha).trans (reg_congr rfl a)
    obtain ⟨regs, hu⟩ := setRemain_frame { s with slews := s.slews.erase (signed 16 amount.toNat, apply.toNat) } n
    rw [hu] at hremain hreg ⊢
    split
    · exact ⟨(slewRemain_congr (reg_fset_ne _ _ _ (by decide))).trans hremain, rfl,
        fun a ha => (reg_fset_ne _ _ _ (by simp at ha; exact ha.2)).trans (hreg a (by simp at ha; exact ha.1)),
        ⟨rfl, rfl, rfl⟩, ⟨rfl, rfl, rfl, rfl, rfl, rfl⟩, ⟨rfl, rfl, rfl, rfl⟩⟩
    · exact ⟨hremain, rfl, fun a ha => hreg a (by simp at ha; exact ha.1), ⟨rfl, rfl, rfl⟩, ⟨rfl, rfl, rfl, rfl, rfl, rfl⟩,
        ⟨rfl, rfl, rfl, rfl⟩⟩
  · have hexec : exec .slewBeat s = .next (slewBeat s) := by
      rw [exec_slewBeat, execSlewBeat, if_pos (by simp [slewDue, hwin, hr])]
    obtain ⟨hb, hreg⟩ := sameTime_slewBeat s
    obtain ⟨hnow', hremain, hdue', hregs, hmem, hunits, htile⟩ := slewed_spec s hnow
    refine ⟨_, hexec, (congrArg BitVec.toNat hb).trans hnow', (slewRemain_congr hreg).trans hremain, fun hdue hup => ?_⟩
    rw [slewBeat_plain (hdue'.trans hdue) fun k => by rw [htile k]; split <;> exact hup k]
    exact ⟨hregs, hmem, hunits, htile⟩
  · rw [exec_ptpEventMessage, execPtpEventMessage, if_neg (not_not_intro hport)]
    let u := { s with ptpStamp := s.now * 256 + frac.toNat }.setReg TBU_PTP_OFFSET offset.toNat
    have hreg (a : Nat) (ha : a ≠ TBU_PTP_OFFSET) : u.reg a = s.reg a := (reg_setReg_ne _ _ ha).trans (reg_congr rfl a)
    refine ⟨_, rfl, ?_, ?_, fun a ha => (reg_congr rfl a).trans (hreg a (by simpa using ha)), ⟨rfl, rfl, rfl⟩,
      ⟨rfl, rfl, rfl, rfl, rfl, rfl⟩, ⟨rfl, rfl, rfl, rfl⟩⟩
    · refine (reg_congr (s := u) rfl _).trans ((reg_setReg_same _ _ _).trans (Nat.mod_eq_of_lt ?_))
      exact Nat.lt_of_lt_of_le offset.isLt (by decide)
    · have hframe := frameAt_congr (s := s) (t := u) rfl hreg port.val (fget u LNK_DSCP f_LNK_DSCP_PTP) 319 []
      have hdscp := fget_congr (hreg LNK_DSCP (by decide)) f_LNK_DSCP_PTP
      exact congrArg (fun f => s.out ++ [OutMsg.delayRequest f]) (hframe.trans (by rw [hdscp]))

end Sys2Proof.Machine
end

section
/-! PHASE_BEGIN and the grants of phases (R44, R47, R277, R465). -/

namespace Sys2Proof.Machine

/-! ### PHASE_BEGIN -/

theorem execPhaseBegin_waits {s : State} {c : CoreId} {phase : BitVec 12} (h : Runs s c) (hout : (s.seq c).inPhase = false)
    (hnext : (coreNext s c).2 = phase.toNat) :
    execPhaseBegin c phase s = .next (s.setSeq c { s.seq c with status := .waitPhase phase.toNat }) := by
  rw [execPhaseBegin, onCore_runs h, if_neg (by simp [hout, hnext])]
  rfl

/-! ### The cores of a tile -/

theorem nodup_tileCores (t : TileId) : (tileCores t).Nodup := (List.nodup_finRange 16).map fun a b h => by simpa using h

theorem mem_tileCores {t : TileId} {c : CoreId} : c ∈ tileCores t ↔ c.tile = t := by
  simp only [tileCores, List.mem_map, List.mem_finRange, true_and]
  constructor
  · rintro ⟨_, rfl⟩
    rfl
  · rintro rfl
    exact ⟨c.core, rfl⟩

/-- A fold that gives each core of a list of different ones a new sequencer touches the sequencers alone. -/
theorem foldl_setSeq_spec (g : Seq → Seq) (l : List CoreId) (hl : l.Nodup) (s : State) :
    ∃ qs, l.foldl (fun s c => s.setSeq c (g (s.seq c))) s = { s with seqs := qs } ∧
      ∀ c, State.seq { s with seqs := qs } c = if c ∈ l then g (s.seq c) else s.seq c := by
  induction l generalizing s with
  | nil => exact ⟨s.seqs, rfl, fun c => rfl⟩
  | cons d l ih =>
    obtain ⟨hdl, hl⟩ := List.nodup_cons.1 hl
    obtain ⟨qs, he, hseq⟩ := ih hl (s.setSeq d (g (s.seq d)))
    refine ⟨qs, he, fun c => (hseq c).trans ?_⟩
    by_cases hc : c = d
    · subst hc
      simp [hdl]
    · simp only [List.mem_cons, hc, false_or, seq_setSeq_ne s _ hc]

/-! ### What a grant writes -/

/-- At most registers, power and the carousel differ. -/
def ClockFrame (s u : State) : Prop := ∃ regs pwr car, u = { s with regs := regs, pwr := pwr, car := car }

theorem clockFrame_setClock (s : State) (code gated : Nat) : ClockFrame s (setClock s code gated) := by
  obtain ⟨regs, h⟩ := ((OnlyRegs.refl s).fset (a := PWR_DRAW) (f := f_PWR_DRAW_CLOCK) (v := code)).fset
    (a := PWR_DRAW) (f := f_PWR_DRAW_GATED) (v := gated)
  rw [setClock, h]
  exact ⟨regs, s.pwr, _, rfl⟩

theorem clockFrame_setPower {s : State} {p : Power} {u : State} (h : ClockFrame { s with pwr := p } u) : ClockFrame s u := by
  obtain ⟨regs, pwr, car, rfl⟩ := h
  exact ⟨regs, pwr, car, rfl⟩

theorem clockFrame_adjustClock (s : State) : ClockFrame s (adjustClock s) := by
  unfold adjustClock
  split
  · exact clockFrame_setClock s _ _
  · extract_lets want cur
    split
    · exact clockFrame_setPower (clockFrame_setClock _ _ _)
    · exact clockFrame_setPower (clockFrame_setClock _ _ _)

/-- The first beat of the phase is noted, and its first grant sets the array clock. -/
def clocked (s : State) (n p : Nat) (e : PhaseEntry) : State :=
  if (phaseRec s n p).start.isNone then adjustClock (noteGrant s n p e) else noteGrant s n p e

theorem clockFrame_clocked (s : State) (n p : Nat) (e : PhaseEntry) : ClockFrame s (clocked s n p e) := by
  have hnote : ClockFrame s (noteGrant s n p e) := ⟨s.regs, s.pwr, _, rfl⟩
  unfold clocked
  split
  · obtain ⟨_, _, _, hn⟩ := hnote
    obtain ⟨_, _, _, ha⟩ := clockFrame_adjustClock (noteGrant s n p e)
    rw [ha, hn]
    exact ⟨_, _, _, rfl⟩
  · exact hnote

/-- A core that is granted step n's phase p runs it. -/
def grantedSeq (n p : Nat) (q : Seq) : Seq := { q with status := .running, pc := q.pc + 1, granted := some (n, p), inPhase := true }

/-- The grant of a phase, but for the infusers' walk. -/
def opened (s : State) (t : TileId) (e : PhaseEntry) : State :=
  let x := s.tile t
  (tileCores t).foldl (fun s c => s.setSeq c (grantedSeq x.nextStep x.nextPhase (s.seq c)))
    ((clocked s x.nextStep x.nextPhase e).setTile t { x with active := true, reported := [] })

theorem opened_spec (s : State) (t : TileId) (e : PhaseEntry) :
    (opened s t e).tile t = { s.tile t with active := true, reported := [] } ∧
      (∀ c : CoreId, c.tile = t → (opened s t e).seq c = grantedSeq (s.tile t).nextStep (s.tile t).nextPhase (s.seq c)) ∧
      (∀ c : CoreId, c.tile ≠ t → (opened s t e).seq c = s.seq c) ∧
      (opened s t e).mem = s.mem ∧ (opened s t e).stp = s.stp ∧ (opened s t e).dies = s.dies := by
  obtain ⟨regs, pwr, car, hn⟩ := clockFrame_clocked s (s.tile t).nextStep (s.tile t).nextPhase e
  unfold opened
  dsimp only
  rw [hn]
  obtain ⟨qs, hq, hseq⟩ := foldl_setSeq_spec (grantedSeq (s.tile t).nextStep (s.tile t).nextPhase) _ (nodup_tileCores t)
    (State.setTile { s with regs := regs, pwr := pwr, car := car } t { s.tile t with active := true, reported := [] })
  rw [hq]
  refine ⟨tile_setTile s t _, fun c hc => ?_, fun c hc => ?_, rfl, rfl, rfl⟩
  · exact (hseq c).trans (if_pos (mem_tileCores.2 hc))
  · exact (hseq c).trans (if_neg fun h => hc (mem_tileCores.1 h))

/-! ### PHASE_GRANT -/

/-- The grant of a phase that is due to a tile whose cores wait for it (R44). -/
theorem execPhaseGrant_ready {s : State} {t : TileId} {phase : BitVec 12} {e : PhaseEntry} (hup : ∀ k, (s.tile k).stopped = false)
    (he : entryAt s phase.toNat = some e) (hnext : (s.tile t).nextPhase = phase.toNat) (hdue : phaseDue s t = true)
    (hready : tileReady s t phase.toNat = true) : execPhaseGrant t phase s = .next (grantPhase s t e) := by
  simp only [execPhaseGrant, settle_of_running hup, hnext, he]
  rw [if_pos ⟨trivial, hdue, by simp [hup t], hready⟩]

/-- A grant that starts no walk: the phase is no COMMIT phase, was granted before, or has no verdict with OUTCOME 0. -/
theorem grantPhase_plain {s : State} {t : TileId} {e : PhaseEntry}
    (h : isCommit e = false ∨ (phaseRec s (s.tile t).nextStep (s.tile t).nextPhase).start.isNone = false ∨
      ∀ b, s.stp.verdict ≠ some ((s.tile t).nextStep, 0, b)) : grantPhase s t e = opened s t e := by
  have hstp : (opened s t e).stp = s.stp := (opened_spec s t e).2.2.2.2.1
  show (match (opened s t e).stp.verdict with
    | some (m, 0, _) => if isCommit e && (phaseRec s (s.tile t).nextStep (s.tile t).nextPhase).start.isNone &&
        m == (s.tile t).nextStep then infuserWalk (opened s t e) (s.tile t).nextStep else opened s t e
    | _ => opened s t e) = opened s t e
  rw [hstp]
  split
  · next m b hv =>
    refine if_neg fun hc => ?_
    simp only [Bool.and_eq_true, beq_iff_eq] at hc
    obtain ⟨⟨hcommit, hfirst⟩, rfl⟩ := hc
    rcases h with h | h | h
    · simp [hcommit] at h
    · simp [hfirst] at h
    · exact h b hv
  · rfl

/-- The first grant of a COMMIT phase with OUTCOME 0 starts the infusers' walk (R277). -/
theorem grantPhase_walks {s : State} {t : TileId} {e : PhaseEntry} {b : Nat} (hcommit : isCommit e = true)
    (hfirst : (phaseRec s (s.tile t).nextStep (s.tile t).nextPhase).start.isNone = true)
    (hv : s.stp.verdict = some ((s.tile t).nextStep, 0, b)) :
    grantPhase s t e = infuserWalk (opened s t e) (s.tile t).nextStep := by
  have hstp : (opened s t e).stp = s.stp := (opened_spec s t e).2.2.2.2.1
  show (match (opened s t e).stp.verdict with
    | some (m, 0, _) => if isCommit e && (phaseRec s (s.tile t).nextStep (s.tile t).nextPhase).start.isNone &&
        m == (s.tile t).nextStep then infuserWalk (opened s t e) (s.tile t).nextStep else opened s t e
    | _ => opened s t e) = infuserWalk (opened s t e) (s.tile t).nextStep
  rw [hstp, hv]
  exact if_pos (by simp [hcommit, hfirst])

/-! ### The infusers' walk -/

/-- The sequencers, the tiles, the step controller, the carousel and TBU_RESTART as in a state. -/
def SamePhases (s u : State) : Prop :=
  u.seqs = s.seqs ∧ u.tiles = s.tiles ∧ u.stp = s.stp ∧ u.car = s.car ∧ u.reg TBU_RESTART = s.reg TBU_RESTART

theorem walked_samePhases (s : State) : Walked (SamePhases s) where
  note := fun ⟨hq, ht, hp, hc, hr⟩ => ⟨hq, ht, hp, hc, (reg_congr rfl _).trans hr⟩
  log := fun ha ⟨hq, ht, hp, hc, hr⟩ => ⟨hq, ht, hp, hc, (reg_setReg_ne _ _ fun e => ha.stepReg.2 e.symm).trans hr⟩
  check := fun ⟨hq, ht, hp, hc, hr⟩ => ⟨hq, ht, hp, hc, (reg_congr rfl _).trans hr⟩
  write := fun ⟨hq, ht, hp, hc, hr⟩ => ⟨hq, ht, hp, hc, (reg_congr rfl _).trans hr⟩
  die := fun ⟨hq, ht, hp, hc, hr⟩ => ⟨hq, ht, hp, hc, (reg_congr rfl _).trans hr⟩
  step := fun ha ⟨hq, ht, hp, hc, hr⟩ => ⟨hq, ht, hp, hc, (reg_setReg_ne _ _ ha.2.symm).trans hr⟩

theorem samePhases_infuserWalk (s : State) (n : Nat) :
    SamePhases { s with stp := { s.stp with walkDone := false } } (infuserWalk s n) := by
  have := walked_samePhases { s with stp := { s.stp with walkDone := false } }
  exact State.Has.infuserWalk (I := SamePhases _) ⟨rfl, rfl, rfl, rfl, rfl⟩

/-- The walk's start leaves the tiles, the sequencers and, but for its mark, the step controller. -/
theorem infuserWalk_spec (s : State) (n : Nat) :
    (∀ k, (infuserWalk s n).tile k = s.tile k) ∧ (∀ c, (infuserWalk s n).seq c = s.seq c) ∧
    (infuserWalk s n).stp = { s.stp with walkDone := false } := by
  obtain ⟨hq, ht, hp, -, -⟩ := samePhases_infuserWalk s n
  generalize infuserWalk s n = u at *
  exact ⟨fun k => congrArg (fun ts => mapGet Tile.empty ts k.val) ht,
    fun c => congrArg (fun qs => mapGet Seq.empty qs (16 * c.tile.val + c.core.val)) hq, hp⟩

end Sys2Proof.Machine
end

section
/-! Ends of phases: the tile's next phase, the record, the contribution and the hold (R45, R49, R262, R328). -/

namespace Sys2Proof.Machine

/-! ### A core ends its phase -/

/-- A core in its phase, with what it needs to end it: its queues are empty and, in a COMMIT phase, the infusers have walked. -/
theorem execPhaseEnd_inPhase {s : State} {c : CoreId} {phase : BitVec 12} (h : Runs s c) (hin : (s.seq c).inPhase = true)
    (hgrant : (s.seq c).granted.map (·.2) = some phase.toNat) :
    execPhaseEnd c phase s = .next (settle (tryPhaseEnd s c phase.toNat)) := by
  rw [execPhaseEnd_running h.1, onCore_runs h, if_pos (by simp [hin, hgrant])]

/-- A core has reported its end of its phase (R45). -/
def reportedBy (s : State) (c : CoreId) : State :=
  (s.setSeq c { (s.seq c).goOn with inPhase := false }).setTile c.tile
    { s.tile c.tile with reported := insertOnce c.core.val (s.tile c.tile).reported }

theorem tryPhaseEnd_reports {s : State} {c : CoreId} {p : Nat} (hempty : queuesEmpty (s.seq c) 15 = true)
    (hwalk : (entryAt s p).any isCommit = true → s.stp.walkDone = true) :
    tryPhaseEnd s c p = if (List.range 16).all fun i => ((reportedBy s c).tile c.tile).reported.contains i then
      tilePhaseEnds (reportedBy s c) c.tile (s.tile c.tile).nextStep (s.tile c.tile).nextPhase 0 else reportedBy s c := by
  have hready : (queuesEmpty (s.seq c) 15 && (!(entryAt s p).any isCommit || s.stp.walkDone)) = true := by
    cases hc : (entryAt s p).any isCommit
    · simp [hempty]
    · simp [hempty, hwalk hc]
  rw [tryPhaseEnd]
  dsimp only
  rw [if_pos hready]
  rfl

theorem reportedBy_stopped {s : State} (c : CoreId) (h : ∀ k, (s.tile k).stopped = false) (k : TileId) :
    ((reportedBy s c).tile k).stopped = false := by
  by_cases hk : k = c.tile
  · subst hk
    exact (congrArg Tile.stopped (tile_setTile _ _ _)).trans (h _)
  · exact (congrArg Tile.stopped (tile_setTile_ne _ _ hk)).trans (h k)

theorem reportedBy_tile (s : State) (c : CoreId) : (reportedBy s c).tile c.tile =
    { s.tile c.tile with reported := insertOnce c.core.val (s.tile c.tile).reported } := tile_setTile _ _ _

theorem mem_insertOnce {x y : Nat} {l : List Nat} : x ∈ insertOnce y l ↔ x = y ∨ x ∈ l := by
  unfold insertOnce
  split
  · next h =>
    exact ⟨.inr, fun hx => hx.elim (fun e => e ▸ h) id⟩
  · simp [or_comm]

/-- While another core of the tile has not reported, a report ends nothing. -/
theorem tryPhaseEnd_waits {s : State} {c d : CoreId} {p : Nat}
    (hempty : queuesEmpty (s.seq c) 15 = true)
    (hwalk : (entryAt s p).any isCommit = true → s.stp.walkDone = true)
    (htile : d.tile = c.tile) (hne : d ≠ c) (hd : d.core.val ∉ (s.tile c.tile).reported) : tryPhaseEnd s c p = reportedBy s c := by
  have hcore : d.core.val ≠ c.core.val := fun e => hne (by
    cases d; cases c
    simp only [CoreId.mk.injEq]
    exact ⟨htile, Fin.ext e⟩)
  rw [tryPhaseEnd_reports hempty hwalk, if_neg]
  intro hall
  have := List.all_eq_true.1 hall d.core.val (List.mem_range.2 d.core.isLt)
  rw [reportedBy_tile, List.contains_iff_mem, mem_insertOnce] at this
  exact this.elim hcore hd

/-- With the last core's report the phase ends on the tile. -/
theorem tryPhaseEnd_ends {s : State} {c : CoreId} {p : Nat} (hempty : queuesEmpty (s.seq c) 15 = true)
    (hwalk : (entryAt s p).any isCommit = true → s.stp.walkDone = true)
    (hothers : ∀ d : CoreId, d.tile = c.tile → d ≠ c → d.core.val ∈ (s.tile c.tile).reported) :
    tryPhaseEnd s c p = tilePhaseEnds (reportedBy s c) c.tile (s.tile c.tile).nextStep (s.tile c.tile).nextPhase 0 := by
  rw [tryPhaseEnd_reports hempty hwalk, if_pos]
  refine List.all_eq_true.2 fun i hi => ?_
  rw [reportedBy_tile, List.contains_iff_mem, mem_insertOnce]
  by_cases hic : i = c.core.val
  · exact .inl hic
  · exact .inr (hothers ⟨c.tile, ⟨i, List.mem_range.1 hi⟩⟩ rfl fun e => hic (by rw [← e]))

/-! ### A phase ends on a tile -/

/-- The record of a phase after its end on a tile. -/
def endedRec (s : State) (t : TileId) (n p : Nat) : PhaseRec :=
  { phaseRec s n p with ended := (phaseRec s n p).ended ||| BitVec.ofNat 48 (2 ^ t.val), flags := (phaseRec s n p).flags ||| 0 }

/-- A phase of no GO has ended on a tile, whose next phase follows in the table (R45). -/
def tileEnded (s : State) (t : TileId) (n p : Nat) : State :=
  (setPhaseRec s (endedRec s t n p)).setTile t { s.tile t with
    active := false, reported := [], resume := none, nextStep := (nextFrom s.car.entries t n (p + 1)).1
    nextPhase := (nextFrom s.car.entries t n (p + 1)).2, endBeat := s.now + 1 }

theorem tilePhaseEnds_eq {s : State} {t : TileId} {n p : Nat} (hresume : (s.tile t).resume = none) (hup : (s.tile t).stopped = false) :
    tilePhaseEnds s t n p 0 = stopCheck (if (entryAt s p).any fun e =>
        ((phaseRec s n p).ended ||| BitVec.ofNat 48 (2 ^ t.val)) &&& e.tiles == e.tiles
      then phaseEnds (tileEnded s t n p) n p else tileEnded s t n p) := by
  have hend : (if ((setPhaseRec s (endedRec s t n p)).tile t).stopped = true then (setPhaseRec s (endedRec s t n p)).now
      else (setPhaseRec s (endedRec s t n p)).now + 1) = s.now + 1 := if_neg (ne_true_of_eq_false hup)
  rw [tilePhaseEnds]
  dsimp only
  rw [hresume]
  simp only [Option.isSome_none, Bool.false_and, Bool.false_eq_true, if_false, Bool.not_false, Bool.true_and]
  rw [← endedRec, hend]
  rfl

/-! ### Records of phases -/

theorem phaseRec_names (s : State) (n p : Nat) : (phaseRec s n p).step = n ∧ (phaseRec s n p).phase = p := by
  unfold phaseRec
  cases hr : s.car.records.find? fun r => r.step == n && r.phase == p with
  | none => exact ⟨rfl, rfl⟩
  | some r => simpa using List.find?_some hr

theorem phaseRec_setPhaseRec (s : State) (r : PhaseRec) : phaseRec (setPhaseRec s r) r.step r.phase = r := by
  have hold : (s.car.records.filter fun q => !(q.step == r.step && q.phase == r.phase)).find?
      (fun q => q.step == r.step && q.phase == r.phase) = none :=
    List.find?_eq_none.2 fun q hq h => by simpa [h] using (List.mem_filter.1 hq).2
  rw [phaseRec, setPhaseRec]
  dsimp only
  rw [List.find?_append, hold]
  simp

/-- Marks of the phases in progress leave a record its name and first beat. -/
theorem phaseRec_markPhases (s : State) (more n p : Nat) : (phaseRec (markPhases s more) n p).start = (phaseRec s n p).start := by
  simp only [phaseRec, markPhases, List.find?_map, Function.comp_def]
  cases s.car.records.find? fun r => r.step == n && r.phase == p <;> rfl

/-! ### A phase ends on the module -/

/-- The record of a phase is made, and its note and envelope are gone. -/
def phaseLogged (s : State) (n p : Nat) (e : PhaseEntry) : State :=
  let u := logPhase s (phaseRec (markPhases s 0) n p) e
  { u with car := { u.car with records := u.car.records.filter fun q => !(q.step == n && q.phase == p) }
           pwr := { u.pwr with envelopes := u.pwr.envelopes.filter fun v => !(v.1 == n && v.2.1 == p) } }

/-- Where a COMMIT phase follows, the contribution is due (R262). -/
def contributionDue (s : State) (n p : Nat) : State :=
  if (entryAt s (p + 1)).any isCommit then { s with stp := { s.stp with due := some n } } else s

/-- The step ends with its outcome: infusers that have not walked do, a committed step counts as proven, and the capture starts
(R277, R289, R388). -/
def stepEnded (s : State) (n outcome : Nat) (late : Bool) : State :=
  let u := if late && outcome == 0 then infuserWalk s n else s
  captureStart (if outcome = 0 then provenStep u else u) n outcome

/-- A hold begins that was requested, or is asked for with a withheld step (R328). -/
def holdChecked (s : State) (outcome : Nat) : State :=
  if (fbit s TBU_RESTART f_TBU_RESTART_HOLD_ON_WITHHELD && outcome == 2) || fbit s TBU_RESTART f_TBU_RESTART_HOLD_REQ then hold s else s

theorem phaseEnds_plain {s : State} {n p : Nat} {e : PhaseEntry} (he : entryAt s p = some e) (hc : isCommit e = false) :
    phaseEnds s n p = contributionDue (phaseLogged s n p e) n p := by
  simp only [phaseEnds, he, hc, Bool.false_eq_true, if_false]
  rfl

/-- The outcome that the end of step n's COMMIT phase finds: the verdict's, or that of a withheld step (R47). -/
def outcomeOf (s : State) (n : Nat) : Nat :=
  match s.stp.verdict with
  | some (m, o, _) => if m = n then o else 2
  | none => 2

theorem outcomeOf_verdict {s : State} {n o b : Nat} (h : s.stp.verdict = some (n, o, b)) : outcomeOf s n = o := by
  rw [outcomeOf, h]
  exact if_pos rfl

theorem phaseEnds_commit {s : State} {n p : Nat} {e : PhaseEntry} (he : entryAt s p = some e) (hc : isCommit e = true) :
    let u := contributionDue (phaseLogged s n p e) n p
    phaseEnds s n p = holdChecked (stepEnded u n (outcomeOf u n) (phaseRec (markPhases s 0) n p).start.isNone) (outcomeOf u n) := by
  simp only [phaseEnds, he, hc, if_true]
  rfl

/-! ### What the end of a phase leaves -/

theorem samePhases_logPhase (s : State) (r : PhaseRec) (e : PhaseEntry) :
    (logPhase s r e).seqs = s.seqs ∧ (logPhase s r e).tiles = s.tiles ∧ (logPhase s r e).stp = s.stp ∧
      (∃ seq, (logPhase s r e).car = { s.car with seq := seq }) ∧ (logPhase s r e).reg TBU_RESTART = s.reg TBU_RESTART := by
  unfold logPhase
  extract_lets lg seq src u
  split
  · exact ⟨rfl, rfl, rfl, ⟨s.car.seq, rfl⟩, rfl⟩
  · have := walked_samePhases u
    obtain ⟨hq, ht, hp, hc, hr⟩ := State.Has.writeRecord (I := SamePhases u) (bytes := recordBytes u r e seq) ⟨rfl, rfl, rfl, rfl, rfl⟩
    exact ⟨hq, ht, hp, ⟨seq, hc⟩, hr.trans (reg_congr rfl _)⟩

/-- The sequencers, the tiles, a stop that waits, the phase table and TBU_RESTART as in a state. -/
def PhaseFrame (s u : State) : Prop :=
  u.seqs = s.seqs ∧ u.tiles = s.tiles ∧ u.car.stopping = s.car.stopping ∧ u.reg TBU_RESTART = s.reg TBU_RESTART

theorem PhaseFrame.trans {s u v : State} : PhaseFrame s u → PhaseFrame u v → PhaseFrame s v :=
  fun ⟨hq, ht, hc, hr⟩ ⟨hq', ht', hc', hr'⟩ => ⟨hq'.trans hq, ht'.trans ht, hc'.trans hc, hr'.trans hr⟩

theorem SamePhases.phaseFrame {s u : State} : SamePhases s u → PhaseFrame s u :=
  fun ⟨hq, ht, _, hc, hr⟩ => ⟨hq, ht, congrArg Carousel.stopping hc, hr⟩

/-- The step controller's, the flash's and the power's parts play no role in it. -/
theorem phaseFrame_of_regs {s u : State} (hq : u.seqs = s.seqs) (ht : u.tiles = s.tiles) (hc : u.car.stopping = s.car.stopping)
    (hr : u.regs = s.regs) : PhaseFrame s u := ⟨hq, ht, hc, reg_congr hr _⟩

theorem ended_spec (s : State) (n p : Nat) (e : PhaseEntry) :
    PhaseFrame s (contributionDue (phaseLogged s n p e) n p) ∧ (contributionDue (phaseLogged s n p e) n p).stp =
      if (entryAt s (p + 1)).any isCommit then { s.stp with due := some n } else s.stp := by
  obtain ⟨hq, ht, hp, ⟨seq, hc⟩, hr⟩ := samePhases_logPhase s (phaseRec (markPhases s 0) n p) e
  have hentry : entryAt (phaseLogged s n p e) (p + 1) = entryAt s (p + 1) := by
    show (logPhase s (phaseRec (markPhases s 0) n p) e).car.entries[p + 1]? = s.car.entries[p + 1]?
    rw [hc]
  have hstop : (phaseLogged s n p e).car.stopping = s.car.stopping := by
    show (logPhase s (phaseRec (markPhases s 0) n p) e).car.stopping = s.car.stopping
    rw [hc]
  have hlogged : PhaseFrame s (phaseLogged s n p e) := ⟨hq, ht, hstop, (reg_congr rfl _).trans hr⟩
  have hstp : (phaseLogged s n p e).stp = s.stp := hp
  rw [contributionDue, hentry]
  generalize phaseLogged s n p e = u at *
  split
  · exact ⟨hlogged.trans (phaseFrame_of_regs rfl rfl rfl rfl), by rw [hstp]⟩
  · exact ⟨hlogged, hstp⟩

theorem samePhases_provenStep (s : State) : SamePhases s (provenStep s) := by
  have := walked_samePhases s
  have hwriting {u : State} (h : SamePhases s u) : SamePhases s (startWriting u) := by
    obtain ⟨hq, ht, hp, hc, hr⟩ := h
    exact State.Has.setUpdState (I := SamePhases s) (x := 4)
      (s := { u with flash := { u.flash with headerA := false, headerB := false, checked := none } }) ⟨hq, ht, hp, hc, (reg_congr rfl _).trans hr⟩
  have hcount : SamePhases s (fadd s HIF_UPD_STATUS f_HIF_UPD_STATUS_PROVEN_STEPS 1) :=
    State.Has.faddStep (I := SamePhases s) ⟨rfl, rfl, rfl, rfl, rfl⟩
  unfold provenStep
  split
  · unfold provenCheck
    split
    · exact hwriting hcount
    · exact hcount
  · exact ⟨rfl, rfl, rfl, rfl, rfl⟩

theorem phaseFrame_stepEnded (s : State) (n o : Nat) (late : Bool) : PhaseFrame s (stepEnded s n o late) := by
  have hcapture (u : State) : PhaseFrame u (captureStart u n o) := by
    have := walked_samePhases u
    exact SamePhases.phaseFrame (State.Has.captureStart (I := SamePhases u) ⟨rfl, rfl, rfl, rfl, rfl⟩)
  have hwalk : PhaseFrame s (if late && o == 0 then infuserWalk s n else s) := by
    split
    · exact (phaseFrame_of_regs rfl rfl rfl rfl).trans (samePhases_infuserWalk s n).phaseFrame
    · exact phaseFrame_of_regs rfl rfl rfl rfl
  unfold stepEnded
  generalize (if late && o == 0 then infuserWalk s n else s) = u at hwalk
  dsimp only
  refine hwalk.trans (.trans ?_ (hcapture _))
  split
  · exact (samePhases_provenStep u).phaseFrame
  · exact phaseFrame_of_regs rfl rfl rfl rfl

theorem phaseFrame_holdChecked (s : State) (o : Nat) : (holdChecked s o).seqs = s.seqs ∧ (holdChecked s o).tiles = s.tiles ∧
    (holdChecked s o).car.stopping = s.car.stopping := by
  unfold holdChecked
  split
  · obtain ⟨_, _, h⟩ := hold_frame s
    rw [h]
    exact ⟨rfl, rfl, rfl⟩
  · exact ⟨rfl, rfl, rfl⟩

theorem held_holdChecked (s : State) (o : Nat) : held (holdChecked s o) = (held s || fbit s TBU_RESTART f_TBU_RESTART_HOLD_REQ ||
    (fbit s TBU_RESTART f_TBU_RESTART_HOLD_ON_WITHHELD && o == 2)) := by
  rw [holdChecked, Bool.or_assoc, Bool.or_comm (fbit s TBU_RESTART f_TBU_RESTART_HOLD_REQ)]
  split
  · next h => rw [held_hold, h, Bool.or_true]
  · next h => rw [eq_false_of_ne_true h, Bool.or_false]

/-! ### PHASE_END of the last core -/

theorem stopCheck_of_running {s : State} (h : s.car.stopping = false) : stopCheck s = s := if_neg (by simp [h])

/-! ### The record -/

theorem not_logReg_plog {a : Nat} (h : a = TBU_PLOG_WP ∨ a = TBU_PLOG_DROP) : ¬ LogReg a := by
  rcases h with rfl | rfl <;> exact not_logReg_of_timebase (by decide) (by decide)

/-- A record that is dropped is counted, and memory and WP stand (R49). -/
theorem dropRecord_spec (s : State) :
    (dropRecord s).mem = s.mem ∧ fget (dropRecord s) TBU_PLOG_WP f_TBU_PLOG_WP_WP = fget s TBU_PLOG_WP f_TBU_PLOG_WP_WP ∧
      fget (dropRecord s) TBU_PLOG_DROP f_TBU_PLOG_DROP_COUNT =
        min f_TBU_PLOG_DROP_COUNT.max (fget s TBU_PLOG_DROP f_TBU_PLOG_DROP_COUNT + 1) ∧
      fbit (dropRecord s) TBU_STATUS f_TBU_STATUS_PLOG_DROP = true := by
  rw [dropRecord]
  have hmem : (fadd s TBU_PLOG_DROP f_TBU_PLOG_DROP_COUNT 1).mem = s.mem := (keepsMemory_fset s _ _ _).1
  have hwp : (fadd s TBU_PLOG_DROP f_TBU_PLOG_DROP_COUNT 1).reg TBU_PLOG_WP = s.reg TBU_PLOG_WP := reg_fset_ne _ _ _ (by decide)
  have hcount : fget (fadd s TBU_PLOG_DROP f_TBU_PLOG_DROP_COUNT 1) TBU_PLOG_DROP f_TBU_PLOG_DROP_COUNT =
      min f_TBU_PLOG_DROP_COUNT.max (fget s TBU_PLOG_DROP f_TBU_PLOG_DROP_COUNT + 1) :=
    (fget_fset_same s TBU_PLOG_DROP f_TBU_PLOG_DROP_COUNT _ (by decide)).trans
      (Nat.mod_eq_of_lt (Nat.lt_of_le_of_lt (Nat.min_le_left _ _) (by decide)))
  generalize fadd s TBU_PLOG_DROP f_TBU_PLOG_DROP_COUNT 1 = u at *
  obtain ⟨hframe, hreg⟩ := notes_post (fset u TBU_STATUS f_TBU_STATUS_PLOG_DROP 1) .recordDropped 0
    (fget s TBU_PLOG_DROP f_TBU_PLOG_DROP_COUNT + 1)
  have hother (a : Nat) (ha : a = TBU_PLOG_WP ∨ a = TBU_PLOG_DROP) :=
    (hreg a (not_logReg_plog ha)).trans (reg_fset_ne u f_TBU_STATUS_PLOG_DROP 1 (by rcases ha with rfl | rfl <;> decide))
  exact ⟨(hframe.keepsMemory.1.trans (keepsMemory_fset u _ _ _).1).trans hmem, fget_congr ((hother _ (.inl rfl)).trans hwp) _,
    (fget_congr (hother _ (.inr rfl)) _).trans hcount,
    (fbit_congr (hreg TBU_STATUS not_logReg_tbuStatus) _).trans (fbit_fset_one _ _ _ (by decide))⟩

theorem writeRecord_full {s : State} {bytes : List Byte}
    (h : (fget s TBU_PLOG_WP f_TBU_PLOG_WP_WP + 1) % 2 ^ fget s TBU_PLOG_CTL f_TBU_PLOG_CTL_LOG2_ENTRIES =
      fget s TBU_PLOG_RP f_TBU_PLOG_RP_RP) : writeRecord s bytes = dropRecord s := if_pos h

/-- A record that has its place is written at WP, and WP goes on (R49). -/
theorem writeRecord_fits {s : State} {bytes : List Byte} {wp size a : Nat} (hwp : wp = fget s TBU_PLOG_WP f_TBU_PLOG_WP_WP)
    (hsize : size = 2 ^ fget s TBU_PLOG_CTL f_TBU_PLOG_CTL_LOG2_ENTRIES)
    (ha : a = faddr s TBU_PLOG_BASE f_TBU_PLOG_BASE_BASE + 32 * wp) (hroom : (wp + 1) % size ≠ fget s TBU_PLOG_RP f_TBU_PLOG_RP_RP)
    (hmap : rangeMapped s .other a 32 = true) (hret : rangeRetired s a 32 = false) (hwaits : recordWaits s = none)
    (hup : hostDown s a = false) :
    writeRecord s bytes = fset (writeBytes s .other a bytes false) TBU_PLOG_WP f_TBU_PLOG_WP_WP ((wp + 1) % size) := by
  subst hwp hsize ha
  rw [writeRecord, if_neg hroom, if_neg (by simp [hmap, hret]), hwaits]
  exact if_neg (ne_true_of_eq_false hup)

theorem length_leBytes (n v : Nat) : (leBytes n v).length = n := by
  induction n generalizing v with
  | zero => rfl
  | succ n ih => simp [leBytes, ih]

theorem length_recordBytes (s : State) (r : PhaseRec) (e : PhaseEntry) (seq : Nat) : (recordBytes s r e seq).length = 32 := by
  simp [recordBytes, length_leBytes]

theorem byteAt_fset (s : State) (a : Nat) (f : Fld) (v k : Nat) : byteAt (fset s a f v) k = byteAt s k := rfl

/-- The bytes of a record at its place, and no other byte of memory, are those of the record. -/
theorem byteAt_record {s : State} {a : Nat} {bytes : List Byte} (hlen : bytes.length = 32)
    (apart : ∀ i < 32, ∀ j < 32, i ≠ j → keyOf s (a + i) ≠ keyOf s (a + j)) :
    (∀ i < 32, byteAt (writeBytes s .other a bytes false) (keyOf s (a + i)) = nthD 0 bytes i) ∧
      ∀ k, (∀ i < 32, k ≠ keyOf s (a + i)) → byteAt (writeBytes s .other a bytes false) k = byteAt s k := by
  refine ⟨fun i hi => ?_, fun k hk => ?_⟩
  · refine (byteAt_writeBytes s .other a bytes false i (hlen ▸ hi) fun j hj hne => apart j (hlen ▸ hj) i hi hne).trans ?_
    simp [nthD, hlen, hi]
  · refine byteAt_writeCells_ne s .other fun w hw => ?_
    obtain ⟨j, hj, rfl⟩ := List.mem_mapIdx.1 hw
    exact (hk j (hlen ▸ hj)).symm

theorem logPhase_makes {s : State} {e : PhaseEntry} (h : MakesRecord s e) (r : PhaseRec) :
    logPhase s r e = writeRecord { s with car := { s.car with seq := s.car.seq + 1 } } (recordBytes s r e (s.car.seq + 1)) := by
  obtain ⟨hlog, hon, hlo, hhi⟩ := h
  exact if_neg (by simp only [hlog, hon, Bool.not_true, Bool.or_self, Bool.false_or, decide_eq_true_eq]; omega)

/-- A record that a state makes, whose sequencers, tiles and records play no role, is counted and written, or dropped and counted (R49). -/
theorem recordMade_of_logged {s w u : State} {q : List (Nat × Seq)} {ts : List (Nat × Tile)} {c : Carousel} {r : PhaseRec} {n p : Nat}
    {e : PhaseEntry} (hlg : fget s TBU_PLOG_CTL f_TBU_PLOG_CTL_LOG2_ENTRIES ≤ 24) (hw : w = { s with seqs := q, tiles := ts, car := c })
    (hr : r.step = n ∧ r.phase = p ∧ r.start = (phaseRec s n p).start)
    (hregs : u.regs = (writeRecord w (recordBytes s r e (s.car.seq + 1))).regs)
    (hmem : u.mem = (writeRecord w (recordBytes s r e (s.car.seq + 1))).mem) (hseq : u.car.seq = s.car.seq + 1) :
    RecordMade s u n p e := by
  have hreg (a : Nat) (f : Fld) : fget w a f = fget s a f := fget_congr (reg_congr (hw ▸ rfl) a) f
  have hkey (a : Nat) : keyOf w a = keyOf s a := keyOf_congr (reg_congr (hw ▸ rfl) _) a
  have hureg (a : Nat) (f : Fld) : fget u a f = fget (writeRecord w (recordBytes s r e (s.car.seq + 1))) a f :=
    fget_congr (reg_congr hregs a) f
  have hbyte (k : Nat) : byteAt u k = byteAt (writeRecord w (recordBytes s r e (s.car.seq + 1))) k := congrArg (mapGet 0 · k) hmem
  have hwmem : w.mem = s.mem := hw ▸ rfl
  refine ⟨hseq, fun hfull => ?_, fun hroom hmap hret hwaits hup apart => ?_⟩
  · rw [writeRecord_full (by rw [hreg, hreg, hreg]; exact hfull)] at hmem hregs hureg
    obtain ⟨hm, hwp, hcount, hdrop⟩ := dropRecord_spec w
    rw [hreg] at hwp hcount
    exact ⟨hmem.trans (hm.trans hwmem), (hureg _ _).trans hwp, (hureg _ _).trans hcount, (fbit_congr (reg_congr hregs _) _).trans hdrop⟩
  · have hfits := writeRecord_fits (s := w) (bytes := recordBytes s r e (s.car.seq + 1)) (hreg _ _).symm
      (congrArg (2 ^ ·) (hreg _ _).symm) (congrArg (· * _ + _) (hreg _ _).symm) (by rw [hreg]; exact hroom) (hw ▸ hmap) (hw ▸ hret)
      (hw ▸ hwaits) (hw ▸ hup)
    rw [hfits] at hbyte hureg
    obtain ⟨hin, hout⟩ := byteAt_record (s := w) (length_recordBytes s r e (s.car.seq + 1)) fun i hi j hj hne => by
      rw [hkey, hkey]
      exact apart i hi j hj hne
    refine ⟨(hureg _ _).trans ((fget_fset_same _ TBU_PLOG_WP f_TBU_PLOG_WP_WP _ (by decide)).trans (Nat.mod_eq_of_lt ?_)),
      ⟨r, hr.1, hr.2.1, hr.2.2, fun i hi => ?_⟩, fun k hk => ?_⟩
    · have hsize : 2 ^ fget s TBU_PLOG_CTL f_TBU_PLOG_CTL_LOG2_ENTRIES ≤ 2 ^ 24 := Nat.pow_le_pow_right (by decide) hlg
      exact Nat.lt_of_lt_of_le (Nat.mod_lt _ (Nat.two_pow_pos _)) (hsize.trans (by decide))
    · rw [hbyte, byteAt_fset, ← hkey]
      exact hin i hi
    · rw [hbyte, byteAt_fset]
      exact (hout k fun i hi => by rw [hkey]; exact hk i hi).trans (congrArg (mapGet 0 · k) hwmem)

/-! ### PHASE_END of the last core -/

/-- What stands at the beat in which the last core of a tile has reported: only this core, this tile and the records of phases. -/
theorem tileEnded_reportedBy (s : State) (c : CoreId) (n p : Nat) : ∃ q ts rs, tileEnded (reportedBy s c) c.tile n p =
    { s with seqs := q, tiles := ts, car := { s.car with records := rs } } := ⟨_, _, _, rfl⟩

/-- The last core's report ends the phase on the tile, and the tile's end may end it on the module. -/
def lastEnd (s : State) (c : CoreId) (n p : Nat) (e : PhaseEntry) : State :=
  if ((phaseRec s n p).ended ||| BitVec.ofNat 48 (2 ^ c.tile.val)) &&& e.tiles == e.tiles then
    phaseEnds (tileEnded (reportedBy s c) c.tile n p) n p
  else tileEnded (reportedBy s c) c.tile n p

theorem execPhaseEnd_last {s : State} {c : CoreId} {n : Nat} {phase : BitVec 12} {e : PhaseEntry} (h : LastToEnd s c n phase.toNat e)
    (hwalk : isCommit e = true → s.stp.walkDone = true) :
    execPhaseEnd c phase s = .next (settle (stopCheck (lastEnd s c n phase.toNat e))) := by
  obtain ⟨hup, hruns, he, hin, hgrant, hempty, -, hstep, hnext, hresume, hothers, -⟩ := h
  have hresume' : ((reportedBy s c).tile c.tile).resume = none := (congrArg Tile.resume (reportedBy_tile s c)).trans hresume
  rw [execPhaseEnd_inPhase hruns hin (by rw [hgrant]; rfl), tryPhaseEnd_ends hempty (by simpa [he] using hwalk) hothers, hstep, hnext,
    tilePhaseEnds_eq hresume' (reportedBy_stopped c hup _)]
  have he' : entryAt (reportedBy s c) phase.toNat = some e := he
  rw [he']
  rfl

/-- The end of a phase leaves the sequencers, the tiles and a stop that waits. -/
theorem phaseEnds_core (s : State) (n p : Nat) :
    (phaseEnds s n p).seqs = s.seqs ∧ (phaseEnds s n p).tiles = s.tiles ∧ (phaseEnds s n p).car.stopping = s.car.stopping := by
  cases he : entryAt s p with
  | none => 
    rw [phaseEnds, he]
    exact ⟨rfl, rfl, rfl⟩
  | some e =>
    obtain ⟨⟨hq, ht, hc, -⟩, -⟩ := ended_spec s n p e
    cases hcommit : isCommit e with
    | false =>
      rw [phaseEnds_plain he hcommit]
      exact ⟨hq, ht, hc⟩
    | true =>
      rw [phaseEnds_commit he hcommit]
      generalize contributionDue (phaseLogged s n p e) n p = u at *
      obtain ⟨hq', ht', hc', -⟩ := phaseFrame_stepEnded u n (outcomeOf u n) (phaseRec (markPhases s 0) n p).start.isNone
      obtain ⟨hq'', ht'', hc''⟩ := phaseFrame_holdChecked
        (stepEnded u n (outcomeOf u n) (phaseRec (markPhases s 0) n p).start.isNone) (outcomeOf u n)
      exact ⟨hq''.trans (hq'.trans hq), ht''.trans (ht'.trans ht), hc''.trans (hc'.trans hc)⟩

theorem lastEnd_core (s : State) (c : CoreId) (n p : Nat) (e : PhaseEntry) :
    (lastEnd s c n p e).seqs = (tileEnded (reportedBy s c) c.tile n p).seqs ∧
      (lastEnd s c n p e).tiles = (tileEnded (reportedBy s c) c.tile n p).tiles ∧
      (lastEnd s c n p e).car.stopping = s.car.stopping := by
  unfold lastEnd
  split
  · obtain ⟨hq, ht, hc⟩ := phaseEnds_core (tileEnded (reportedBy s c) c.tile n p) n p
    exact ⟨hq, ht, hc⟩
  · exact ⟨rfl, rfl, rfl⟩

/-- With no tile stopped and no stop that waits, nothing else ends with it. -/
theorem lastEnd_settles {s : State} {c : CoreId} (n p : Nat) (e : PhaseEntry) (hup : ∀ k, (s.tile k).stopped = false)
    (hstop : s.car.stopping = false) : settle (stopCheck (lastEnd s c n p e)) = lastEnd s c n p e := by
  obtain ⟨-, ht, hc⟩ := lastEnd_core s c n p e
  rw [stopCheck_of_running (hc.trans hstop)]
  refine settle_of_running fun k => ?_
  rw [State.tile, ht]
  by_cases hk : k = c.tile
  · subst hk
    exact (congrArg Tile.stopped (tile_setTile (setPhaseRec (reportedBy s c) _) c.tile _)).trans (reportedBy_stopped c hup _)
  · exact (congrArg Tile.stopped (tile_setTile_ne (setPhaseRec (reportedBy s c) _) _ hk)).trans (reportedBy_stopped c hup k)

/-- The core and the tile after the phase has ended on the tile (R44, R45). -/
theorem lastEnd_spec {s : State} {c : CoreId} {n p : Nat} {e : PhaseEntry} (hresume : (s.tile c.tile).resume = none) :
    (lastEnd s c n p e).seq c = { (s.seq c).goOn with inPhase := false } ∧
      (lastEnd s c n p e).tile c.tile = { s.tile c.tile with active := false, reported := [], endBeat := s.now + 1
                                                             nextStep := (nextFrom s.car.entries c.tile n (p + 1)).1
                                                             nextPhase := (nextFrom s.car.entries c.tile n (p + 1)).2 } := by
  obtain ⟨hq, ht, -⟩ := lastEnd_core s c n p e
  have hq' : (lastEnd s c n p e).seq c = (s.setSeq c { (s.seq c).goOn with inPhase := false }).seq c := by
    rw [State.seq, hq]
    rfl
  refine ⟨hq'.trans (seq_setSeq s c _), ?_⟩
  rw [State.tile, ht]
  refine (tile_setTile (setPhaseRec (reportedBy s c) _) c.tile _).trans ?_
  rw [reportedBy_tile, ← hresume]
  rfl

theorem phaseRec_names_start (s : State) (c : CoreId) (n p : Nat) :
    let r := phaseRec (markPhases (tileEnded (reportedBy s c) c.tile n p) 0) n p
    r.step = n ∧ r.phase = p ∧ r.start = (phaseRec s n p).start := by
  intro r
  obtain ⟨hstep, hphase⟩ := phaseRec_names (markPhases (tileEnded (reportedBy s c) c.tile n p) 0) n p
  obtain ⟨hn, hp⟩ := phaseRec_names (reportedBy s c) n p
  have hset := phaseRec_setPhaseRec (reportedBy s c) (endedRec (reportedBy s c) c.tile n p)
  refine ⟨hstep, hphase, (phaseRec_markPhases _ _ _ _).trans ?_⟩
  have hnames : (endedRec (reportedBy s c) c.tile n p).step = n ∧ (endedRec (reportedBy s c) c.tile n p).phase = p := ⟨hn, hp⟩
  rw [hnames.1, hnames.2] at hset
  have hstart := congrArg PhaseRec.start hset
  exact hstart

theorem contributionDue_parts (s : State) (n p : Nat) :
    (contributionDue s n p).regs = s.regs ∧ (contributionDue s n p).mem = s.mem ∧ (contributionDue s n p).car = s.car := by
  unfold contributionDue
  split <;> exact ⟨rfl, rfl, rfl⟩

theorem phaseLogged_parts (s : State) (n p : Nat) (e : PhaseEntry) :
    (phaseLogged s n p e).regs = (logPhase s (phaseRec (markPhases s 0) n p) e).regs ∧
      (phaseLogged s n p e).mem = (logPhase s (phaseRec (markPhases s 0) n p) e).mem ∧
      (phaseLogged s n p e).car.seq = (logPhase s (phaseRec (markPhases s 0) n p) e).car.seq := ⟨rfl, rfl, rfl⟩

/-- The end of a phase on the module that is no COMMIT phase's makes its record (R49). -/
theorem recordMade_plain {s v : State} {n p : Nat} {e : PhaseEntry} {q : List (Nat × Seq)} {ts : List (Nat × Tile)}
    {rs : List PhaseRec} (hv : v = { s with seqs := q, tiles := ts, car := { s.car with records := rs } })
    (hnames : (phaseRec (markPhases v 0) n p).step = n ∧ (phaseRec (markPhases v 0) n p).phase = p ∧
      (phaseRec (markPhases v 0) n p).start = (phaseRec s n p).start) (hmade : MakesRecord s e) :
    RecordMade s (contributionDue (phaseLogged v n p e) n p) n p e := by
  obtain ⟨hregs, hmem, hcar⟩ := contributionDue_parts (phaseLogged v n p e) n p
  obtain ⟨hregs', hmem', hseq⟩ := phaseLogged_parts v n p e
  have hmade' : MakesRecord v e := by subst hv; exact hmade
  have hlog : logPhase v (phaseRec (markPhases v 0) n p) e =
      writeRecord { v with car := { v.car with seq := s.car.seq + 1 } } (recordBytes s (phaseRec (markPhases v 0) n p) e (s.car.seq + 1)) := by
    rw [logPhase_makes hmade', hv]
    rfl
  refine recordMade_of_logged hmade.2.2.2 (w := { v with car := { v.car with seq := s.car.seq + 1 } }) (by rw [hv]) hnames
    (hregs.trans (hregs'.trans (congrArg State.regs hlog))) (hmem.trans (hmem'.trans (congrArg State.mem hlog))) ?_
  have := walked_samePhases { v with car := { v.car with seq := s.car.seq + 1 } }
  obtain ⟨-, -, -, hc, -⟩ := State.Has.writeRecord (I := SamePhases { v with car := { v.car with seq := s.car.seq + 1 } })
    (s := { v with car := { v.car with seq := s.car.seq + 1 } })
    (bytes := recordBytes s (phaseRec (markPhases v 0) n p) e (s.car.seq + 1)) ⟨rfl, rfl, rfl, rfl, rfl⟩
  rw [← hlog] at hc
  exact (congrArg Carousel.seq hcar).trans (hseq.trans (congrArg Carousel.seq hc))

/-- The end of a phase on the module that is no COMMIT phase's, with its record and the contribution that it makes due (R49, R262). -/
theorem lastEnd_plain {s : State} {c : CoreId} {n p : Nat} {e : PhaseEntry} (he : entryAt s p = some e) (hc : isCommit e = false)
    (hend : EndsOnModule s c.tile n p e) :
    (lastEnd s c n p e).stp = (if (entryAt s (p + 1)).any isCommit then { s.stp with due := some n } else s.stp) ∧
      (MakesRecord s e → RecordMade s (lastEnd s c n p e) n p e) := by
  have hlast : lastEnd s c n p e = contributionDue (phaseLogged (tileEnded (reportedBy s c) c.tile n p) n p e) n p := by
    rw [lastEnd, if_pos (beq_iff_eq.2 hend)]
    exact phaseEnds_plain he hc
  obtain ⟨q, ts, rs, hv⟩ := tileEnded_reportedBy s c n p
  rw [hlast]
  exact ⟨(ended_spec (tileEnded (reportedBy s c) c.tile n p) n p e).2, recordMade_plain hv (phaseRec_names_start s c n p)⟩

/-- The end of a COMMIT phase on the module with its verdict: the hold that was requested, or is asked for with a withheld step (R328). -/
theorem lastEnd_commit {s : State} {c : CoreId} {n p o b : Nat} {e : PhaseEntry} (he : entryAt s p = some e) (hc : isCommit e = true)
    (hend : EndsOnModule s c.tile n p e) (hv : s.stp.verdict = some (n, o, b)) :
    held (lastEnd s c n p e) = (held s || fbit s TBU_RESTART f_TBU_RESTART_HOLD_REQ ||
      (fbit s TBU_RESTART f_TBU_RESTART_HOLD_ON_WITHHELD && o == 2)) := by
  obtain ⟨⟨-, -, -, hreg⟩, hstp⟩ := ended_spec (tileEnded (reportedBy s c) c.tile n p) n p e
  have hlast : lastEnd s c n p e = _ := (if_pos (beq_iff_eq.2 hend)).trans (phaseEnds_commit (s := tileEnded (reportedBy s c) c.tile n p) he hc)
  have hverdict : (contributionDue (phaseLogged (tileEnded (reportedBy s c) c.tile n p) n p e) n p).stp.verdict = some (n, o, b) := by
    rw [hstp]
    split <;> exact hv
  rw [outcomeOf_verdict hverdict] at hlast
  obtain ⟨-, -, -, hreg'⟩ := phaseFrame_stepEnded (contributionDue (phaseLogged (tileEnded (reportedBy s c) c.tile n p) n p e) n p) n o
    (phaseRec (markPhases (tileEnded (reportedBy s c) c.tile n p) 0) n p).start.isNone
  have hsame (f : Fld) := fbit_congr ((hreg'.trans hreg).trans (reg_congr rfl TBU_RESTART : _ = s.reg TBU_RESTART)) f
  rw [hlast, held_holdChecked, held, hsame, hsame, hsame]
  rfl

/-- The grant of a COMMIT phase runs the tile, and its first one after a verdict with OUTCOME 0 starts the infusers' walk (R44, R277). -/
theorem grantCommit_spec {s : State} {t : TileId} {p : Nat} {e : PhaseEntry} (hc : isCommit e = true) (hnext : (s.tile t).nextPhase = p) :
    ∃ u, grantPhase s t e = u ∧ (u.tile t).active = true ∧
      (∀ c : CoreId, c.tile = t → (u.seq c).status = .running ∧ (u.seq c).pc = (s.seq c).pc + 1 ∧
        (u.seq c).granted = some ((s.tile t).nextStep, p) ∧ (u.seq c).inPhase = true) ∧
      (∀ o b, s.stp.verdict = some ((s.tile t).nextStep, o, b) → o ≠ 0 ∨ (phaseRec s (s.tile t).nextStep p).start.isSome = true →
        u.mem = s.mem ∧ u.stp = s.stp ∧ u.dies = s.dies) ∧
      (∀ b, s.stp.verdict = some ((s.tile t).nextStep, 0, b) → (phaseRec s (s.tile t).nextStep p).start.isSome = false →
        u.stp = { s.stp with walkDone := false } ∧ ∃ v, u = infuserWalk v (s.tile t).nextStep ∧ v.mem = s.mem ∧ v.dies = s.dies) := by
  subst hnext
  have hwalks (b : Nat) := grantPhase_walks (s := s) (t := t) (b := b) hc
  have hplain := grantPhase_plain (s := s) (t := t) (e := e)
  obtain ⟨htile, hseq, -, hmem, hstp, hdies⟩ := opened_spec s t e
  generalize opened s t e = v at *
  have hcores (c : CoreId) (h : c.tile = t) : (v.seq c).status = .running ∧ (v.seq c).pc = (s.seq c).pc + 1 ∧
      (v.seq c).granted = some ((s.tile t).nextStep, (s.tile t).nextPhase) ∧ (v.seq c).inPhase = true := by
    rw [hseq c h]
    exact ⟨rfl, rfl, rfl, rfl⟩
  by_cases hw : (phaseRec s (s.tile t).nextStep (s.tile t).nextPhase).start.isNone = true ∧
      ∃ b, s.stp.verdict = some ((s.tile t).nextStep, 0, b)
  · obtain ⟨hfirst, b, hv⟩ := hw
    obtain ⟨ht, hq, hp⟩ := infuserWalk_spec v (s.tile t).nextStep
    refine ⟨_, hwalks b hfirst hv, ?_, fun c h => ?_, fun o b' hv' ho => ?_, fun _ _ _ => ⟨hp.trans (by rw [hstp]), _, rfl, hmem, hdies⟩⟩
    · rw [ht, htile]
    · rw [hq]
      exact hcores c h
    · obtain ⟨rfl, -⟩ : 0 = o ∧ b = b' := by simpa [hv] using hv'
      rw [Option.isNone_iff_eq_none] at hfirst
      simp [hfirst] at ho
  · refine ⟨_, hplain ?_, congrArg Tile.active htile, hcores, fun _ _ _ _ => ⟨hmem, hstp, hdies⟩,
      fun b hv hfirst => absurd ⟨by simpa using hfirst, b, hv⟩ hw⟩
    rw [not_and_or] at hw
    exact .inr (hw.imp eq_false_of_ne_true fun h b hb => h ⟨b, hb⟩)

/-- Settles O8: the wait and the grant by what they write, the ends by the tile's place, the record and the hold. -/
theorem phasesBeginAndEndPerCore : Obligations.PhasesBeginAndEndPerCore := by
  intro s
  refine ⟨fun c phase => execPhaseBegin_waits, fun t phase e hup he hc hnext hdue hready => ?_,
    fun c d phase e hup hruns he hc hin hgrant hempty htile hne hd => ?_, fun t phase e hup he hc hnext hdue hready => ?_,
    fun c n phase e hlast hwalk => ?_⟩
  · obtain ⟨htile, hseq, hother, hmem, -, -⟩ := opened_spec s t e
    refine ⟨_, (execPhaseGrant_ready hup he hnext hdue hready).trans (congrArg _ (grantPhase_plain (.inl hc))), ?_, fun c h => ?_,
      hother, hmem⟩
    · rw [htile]
    · rw [hseq c h, hnext]
      exact ⟨rfl, rfl, rfl, rfl⟩
  · have hnone : (entryAt s phase.toNat).any isCommit = true → s.stp.walkDone = true := by simp [he, hc]
    rw [exec_phaseEnd, execPhaseEnd_inPhase hruns hin hgrant, tryPhaseEnd_waits hempty hnone htile hne hd,
      settle_of_running (reportedBy_stopped c hup)]
    rfl
  · obtain ⟨u, hu, hrest⟩ := grantCommit_spec (t := t) hc hnext
    exact ⟨u, (execPhaseGrant_ready hup he hnext hdue hready).trans (congrArg _ hu), hrest⟩
  · obtain ⟨hup, hruns, he, -, -, -, -, -, -, hresume, -, hstop⟩ := id hlast
    have hexec : exec (.phaseEnd c phase) s = .next (lastEnd s c n phase.toNat e) := by
      rw [exec_phaseEnd, execPhaseEnd_last hlast hwalk, lastEnd_settles n _ e hup hstop]
    obtain ⟨hseq, htile⟩ := lastEnd_spec (n := n) (p := phase.toNat) (e := e) hresume
    refine ⟨_, hexec, hseq, htile, fun hend => ?_, fun hend => ⟨fun hc => (lastEnd_plain he hc hend).1,
      fun hc => (lastEnd_plain he hc hend).2, fun hc o b hv => lastEnd_commit he hc hend hv⟩⟩
    rw [lastEnd, if_neg (fun h => hend (beq_iff_eq.1 h))]
    exact ⟨rfl, rfl, rfl, rfl⟩

end Sys2Proof.Machine
end

section
/-! Completion of a ring's command: its record, TAIL, and what stands (R367, R369). -/

namespace Sys2Proof.Machine

/-! ### The memory that a write of bytes leaves -/

/-- Bytes with keys, written block by block. -/
def keyedMem (ks : List (Nat × Byte × Bool)) (m : List Host.Cell) : List Host.Cell :=
  (ks.map fun w => w.1 / 512).eraseDups.foldl (fun m b =>
    ((ks.filter fun w => w.1 / 512 == b).map fun w => (w.1 % 512, w.2.1)).foldl (fun m p => mapSet 0 m (b * 512 + p.1) p.2) m) m

theorem mem_writeCells (s : State) (ag : Agent) (ws : List (Nat × Byte × Bool)) :
    (writeCells s ag ws).mem = keyedMem (ws.map fun w => (keyOf s w.1, w.2)) s.mem := by
  unfold writeCells keyedMem
  refine (List.foldl_hom State.mem fun u b => ?_).symm
  obtain ⟨_, _, _, he, -⟩ := writeBlock_spec u ag b
    (((ws.map fun w => (keyOf s w.1, w.2)).filter fun w => w.1 / 512 == b).map fun w => (w.1 % 512, w.2.1))
    (decide (b < 2 ^ 46) && ((ws.map fun w => (keyOf s w.1, w.2)).filter fun w => w.1 / 512 == b).any fun w => w.2.2)
  rw [he]

/-- What a write leaves in memory turns on the memory and the placing of addresses alone. -/
theorem mem_writeBytes_congr {s t : State} (hmem : t.mem = s.mem) (h : t.reg HBM_MODE = s.reg HBM_MODE) (ag : Agent) (a : Nat)
    (bs : List Byte) (poison : Bool) : (writeBytes t ag a bs poison).mem = (writeBytes s ag a bs poison).mem := by
  rw [writeBytes, writeBytes, mem_writeCells, mem_writeCells, hmem]
  simp only [keyOf_congr h]

theorem byteAt_congr {s t : State} (h : t.mem = s.mem) (k : Nat) : byteAt t k = byteAt s k := congrArg (mapGet 0 · k) h

/-! ### What a completion leaves -/

/-- Beside notes of the interrupt, memory, the ring and its HIF_CQ_CTL, everything that a job is made of stands. -/
def RingFrame (q : RingId) (s u : State) : Prop :=
  KeepsUnits s u ∧ KeepsJob s u ∧ ∀ a, ¬ LogReg a → a ≠ HIF_CQ_CTL q.val → u.reg a = s.reg a

theorem RingFrame.refl (q : RingId) (s : State) : RingFrame q s s :=
  ⟨⟨rfl, rfl, rfl, rfl, rfl, rfl⟩, ⟨rfl, rfl, rfl, rfl⟩, fun _ _ _ => rfl⟩

theorem RingFrame.trans {q : RingId} {s u v : State} : RingFrame q s u → RingFrame q u v → RingFrame q s v := by
  rintro ⟨⟨h1, h2, h3, h4, h5, h6⟩, ⟨j1, j2, j3, j4⟩, hr⟩ ⟨⟨h1', h2', h3', h4', h5', h6'⟩, ⟨j1', j2', j3', j4'⟩, hr'⟩
  exact ⟨⟨h1'.trans h1, h2'.trans h2, h3'.trans h3, h4'.trans h4, h5'.trans h5, h6'.trans h6⟩,
    ⟨j1'.trans j1, j2'.trans j2, j3'.trans j3, j4'.trans j4⟩, fun a ha hne => (hr' a ha hne).trans (hr a ha hne)⟩

theorem written_ringFrame (q : RingId) (s : State) : Written (RingFrame q s) where
  note := fun ⟨hu, hj, hr⟩ => ⟨hu, hj, fun a ha hne => (reg_congr rfl a).trans (hr a ha hne)⟩
  log := by
    rintro u a v ha ⟨hu, hj, hr⟩
    exact ⟨hu, hj, fun b hn hne => (reg_setReg_ne u v fun e : b = a => hn (e ▸ ha)).trans (hr b hn hne)⟩
  check := fun ⟨hu, hj, hr⟩ => ⟨hu, hj, fun a ha hne => (reg_congr rfl a).trans (hr a ha hne)⟩
  write := fun ⟨hu, hj, hr⟩ => ⟨hu, hj, fun a ha hne => (reg_congr rfl a).trans (hr a ha hne)⟩

theorem RingFrame.setRing {q : RingId} {s u : State} (h : RingFrame q s u) (x : Ring) : RingFrame q s (u.setRing q x) := by
  obtain ⟨hu, hj, hr⟩ := h
  exact ⟨hu, hj, hr⟩

theorem RingFrame.fset {q : RingId} {s u : State} (h : RingFrame q s u) (f : Fld) (v : Nat) :
    RingFrame q s (fset u (HIF_CQ_CTL q.val) f v) := by
  obtain ⟨hu, hj, hr⟩ := h
  exact ⟨hu, hj, fun a ha hne => (reg_fset_ne _ _ _ hne).trans (hr a ha hne)⟩

theorem ringFrame_msix (q : RingId) (s : State) (port vector : Nat) : RingFrame q s (msix s port vector) := by
  have := written_ringFrame q s
  exact State.Has.msix (I := RingFrame q s) (RingFrame.refl q s)

theorem ringFrame_writeBytes (q : RingId) (s : State) (a : Nat) (bs : List Byte) : RingFrame q s (writeBytes s .other a bs false) := by
  have := written_ringFrame q s
  exact State.Has.writeBytes (I := RingFrame q s) (RingFrame.refl q s)

theorem ringFrame_waitLink (q : RingId) (s : State) (p : Nat) (w : Waiting) : RingFrame q s (waitLink s p w) := by
  have := written_ringFrame q s
  exact State.Has.waitLink (I := RingFrame q s) (RingFrame.refl q s)

theorem ringFrame_announce (q : RingId) (s : State) : RingFrame q s (announce s q) :=
  ((RingFrame.refl q s).setRing _).trans (ringFrame_msix q _ _ _)

theorem ringFrame_moderate (q : RingId) (s : State) : RingFrame q s (moderate s q) := by
  unfold moderate
  split
  · extract_lets r n u
    have hu : RingFrame q s u := (RingFrame.refl q s).setRing _
    split
    · exact hu.trans (ringFrame_announce q u)
    · exact hu
  · exact RingFrame.refl q s

theorem ringFrame_advanceTail (q : RingId) (s : State) : RingFrame q s (advanceTail s q) :=
  (((RingFrame.refl q s).fset _ _).fset _ _).fset _ _

theorem ringFrame_flushRing (q : RingId) (s : State) : RingFrame q s (flushRing s q) := by
  unfold flushRing
  extract_lets r
  split
  · split
    · exact RingFrame.refl q s
    · split
      · exact ringFrame_waitLink q s _ _
      · extract_lets u v
        have hv : RingFrame q s v := ((ringFrame_writeBytes q s _ _).setRing _).trans (ringFrame_advanceTail q _)
        split
        · exact hv
        · exact hv.trans (ringFrame_moderate q v)
  · exact RingFrame.refl q s

theorem ringFrame_completeRing (q : RingId) (s : State) (status detail value : Nat) :
    RingFrame q s (completeRing s q status detail value) := by
  unfold completeRing
  extract_lets r
  split
  · exact ((RingFrame.refl q s).setRing _).trans (ringFrame_flushRing q _)
  · exact RingFrame.refl q s

/-! ### What a completion writes -/

theorem not_logReg_cqCtl (q : RingId) : ¬ LogReg (HIF_CQ_CTL q.val) := by
  have := q.isLt
  unfold LogReg HIF_CQ_CTL
  omega

theorem notes_msix (s : State) (port vector : Nat) : Notes s (msix s port vector) := by
  have := noted_notes s
  exact State.Has.msix (I := Notes s) ⟨.refl s, fun _ _ => rfl⟩

/-- The announcement of records leaves memory, the ring's command and TAIL. -/
def Announced (q : RingId) (s u : State) : Prop :=
  u.mem = s.mem ∧ (u.ring q).cur = (s.ring q).cur ∧ (u.ring q).waiting = (s.ring q).waiting ∧
    u.reg (HIF_CQ_CTL q.val) = s.reg (HIF_CQ_CTL q.val)

theorem announced_msix {q : RingId} {s u : State} (h : Announced q s u) (port vector : Nat) : Announced q s (msix u port vector) := by
  obtain ⟨hmem, hcur, hwait, hreg⟩ := h
  obtain ⟨hframe, hreg'⟩ := notes_msix u port vector
  have hreg' := hreg' _ (not_logReg_cqCtl q)
  generalize msix u port vector = v at *
  obtain ⟨_, _, _, _, _, _, _, rfl⟩ := hframe
  exact ⟨hmem, hcur, hwait, hreg'.trans hreg⟩

theorem announced_setRing {q : RingId} {s : State} {x : Ring} (hcur : x.cur = (s.ring q).cur) (hwait : x.waiting = (s.ring q).waiting) :
    Announced q s (s.setRing q x) :=
  ⟨rfl, (congrArg Ring.cur (ring_setRing s q x)).trans hcur, (congrArg Ring.waiting (ring_setRing s q x)).trans hwait, rfl⟩

theorem Announced.refl (q : RingId) (s : State) : Announced q s s := ⟨rfl, rfl, rfl, rfl⟩

theorem Announced.trans {q : RingId} {s u v : State} : Announced q s u → Announced q u v → Announced q s v :=
  fun ⟨h1, h2, h3, h4⟩ ⟨h1', h2', h3', h4'⟩ => ⟨h1'.trans h1, h2'.trans h2, h3'.trans h3, h4'.trans h4⟩

theorem announced_announce (q : RingId) (s : State) : Announced q s (announce s q) := by
  unfold announce
  exact announced_msix (announced_setRing (x := { s.ring q with unannounced := 0 }) rfl rfl) _ _

theorem announced_moderate (q : RingId) (s : State) : Announced q s (moderate s q) := by
  unfold moderate
  split
  · extract_lets r n u
    have hu : Announced q s u := announced_setRing (x := { r with unannounced := n, firstBeat := _ }) rfl rfl
    clear_value u
    split
    · exact hu.trans (announced_announce q u)
    · exact hu
  · exact Announced.refl q s

theorem ringSize_le (lg : Nat) : ringSize lg ≤ 2 ^ 16 := by
  unfold ringSize
  split
  · next h => exact Nat.pow_le_pow_right (by decide) h.2
  · decide

/-- TAIL has moved past a record (R369). -/
theorem advanceTail_tail {s : State} {q : RingId} (h : cqSize s q ≠ 0) : fget (advanceTail s q) (HIF_CQ_CTL q.val) f_HIF_CQ_CTL_TAIL =
    (fget s (HIF_CQ_CTL q.val) f_HIF_CQ_CTL_TAIL + 1) % cqSize s q := by
  unfold advanceTail
  extract_lets c tail phase u
  rw [fget_fset_other _ _ _ (by decide) (by decide), fget_fset_other _ _ _ (by decide) (by decide)]
  refine (fget_fset_same s c f_HIF_CQ_CTL_TAIL tail (by decide)).trans (Nat.mod_eq_of_lt ?_)
  exact Nat.lt_of_lt_of_le (Nat.mod_lt _ (Nat.pos_of_ne_zero h)) (ringSize_le _)

theorem advanceTail_frame (s : State) (q : RingId) : OnlyRegs s (advanceTail s q) := (OnlyRegs.refl s).fset.fset.fset

theorem regs_writeBytes (s : State) (ag : Agent) (a : Nat) (bs : List Byte) (poison : Bool) :
    (writeBytes s ag a bs poison).regs = s.regs := by
  obtain ⟨_, _, _, _, hw, -⟩ := writeCells_frame s ag (bs.mapIdx fun i b => (a + i, b, poison))
  rw [writeBytes, hw]

/-- A record that the completion queue takes is written and leaves the ring, and may be announced (R369, R372). -/
theorem flushRing_takes_eq {s v : State} {q : RingId} {cmd : List Byte} {status detail value : Nat} (hcur : (s.ring q).cur = some cmd)
    (hwait : (s.ring q).waiting = some (status, detail, value)) (h : CqTakes s q)
    (hv : writeBytes s .other (cqSlot s q) (completionBytes s q cmd status detail value) false = v) :
    flushRing s q = advanceTail (v.setRing q { s.ring q with cur := none, waiting := none }) q ∨
      flushRing s q = moderate (advanceTail (v.setRing q { s.ring q with cur := none, waiting := none }) q) q := by
  obtain ⟨hsize, hen, hfull, hup⟩ := h
  rw [← hv]
  simp only [flushRing, hcur, hwait]
  rw [if_neg (by simp [hsize, hen, hfull])]
  change (if hostDown s (cqSlot s q) = true then _ else _) = _ ∨ (if hostDown s (cqSlot s q) = true then _ else _) = _
  rw [if_neg (ne_true_of_eq_false hup)]
  split
  · exact .inl rfl
  · exact .inr rfl

/-- Then TAIL moves, and the ring is free (R369). -/
theorem flushRing_takes {s : State} {q : RingId} {cmd : List Byte} {status detail value : Nat} (hcur : (s.ring q).cur = some cmd)
    (hwait : (s.ring q).waiting = some (status, detail, value)) (h : CqTakes s q) :
    ((flushRing s q).ring q).cur = none ∧
      fget (flushRing s q) (HIF_CQ_CTL q.val) f_HIF_CQ_CTL_TAIL = (fget s (HIF_CQ_CTL q.val) f_HIF_CQ_CTL_TAIL + 1) % cqSize s q ∧
      (flushRing s q).mem = (writeBytes s .other (cqSlot s q) (completionBytes s q cmd status detail value) false).mem := by
  have hvregs := regs_writeBytes s .other (cqSlot s q) (completionBytes s q cmd status detail value) false
  have hflush := flushRing_takes_eq hcur hwait h rfl
  generalize writeBytes s .other (cqSlot s q) (completionBytes s q cmd status detail value) false = v at *
  have huring := ring_setRing v q { s.ring q with cur := none, waiting := none }
  have hureg : (v.setRing q { s.ring q with cur := none, waiting := none }).reg (HIF_CQ_CTL q.val) = s.reg (HIF_CQ_CTL q.val) :=
    reg_congr hvregs _
  have humem := State.setRing_mem v q { s.ring q with cur := none, waiting := none }
  generalize v.setRing q { s.ring q with cur := none, waiting := none } = u at *
  have hann : Announced q (advanceTail u q) (flushRing s q) := by
    rcases hflush with h | h <;> rw [h]
    · exact Announced.refl q _
    · exact announced_moderate q _
  obtain ⟨hm, hc, -, hr⟩ := hann
  have husize : cqSize u q = cqSize s q := congrArg ringSize (fget_congr hureg _)
  obtain ⟨regs, hz⟩ := advanceTail_frame u q
  refine ⟨hc.trans ?_, (fget_congr hr _).trans ?_, hm.trans ?_⟩
  · rw [hz]
    exact congrArg Ring.cur huring
  · rw [advanceTail_tail (by rw [husize]; exact h.1), husize, fget_congr hureg]
  · rw [hz, ← humem]

/-- At most what waits for a port differs. -/
def OnlyWaits (s u : State) : Prop := ∃ waits, u = { s with pins := { s.pins with waits := waits } }

theorem OnlyWaits.refl (s : State) : OnlyWaits s s := ⟨s.pins.waits, rfl⟩

theorem onlyWaits_waitLink (s : State) (p : Nat) (w : Waiting) : OnlyWaits s (waitLink s p w) := by
  unfold waitLink
  extract_lets again
  clear_value again
  cases again
  · exact ⟨_, rfl⟩
  · exact OnlyWaits.refl s

theorem flushRing_waits {s : State} {q : RingId} (h : ¬ CqTakes s q) : OnlyWaits s (flushRing s q) := by
  unfold flushRing
  extract_lets r
  split
  · split
    · exact OnlyWaits.refl s
    · next hq =>
      simp only [not_or, Bool.not_eq_true, Bool.not_eq_false, Bool.not_eq_true'] at hq
      split
      · exact onlyWaits_waitLink s _ _
      · next hup => exact absurd ⟨hq.1, hq.2.1, hq.2.2, eq_false_of_ne_true hup⟩ h
  · exact OnlyWaits.refl s

/-- A ring's command completes (R367, R369). -/
theorem completeRing_spec {s : State} {q : RingId} {cmd : List Byte} (hcur : (s.ring q).cur = some cmd)
    (hwait : (s.ring q).waiting = none) (status detail value : Nat) :
    Completed s (completeRing s q status detail value) q cmd status detail value := by
  let u := s.setRing q { s.ring q with waiting := some (status, detail, value) }
  have huring : u.ring q = { s.ring q with waiting := some (status, detail, value) } := ring_setRing s q _
  have he : completeRing s q status detail value = flushRing u q := if_pos (by simp [hcur, hwait])
  have htakes : CqTakes u q ↔ CqTakes s q := Iff.rfl
  rw [he]
  refine ⟨fun h => ?_, fun h => ?_⟩
  · obtain ⟨hcur', htail, hmem⟩ := flushRing_takes (s := u) ((congrArg Ring.cur huring).trans hcur) (congrArg Ring.waiting huring) (htakes.2 h)
    exact ⟨hcur', htail, fun k => byteAt_congr (hmem.trans (mem_writeBytes_congr (s := s) (t := u) rfl rfl _ _ _ _)) k⟩
  · obtain ⟨waits, hu⟩ := flushRing_waits fun hu => h (htakes.1 hu)
    rw [hu]
    exact ⟨(congrArg Ring.cur huring).trans hcur, congrArg Ring.waiting huring, fun k => rfl⟩

end Sys2Proof.Machine
end

section
/-! Job loads and resume loads: what a load writes and what it leaves (R23, R24, R33, R331). -/

namespace Sys2Proof.Machine

/-! ### Registers that stand -/

/-- Registers that a load leaves: of a resume load those of its hold, its loss scale and its seed (R331). -/
def LoadKeeps (resume : Bool) (a : Nat) : Prop := resume = true ∧ (a = TBU_RESTART ∨ a = INF_LS_STATE ∨ a = INF_SEED)

/-- They lie among the module's step registers. -/
theorem LoadKeeps.range {r : Bool} {a : Nat} (h : LoadKeeps r a) : 0x902000 ≤ a ∧ a < 0x904000 := by
  obtain ⟨-, rfl | rfl | rfl⟩ := h <;> exact ⟨by decide, by decide⟩

theorem LoadKeeps.not_logReg {r : Bool} {a : Nat} (h : LoadKeeps r a) : ¬ LogReg a := by
  have := h.range
  unfold LogReg
  omega

theorem LoadKeeps.not_cleared {r : Bool} {a : Nat} (h : LoadKeeps r a) : clearedAtLoad r a = false := by
  have := h.range
  rw [clearedAtLoad, if_neg (by omega)]
  simp only [Bool.and_eq_false_iff, decide_eq_false_iff_not]
  exact .inl (by omega)

/-- A setting of an image that a load writes is none of them. -/
theorem LoadKeeps.not_setting {r : Bool} {a : Nat} (h : LoadKeeps r a) : (jobSetting a && !(r && resumeKeeps a)) = false := by
  obtain ⟨rfl, rfl | rfl | rfl⟩ := h <;> decide

theorem mapGet_filter {α : Type} (d : α) {p : Nat → Bool} {i : Nat} (h : p i = true) (m : List (Nat × α)) :
    mapGet d (m.filter fun x => p x.1) i = mapGet d m i := by
  induction m with
  | nil => rfl
  | cons x m ih =>
    obtain ⟨k, v⟩ := x
    by_cases hk : p k = true
    · rw [List.filter_cons_of_pos (p := fun x : Nat × α => p x.1) hk, mapGet, mapGet, ih]
    · have hne : i ≠ k := fun e => hk (e ▸ h)
      rw [List.filter_cons_of_neg (p := fun x : Nat × α => p x.1) hk, mapGet, if_neg hne, ih]

/-! ### The frame of a load's steps -/

/-- Sequencers, tiles, slices, job, carousel, step controller, repair map, rings and the registers that a load keeps as in a state. -/
def LoadFrame (r : Bool) (s u : State) : Prop :=
  u.seqs = s.seqs ∧ u.tiles = s.tiles ∧ u.slices = s.slices ∧ u.job = s.job ∧ u.car = s.car ∧ u.stp = s.stp ∧ u.repair = s.repair ∧
    u.rings = s.rings ∧ ∀ a, LoadKeeps r a → u.reg a = s.reg a

theorem LoadFrame.refl (r : Bool) (s : State) : LoadFrame r s s := ⟨rfl, rfl, rfl, rfl, rfl, rfl, rfl, rfl, fun _ _ => rfl⟩

theorem LoadFrame.trans {r : Bool} {s u v : State} : LoadFrame r s u → LoadFrame r u v → LoadFrame r s v :=
  fun ⟨h1, h2, h3, h4, h5, h6, h7, h8, h9⟩ ⟨g1, g2, g3, g4, g5, g6, g7, g8, g9⟩ => ⟨g1.trans h1, g2.trans h2, g3.trans h3, g4.trans h4,
    g5.trans h5, g6.trans h6, g7.trans h7, g8.trans h8, fun a ha => (g9 a ha).trans (h9 a ha)⟩

theorem written_loadFrame (r : Bool) (s : State) : Written (LoadFrame r s) where
  note := fun ⟨h1, h2, h3, h4, h5, h6, h7, h8, h9⟩ => ⟨h1, h2, h3, h4, h5, h6, h7, h8, fun a ha => (reg_congr rfl a).trans (h9 a ha)⟩
  log := by
    rintro u a v hl ⟨h1, h2, h3, h4, h5, h6, h7, h8, h9⟩
    exact ⟨h1, h2, h3, h4, h5, h6, h7, h8, fun b hb => (reg_setReg_ne u v fun e : b = a => hb.not_logReg (e ▸ hl)).trans (h9 b hb)⟩
  check := fun ⟨h1, h2, h3, h4, h5, h6, h7, h8, h9⟩ => ⟨h1, h2, h3, h4, h5, h6, h7, h8, fun a ha => (reg_congr rfl a).trans (h9 a ha)⟩
  write := fun ⟨h1, h2, h3, h4, h5, h6, h7, h8, h9⟩ => ⟨h1, h2, h3, h4, h5, h6, h7, h8, fun a ha => (reg_congr rfl a).trans (h9 a ha)⟩

section
variable {r : Bool} {s u : State} (h : LoadFrame r s u)
include h

theorem LoadFrame.setReg {a v : Nat} (ha : ¬ LoadKeeps r a) : LoadFrame r s (u.setReg a v) := by
  obtain ⟨h1, h2, h3, h4, h5, h6, h7, h8, h9⟩ := h
  exact ⟨h1, h2, h3, h4, h5, h6, h7, h8, fun b hb => (reg_setReg_ne u v fun e : b = a => ha (e ▸ hb)).trans (h9 b hb)⟩

theorem LoadFrame.fset {a : Nat} {f : Fld} {v : Nat} (ha : ¬ LoadKeeps r a) : LoadFrame r s (fset u a f v) := h.setReg ha

theorem LoadFrame.foldl {β : Type} {l : List β} {f : State → β → State}
    (hf : ∀ {v : State} {b : β}, b ∈ l → LoadFrame r s v → LoadFrame r s (f v b)) : LoadFrame r s (l.foldl f u) :=
  List.foldlRecOn (motive := fun v => LoadFrame r s v) l f h fun _ hv _ hb => hf hb hv

theorem LoadFrame.writeBytes {a : Nat} {bs : List Byte} {poison : Bool} : LoadFrame r s (writeBytes u .other a bs poison) := by
  have := written_loadFrame r s
  exact State.Has.writeBytes (I := LoadFrame r s) h

theorem LoadFrame.writeStack {die : StackId} {off : Nat} {bs : List Byte} : LoadFrame r s (writeStack u die off bs) := by
  have := written_loadFrame r s
  exact State.Has.writeStack (I := LoadFrame r s) h

/-- What the frame says nothing of may differ. -/
theorem LoadFrame.other {mem env errs pools moves chans mesh dies links pins vid} : LoadFrame r s { u with
    mem := mem, env := env, errs := errs, pools := pools, moves := moves, chans := chans, mesh := mesh, dies := dies, links := links
    pins := pins, vid := vid } := by
  obtain ⟨h1, h2, h3, h4, h5, h6, h7, h8, h9⟩ := h
  exact ⟨h1, h2, h3, h4, h5, h6, h7, h8, fun a ha => (reg_congr rfl a).trans (h9 a ha)⟩

/-! ### What a load clears -/

theorem LoadFrame.clearChannels : LoadFrame r s (clearChannels u) := by
  have hout {a : Nat} (ha : a < 0x902000 ∨ 0x904000 ≤ a) : ¬ LoadKeeps r a := fun hk => by
    have := hk.range
    omega
  have hregs (e : Engine) : (chState e < 0x902000 ∨ 0x904000 ≤ chState e) ∧ (chProgress e < 0x902000 ∨ 0x904000 ≤ chProgress e) := by
    cases e with
    | tile t c => simp only [chState, chProgress, DMA_CH_STATE, DMA_CH_PROGRESS]; omega
    | die d c => simp only [chState, chProgress, DIE_CH_STATE, DIE_CH_PROGRESS]; omega
    | host c => simp only [chState, chProgress, HDMA_CH_STATE, HDMA_CH_PROGRESS]; omega
  refine LoadFrame.other (h.foldl fun {v e} _ hv => ?_)
  have hcleared := (hv.fset (f := f_DMA_CH_STATE_HALTED) (v := 0) (hout (hregs e).1)).fset (f := f_DMA_CH_PROGRESS_DONE) (v := 0)
    (hout (hregs e).2)
  split
  · exact (hcleared.fset (hout (hregs e).1)).fset (hout (hregs e).1)
  · exact hcleared

end

theorem loadFrame_clearForLoad (r : Bool) (s : State) : LoadFrame r { s with tiles := [] } (clearForLoad s r) := by
  have hfilter : LoadFrame r s { s with regs := s.regs.filter fun p => !clearedAtLoad r p.1 } :=
    ⟨rfl, rfl, rfl, rfl, rfl, rfl, rfl, rfl, fun a ha => by
      rw [State.reg, State.reg]
      dsimp only
      rw [mapGet_filter (p := fun b => !clearedAtLoad r b) _ (by simp [ha.not_cleared])]⟩
  have hclear : LoadFrame r s (clearChannels (dropWaits { s with regs := s.regs.filter fun p => !clearedAtLoad r p.1 } jobWait)) :=
    LoadFrame.clearChannels (LoadFrame.other hfilter)
  rw [clearForLoad]
  generalize clearChannels (dropWaits { s with regs := s.regs.filter fun p => !clearedAtLoad r p.1 } jobWait) = u at *
  obtain ⟨h1, -, h3, h4, h5, h6, h7, h8, h9⟩ := hclear
  have hbase : LoadFrame r { s with tiles := [] } { u with
      tiles := [], mesh := [], vid := Turnstile.empty, links := { u.links with credits := [], early := [] } } :=
    ⟨h1, rfl, h3, h4, h5, h6, h7, h8, fun a ha => (reg_congr rfl a).trans (h9 a ha)⟩
  exact hbase.setReg fun hk => absurd hk.range (by decide)

/-! ### What every load writes -/

section
variable {r : Bool} {s u : State} (h : LoadFrame r s u)
include h

theorem LoadFrame.applySettings {img : JobImage} : LoadFrame r s (applySettings u img r) := by
  unfold Machine.applySettings
  extract_lets ws v
  have hv : LoadFrame r s v := h.foldl fun {w p} hp hw => by
    have hset : (jobSetting p.1 && !(r && resumeKeeps p.1)) = true := (List.mem_filter.1 hp).2
    unfold writeRw
    split
    · exact hw.setReg fun hk => absurd hset (ne_true_of_eq_false hk.not_setting)
    · exact hw
  refine hv.foldl fun {w p} _ hw => hw.fset fun hk => ?_
  have := hk.range
  unfold CAD_PART at this
  omega

theorem LoadFrame.zeroSteps {old : State} : LoadFrame r s (zeroSteps old u) := by
  refine h.foldl fun {w k} _ hw => ?_
  split
  · exact hw.other
  · exact hw

theorem LoadFrame.applyTileMasks {t : TileId} : LoadFrame r s (applyTileMasks u t) := by
  refine h.foldl fun {w x} hx hw => ?_
  have hx2 : x.2 < 4 := by
    simp only [tileArrays, List.mem_flatMap, List.mem_map, List.mem_range] at hx
    obtain ⟨_, _, _, hlt, rfl⟩ := hx
    exact hlt
  have hc := x.1.core.isLt
  have ht := t.isLt
  have ht' := x.1.tile.isLt
  have hmask : ¬ LoadKeeps r (ARR_BYPASS x.1.tile.val x.1.core.val x.2) := fun hk => by
    have := hk.range
    unfold ARR_BYPASS at this
    omega
  have hwidth (k : TileId) : ¬ LoadKeeps r (ARR_WIDTH k.val x.1.core.val x.2) := fun hk => by
    have := hk.range
    unfold ARR_WIDTH at this
    omega
  have hpend : ¬ LoadKeeps r (ARR_BYPASS_PEND t.val x.1.core.val x.2) := fun hk => by
    have := hk.range
    unfold ARR_BYPASS_PEND at this
    omega
  exact (((((hw.setReg hmask).fset (hwidth _)).fset (hwidth _)).fset (hwidth _)).setReg hpend).fset (hwidth t)

theorem LoadFrame.refreshQstat {t : TileId} : LoadFrame r s (refreshQstat u t) := by
  have hq : ¬ LoadKeeps r (SCU_QSTAT t.val) := fun hk => by
    have := hk.range
    unfold SCU_QSTAT at this
    omega
  exact (((h.fset hq).fset hq).fset hq).fset hq

end

/-- A fold that gives cores of a list, each core once, sequencers. -/
theorem foldl_placeSeq_spec {β : Type} (g : β → Seq) (l : List (CoreId × β)) (hl : (l.map (·.1)).Nodup) (s : State) :
    ∃ qs, l.foldl (fun s p => s.setSeq p.1 (g p.2)) s = { s with seqs := qs } ∧
      (∀ p ∈ l, State.seq { s with seqs := qs } p.1 = g p.2) ∧ ∀ c, c ∉ l.map (·.1) → State.seq { s with seqs := qs } c = s.seq c := by
  induction l generalizing s with
  | nil => exact ⟨s.seqs, rfl, by simp, fun c _ => rfl⟩
  | cons p l ih =>
    obtain ⟨hp, hl⟩ := List.nodup_cons.1 hl
    obtain ⟨qs, he, hin, hout⟩ := ih hl (s.setSeq p.1 (g p.2))
    refine ⟨qs, he, fun x hx => ?_, fun c hc => ?_⟩
    · rcases List.mem_cons.1 hx with rfl | hx
      · exact (hout _ hp).trans (seq_setSeq _ _ _)
      · exact hin x hx
    · simp only [List.map_cons, List.mem_cons, not_or] at hc
      exact (hout c hc.2).trans (seq_setSeq_ne _ _ hc.1)

/-- Cores with code start at its first instruction; nothing else than sequencers changes (R24). -/
theorem startCores_spec (s : State) (img : JobImage) (hcode : (img.code.map (·.1)).Nodup) :
    ∃ qs, startCores s img = { s with seqs := qs } ∧
      ∀ p ∈ img.code, State.seq { s with seqs := qs } p.1 = { Seq.empty with status := .running, code := p.2 } := by
  obtain ⟨qs, he, hin, -⟩ := foldl_placeSeq_spec (fun code : List Word => { Seq.empty with status := .running, code := code }) img.code hcode
    { s with seqs := s.seqs.map fun p => (p.1, { Seq.empty with code := p.2.code }) }
  exact ⟨qs, he, hin⟩

/-- A load before it starts the cores: settings, scratchpads and preloads are in place. -/
def preloaded (s : State) (img : JobImage) (r : Bool) : State :=
  img.preloads.foldl (fun s p => writeBytes s .other p.1 p.2 false) (zeroSteps s (applySettings (clearForLoad s r) img r))

theorem loadFrame_preloaded (s : State) (img : JobImage) (r : Bool) : LoadFrame r { s with tiles := [] } (preloaded s img r) :=
  LoadFrame.foldl (LoadFrame.zeroSteps (LoadFrame.applySettings (loadFrame_clearForLoad r s))) fun _ hv => hv.writeBytes

/-- A load with its cores started and its bypass masks in force. -/
def coresPlaced (s : State) (img : JobImage) : State := (List.finRange 48).foldl applyTileMasks (startCores s img)

theorem loadFrame_coresPlaced (s : State) (img : JobImage) (r : Bool) : LoadFrame r (startCores s img) (coresPlaced s img) :=
  (LoadFrame.refl r _).foldl fun _ hv => hv.applyTileMasks

theorem loadCommon_eq (s : State) (img : JobImage) (r : Bool) : loadCommon s img r = { coresPlaced (preloaded s img r) img with
    job := jobOf img
    car := { (coresPlaced (preloaded s img r) img).car with entries := img.carousel, records := [], declared := [], startStep := none } } := by
  unfold loadCommon coresPlaced preloaded
  rfl

/-- What every accepted load places: the job and the phase table, no tile's state, each core with code at its first instruction; the
slices, the step controller, the repair map and the rings stand (R24, R331). -/
def LoadPlaced (s u : State) (img : JobImage) (r : Bool) : Prop :=
  u.tiles = [] ∧ u.job = jobOf img ∧ u.car.entries = img.carousel ∧
    (∀ p ∈ img.code, u.seq p.1 = { Seq.empty with status := .running, code := p.2 }) ∧ u.slices = s.slices ∧ u.stp = s.stp ∧
    u.repair = s.repair ∧ u.rings = s.rings ∧ ∀ a, LoadKeeps r a → u.reg a = s.reg a

theorem loadPlaced_of_frames {s t v : State} {img : JobImage} {r : Bool} {qs : List (Nat × Seq)} {c : Carousel}
    (ht : LoadFrame r { s with tiles := [] } t)
    (hseq : ∀ p ∈ img.code, State.seq { t with seqs := qs } p.1 = { Seq.empty with status := .running, code := p.2 })
    (hv : LoadFrame r { t with seqs := qs } v) (hc : c.entries = img.carousel) :
    LoadPlaced s { v with job := jobOf img, car := c } img r := by
  obtain ⟨g1, g2, g3, g4, g5, g6, g7, g8, g9⟩ := ht
  obtain ⟨k1, k2, k3, k4, k5, k6, k7, k8, k9⟩ := hv
  refine ⟨k2.trans g2, rfl, hc, fun p hp => ?_, k3.trans g3, k6.trans g6, k7.trans g7, k8.trans g8,
    fun a ha => (reg_congr rfl a).trans ((k9 a ha).trans ((reg_congr rfl a).trans (g9 a ha)))⟩
  exact (congrArg (fun q => mapGet Seq.empty q (16 * p.1.tile.val + p.1.core.val)) k1).trans (hseq p hp)

theorem loadCommon_placed (s : State) (img : JobImage) (r : Bool) (hcode : (img.code.map (·.1)).Nodup) :
    LoadPlaced s (loadCommon s img r) img r := by
  obtain ⟨qs, hstart, hseq⟩ := startCores_spec (preloaded s img r) img hcode
  have hcores := loadFrame_coresPlaced (preloaded s img r) img r
  rw [hstart] at hcores
  rw [loadCommon_eq]
  exact loadPlaced_of_frames (loadFrame_preloaded s img r) hseq hcores rfl

/-! ### A job load -/

/-- The tables of an image that a job load writes: slices and pools, update lists, formats and contexts. -/
def tablesWritten (s : State) (img : JobImage) : State :=
  let s := (List.finRange 48).foldl refreshQstat s
  let s := (List.range 16).foldl (fun s p => fillPool s (p, ((img.pools.find? fun q => q.1 == p).map (·.2)).getD 0)) s
  let s := (List.finRange 24).foldl (writeList img) s
  let s := img.formats.foldl (fun s f => writeBytes s .other (formatAddr s f.1) f.2 false) s
  img.contexts.foldl (fun s c => writeBytes s .other (ctxAddr s c.1) c.2 false) s

/-- Slices, moves and pools are empty, and the step controller is at a job's beginning. -/
def unitsEmptied (s : State) : State :=
  { s with slices := [], moves := [], pools := []
           stp := { StepCtl.empty with exp := signed 8 (fget s INF_LS_STATE f_INF_LS_STATE_EXP) } }

theorem unitsEmptied_parts (s : State) : (unitsEmptied s).slices = [] ∧ (unitsEmptied s).seqs = s.seqs ∧ (unitsEmptied s).tiles = s.tiles ∧
    (unitsEmptied s).job = s.job ∧ (unitsEmptied s).car = s.car ∧ (unitsEmptied s).repair = s.repair ∧ (unitsEmptied s).rings = s.rings :=
  ⟨rfl, rfl, rfl, rfl, rfl, rfl, rfl⟩

theorem loadJob_eq (s : State) (img : JobImage) : loadJob s img =
    showUpdate (fset (fset (fset (tablesWritten (unitsEmptied (cancelCapture (loadCommon s img false))) img)
      INF_STATUS f_INF_STATUS_VERDICT_WAIT 0) TBU_STEP_PERIOD f_TBU_STEP_PERIOD_PERIOD img.period.toNat)
      TBU_RESTART f_TBU_RESTART_STEP 0) := by
  unfold loadJob tablesWritten unitsEmptied
  rfl

/-- A job load keeps no register. -/
theorem not_loadKeeps_false (a : Nat) : ¬ LoadKeeps false a := fun h => Bool.noConfusion h.1

section
variable {s u : State} (h : LoadFrame false s u)
include h

theorem LoadFrame.fsetJob {a : Nat} {f : Fld} {v : Nat} : LoadFrame false s (Machine.fset u a f v) := h.fset (not_loadKeeps_false a)

theorem LoadFrame.cancelCapture : LoadFrame false s (cancelCapture u) := by
  unfold Machine.cancelCapture
  split
  · exact h.fsetJob.fsetJob
  · exact h

theorem LoadFrame.writeList {img : JobImage} {die : StackId} : LoadFrame false s (writeList img u die) :=
  LoadFrame.fsetJob (LoadFrame.other (LoadFrame.foldl h.fsetJob fun _ hv => hv.writeStack))

theorem LoadFrame.tablesWritten {img : JobImage} : LoadFrame false s (tablesWritten u img) := by
  refine LoadFrame.foldl (LoadFrame.foldl (LoadFrame.foldl (LoadFrame.foldl (LoadFrame.foldl h ?_) ?_) ?_) ?_) ?_
  · exact fun _ hv => hv.refreshQstat
  · exact fun _ hv => hv.other.fsetJob.fsetJob
  · exact fun _ hv => hv.writeList
  · exact fun _ hv => hv.writeBytes
  · exact fun _ hv => hv.writeBytes

theorem LoadFrame.showUpdate : LoadFrame false s (showUpdate u) := h.fsetJob.fsetJob

end

theorem reg_showUpdate {s : State} {a : Nat} (h : a ≠ HIF_UPD_STATUS) : (showUpdate s).reg a = s.reg a :=
  (reg_fset_ne _ _ _ h).trans (reg_fset_ne _ _ _ h)

/-- A period and step 0 are what a job load writes last (R23). -/
def periodWritten (s : State) (img : JobImage) : State :=
  showUpdate (fset (fset (fset s INF_STATUS f_INF_STATUS_VERDICT_WAIT 0) TBU_STEP_PERIOD f_TBU_STEP_PERIOD_PERIOD img.period.toNat)
    TBU_RESTART f_TBU_RESTART_STEP 0)

theorem periodWritten_spec (s : State) (img : JobImage) : LoadFrame false s (periodWritten s img) ∧
    fget (periodWritten s img) TBU_STEP_PERIOD f_TBU_STEP_PERIOD_PERIOD = img.period.toNat % 2 ^ 32 ∧
    fget (periodWritten s img) TBU_RESTART f_TBU_RESTART_STEP = 0 := by
  have hframe := (LoadFrame.refl false s).fsetJob (a := INF_STATUS) (f := f_INF_STATUS_VERDICT_WAIT) (v := 0)
  unfold periodWritten
  generalize fset s INF_STATUS f_INF_STATUS_VERDICT_WAIT 0 = u at *
  refine ⟨hframe.fsetJob.fsetJob.showUpdate, (fget_congr (reg_showUpdate (by decide)) _).trans ?_,
    (fget_congr (reg_showUpdate (by decide)) _).trans (fget_fset_same _ _ f_TBU_RESTART_STEP 0 (by decide))⟩
  exact (fget_congr (reg_fset_ne _ _ _ (by decide)) _).trans
    (fget_fset_same u TBU_STEP_PERIOD f_TBU_STEP_PERIOD_PERIOD img.period.toNat (by decide))

/-- What a job load places beyond what every load does (R23, R24). -/
theorem loadJob_placed {s u : State} {img : JobImage} (hcode : (img.code.map (·.1)).Nodup) (hu : loadJob s img = u) :
    u.tiles = [] ∧ u.job = jobOf img ∧ u.car.entries = img.carousel ∧
      (∀ p ∈ img.code, u.seq p.1 = { Seq.empty with status := .running, code := p.2 }) ∧ u.slices = [] ∧ u.repair = s.repair ∧
      u.rings = s.rings ∧ fget u TBU_STEP_PERIOD f_TBU_STEP_PERIOD_PERIOD = img.period.toNat % 2 ^ 32 ∧
      fget u TBU_RESTART f_TBU_RESTART_STEP = 0 := by
  obtain ⟨h1, h2, h3, h4, -, -, h7, h8, -⟩ := loadCommon_placed s img false hcode
  obtain ⟨c1, c2, -, c4, c5, -, c7, c8, -⟩ := (LoadFrame.refl false (loadCommon s img false)).cancelCapture
  rw [loadJob_eq, ← periodWritten] at hu
  generalize cancelCapture (loadCommon s img false) = v at *
  generalize loadCommon s img false = l at *
  obtain ⟨e3, e1, e2, e4, e5, e7, e8⟩ := unitsEmptied_parts v
  generalize unitsEmptied v = w at *
  have htables := (LoadFrame.refl false w).tablesWritten (img := img)
  generalize tablesWritten w img = t at *
  obtain ⟨hlast, hperiod, hstep⟩ := periodWritten_spec t img
  rw [hu] at hlast hperiod hstep
  obtain ⟨k1, k2, k3, k4, k5, -, k7, k8, -⟩ := htables.trans hlast
  refine ⟨k2.trans (e2.trans (c2.trans h1)), k4.trans (e4.trans (c4.trans h2)), ?_, fun p hp => ?_, k3.trans e3,
    k7.trans (e7.trans (c7.trans h7)), k8.trans (e8.trans (c8.trans h8)), hperiod, hstep⟩
  · exact (congrArg Carousel.entries (k5.trans (e5.trans c5))).trans h3
  · exact (congrArg (fun q => mapGet Seq.empty q (16 * p.1.tile.val + p.1.core.val)) (k1.trans (e1.trans c1))).trans (h4 p hp)

/-! ### A resume load -/

section
variable {I : State → Prop} [Checked I] {s : State} (h : s.Has I)
include h

protected theorem State.Has.getElem_ {ag fmt strict bad written e} : (getElem_ s ag fmt strict bad written e).2.Has I := by
  unfold getElem_
  split
  · exact h
  · exact h
  · exact h.takeFree
  · extract_lets own ownScale f
    have hf : f.2.Has I := by unfold f; split; exacts [h.takeFree, h]
    exact hf

omit h in
protected theorem State.Has.getElems {ag fmt strict bad written es} (h : s.Has I) :
    (getElems s ag fmt strict bad written es).2.Has I := by
  induction es generalizing s with
  | nil => exact h
  | cons e es ih => exact ih h.getElem_

protected theorem State.Has.pinnedFlags {p fl} : (pinnedFlags s p fl).Has I := by
  unfold pinnedFlags
  split
  · exact h.setReg.mcTile
  · exact h

end

protected theorem State.Has.convertPinned {I : State → Prop} [Written I] {s : State} (h : s.Has I) {p : Pinned} :
    (convertPinned s p).Has I := by
  unfold convertPinned
  extract_lets v f bad rec_ made
  have hmade : made.2.1.Has I :=
    List.foldlRecOn (motive := fun m : Made × State × Nat => m.2.1.Has I) _ _ h.verifyOtherRange.verifyFormat fun m hm r _ => by
      dsimp only
      exact hm.getElems
  exact hmade.pinnedFlags.writeCells

/-- What a resume load does with the slices and the moves. -/
def unitsResumed (s : State) : State :=
  { s with slices := s.slices.map fun p => (p.1, resumeSlice p.2), moves := s.moves.map fun m => { m with core := 768 } }

theorem unitsResumed_parts (s : State) : (unitsResumed s).seqs = s.seqs ∧ (unitsResumed s).tiles = s.tiles ∧
    (unitsResumed s).job = s.job ∧ (unitsResumed s).car = s.car ∧ (unitsResumed s).stp = s.stp ∧ (unitsResumed s).repair = s.repair ∧
    (unitsResumed s).rings = s.rings ∧ (unitsResumed s).regs = s.regs :=
  ⟨rfl, rfl, rfl, rfl, rfl, rfl, rfl, rfl⟩

theorem resumeLoad_eq (s : State) (img : JobImage) : resumeLoad s img =
    img.pinned.foldl convertPinned ((List.finRange 48).foldl refreshQstat (unitsResumed (loadCommon s img true))) := by
  unfold resumeLoad unitsResumed
  rfl

/-- What a resume load places and leaves: the hold, the loss scale and the seed, the step controller and the repair map (R331). -/
theorem resumeLoad_placed {s u : State} {img : JobImage} (hcode : (img.code.map (·.1)).Nodup) (hu : resumeLoad s img = u) :
    u.tiles = [] ∧ u.job = jobOf img ∧ u.car.entries = img.carousel ∧
      (∀ p ∈ img.code, u.seq p.1 = { Seq.empty with status := .running, code := p.2 }) ∧ u.stp = s.stp ∧ u.repair = s.repair ∧
      u.rings = s.rings ∧ ∀ a, LoadKeeps true a → u.reg a = s.reg a := by
  obtain ⟨h1, h2, h3, h4, -, h6, h7, h8, h9⟩ := loadCommon_placed s img true hcode
  rw [resumeLoad_eq] at hu
  generalize loadCommon s img true = l at *
  obtain ⟨e1, e2, e4, e5, e6, e7, e8, e9⟩ := unitsResumed_parts l
  generalize unitsResumed l = w at *
  have hlast : LoadFrame true w u := by
    rw [← hu]
    have := written_loadFrame true w
    refine State.Has.foldl (I := LoadFrame true w) ?_ fun hv => hv.convertPinned
    exact (LoadFrame.refl true w).foldl fun _ hv => hv.refreshQstat
  obtain ⟨k1, k2, -, k4, k5, k6, k7, k8, k9⟩ := hlast
  refine ⟨k2.trans (e2.trans h1), k4.trans (e4.trans h2), (congrArg Carousel.entries (k5.trans e5)).trans h3, fun p hp => ?_,
    k6.trans (e6.trans h6), k7.trans (e7.trans h7), k8.trans (e8.trans h8), fun a ha => (k9 a ha).trans ((reg_congr e9 a).trans (h9 a ha))⟩
  exact (congrArg (fun q => mapGet Seq.empty q (16 * p.1.tile.val + p.1.core.val)) (k1.trans e1)).trans (h4 p hp)

/-! ### LOAD_JOB -/

/-- A command in execution stands in its ring, and no completion waits there. -/
theorem command_ring {s : State} {q : RingId} {op : Nat} {cmd : List Byte} (h : command s q op = some cmd) :
    (s.ring q).cur = some cmd ∧ (s.ring q).waiting = none := by
  unfold command at h
  split at h
  · cases h
  · next hw => exact ⟨(Option.filter_eq_some_iff.1 h).1, by simpa using hw⟩

theorem ring_fset (s : State) (a : Nat) (f : Fld) (v : Nat) (q : RingId) : (fset s a f v).ring q = s.ring q := (rfl)

theorem ringMoved_ring (s : State) (q : RingId) (n : Nat) : (ringMoved s q n).ring q = s.ring q := ring_fset s _ _ _ q

theorem reg_ringMoved {s : State} {q : RingId} {n a : Nat} (h : a ≠ HDMA_CH_PROGRESS q.val) : (ringMoved s q n).reg a = s.reg a :=
  reg_fset_ne _ _ _ h

/-- A completion over one memory is one over another that holds the same bytes and whose ring has the same registers. -/
theorem completed_congr {s w t : State} {q : RingId} (hmem : w.mem = s.mem)
    (hreg : ∀ a, a < 0x907000 ∨ 0x908000 ≤ a → w.reg a = s.reg a) {cmd : List Byte} {status detail value : Nat}
    (h : Completed w t q cmd status detail value) : Completed s t q cmd status detail value := by
  have hcq : w.reg (HIF_CQ_CTL q.val) = s.reg (HIF_CQ_CTL q.val) := hreg _ (.inr (by unfold HIF_CQ_CTL; omega))
  have hsq : w.reg (HIF_SQ_CTL q.val) = s.reg (HIF_SQ_CTL q.val) := hreg _ (.inr (by unfold HIF_SQ_CTL; omega))
  have hbase : w.reg (HIF_CQ_BASE q.val) = s.reg (HIF_CQ_BASE q.val) := hreg _ (.inr (by unfold HIF_CQ_BASE; omega))
  have hsize : cqSize w q = cqSize s q := congrArg ringSize (fget_congr hcq _)
  have hslot : cqSlot w q = cqSlot s q := by rw [cqSlot, cqSlot, ringAddr, ringAddr, hbase, hsize, fget_congr hcq]
  have hstatus : w.reg HIF_STATUS = s.reg HIF_STATUS := hreg _ (by decide)
  have hdown (a : Nat) : hostDown w a = hostDown s a := by
    rw [hostDown, hostDown, portUp, portUp, fbit_congr hstatus, fbit_congr hstatus]
  have htakes : CqTakes w q ↔ CqTakes s q := by
    rw [CqTakes, CqTakes, hsize, hslot, hdown, fbit_congr hcq, fbit_congr hcq]
  have hbytes : completionBytes w q cmd status detail value = completionBytes s q cmd status detail value := by
    rw [completionBytes, completionBytes, fget_congr hcq, fget_congr hsq]
  obtain ⟨htook, hwaits⟩ := h
  refine ⟨fun hs => ?_, fun hs => ?_⟩
  · obtain ⟨hcur, htail, hb⟩ := htook (htakes.2 hs)
    rw [fget_congr hcq, hsize] at htail
    refine ⟨hcur, htail, fun k => (hb k).trans ?_⟩
    rw [hslot, hbytes]
    exact byteAt_congr (mem_writeBytes_congr hmem (hreg _ (by decide)) _ _ _ _) k
  · obtain ⟨hcur, hw, hb⟩ := hwaits fun hw => hs (htakes.1 hw)
    exact ⟨hcur, hw, fun k => (hb k).trans (byteAt_congr hmem k)⟩

/-- A load whose image is read is rejected before any write, or runs (R371). -/
theorem runLoad_reads {s : State} {q : RingId} {cmd : List Byte} {img : JobImage} {r : Bool} (hup : hostDown s (cmdAddr cmd) = false)
    (hmap : rangeMapped s .other (cmdAddr cmd) (cmdSize cmd) = true) (hret : rangeRetired s (cmdAddr cmd) (cmdSize cmd) = false) :
    (loadFault s img r ≠ 0 → runLoad s q cmd img r = completeRing (ringMoved s q (cmdSize cmd)) q 3 (loadFault s img r) 0) ∧
      (loadFault s img r = 0 → runLoad s q cmd img r = completeRing (if r then resumeLoad (ringMoved s q (cmdSize cmd)) img
        else loadJob (ringMoved s q (cmdSize cmd)) img) q 0 0 0) := by
  have he : runLoad s q cmd img r = if loadFault s img r ≠ 0 then completeRing (ringMoved s q (cmdSize cmd)) q 3 (loadFault s img r) 0
      else completeRing (if r then resumeLoad (ringMoved s q (cmdSize cmd)) img else loadJob (ringMoved s q (cmdSize cmd)) img) q 0 0 0 := by
    unfold runLoad
    extract_lets a f u
    rw [if_neg (ne_true_of_eq_false hup), if_neg (by simp [a, hmap, hret])]
  exact ⟨fun h => he.trans (if_pos h), fun h => he.trans (if_neg (not_not_intro h))⟩

/-- A command that completes without an effect of its own. -/
theorem completeRing_alone {s : State} {q : RingId} {cmd : List Byte} {op : Nat} (h : command s q op = some cmd)
    (status detail value : Nat) : Completed s (completeRing s q status detail value) q cmd status detail value ∧
      KeepsUnits s (completeRing s q status detail value) ∧ KeepsJob s (completeRing s q status detail value) := by
  obtain ⟨hcur, hwait⟩ := command_ring h
  obtain ⟨hunits, hjob, -⟩ := ringFrame_completeRing q s status detail value
  exact ⟨completeRing_spec hcur hwait _ _ _, hunits, hjob⟩

theorem ringMoved_frame (s : State) (q : RingId) (n : Nat) : OnlyRegs s (ringMoved s q n) := (OnlyRegs.refl s).fset

/-- The registers of a ring's host channel are none of others' blocks. -/
theorem reg_ringMoved_far {s : State} {q : RingId} {n a : Nat} (h : a < 0x907000 ∨ 0x908000 ≤ a) : (ringMoved s q n).reg a = s.reg a :=
  reg_ringMoved (by
    have := q.isLt
    unfold HDMA_CH_PROGRESS
    omega)

/-- A load that is rejected completes so, and nothing else changes but the bytes that its channel has moved (R23, R371). -/
theorem rejected_spec {s : State} {q : RingId} {cmd : List Byte} {op : Nat} (h : command s q op = some cmd) (n detail : Nat) :
    Completed s (completeRing (ringMoved s q n) q 3 detail 0) q cmd 3 detail 0 ∧
      KeepsUnits s (completeRing (ringMoved s q n) q 3 detail 0) ∧ KeepsJob s (completeRing (ringMoved s q n) q 3 detail 0) := by
  obtain ⟨hcur, hwait⟩ := command_ring h
  have hfar (a : Nat) := reg_ringMoved_far (s := s) (q := q) (n := n) (a := a)
  have hring := ringMoved_ring s q n
  obtain ⟨regs, hm⟩ := ringMoved_frame s q n
  rw [hm] at hfar hring ⊢
  obtain ⟨hunits, hjob, -⟩ := ringFrame_completeRing q { s with regs := regs } 3 detail 0
  have hdone := completeRing_spec ((congrArg Ring.cur hring).trans hcur) ((congrArg Ring.waiting hring).trans hwait) 3 detail 0
  exact ⟨completed_congr (s := s) (w := { s with regs := regs }) rfl hfar hdone, hunits, hjob⟩

/-- The registers of a job's steps stand while a command completes. -/
theorem completeRing_reg {q : RingId} {s : State} {status detail value a : Nat} (hlo : 0x902000 ≤ a) (hhi : a < 0x904000) :
    (completeRing s q status detail value).reg a = s.reg a :=
  (ringFrame_completeRing q s status detail value).2.2 a (by unfold LogReg; omega) (by unfold HIF_CQ_CTL; omega)

/-- A job load outside a blackout: refused while the carousel is not idle, and run in IDLE_READY (R371). -/
theorem execLoadJob_eq {s : State} {q : RingId} {cmd : List Byte} (img : JobImage) (hcmd : command s q 1 = some cmd)
    (hblack : blackout s = false) (hres : isResume cmd = false) :
    (fbit s TBU_STATUS f_TBU_STATUS_CAROUSEL_IDLE = false → execLoadJob q img s = .next (completeRing s q 2 1 0)) ∧
      (fbit s TBU_STATUS f_TBU_STATUS_CAROUSEL_IDLE = true → fget s PWR_STATE f_PWR_STATE_STATE = 2 →
        execLoadJob q img s = .next (runLoad s q cmd img false)) := by
  have hc : (command s q 1).filter (fun c => !isResume c) = some cmd := by rw [hcmd, Option.filter_some, if_pos (by simp [hres])]
  refine ⟨fun hidle => ?_, fun hidle hst => ?_⟩ <;> simp only [execLoadJob, hc]
  · rw [if_neg (ne_true_of_eq_false hblack), if_pos (by simp [hidle])]
  · rw [if_neg (ne_true_of_eq_false hblack), if_neg (by simp [hidle]), if_neg (not_not_intro hst)]

/-- A resume load outside a blackout: refused outside a hold (R331). -/
theorem execResumeLoad_eq {s : State} {q : RingId} {cmd : List Byte} (img : JobImage) (hcmd : command s q 1 = some cmd)
    (hblack : blackout s = false) (hres : isResume cmd = true) :
    (held s = false → execResumeLoad q img s = .next (completeRing s q 2 2 0)) ∧
      (held s = true → execResumeLoad q img s = .next (runLoad s q cmd img true)) := by
  have hc : (command s q 1).filter isResume = some cmd := by rw [hcmd, Option.filter_some, if_pos hres]
  refine ⟨fun hheld => ?_, fun hheld => ?_⟩ <;> simp only [execResumeLoad, hc]
  · rw [if_neg (ne_true_of_eq_false hblack), if_pos (by simp [hheld])]
  · rw [if_neg (ne_true_of_eq_false hblack), if_neg (by simp [hheld])]

/-- What the completion of a load leaves of what it placed. -/
theorem completeRing_keeps (s : State) (q : RingId) :
    let t := completeRing s q 0 0 0
    t.job = s.job ∧ t.car = s.car ∧ t.tiles = s.tiles ∧ (∀ c, t.seq c = s.seq c) ∧ t.slices = s.slices ∧ t.stp = s.stp ∧
      t.repair = s.repair ∧ ∀ a, 0x902000 ≤ a → a < 0x904000 → t.reg a = s.reg a := by
  have hreg (a : Nat) := completeRing_reg (q := q) (s := s) (status := 0) (detail := 0) (value := 0) (a := a)
  obtain ⟨⟨hseqs, htiles, hslices, -⟩, ⟨hjob, hcar, hstp, hrepair⟩, -⟩ := ringFrame_completeRing q s 0 0 0
  exact ⟨hjob, hcar, htiles, fun c => congrArg (fun qs => mapGet Seq.empty qs (16 * c.tile.val + c.core.val)) hseqs, hslices, hstp,
    hrepair, fun a => hreg a⟩

/-- The accepted job load (R23, R24, R371). -/
theorem loadJob_completed {s w : State} {q : RingId} {img : JobImage} {cmd : List Byte} {op : Nat} (hcmd : command s q op = some cmd)
    (hring : w.ring q = s.ring q) (hrepair : w.repair = s.repair) (hcode : (img.code.map (·.1)).Nodup) :
    let t := completeRing (loadJob w img) q 0 0 0
    (t.job = jobOf img ∧ t.car.entries = img.carousel ∧ t.tiles = [] ∧
      ∀ p ∈ img.code, t.seq p.1 = { Seq.empty with status := .running, code := p.2 }) ∧
    Completed (loadJob w img) t q cmd 0 0 0 ∧ fget t TBU_STEP_PERIOD f_TBU_STEP_PERIOD_PERIOD = img.period.toNat % 2 ^ 32 ∧
    fget t TBU_RESTART f_TBU_RESTART_STEP = 0 ∧ t.slices = [] ∧ t.repair = s.repair := by
  obtain ⟨hcur, hwait⟩ := command_ring hcmd
  obtain ⟨h1, h2, h3, h4, h5, h6, h7, h8, h9⟩ := loadJob_placed hcode rfl
  generalize loadJob w img = v at *
  obtain ⟨k1, k2, k3, k4, k5, -, k7, k8⟩ := completeRing_keeps v q
  have hv : v.ring q = s.ring q := (congrArg (mapGet Ring.empty · q.val) h7).trans hring
  refine ⟨⟨k1.trans h2, (congrArg Carousel.entries k2).trans h3, k3.trans h1, fun p hp => (k4 p.1).trans (h4 p hp)⟩,
    completeRing_spec ((congrArg Ring.cur hv).trans hcur) ((congrArg Ring.waiting hv).trans hwait) 0 0 0,
    (fget_congr (k8 _ (by decide) (by decide)) _).trans h8, (fget_congr (k8 _ (by decide) (by decide)) _).trans h9, k5.trans h5,
    k7.trans (h6.trans hrepair)⟩

/-- The accepted resume load (R331, R371). -/
theorem resumeLoad_completed {s w : State} {q : RingId} {img : JobImage} {cmd : List Byte} {op : Nat} (hcmd : command s q op = some cmd)
    (hring : w.ring q = s.ring q) (hrepair : w.repair = s.repair) (hstp : w.stp = s.stp)
    (hreg : ∀ a, a < 0x907000 ∨ 0x908000 ≤ a → w.reg a = s.reg a) (hheld : held s = true) (hcode : (img.code.map (·.1)).Nodup) :
    let t := completeRing (resumeLoad w img) q 0 0 0
    (t.job = jobOf img ∧ t.car.entries = img.carousel ∧ t.tiles = [] ∧
      ∀ p ∈ img.code, t.seq p.1 = { Seq.empty with status := .running, code := p.2 }) ∧
    Completed (resumeLoad w img) t q cmd 0 0 0 ∧ t.reg INF_LS_STATE = s.reg INF_LS_STATE ∧ held t = true ∧ t.stp = s.stp ∧
    t.repair = s.repair ∧ ∀ n stream d, drawOf t n stream d = drawOf s n stream d := by
  obtain ⟨hcur, hwait⟩ := command_ring hcmd
  obtain ⟨h1, h2, h3, h4, h5, h6, h7, h8⟩ := resumeLoad_placed (s := w) hcode rfl
  generalize resumeLoad w img = v at *
  obtain ⟨k1, k2, k3, k4, -, k6, k7, k8⟩ := completeRing_keeps v q
  have hv : v.ring q = s.ring q := (congrArg (mapGet Ring.empty · q.val) h7).trans hring
  have hkept (a : Nat) (ha : LoadKeeps true a) : (completeRing v q 0 0 0).reg a = s.reg a :=
    (k8 a ha.range.1 ha.range.2).trans ((h8 a ha).trans (hreg a (.inl (by have := ha.range; omega))))
  have hseed := hkept INF_SEED ⟨rfl, .inr (.inr rfl)⟩
  refine ⟨⟨k1.trans h2, (congrArg Carousel.entries k2).trans h3, k3.trans h1, fun p hp => (k4 p.1).trans (h4 p hp)⟩,
    completeRing_spec ((congrArg Ring.cur hv).trans hcur) ((congrArg Ring.waiting hv).trans hwait) 0 0 0,
    hkept _ ⟨rfl, .inr (.inl rfl)⟩, (fbit_congr (hkept _ ⟨rfl, .inl rfl⟩) _).trans hheld, k6.trans (h5.trans hstp),
    k7.trans (h6.trans hrepair), fun n stream d => ?_⟩
  rw [drawOf, drawOf, hseed]

/-- Settles O52: the refusals and rejections by the completion alone, the accepted loads by what they place and what their completion
leaves of it. -/
theorem loadsPlaceTheJobOrRejectIt : Obligations.LoadsPlaceTheJobOrRejectIt := by
  intro s q img cmd hcmd hblack
  have hring := ringMoved_ring s q (cmdSize cmd)
  have hfar (a : Nat) := reg_ringMoved_far (s := s) (q := q) (n := cmdSize cmd) (a := a)
  have hsame : (ringMoved s q (cmdSize cmd)).repair = s.repair ∧ (ringMoved s q (cmdSize cmd)).stp = s.stp := by
    obtain ⟨_, hm⟩ := ringMoved_frame s q (cmdSize cmd)
    rw [hm]
    exact ⟨rfl, rfl⟩
  refine ⟨fun hres => ?_, fun hres => ?_⟩
  · obtain ⟨hbusy, hruns⟩ := execLoadJob_eq img hcmd hblack hres
    refine ⟨fun hidle => ⟨_, hbusy hidle, completeRing_alone hcmd 2 1 0⟩, fun hidle hst ⟨hup, hmap, hret⟩ => ?_⟩
    obtain ⟨hbad, hgood⟩ := runLoad_reads (q := q) (img := img) (r := false) hup hmap hret
    exact ⟨fun hf => ⟨_, (hruns hidle hst).trans (congrArg _ (hbad hf)), rejected_spec hcmd _ _⟩,
      fun hf hcode => ⟨_, (hruns hidle hst).trans (congrArg _ (hgood hf)), loadJob_completed hcmd hring hsame.1 hcode⟩⟩
  · obtain ⟨hbusy, hruns⟩ := execResumeLoad_eq img hcmd hblack hres
    refine ⟨fun hheld => ⟨_, hbusy hheld, completeRing_alone hcmd 2 2 0⟩, fun hheld ⟨hup, hmap, hret⟩ => ?_⟩
    obtain ⟨hbad, hgood⟩ := runLoad_reads (q := q) (img := img) (r := true) hup hmap hret
    exact ⟨fun hf => ⟨_, (hruns hheld).trans (congrArg _ (hbad hf)), rejected_spec hcmd _ _⟩,
      fun hf hcode => ⟨_, (hruns hheld).trans (congrArg _ (hgood hf)),
        resumeLoad_completed hcmd hring hsame.1 hsame.2 hfar hheld hcode⟩⟩

end Sys2Proof.Machine
end

section
/-! What a beat leaves: whatever units, faults and waiting requests do in it, the counter advances by one (R34, R455). -/

namespace Sys2Proof.Machine

/-- A property that the beat counter alone can end. -/
class Ticked (I : State → Prop) : Prop extends Timed I where
  ticked : ∀ {s : State} {a v : Nat}, s.Has I → (s.setReg a v).Has I

section
variable {I : State → Prop} [Ticked I] {s : State} (h : s.Has I)
include h

protected theorem State.Has.setRegAny {a v : Nat} : (s.setReg a v).Has I := Ticked.ticked h

protected theorem State.Has.fsetAny {a : Nat} {f : Fld} {v : Nat} : (fset s a f v).Has I := h.setRegAny

protected theorem State.Has.faddAny {a : Nat} {f : Fld} {n : Nat} : (fadd s a f n).Has I := h.fsetAny

/-- Any unit writes memory. -/
protected theorem State.Has.writeAny {ag ws} : (writeCells s ag ws).Has I := by
  obtain ⟨_, _, _, _, hw, -⟩ := writeCells_frame s ag ws
  rw [hw]
  exact h.update

end

/-! ### Faults, stops and pulses -/

section
variable {I : State → Prop} [Ticked I] {s : State} (h : s.Has I)
include h

protected theorem State.Has.setSeq {c x} : (s.setSeq c x).Has I := h.update

protected theorem State.Has.setChan {e x} : (s.setChan e x).Has I := h.update

protected theorem State.Has.setRing {q x} : (s.setRing q x).Has I := h.update

protected theorem State.Has.withhold {n} : (withhold s n).Has I := h.update

protected theorem State.Has.integrityEvent {t kind unit core a} : (integrityEvent s t kind unit core a).Has I :=
  (h.faddAny.ite h.fsetAny.fsetAny.fsetAny.fsetAny.fsetAny.fsetAny.fsetAny).use fun h1 => (h1.fsetAny.interrupt.ite h1.fsetAny).post.withhold

protected theorem State.Has.integrityAll {t unit core bad} : (integrityAll s t unit core bad).Has I :=
  h.foldl fun hu => hu.integrityEvent

protected theorem State.Has.linkPassed {k} : (linkPassed s k).Has I := h.update

protected theorem State.Has.sendMesh {f} : (sendMesh s f).Has I := h.update

protected theorem State.Has.leavePort {plane m} : (leavePort s plane m).Has I := h.emit.ite h.sendSpan

protected theorem State.Has.passDie {t east} : (passDie s t east).Has I := h.foldl fun hu => hu.linkPassed

protected theorem State.Has.sendPort {t plane m} : (sendPort s t plane m).Has I := h.update.ite h.passDie.leavePort

protected theorem State.Has.sendPacket {src peer p} : (sendPacket s src peer p).Has I :=
  (h.verifyPeer.sendPort.ite h.verifyPeer).ite (h.sendPort.ite h.sendMesh)

protected theorem State.Has.provingRestart : (provingRestart s).Has I := h.fsetAny.ite h

protected theorem State.Has.stopTile {t data} : (stopTile s t data).Has I :=
  h.withhold.ite
    ((h.withhold.setTile.foldl fun hu2 => hu2.ite hu2.setSeq).post.raiseAlert.interrupt.provingRestart.use fun h4 =>
    (h4.tilePhaseEnds.ite h4).settle)

protected theorem State.Has.faultStop {t data} : (faultStop s t data).Has I := (h.ite h.fireSnapshot).stopTile

protected theorem State.Has.programFault {t cause ev core pc} : (programFault s t cause ev core pc).Has I :=
  (h.ite h.fsetAny.fsetAny.fsetAny.fsetAny.fsetAny.fsetAny).faultStop

protected theorem State.Has.setEv {t ev n} : (setEv s t ev n).Has I := h.setTile

protected theorem State.Has.grantWaits {t ev} : (grantWaits s t ev).Has I := h.foldl fun hu => hu.setSeq.setEv.ite hu

protected theorem State.Has.pulseAt {t ev} : (pulseAt s t ev).Has I := h.grantWaits.programFault.ite h.grantWaits.setEv

end

/-! ### Rings and channels -/

section
variable {I : State → Prop} [Ticked I] {s : State} (h : s.Has I)
include h

protected theorem State.Has.announce {q} : (announce s q).Has I := h.setRing.msix

protected theorem State.Has.moderate {q} : (moderate s q).Has I := (h.setRing.announce.ite h.setRing).ite h

protected theorem State.Has.advanceTail {q} : (advanceTail s q).Has I := h.fsetAny.fsetAny.fsetAny

protected theorem State.Has.flushRing {q} : (flushRing s q).Has I := by
  unfold flushRing
  dsimp only
  split
  · exact h.ite (h.waitLink.ite (h.writeBytes.setRing.advanceTail.use fun h2 => h2.ite h2.moderate))
  · exact h

protected theorem State.Has.completeRing {q status detail value} : (completeRing s q status detail value).Has I :=
  h.setRing.flushRing.ite h

protected theorem State.Has.chBusy {e busy addr} : (chBusy s e busy addr).Has I := h.fsetAny.fsetAny

protected theorem State.Has.abortSeen {t c} : (abortSeen s t c).Has I := h.setRegAny.interrupt.ite h.setRegAny

protected theorem State.Has.writeAbort {t c a bytes} : (writeAbort s t c a bytes).Has I :=
  h.abortSeen.ite (h.waitLink.ite (State.Has.writeAny (s := s) h).abortSeen)

protected theorem State.Has.abortChannel {e cause residue addr} : (abortChannel s e cause residue addr).Has I := by
  unfold abortChannel
  dsimp only
  split
  · split
    · exact h.setRegAny.chBusy.fsetAny.setChan.writeAbort.post.setSeq.faultStop
    · exact h.setRegAny.chBusy.fsetAny.setChan.writeAbort.post
  · exact h.setRegAny.chBusy.fsetAny.setChan.post.completeRing
  · exact h.setRegAny.chBusy.fsetAny.setChan.post

protected theorem State.Has.channelPulse {e ev} : (channelPulse s e ev).Has I := by
  unfold channelPulse
  split
  · exact h.pulseAt.ite h
  · split
    · exact h.pulseAt
    · exact h
  · exact h

protected theorem State.Has.copyEnds {e} : (copyEnds s e).Has I := by
  unfold copyEnds
  split
  · exact h.completeRing.ite h.completeRing
  · exact h

protected theorem State.Has.chRead {e n} : (chRead s e n).Has I := h.fsetAny

protected theorem State.Has.completeDesc {e a d bytes} : (completeDesc s e a d bytes).Has I := by
  unfold completeDesc
  dsimp only
  refine h.chRead.fsetAny.chBusy.setChan.ite ?_
  split
  · split
    · exact h.chRead.fsetAny.chBusy.setChan.setSeq
    · exact h.chRead.fsetAny.chBusy.setChan
  · exact h.chRead.fsetAny.chBusy.setChan.channelPulse.copyEnds

protected theorem State.Has.dmaPoison {e bad} : (dmaPoison s e bad).Has I := by
  unfold dmaPoison
  dsimp only
  split
  · exact h.integrityAll.ite h
  · split
    · exact h
    · exact h.setChan
  · exact h

end

/-! ### Collectives -/

section
variable {I : State → Prop} [Ticked I] {s : State} (h : s.Has I)
include h

protected theorem State.Has.withPorts {e ps act} (hact : ∀ {u : State}, u.Has I → (act u).Has I) :
    (withPorts s e ps act).Has I := by
  unfold withPorts
  split
  · exact h.waitLink
  · exact hact h

protected theorem State.Has.sendNumbered {src peer p} : (sendNumbered s src peer p).Has I := h.update.sendPacket

protected theorem State.Has.sendData {t c dest seg payload poison} : (sendData s t c dest seg payload poison).Has I :=
  h.sendNumbered

protected theorem State.Has.readSegment {e a n} : (readSegment s e a n).2.2.Has I := by
  unfold readSegment
  refine State.Has.dmaPoison ?_
  cases pathError (verifyRange s (chAgent e) a n).2 e false with
  | none => exact h.verifyRange
  | some k => exact h.verifyRange.clearErr

protected theorem State.Has.chAdd {e n} : (chAdd s e n).Has I := h.chRead

protected theorem State.Has.writeSegment {e a bs poison} : (writeSegment s e a bs poison).Has I := h.writeAny

protected theorem State.Has.setColl {e c} : (setColl s e c).Has I := h.setChan

protected theorem State.Has.withSegment {e a n act} (hact : ∀ {u : State} {x0}, u.Has I → (act u x0).Has I) :
    (withSegment s e a n act).Has I := by
  unfold withSegment
  split
  · exact h.abortChannel.ite (hact h)
  · exact h

protected theorem State.Has.noteSent {e dest seg} : (noteSent s e dest seg).Has I := by
  unfold noteSent
  split
  · exact h.setColl
  · exact h

protected theorem State.Has.noteGot {e seg} : (noteGot s e seg).Has I := by
  unfold noteGot
  split
  · exact h.setColl
  · exact h

protected theorem State.Has.collCheck {e} : (collCheck s e).Has I := by
  unfold collCheck
  split
  · exact h.setChan.completeDesc.ite h
  · exact h

protected theorem State.Has.sendSegment {t e c dest seg} : (sendSegment s t e c dest seg).Has I := by
  unfold sendSegment
  refine h.withSegment fun {u x} hu => ?_
  have hread : (readSegment u e (srcSeg c seg) (1024 * wide (parseColl c.desc).srcFmt)).2.2.Has I := hu.readSegment
  exact hread.sendData.noteSent

protected theorem State.Has.holdCredit {t id me seg} : (holdCredit s t id me seg).Has I := h.update

protected theorem State.Has.contribute {t e seg} : (contribute s t e seg).Has I := by
  unfold contribute
  split
  · exact h.ite (h.holdCredit.ite h.chAdd.setColl.sendSegment)
  · exact h

protected theorem State.Has.placeSegment {e seg bs poison} : (placeSegment s e seg bs poison).Has I := by
  unfold placeSegment
  split
  · exact h.withSegment fun hu => hu.writeSegment.noteGot
  · exact h

protected theorem State.Has.storeContribution {e c slot p} : (storeContribution s e c slot p).Has I := by
  unfold storeContribution
  exact h.withSegment fun hu => hu.dmaPoison.writeAny.setColl

protected theorem State.Has.collFault {t id from_ what} : (collFault s t id from_ what).Has I :=
  (h.ite h.fsetAny.fsetAny.fsetAny.fsetAny).faultStop

protected theorem State.Has.payloadPoison {e a poison} : (payloadPoison s e a poison).Has I := h.dmaPoison

protected theorem State.Has.takeData {p e c} : (takeData s p e c).Has I := by
  unfold takeData
  refine .ite ?_ (h.ite (h.update.ite h.payloadPoison.placeSegment.collCheck))
  refine h.collFault.ite ?_
  refine h.ite ?_
  split
  · exact h.storeContribution
  · exact h.update

protected theorem State.Has.deliverEarly {t e} : (deliverEarly s t e).Has I := by
  unfold deliverEarly
  split
  · exact h.update.foldl fun hu => by split; exacts [hu.takeData, hu]
  · exact h

protected theorem State.Has.retryColls : (retryColls s).Has I :=
  (h.foldl fun hu => by split; exacts [hu.update.contribute, hu]).foldl fun hu1 => (hu1.foldl fun hu2 => hu2.deliverEarly).ite hu1

end

/-! ### Requests served -/

section
variable {I : State → Prop} [Ticked I] {s : State} (h : s.Has I)
include h

protected theorem State.Has.rdmaAnswer {qpn data} : (rdmaAnswer s qpn data).Has I := h.emit

protected theorem State.Has.performRdma {qpn op} : (performRdma s qpn op).Has I := by
  unfold performRdma
  dsimp only
  split
  · exact h.writeBytes.rdmaAnswer
  · refine State.Has.rdmaAnswer ?_
    split
    · exact h.verifyRange
    · exact h.verifyRange.takeFree
  · exact h.takeFree.rdmaAnswer

protected theorem State.Has.serveRdma {qpn rkey op} : (serveRdma s qpn rkey op).Has I := by
  unfold serveRdma
  refine h.rdmaAnswer.ite ?_
  refine h.performRdma.ite ?_
  split
  · exact h.rdmaAnswer
  · exact h.waitLink.ite (h.update.ite h.performRdma)

protected theorem State.Has.serveHeld : (serveHeld s).Has I := h.update.foldl fun hu => hu.serveRdma

end

/-! ### The turnstile -/

section
variable {I : State → Prop} [Ticked I] {s : State} (h : s.Has I)
include h

protected theorem State.Has.verifyStamp {x p g} : (verifyStamp s x p g).2.Has I := by
  unfold verifyStamp
  split
  · exact h
  · exact h.verifyRange

protected theorem State.Has.showTurnstile : (showTurnstile s).Has I := h.fsetAny.fsetAny

protected theorem State.Has.leaveTurnstile {e} : (leaveTurnstile s e).Has I := h.setChan.update.showTurnstile

protected theorem State.Has.clampsOf {e fl} : (clampsOf s e fl).Has I := by
  unfold clampsOf
  split
  · exact h.mcTile
  · exact h

omit h in
protected theorem State.Has.runGroups {x p pol m full fs poison tsBase engine g n} {r : ClipRun} (h : r.s.Has I) :
    (runGroups x p pol m full fs poison tsBase engine g n r).s.Has I := by
  induction n generalizing g r with
  | zero => exact h
  | succ n ih =>
    unfold runGroups
    dsimp only
    split
    · exact h
    · split
      · exact h
      · refine ih ?_
        dsimp only
        split
        · exact h.writeAny.mergeAmax.verifyStamp.writeBytes
        · exact h.writeAny.mergeAmax

protected theorem State.Has.runIntake {e engine a d rec_ k limit} :
    (runIntake s e engine a d rec_ k limit).Has I := by
  unfold runIntake
  extract_lets x p tsValid finish v u clip fs c ts n fits r w firstBad
  have hfinish {u : State} {status fl done replaced firstBad} (hu : u.Has I) :
      (finish u status fl done replaced firstBad).Has I :=
    hu.leaveTurnstile.abortChannel.ite (hu.leaveTurnstile.abortChannel.ite
      (hu.writeBytes.faddAny.use fun h1 => (h1.faddAny.ite h1).leaveTurnstile.completeDesc))
  have hu : u.Has I := h.verifyRange
  have hr : r.s.Has I := State.Has.runGroups (r := ⟨u, 0, 0, {}, false, false⟩) hu
  have hw : w.Has I := hr.mcModule.clampsOf
  exact (hfinish h).ite (h.leaveTurnstile.abortChannel.ite ((hfinish hu).ite (hw.leaveTurnstile.abortChannel.ite (hfinish hw))))

protected theorem State.Has.finishEngine {r} : (finishEngine s r).Has I := by
  unfold finishEngine
  dsimp only
  split
  · exact h.ite (h.withPorts fun hu => hu.runIntake)
  · exact h.update.showTurnstile

protected theorem State.Has.engineTick : (engineTick s).Has I := by
  unfold engineTick
  dsimp only
  refine h.ite ?_
  split
  · exact h.takeFree.finishEngine
  · exact h.takeFree

end

/-! ### Fills -/

section
variable {I : State → Prop} [Ticked I] {s : State} (h : s.Has I)
include h

protected theorem State.Has.fillRequest {die} : (fillRequest s die).Has I := h.emit

protected theorem State.Has.fillTake {die item} : (fillTake s die item).Has I := by
  unfold fillTake
  dsimp only
  split
  · exact h.setDie.writeStack.writeBytes.fsetAny.fsetAny.fsetAny
  · exact h.setDie.ite (h.setDie.entryBad.ite (h.setDie.entryBad.writeStack.fsetAny.use fun h4 => h4.fsetAny.ite (h4.fillRequest.ite h4)))

protected theorem State.Has.fillOffer {die item} : (fillOffer s die item).Has I := h.setDie.ite h.fillTake

protected theorem State.Has.retryFill {die} : (retryFill s die).Has I := h.ite (h.setDie.foldl fun hu => hu.fillOffer)

protected theorem State.Has.retryHeld : (retryHeld s).Has I :=
  (h.walkDies.ite h).use fun h1 => ((h1.foldl fun hu1 => hu1.retryFill).ite h1).use fun h2 => (h2.ite h2.serveHeld).use fun h3 =>
    h3.ite h3.retryColls

end

/-! ### A beat -/

section
variable {I : State → Prop} [Ticked I] {s : State} (h : s.Has I)
include h

protected theorem State.Has.tickTile {t} : (tickTile s t).Has I := by
  unfold tickTile
  extract_lets s1
  have h1 : s1.Has I := h.foldl fun hu => by split; exacts [hu.mcTile, hu]
  exact h1.mcTile.ite h1

protected theorem State.Has.tickModule : (tickModule s).Has I :=
  (h.foldl fun hu => hu.ite hu.mcModule).use fun h1 => h1.mcModule.ite h1

protected theorem State.Has.releasePin : (releasePin s).Has I := h.update.ite h

protected theorem State.Has.bootTick : (bootTick s).Has I := h.ite (h.update.fsetAny.ite h.update.fsetAny.update)

end

/-! ### One beat -/

/-- What a beat does once the counter has advanced by one. -/
def beatPassed (s : State) : State :=
  let s := retryHeld (releasePin (sendDue s))
  let s := fset s TBU_STEP f_TBU_STEP_STEP (stepAt s)
  let s := if anyCounter s then tickModule ((List.finRange 48).foldl tickTile s) else s
  let s := if s.car.running then settle s else s
  bootTick (engineTick s)

theorem tick_eq {s : State} (hp : s.pwr.applied = true) (hslew : slewDue s = false) : tick s = beatPassed (setBeat s (s.now + 1)) := by
  rw [tick, if_neg (by simp [hp]), if_neg (ne_true_of_eq_false hslew)]
  rfl

protected theorem State.Has.beatPassed {I : State → Prop} [Ticked I] {s : State} (h : s.Has I) : (beatPassed s).Has I :=
  h.sendDue.releasePin.retryHeld.use fun h1 =>
    ((h1.fsetAny.foldl fun hu => hu.tickTile).tickModule.ite h1.fsetAny).use fun h3 => (h3.settle.ite h3).engineTick.bootTick

/-- The counter at a beat. -/
def AtBeat (b : Word) (s : State) : Prop := s.beat = b

theorem ticked_atBeat (b : Word) : Ticked (AtBeat b) where
  note := fun h => h
  log := fun _ h => h
  check := fun h => h
  cache := fun h => h
  write := fun h => h
  die := fun h => h
  step := fun _ h => h
  keep := fun _ hb h => hb.trans h
  timed := fun _ h => h
  ticked := fun h => h

/-- Nothing in a beat moves the counter again. -/
theorem beatPassed_beat (s : State) : (beatPassed s).beat = s.beat := by
  have := ticked_atBeat s.beat
  exact State.Has.beatPassed (I := AtBeat s.beat) rfl

/-- Settles O9: a step is by definition the front command's, and on an empty queue a beat, whose parts leave the counter. -/
theorem aStepRunsTheCommandInFront : Obligations.AStepRunsTheCommandInFront := by
  refine ⟨fun s c => rfl, fun s hnone hp hslew hnow => ⟨tick s, ?_, ?_⟩⟩
  · simp only [step, hnone]
  · rw [tick_eq hp hslew, State.now, beatPassed_beat]
    exact now_setBeat hnow

end Sys2Proof.Machine
end

section
/-! Rounding to nearest, and the codes of BF16, FP16 and FP32: what they mean and what converts to them (R50, R51, R57, R58, R61,
R62). -/

namespace Sys2Proof.Machine

/-! ### Rounding -/

@[simp] theorem rneShift_zero (m : Nat) : rneShift m 0 = m := by simp [rneShift]

/-- A shift to the left loses nothing. -/
theorem rneShift_natCast (m k : Nat) : rneShift m k = m * 2 ^ k := by simp [rneShift]

/-- `d` bits dropped: the quotient, one more above the middle, and in the middle where the quotient is odd. -/
theorem rneShift_neg (m d : Nat) : rneShift m (-(d : Int)) =
    m / 2 ^ d + if 2 * (m % 2 ^ d) < 2 ^ d then 0 else if 2 * (m % 2 ^ d) > 2 ^ d then 1 else m / 2 ^ d % 2 := by
  rcases Nat.eq_zero_or_pos d with rfl | hd
  · simp [Nat.mod_one]
  · simp only [rneShift, neg_neg, Int.toNat_natCast, if_neg (show ¬ (-(d : Int) ≥ 0) by omega)]
    split_ifs <;> rfl

/-- Settles O18: of the remainder's places in relation to the middle each gives its own rounding. -/
theorem roundingIsToNearestTiesToEven : Obligations.RoundingIsToNearestTiesToEven := by
  intro m d q
  have hq : q = _ := rneShift_neg m d
  have hm := Nat.div_add_mod m (2 ^ d)
  have hlt := Nat.mod_lt m (Nat.two_pow_pos d)
  generalize m / 2 ^ d = a at hq hm
  generalize m % 2 ^ d = r at hq hm hlt
  generalize 2 ^ d = D at *
  have expand (k : Nat) : (2 * (a + k) + 1) * D = 2 * (D * a) + 2 * (k * D) + D ∧ 2 * (a + k) * D = 2 * (D * a) + 2 * (k * D) := by
    constructor <;> ring
  obtain ⟨h0, h0'⟩ := expand 0
  obtain ⟨h1, h1'⟩ := expand 1
  split_ifs at hq with hlow hhigh
  · rw [hq]; omega
  · rw [hq]; omega
  · rcases Nat.mod_two_eq_zero_or_one a with ha | ha <;> rw [ha] at hq <;> rw [hq] <;> omega

/-- A significand whose quantum is the one it has is not rounded. -/
theorem rneBounded_of_quantum {p m : Nat} {qmin e : Int} (h : max (Nat.log2 m + e - (p - 1 : Nat)) qmin = e) :
    rneBounded p qmin m e = (m, e) := by
  simp [rneBounded, h]

/-- A significand of at most the precision's bits is only shifted to it. -/
theorem rneUnbounded_of_log2_le {p m : Nat} {e : Int} (h : Nat.log2 m ≤ p) :
    rneUnbounded (p + 1) m e = (m * 2 ^ (p - Nat.log2 m), Nat.log2 m + e - p) := by
  have hshift : e - (Nat.log2 m + e - p) = ((p - Nat.log2 m : Nat) : Int) := by omega
  simp only [rneUnbounded, Nat.add_sub_cancel, hshift, rneShift_natCast]

/-! ### The float formats -/

/-- What BF16, FP16 and FP32 have in common (Table NUM-1). -/
structure FloatFmt (f : Fmt) : Prop where
  ieee : 8 ≤ f.code
  fmtAt_code : fmtAt f.code = f
  bits : fmtBits f.code = f.ebits + f.mbits + 1
  mbits_pos : 0 < f.mbits
  ebits_gt : 1 < f.ebits
  largest : fmtMax f = (2 ^ (f.mbits + 1) - 1, (2 ^ f.ebits - 2 : Nat) - f.bias - f.mbits)
  nan : canonicalNan f.code = (2 ^ f.ebits - 1) * 2 ^ f.mbits + 2 ^ (f.mbits - 1)

theorem floatFmt_of_mem {f : Fmt} (h : f ∈ [fmtBF16, fmtFP16, fmtFP32]) : FloatFmt f := by
  simp only [List.mem_cons, List.not_mem_nil, or_false] at h
  rcases h with rfl | rfl | rfl <;> exact ⟨by decide, rfl, rfl, by decide, by decide, by decide, by decide⟩

/-- A code by its sign, exponent and mantissa. -/
def floatCode (f : Fmt) (s : Bool) (ex mt : Nat) : Nat := boolNat s * 2 ^ (f.ebits + f.mbits) + ex * 2 ^ f.mbits + mt

theorem encodeInf_eq (f : Fmt) (s : Bool) : encodeInf f s = floatCode f s (2 ^ f.ebits - 1) 0 := rfl

section
variable {f : Fmt} (hf : FloatFmt f)
include hf

theorem FloatFmt.code_ne_five : f.code ≠ 5 := by have := hf.ieee; omega

theorem FloatFmt.four_le : 4 ≤ 2 ^ f.ebits := Nat.pow_le_pow_right (by decide : 0 < 2) hf.ebits_gt

theorem FloatFmt.largest_eq (s : Bool) : Val.fin s (fmtMax f).1 (fmtMax f).2 =
    .fin s (2 ^ f.mbits + (2 ^ f.mbits - 1)) (((2 ^ f.ebits - 2 : Nat) : Int) - f.bias - f.mbits) := by
  have := Nat.two_pow_pos f.mbits
  rw [hf.largest, Nat.pow_succ]
  congr 1
  omega

/-- Every code of the format's width has a sign, an exponent and a mantissa. -/
theorem FloatFmt.exists_floatCode {x : Nat} (hx : x < 2 ^ fmtBits f.code) :
    ∃ s ex mt, ex < 2 ^ f.ebits ∧ mt < 2 ^ f.mbits ∧ x = floatCode f s ex mt := by
  rw [hf.bits, Nat.pow_succ] at hx
  have hs : x / 2 ^ (f.ebits + f.mbits) < 2 := Nat.div_lt_of_lt_mul hx
  have hx1 := Nat.div_add_mod x (2 ^ (f.ebits + f.mbits))
  have hx2 := Nat.div_add_mod (x % 2 ^ (f.ebits + f.mbits)) (2 ^ f.mbits)
  refine ⟨decide (x / 2 ^ (f.ebits + f.mbits) = 1), x % 2 ^ (f.ebits + f.mbits) / 2 ^ f.mbits,
    x % 2 ^ (f.ebits + f.mbits) % 2 ^ f.mbits, ?_, Nat.mod_lt _ (Nat.two_pow_pos _), ?_⟩
  · refine Nat.div_lt_of_lt_mul ?_
    rw [← Nat.pow_add, Nat.add_comm]
    exact Nat.mod_lt _ (Nat.two_pow_pos _)
  · have hsign : boolNat (decide (x / 2 ^ (f.ebits + f.mbits) = 1)) = x / 2 ^ (f.ebits + f.mbits) := by
      rcases Nat.lt_succ_iff_lt_or_eq.1 hs with h | h
      · rw [Nat.lt_one_iff.1 h]; rfl
      · rw [h]; rfl
    rw [floatCode, hsign, Nat.mul_comm, Nat.mul_comm (_ / 2 ^ f.mbits), Nat.add_assoc, hx2, hx1]

/-! ### What a code means -/

/-- The value of a code by its sign, exponent and mantissa (R50). -/
theorem FloatFmt.decodeVal_floatCode (s : Bool) {ex mt : Nat} (hex : ex < 2 ^ f.ebits) (hmt : mt < 2 ^ f.mbits) :
    decodeVal f (floatCode f s ex mt) =
      if ex + 1 = 2 ^ f.ebits then (if mt = 0 then .inf s else .nan)
      else if ex = 0 then .fin s mt (1 - f.bias - f.mbits)
      else .fin s (2 ^ f.mbits + mt) (ex - f.bias - f.mbits) := by
  have hpos := Nat.two_pow_pos f.mbits
  have hcode : floatCode f s ex mt = mt + 2 ^ f.mbits * (ex + 2 ^ f.ebits * boolNat s) := by
    rw [floatCode, Nat.pow_add]; ring
  have hhigh : floatCode f s ex mt / 2 ^ f.mbits = ex + 2 ^ f.ebits * boolNat s := by
    rw [hcode, Nat.add_mul_div_left _ _ hpos, Nat.div_eq_of_lt hmt, Nat.zero_add]
  have hm : bitsAt (floatCode f s ex mt) 0 f.mbits = mt := by
    simp [bitsAt, hcode, Nat.mod_eq_of_lt hmt]
  have he : bitsAt (floatCode f s ex mt) f.mbits f.ebits = ex := by
    simp [bitsAt, hhigh, Nat.mod_eq_of_lt hex]
  have hs : bitAt (floatCode f s ex mt) (f.ebits + f.mbits) = s := by
    rw [bitAt, Nat.add_comm, Nat.pow_add, ← Nat.div_div_eq_div_mul, hhigh, Nat.add_mul_div_left _ _ (Nat.two_pow_pos _),
      Nat.div_eq_of_lt hex]
    cases s <;> rfl
  have h8 := hf.ieee
  have h0 : f.code ≠ 0 := by omega
  simp only [decodeVal, hm, he, hs, hf.code_ne_five, h0, h8, ↓reduceIte, false_and, or_true, decide_true,
    Bool.true_and, beq_iff_eq]

theorem FloatFmt.canonicalNan_eq : canonicalNan f.code = floatCode f false (2 ^ f.ebits - 1) (2 ^ (f.mbits - 1)) := by
  rw [hf.nan, floatCode, boolNat, if_neg Bool.false_ne_true, Nat.zero_mul, Nat.zero_add]

theorem FloatFmt.decodeVal_encodeInf (s : Bool) : decodeVal f (encodeInf f s) = .inf s := by
  have := hf.four_le
  rw [encodeInf_eq, hf.decodeVal_floatCode s (by omega) (Nat.two_pow_pos _), if_pos (by omega), if_pos rfl]

theorem FloatFmt.decodeVal_canonicalNan : decodeVal f (canonicalNan f.code) = .nan := by
  have := hf.four_le
  have hman := hf.mbits_pos
  have hpos := Nat.two_pow_pos (f.mbits - 1)
  rw [hf.canonicalNan_eq, hf.decodeVal_floatCode false (by omega) (Nat.pow_lt_pow_right (by decide) (by omega)), if_pos (by omega),
    if_neg (by omega)]

/-! ### What encodes to a code -/

/-- A zero or subnormal of the format is encoded with exponent 0. -/
theorem FloatFmt.encodeExact_subnormal (s : Bool) {mt : Nat} (hmt : mt < 2 ^ f.mbits) :
    encodeExact f s mt (1 - f.bias - f.mbits) = floatCode f s 0 mt := by
  rw [encodeExact, if_neg hf.code_ne_five, floatCode, Nat.zero_mul, Nat.add_zero]
  split
  · next h0 => rw [h0, Nat.add_zero]
  · next h0 =>
    have hlog : Nat.log2 mt < f.mbits := (Nat.log2_lt h0).2 hmt
    rw [if_pos (by unfold fmtEmin; omega)]
    simp only [fmtEmin, sub_self, rneShift_zero]

/-- A normal value of the format is encoded with its exponent. -/
theorem FloatFmt.encodeExact_normal (s : Bool) {ex mt : Nat} (hex : 0 < ex) (hmt : mt < 2 ^ f.mbits) :
    encodeExact f s (2 ^ f.mbits + mt) (ex - f.bias - f.mbits) = floatCode f s ex mt := by
  have hpos := Nat.two_pow_pos f.mbits
  have hlog : Nat.log2 (2 ^ f.mbits + mt) = f.mbits := (Nat.log2_eq_iff (by omega)).2 ⟨by omega, by rw [Nat.pow_succ]; omega⟩
  have hexp : (f.mbits : Int) + (ex - f.bias - f.mbits) = ex - f.bias := by ring
  rw [encodeExact, if_neg hf.code_ne_five, if_neg (by omega)]
  simp only [hlog, hexp, fmtEmin]
  rw [if_neg (by omega), sub_self, rneShift_zero, Nat.add_sub_cancel_left, floatCode, sub_add_cancel, Int.toNat_natCast]

theorem FloatFmt.decodeVal_encodeMax (s : Bool) : decodeVal f (encodeMax f s) = .fin s (fmtMax f).1 (fmtMax f).2 := by
  have h4 := hf.four_le
  have hpos := Nat.two_pow_pos f.mbits
  have hcode : encodeMax f s = floatCode f s (2 ^ f.ebits - 2) (2 ^ f.mbits - 1) := by
    obtain ⟨hm, he⟩ := (Val.fin.injEq _ _ _ _ _ _ ▸ hf.largest_eq s).2
    rw [encodeMax, hm, he, hf.encodeExact_normal s (by omega) (by omega)]
  rw [hcode, hf.decodeVal_floatCode s (by omega) (by omega), if_neg (by omega), if_neg (by omega), hf.largest_eq]

/-! ### What converts to a code -/

/-- A magnitude of at most the format's bits, its leading bit not above the largest finite value's, is in range. -/
theorem FloatFmt.outOfRange_eq_false {m : Nat} {e : Int} (hlog : Nat.log2 m ≤ f.mbits)
    (he : Nat.log2 m + e ≤ (2 ^ f.ebits - 2 : Nat) - f.bias) : outOfRange f m e = false := by
  have hlt : m * 2 ^ (f.mbits - Nat.log2 m) < 2 ^ (f.mbits + 1) := by
    calc m * 2 ^ (f.mbits - Nat.log2 m) < 2 ^ (Nat.log2 m + 1) * 2 ^ (f.mbits - Nat.log2 m) :=
          Nat.mul_lt_mul_of_pos_right Nat.lt_log2_self (Nat.two_pow_pos _)
      _ = 2 ^ (f.mbits + 1) := by rw [← Nat.pow_add]; congr 1; omega
  have hman := hf.mbits_pos
  rw [outOfRange, if_neg hf.code_ne_five]
  simp only [if_neg (show ¬ f.mbits = 0 by omega), rneUnbounded_of_log2_le hlog, Val.leMag, hf.largest]
  rw [if_pos (by omega), Bool.not_eq_false', decide_eq_true_eq]
  exact (Nat.le_sub_one_of_lt hlt).trans (Nat.le_mul_of_pos_right _ (Nat.two_pow_pos _))

/-- In strict mode a value in range that has the quantum of its place in the format converts to its own code, with no flag. -/
theorem FloatFmt.convertFloat_exact (s : Bool) {m : Nat} {e : Int} (hrange : outOfRange f m e = false)
    (hq : max ((Nat.log2 m : Int) + e - f.mbits) (fmtEmin f - f.mbits) = e) :
    (convertFloat f true (.fin s m e)).code = encodeExact f s m e ∧ (convertFloat f true (.fin s m e)).fl = {} := by
  match m, hrange, hq with
  | 0, _, _ => simp [convertFloat, encodeExact, hf.code_ne_five]
  | k + 1, hrange, hq =>
    have hround : rneBounded (f.mbits + 1) (fmtEmin f - f.mbits) (k + 1) e = (k + 1, e) :=
      rneBounded_of_quantum (by simpa using hq)
    simp [convertFloat, hrange, hround, Val.leMag]

theorem FloatFmt.convertFloat_subnormal (s : Bool) {mt : Nat} (hmt : mt < 2 ^ f.mbits) :
    (convertFloat f true (.fin s mt (1 - f.bias - f.mbits))).code = floatCode f s 0 mt ∧
      (convertFloat f true (.fin s mt (1 - f.bias - f.mbits))).fl = {} := by
  have h4 := hf.four_le
  have hlog : Nat.log2 mt < f.mbits := by
    rcases Nat.eq_zero_or_pos mt with rfl | hpos
    · exact hf.mbits_pos
    · exact (Nat.log2_lt (by omega)).2 hmt
  rw [← hf.encodeExact_subnormal s hmt]
  exact hf.convertFloat_exact s (hf.outOfRange_eq_false hlog.le (by omega)) (by unfold fmtEmin; omega)

theorem FloatFmt.convertFloat_normal (s : Bool) {ex mt : Nat} (hex : 0 < ex) (hlt : ex + 1 < 2 ^ f.ebits) (hmt : mt < 2 ^ f.mbits) :
    (convertFloat f true (.fin s (2 ^ f.mbits + mt) (ex - f.bias - f.mbits))).code = floatCode f s ex mt ∧
      (convertFloat f true (.fin s (2 ^ f.mbits + mt) (ex - f.bias - f.mbits))).fl = {} := by
  have hlog : Nat.log2 (2 ^ f.mbits + mt) = f.mbits := (Nat.log2_eq_iff (by omega)).2 ⟨by omega, by rw [Nat.pow_succ]; omega⟩
  rw [← hf.encodeExact_normal s hex hmt]
  exact hf.convertFloat_exact s (hf.outOfRange_eq_false hlog.le (by rw [hlog]; omega)) (by unfold fmtEmin; rw [hlog]; omega)

end

theorem convertFloat_outOfRange {f : Fmt} (strict s : Bool) {m : Nat} {e : Int} (hm : m ≠ 0) (h : outOfRange f m e = true) :
    convertFloat f strict (.fin s m e) = ⟨if strict then encodeInf f s else encodeMax f s, { ovf := true }, true, false⟩ := by
  obtain ⟨k, rfl⟩ := Nat.exists_eq_succ_of_ne_zero hm
  simp [convertFloat, h]

/-- A NaN element of a tensor sets NANIN where a transfer converts it (R61). -/
theorem makeFloat_nan (fmt : Nat) (strict : Bool) {e : Elem} {g : Got} (he : e.real = true) (hg : g.v = .nan) :
    (makeFloat fmt strict e g).fl = { nanin := true } := by
  simp [makeFloat, he, hg, convertFloat, Val.isNan, Flags.or]

/-- Settles O19: a code by the class of its exponent, each class with the value that it decodes to. -/
theorem floatCodesConvertToThemselves : Obligations.FloatCodesConvertToThemselves := by
  intro f hmem x hx hnan
  have hf := floatFmt_of_mem hmem
  obtain ⟨s, ex, mt, hex, hmt, rfl⟩ := hf.exists_floatCode hx
  rw [hf.decodeVal_floatCode s hex hmt] at hnan ⊢
  split_ifs at hnan ⊢ with htop hzero hsub
  · rw [show ex = 2 ^ f.ebits - 1 by omega, hzero]
    exact ⟨rfl, rfl⟩
  · cases hnan
  · rw [hsub]
    exact hf.convertFloat_subnormal s hmt
  · exact hf.convertFloat_normal s (by omega) (by omega) hmt

/-- Settles O20: each kind of value by its own branch of the conversion, its code read back. -/
theorem outOfRangeValuesSaturateOrOverflow : Obligations.OutOfRangeValuesSaturateOrOverflow := by
  intro f hmem strict s
  have hf := floatFmt_of_mem hmem
  refine ⟨fun m e hm hout => ?_, hf.decodeVal_encodeInf s, rfl, rfl, rfl, fun e g => makeFloat_nan f.code strict, rfl, rfl, ?_⟩
  · rw [convertFloat_outOfRange strict s hm hout]
    refine ⟨rfl, ?_⟩
    cases strict
    · exact hf.decodeVal_encodeMax s
    · exact hf.decodeVal_encodeInf s
  · rw [hf.decodeVal_canonicalNan]; rfl

end Sys2Proof.Machine
end

section
/-! The NaN trap: its record, its count, its halt and NAN_TRAP_CLEAR (R74, R76 to R78, Tables NUM-13 to NUM-16). -/

namespace Sys2Proof.Machine

/-! ### What an event's note leaves -/

theorem reg_fadd_ne (s : State) {a b : Nat} (f : Fld) (n : Nat) (h : b ≠ a) : (fadd s a f n).reg b = s.reg b := reg_fset_ne s f _ h

theorem reg_setMgr (s : State) (m : Manager) (a : Nat) : State.reg { s with mgr := m } a = s.reg a := reg_congr rfl a

theorem reg_refreshAlert (s : State) (a : Nat) : (refreshAlert s).reg a = s.reg a := reg_congr rfl a

section
variable {s : State} {a : Nat} (ha : a < 0x900000)
include ha

/-- Registers below the management block are none that a message writes. -/
theorem reg_msix (port vector : Nat) : (msix s port vector).reg a = s.reg a := by
  have hlink (w : Waiting) : (waitLink s port w).reg a = s.reg a := by
    unfold waitLink
    extract_lets again
    split <;> rfl
  unfold msix
  dsimp only
  split
  · split
    · exact reg_emit s _ a
    · exact hlink _
  · exact (reg_setReg_ne _ _ (by unfold MSIX_PBA; omega)).trans (reg_congr rfl a)

theorem reg_raiseAlert (f : Fld) : (raiseAlert s f).reg a = s.reg a := by
  have hne : a ≠ MGS_ALERT := by unfold MGS_ALERT; omega
  have halert : (refreshAlert (fset s MGS_ALERT f 1)).reg a = s.reg a :=
    (reg_refreshAlert _ a).trans (reg_fset_ne s f 1 hne)
  unfold raiseAlert interrupt
  split
  · exact reg_refreshAlert s a
  · dsimp only
    split
    · split
      · exact (reg_msix ha _ _).trans halert
      · exact halert
    · exact halert

theorem reg_post (k : EventKind) (unit data : Nat) : (post s k unit data).reg a = s.reg a := by
  have hne : a ≠ MGS_STATUS := by unfold MGS_STATUS; omega
  unfold post
  dsimp only
  split
  · rw [reg_raiseAlert ha, reg_setMgr, reg_fadd_ne s _ _ hne]
  · exact reg_setMgr s _ a

end

/-! ### The record -/

theorem fset_now (s : State) (a : Nat) (f : Fld) (v : Nat) : (fset s a f v).now = s.now := (rfl)

section
variable (c : CoreId)

/-- The five registers of a core's record are apart. -/
theorem nanRegs_nodup : (nanRegs c).Nodup := by
  simp only [nanRegs, CR_NAN_INFO, CR_NAN_BEAT, CR_NAN_OP, CR_NAN_COORD, CR_NAN_MORE, List.nodup_cons, List.mem_cons,
    List.not_mem_nil, List.nodup_nil, or_false, not_or, and_true, not_false_eq_true]
  omega

/-- They lie in the tile's block. -/
theorem nanRegs_lt {a : Nat} (ha : a ∈ nanRegs c) : a < 0x900000 := by
  have := c.tile.isLt
  have := c.core.isLt
  simp only [nanRegs, CR_NAN_INFO, CR_NAN_BEAT, CR_NAN_OP, CR_NAN_COORD, CR_NAN_MORE, List.mem_cons, List.not_mem_nil, or_false] at ha
  omega

variable (s : State) (queue : Nat) (e : QEntry) (w : NanWrite)

/-- What the filled record holds (R74); the count of further NaNs is left. -/
theorem nanRecord_spec :
    let t := nanRecord s c queue e w
    let info := CR_NAN_INFO c.tile.val c.core.val
    let op := CR_NAN_OP c.tile.val c.core.val
    fbit t info f_CR_NAN_INFO_VALID = true ∧
      fget t info f_CR_NAN_INFO_ORIGIN = w.origin % 2 ^ f_CR_NAN_INFO_ORIGIN.width ∧
      fget t info f_CR_NAN_INFO_UNIT = w.unit % 2 ^ f_CR_NAN_INFO_UNIT.width ∧
      t.reg (CR_NAN_BEAT c.tile.val c.core.val) = s.now ∧
      fget t op f_CR_NAN_OP_OP_INDEX = e.index % 2 ^ f_CR_NAN_OP_OP_INDEX.width ∧
      fget t op f_CR_NAN_OP_QUEUE = queue % 2 ^ f_CR_NAN_OP_QUEUE.width ∧
      fget t op f_CR_NAN_OP_PC = e.pc % 2 ^ f_CR_NAN_OP_PC.width ∧
      t.reg (CR_NAN_MORE c.tile.val c.core.val) = s.reg (CR_NAN_MORE c.tile.val c.core.val) := by
  have hapart := nanRegs_nodup c
  unfold nanRecord
  simp only [nanRegs] at hapart
  generalize CR_NAN_INFO c.tile.val c.core.val = info at *
  generalize CR_NAN_BEAT c.tile.val c.core.val = beat at *
  generalize CR_NAN_OP c.tile.val c.core.val = op at *
  generalize CR_NAN_COORD c.tile.val c.core.val = coord at *
  generalize CR_NAN_MORE c.tile.val c.core.val = more at *
  simp only [List.nodup_cons, List.mem_cons, List.not_mem_nil, or_false, not_or] at hapart
  obtain ⟨⟨hib, hio, hic, him⟩, ⟨hbo, hbc, hbm⟩, ⟨hoc, hom⟩, hcm, -⟩ := hapart
  extract_lets i o d s1 s2 s3 t
  have hinfo (f : Fld) : fget s3 info f = fget s1 info f := by
    simp only [s3, s2, o, fget_fset_ne _ _ _ _ hio]
    exact fget_congr (reg_setReg_ne s1 _ hib) f
  have hbeat : s3.reg beat = s.now := by
    simp only [s3, o, reg_fset_ne _ _ _ hbo, s2, reg_setReg_same, s1, fset_now]
    exact Nat.mod_eq_of_lt s.beat.isLt
  have hmore : s3.reg more = s.reg more := by
    simp only [s3, o, reg_fset_ne _ _ _ (Ne.symm hom), s2, reg_setReg_ne _ _ (Ne.symm hbm), s1, i, reg_fset_ne _ _ _ (Ne.symm him)]
  refine ⟨?_, ?_, ?_, ?_, ?_, ?_, ?_, ?_⟩
  · simp (disch := decide) [fbit, t, d, fget_fset_ne _ _ _ _ hic, hinfo, s1, i, fget_fset_other, fget_fset_same, f_CR_NAN_INFO_VALID]
  · simp (disch := decide) only [t, d, fget_fset_ne _ _ _ _ hic, hinfo, s1, i, fget_fset_other, fget_fset_same]
  · simp (disch := decide) only [t, d, fget_fset_ne _ _ _ _ hic, hinfo, s1, i, fget_fset_other, fget_fset_same]
  · simp only [t, d, reg_fset_ne _ _ _ hbc, hbeat]
  · simp (disch := decide) only [t, d, fget_fset_ne _ _ _ _ hoc, s3, o, fget_fset_other, fget_fset_same]
  · simp (disch := decide) only [t, d, fget_fset_ne _ _ _ _ hoc, s3, o, fget_fset_other, fget_fset_same]
  · simp (disch := decide) only [t, d, fget_fset_ne _ _ _ _ hoc, s3, o, fget_fset_same]
  · simp only [t, d, reg_fset_ne _ _ _ (Ne.symm hcm), hmore]

/-! ### The trap -/

/-- The state with the record filled and `n` further NaNs counted. -/
def nanNoted (n : Nat) : State :=
  fadd (nanRecord (takeFree s).2 c queue e w) (CR_NAN_MORE c.tile.val c.core.val) f_CR_NAN_MORE_COUNT n

/-- The record is filled, `n` further NaNs are counted, and the event is posted (R74). -/
def nanTaken (n : Nat) : State :=
  post (nanNoted c s queue e w n) .nanCapture c.tile.val
    ((nanNoted c s queue e w n).reg (CR_NAN_INFO c.tile.val c.core.val))

variable {c s queue e} {ws : List NanWrite} (hws : ws ≠ [])
include hws

/-- A trap that is off takes no NaN. -/
theorem nanTrap_off (hmode : fget s (CR_NAN_CTL c.tile.val c.core.val) f_CR_NAN_CTL_MODE = 0) : nanTrap s c queue e ws = s := by
  obtain ⟨w, ws, rfl⟩ := List.exists_cons_of_ne_nil hws
  simp only [nanTrap, hmode, ↓reduceIte]

section
variable (hmode : fget s (CR_NAN_CTL c.tile.val c.core.val) f_CR_NAN_CTL_MODE ≠ 0)
include hmode

/-- A trap that holds a record counts every NaN. -/
theorem nanTrap_held (hvalid : fbit s (CR_NAN_INFO c.tile.val c.core.val) f_CR_NAN_INFO_VALID = true) :
    nanTrap s c queue e ws = fadd s (CR_NAN_MORE c.tile.val c.core.val) f_CR_NAN_MORE_COUNT ws.length := by
  obtain ⟨w, ws, rfl⟩ := List.exists_cons_of_ne_nil hws
  simp only [nanTrap, if_neg hmode, hvalid, ↓reduceIte]

/-- A free trap takes one of the NaNs and counts the others; in mode 2 it stops the tile, in another the snapshot trigger is all that
may follow. -/
theorem nanTrap_free (hvalid : fbit s (CR_NAN_INFO c.tile.val c.core.val) f_CR_NAN_INFO_VALID = false) :
    ∃ w ∈ ws,
      (fget s (CR_NAN_CTL c.tile.val c.core.val) f_CR_NAN_CTL_MODE = 2 →
        ∃ u data, nanTrap s c queue e ws = stopTile u c.tile data) ∧
      (fget s (CR_NAN_CTL c.tile.val c.core.val) f_CR_NAN_CTL_MODE ≠ 2 →
        nanTrap s c queue e ws = nanTaken c s queue e w (ws.length - 1) ∨
          nanTrap s c queue e ws = fireSnapshot (nanTaken c s queue e w (ws.length - 1)) 2 c.tile.val) := by
  obtain ⟨v, vs, rfl⟩ := List.exists_cons_of_ne_nil hws
  have hlt : (takeFree s).1.toNat % (v :: vs).length < (v :: vs).length := Nat.mod_lt _ (Nat.succ_pos _)
  refine ⟨nthD v (v :: vs) ((takeFree s).1.toNat % (v :: vs).length), ?_, fun h2 => ?_, fun h2 => ?_⟩
  · rw [nthD, List.getD_eq_getElem _ _ hlt]
    exact List.getElem_mem hlt
  · simp only [nanTrap, if_neg hmode, hvalid, Bool.false_eq_true, ↓reduceIte, if_pos h2]
    exact ⟨_, _, rfl⟩
  · simp only [nanTrap, if_neg hmode, hvalid, Bool.false_eq_true, ↓reduceIte, if_neg h2]
    split
    · exact .inr rfl
    · exact .inl rfl

end

end

/-- A tile that is made to stop is stopped. -/
theorem stopTile_stopped (s : State) (t : TileId) (data : Nat) : ((stopTile s t data).tile t).stopped = true :=
  ((halted_running s).stopTile_insert (t := t) (data := data)).1 t (Set.mem_insert t ∅)

section
variable (c : CoreId) (s : State) (queue : Nat) (e : QEntry) (w : NanWrite) (n : Nat)

/-- The count leaves the record. -/
theorem reg_nanNoted {a : Nat} (ha : a ≠ CR_NAN_MORE c.tile.val c.core.val) :
    (nanNoted c s queue e w n).reg a = (nanRecord (takeFree s).2 c queue e w).reg a := reg_fset_ne _ _ _ ha

/-- The further NaNs are added to the count, which sticks (R77, R462). -/
theorem more_nanNoted : fget (nanNoted c s queue e w n) (CR_NAN_MORE c.tile.val c.core.val) f_CR_NAN_MORE_COUNT =
    min f_CR_NAN_MORE_COUNT.max (fget s (CR_NAN_MORE c.tile.val c.core.val) f_CR_NAN_MORE_COUNT + n) := by
  obtain ⟨-, -, -, -, -, -, -, hmore⟩ := nanRecord_spec c (takeFree s).2 queue e w
  rw [nanNoted, fadd, fget_fset_same _ _ _ _ (by decide), fget_congr (hmore.trans (reg_takeFree s _)), stick]
  exact Nat.mod_eq_of_lt ((Nat.min_le_left _ _).trans_lt (by decide))

theorem nanNoted_frame : OnlyRegs (takeFree s).2 (nanNoted c s queue e w n) :=
  (OnlyRegs.refl (takeFree s).2).fset.fset.fset.fset.setReg.fset.fset.fset.fset.fset.fset

/-- Notes taken after the record is filled leave memory, units and job of the state before. -/
theorem keeps_of_nanNoted {t : State} (h : NoteFrame (nanNoted c s queue e w n) t) :
    KeepsMemory s t ∧ KeepsUnits s t ∧ KeepsJob s t := by
  obtain ⟨regs, hnoted⟩ := nanNoted_frame c s queue e w n
  rw [hnoted] at h
  exact ⟨h.keepsMemory, h.keepsUnits, h.keepsJob⟩

end

theorem noteFrame_fireSnapshot (s : State) (source tile : Nat) : NoteFrame s (fireSnapshot s source tile) :=
  ⟨_, _, _, _, _, _, _, rfl⟩

theorem reg_fireSnapshot (s : State) (source tile a : Nat) : (fireSnapshot s source tile).reg a = s.reg a := reg_congr rfl a

/-- In modes 1 and 3 a free trap fills the record, counts the others, and takes notes of events that leave the record. -/
theorem nanTrap_records {c : CoreId} {s : State} {queue : Nat} {e : QEntry} {ws : List NanWrite} (hws : ws ≠ [])
    (hmode : fget s (CR_NAN_CTL c.tile.val c.core.val) f_CR_NAN_CTL_MODE = 1 ∨
      fget s (CR_NAN_CTL c.tile.val c.core.val) f_CR_NAN_CTL_MODE = 3)
    (hvalid : fbit s (CR_NAN_INFO c.tile.val c.core.val) f_CR_NAN_INFO_VALID = false) :
    ∃ w ∈ ws, NoteFrame (nanNoted c s queue e w (ws.length - 1)) (nanTrap s c queue e ws) ∧
      ∀ a ∈ nanRegs c, (nanTrap s c queue e ws).reg a = (nanNoted c s queue e w (ws.length - 1)).reg a := by
  obtain ⟨w, hw, -, hrest⟩ := nanTrap_free (queue := queue) (e := e) hws (by omega) hvalid
  have hframe : NoteFrame _ (nanTaken c s queue e w (ws.length - 1)) := (notes_post _ _ _ _).1
  have hreg {a : Nat} (ha : a ∈ nanRegs c) : (nanTaken c s queue e w (ws.length - 1)).reg a = _ := reg_post (nanRegs_lt c ha) _ _ _
  refine ⟨w, hw, ?_⟩
  rcases hrest (by omega) with ht | ht <;> rw [ht]
  · exact ⟨hframe, fun a ha => hreg ha⟩
  · exact ⟨hframe.trans (noteFrame_fireSnapshot _ _ _), fun a ha => (reg_fireSnapshot _ _ _ a).trans (hreg ha)⟩

/-! ### NAN_TRAP_CLEAR -/

/-- Registers that are cleared read 0, and no other changes. -/
theorem reg_clearRegs (l : List Nat) (s : State) (a : Nat) :
    (a ∈ l → (l.foldl (fun s a => s.setReg a 0) s).reg a = 0) ∧
      (a ∉ l → (l.foldl (fun s a => s.setReg a 0) s).reg a = s.reg a) := by
  have off (u : State) (b : Nat) (hb : b ≠ a) : (u.setReg b 0).reg a = u.reg a := reg_setReg_ne u 0 hb.symm
  refine ⟨fun h => ?_, fun h => ?_⟩
  · exact foldl_reading (read := fun u : State => u.reg a) (hits := fun b => b = a)
      (fun u b _ hb => by rw [hb, reg_setReg_same, Nat.zero_mod]) (fun u b _ hb => off u b hb) (.inl ⟨a, h, rfl⟩)
  · exact foldl_reading (read := fun u : State => u.reg a) (hits := fun _ => False) (fun _ _ _ => False.elim)
      (fun u b hb _ => off u b fun hab => h (hab ▸ hb)) (.inr rfl)

theorem exec_nanTrapClear {s : State} {r : Requester} (c : CoreId) (h : mayWrite s r (some grpTile) = true) :
    exec (.nanTrapClear r c) s = .next ((nanRegs c).foldl (fun s a => s.setReg a 0) s) :=
  congrArg Host.Outcome.next (guardedWrite_allowed h _ _)

/-- Settles O24: the trap by its mode and the record it holds, the record by what its fields read, the clear by its five registers. -/
theorem nanTrapRecordsTheFirstNan : Obligations.NanTrapRecordsTheFirstNan := by
  intro s c queue e ws hws mode info op more t
  refine ⟨nanTrap_off hws, nanTrap_held hws, fun hmode hvalid => ?_, fun hmode hvalid => ?_, fun r hr => ?_⟩
  · obtain ⟨w, hw, hframe, htaken⟩ := nanTrap_records (queue := queue) (e := e) hws hmode hvalid
    obtain ⟨hv, horigin, hunit, hbeat, hindex, hqueue, hpc, -⟩ := nanRecord_spec c (takeFree s).2 queue e w
    have hnodup := nanRegs_nodup c
    simp only [nanRegs, List.nodup_cons, List.mem_cons, List.not_mem_nil, or_false, not_or] at hnodup
    obtain ⟨⟨-, -, -, him⟩, ⟨-, -, hbm⟩, ⟨-, hom⟩, -⟩ := hnodup
    have hrecord {a : Nat} (ha : a ∈ nanRegs c) (hm : a ≠ more) := (htaken a ha).trans (reg_nanNoted c s queue e w _ hm)
    have hinfo := hrecord (a := info) (by simp [nanRegs, info]) him
    have hop := hrecord (a := op) (by simp [nanRegs, op]) hom
    exact ⟨(fbit_congr hinfo _).trans hv, (hrecord (by simp [nanRegs]) hbm).trans hbeat,
      ⟨w, hw, (fget_congr hinfo _).trans horigin, (fget_congr hinfo _).trans hunit⟩, (fget_congr hop _).trans hindex,
      (fget_congr hop _).trans hqueue, (fget_congr hop _).trans hpc,
      (fget_congr (htaken more (by simp [nanRegs, more])) _).trans (more_nanNoted c s queue e w _),
      keeps_of_nanNoted c s queue e w _ hframe⟩
  · obtain ⟨w, hw, hstop, -⟩ := nanTrap_free (queue := queue) (e := e) hws (show mode ≠ 0 by omega) hvalid
    obtain ⟨u, data, ht⟩ := hstop hmode
    exact (congrArg (fun t => (t.tile c.tile).stopped) ht).trans (stopTile_stopped u c.tile data)
  · have hframe : OnlyRegs s ((nanRegs c).foldl (fun s a => s.setReg a 0) s) :=
      List.foldlRecOn (motive := OnlyRegs s) _ _ (.refl s) fun _ hu _ _ => hu.setReg
    have hreg := reg_clearRegs (nanRegs c) s
    refine ⟨_, exec_nanTrapClear c hr, fun a => (hreg a).1, fun a => (hreg a).2, ?_⟩
    obtain ⟨regs, ht⟩ := hframe
    rw [ht]
    exact ⟨⟨rfl, rfl, rfl⟩, ⟨rfl, rfl, rfl, rfl, rfl, rfl⟩, rfl, rfl, rfl, rfl⟩

end Sys2Proof.Machine
end

section
/-! A LINEAR transfer of equal float formats on a base-die channel: its units, what each puts, and the bytes that the destination then
holds (R51, R228, R229, R240). -/

namespace Sys2Proof.Machine

/-! ### Bytes of a number -/

theorem leNat_lt (bs : List Byte) : leNat bs < 2 ^ (8 * bs.length) := by
  induction bs with
  | nil => exact Nat.one_pos
  | cons b bs ih =>
    have hb := b.isLt
    rw [leNat, List.length_cons, Nat.mul_succ, Nat.pow_add]
    omega

/-- The bytes of the number that bytes make are those bytes. -/
theorem leBytes_leNat (bs : List Byte) : leBytes bs.length (leNat bs) = bs := by
  induction bs with
  | nil => rfl
  | cons b bs ih =>
    have hb := b.isLt
    have hlow : BitVec.ofNat 8 (b.toNat + 256 * leNat bs) = b := by
      apply BitVec.eq_of_toNat_eq
      rw [BitVec.toNat_ofNat]
      omega
    have hhigh : (b.toNat + 256 * leNat bs) / 256 = leNat bs := by omega
    rw [List.length_cons, leBytes, leNat, hlow, hhigh, ih]

/-- A field as wide as the number replaces all of it. -/
theorem putBits_whole {n v w : Nat} (hn : n < 2 ^ w) (hv : v < 2 ^ w) : putBits n 0 w v = v := by
  simp [putBits, Nat.mod_one, Nat.mod_eq_of_lt hv, Nat.div_eq_of_lt hn]

/-! ### Bytes gathered by address -/

section
variable {α : Type} {f : Nat → α} {m l : List (Nat × α)}

/-- An entry whose value its key gives is added; of the others, whose keys give theirs, none is lost. -/
theorem mem_mapInsert_of_agree (hm : ∀ p ∈ m, p.2 = f p.1) (i : Nat) (p : Nat × α) :
    p ∈ mapInsert m i (f i) ↔ p = (i, f i) ∨ p ∈ m := by
  refine ⟨mem_mapInsert, fun h => ?_⟩
  induction m with
  | nil => simpa [mapInsert] using h
  | cons q m ih =>
    obtain ⟨k, v⟩ := q
    rw [mapInsert]
    split
    · simpa using h
    · split
      · next _ hik =>
        have hv : v = f k := hm (k, v) (.head _)
        subst hik hv
        simpa using h
      · have := ih fun p hp => hm p (.tail _ hp)
        simp only [List.mem_cons] at h ⊢
        tauto

/-- The same for a list of entries. -/
theorem mem_foldl_mapInsert (hm : ∀ p ∈ m, p.2 = f p.1) (hl : ∀ p ∈ l, p.2 = f p.1) (p : Nat × α) :
    p ∈ l.foldl (fun m q => mapInsert m q.1 q.2) m ↔ p ∈ m ∨ p ∈ l := by
  induction l generalizing m with
  | nil => simp
  | cons q l ih =>
    have hq := mem_mapInsert_of_agree hm q.1
    rw [← hl q (.head _)] at hq
    rw [List.foldl_cons, ih (fun r hr => ?_) (fun r hr => hl r (.tail _ hr)), hq, List.mem_cons]
    · tauto
    · rcases (hq r).1 hr with rfl | hr
      · exact hl _ (.head _)
      · exact hm r hr

end

/-! ### Packed elements of whole bytes -/

section
variable {fmt w : Nat} (hbits : fmtBits fmt = 8 * w)
include hbits

theorem runKeys_whole (s : State) (a i : Nat) : runKeys s fmt a i = (List.range w).map fun j => keyOf s (a + i * w + j) := by
  have hlo : i * (8 * w) = 8 * (i * w) := by ring
  simp only [runKeys, hbits, hlo]
  rw [show (8 * (i * w) % 8 + 8 * w + 7) / 8 = w by omega, Nat.mul_div_cancel_left _ (by decide)]

theorem elemCode_whole (s : State) (a i : Nat) : elemCode s .other fmt a i = leNat (readBytes s .other (a + i * w) w) := by
  have hlo : i * (8 * w) = 8 * (i * w) := by ring
  have hlt := leNat_lt (readBytes s .other (a + i * w) w)
  rw [show (readBytes s .other (a + i * w) w).length = w by simp [readBytes]] at hlt
  simp only [elemCode, hbits, hlo, readNat]
  rw [show (8 * (i * w) % 8 + 8 * w + 7) / 8 = w by omega, Nat.mul_div_cancel_left _ (by decide), Nat.mul_mod_right, bitsAt,
    Nat.pow_zero, Nat.div_one, Nat.mod_eq_of_lt hlt]

end

/-- A put of whole bytes that writes the bytes of a list: each at its address. -/
theorem Put.apply_whole (s : State) (m : List (Nat × Byte)) (a i : Nat) (bs : List Byte) (poison : Bool) :
    Put.apply s m ⟨a, i, 8 * bs.length, leNat bs, poison⟩ =
      (bs.zipIdx.map fun b => (a + i * bs.length + b.2, b.1)).foldl (fun m q => mapInsert m q.1 q.2) m := by
  have hlo : i * (8 * bs.length) = 8 * (i * bs.length) := by ring
  have hat : Put.at_ ⟨a, i, 8 * bs.length, leNat bs, poison⟩ = (a + i * bs.length, 0, bs.length) := by
    simp only [Put.at_, hlo]
    rw [Nat.mul_mod_right, Nat.mul_div_cancel_left _ (by decide), show (0 + 8 * bs.length + 7) / 8 = bs.length by omega]
  have hold (g : Nat → Byte) : leNat ((List.range bs.length).map g) < 2 ^ (8 * bs.length) := by
    simpa using leNat_lt ((List.range bs.length).map g)
  rw [Put.apply, List.foldl_map]
  simp only [hat, putBits_whole (hold _) (leNat_lt bs), leBytes_leNat]

/-- Puts to elements apart all stand. -/
theorem lastPuts_of_pairwise {ps : List Put} (h : ps.Pairwise fun p q => p.idx ≠ q.idx) : lastPuts ps = ps := by
  induction ps with
  | nil => rfl
  | cons p ps ih =>
    rw [List.pairwise_cons] at h
    obtain ⟨hp, hps⟩ := h
    have hnone : (ps.any fun q => q.base == p.base && q.idx == p.idx && q.width == p.width) = false := by
      rw [List.any_eq_false]
      intro q hq hall
      simp only [Bool.and_eq_true, beq_iff_eq] at hall
      exact hp q hq hall.1.2.symm
    rw [lastPuts, hnone, if_neg Bool.false_ne_true, ih hps]

/-! ### The units of a copy -/

/-- Bytes of element `i` are bytes of the run. -/
theorem byte_lt_of_element {n w i j : Nat} (hi : i < n) (hj : j < w) : i * w + j < n * w := by
  calc i * w + j < (i + 1) * w := by rw [Nat.succ_mul]; omega
    _ ≤ n * w := Nat.mul_le_mul_right w hi

/-- A block of a range is that of one of its bytes. -/
theorem mem_blocksOf {a n b : Nat} (h : b ∈ blocksOf a n) : ∃ j < n, b = (a + j) / 512 * 512 := by
  rw [blocksOf] at h
  split at h
  · exact absurd h List.not_mem_nil
  · obtain ⟨i, hi, rfl⟩ := List.mem_map.1 h
    rw [List.mem_range] at hi
    rcases Nat.eq_zero_or_pos i with rfl | hpos
    · exact ⟨0, by omega, by omega⟩
    · exact ⟨(a / 512 + i) * 512 - a, by omega, by omega⟩

/-- A LINEAR transfer between equal formats of `w` whole bytes that are no MX format. -/
structure Copies (x : Xfer) (w : Nat) : Prop where
  linear : x.kind = 0
  plain : x.skew = 0
  same : x.dstFmt = x.srcFmt
  bits : fmtBits x.srcFmt = 8 * w
  notMx : isMx x.srcFmt = false

theorem copies_of_float {x : Xfer} (hkind : x.kind = 0) (hskew : x.skew = 0) (hsame : x.srcFmt = x.dstFmt)
    (hfmt : x.srcFmt = 8 ∨ x.srcFmt = 9 ∨ x.srcFmt = 10) : Copies x (fmtBits x.srcFmt / 8) where
  linear := hkind
  plain := hskew
  same := hsame.symm
  bits := by rcases hfmt with h | h | h <;> rw [h] <;> rfl
  notMx := by rcases hfmt with h | h | h <;> rw [h] <;> rfl

/-- The group of element `i`: it is read at `i` of the source run and written at `i` of the destination run. -/
def copyGroup (x : Xfer) (i : Nat) : Group :=
  { elems := [{ src := .at_ x.src i (x.srcScale + i / 32), dst := [(x.dst, i)], real := true, pad := false }], scales := [] }

/-- One unit an element, in ascending order. -/
def copyUnits (x : Xfer) : List Unit_ := (List.range x.length).map fun i => ⟨1, [copyGroup x i]⟩

/-- The put of element `i`. -/
def copyPut (s : State) (x : Xfer) (poison : Nat → Bool) (i : Nat) : Put :=
  ⟨x.dst, i, fmtBits x.srcFmt, elemCode s .other x.srcFmt x.src i, poison i⟩

/-- A group's result of puts alone. -/
def madeOf (ps : List Put) : Made := { Made.none with puts := ps }

theorem madeOf_or (ps qs : List Put) : (madeOf ps).or (madeOf qs) = madeOf (ps ++ qs) := rfl

section
variable {x : Xfer} {w : Nat} (hx : Copies x w)
include hx

theorem Copies.stridesOf_eq (s : State) (ag : Agent) : stridesOf s ag x = { rank := 1, ext := [x.length], src := [0], dst := [0] } := by
  rw [stridesOf, if_neg (by rw [hx.linear]; decide)]

/-- The units are the elements' (R228). -/
theorem Copies.plainUnits_eq (s : State) (ag : Agent) :
    plainUnits x (stridesOf s ag x) (srcSide x (stridesOf s ag x)) (dstSide x (stridesOf s ag x)) = copyUnits x := by
  have hplace (fmt eb sb i : Nat) : tensorPlace (layoutTensor fmt 0 [x.length] (some [0])) eb sb [x.length] [i] =
      (eb, i, sb + i / 32) := by
    simp [tensorPlace, layoutTensor, inBlocks, denseIndex, nthD]
  rw [hx.stridesOf_eq, plainUnits, copyUnits]
  rcases Nat.eq_zero_or_pos x.length with h0 | hpos
  · simp [h0]
  · have hne : ([x.length].any fun n => n == 0) = false := by simp; omega
    simp only [hne, groupIndices, hx.same, hx.notMx, indices, List.flatMap_cons, List.flatMap_nil, List.append_nil, List.map_map,
      Bool.false_eq_true, ↓reduceIte]
    refine List.map_congr_left fun i hi => ?_
    have hin : within [x.length] [i] = true := by simpa [within] using List.mem_range.1 hi
    simp [srcSide, dstSide, Side.place, hplace, hin, hx.plain, copyGroup]

theorem Copies.dstAddrs_eq (i : Nat) : dstAddrs x.dstFmt (copyGroup x i) = (List.range w).map fun j => x.dst + i * w + j := by
  have hlo : i * (8 * w) = 8 * (i * w) := by ring
  simp only [dstAddrs, copyGroup, List.flatMap_cons, List.flatMap_nil, List.append_nil, hx.same, hx.bits, hlo]
  rw [show (8 * (i * w) % 8 + 8 * w + 7) / 8 = w by omega, Nat.mul_div_cancel_left _ (by decide)]

theorem Copies.srcBlocks_eq (i : Nat) : srcBlocks x.srcFmt (copyGroup x i) = blocksOf (x.src + i * w) w := by
  have hlo : i * (8 * w) = 8 * (i * w) := by ring
  simp only [srcBlocks, copyGroup, List.flatMap_cons, List.flatMap_nil, List.append_nil, hx.notMx, hx.bits, hlo, Bool.false_eq_true,
    ↓reduceIte]
  rw [show (8 * (i * w) % 8 + 8 * w + 7) / 8 = w by omega, Nat.mul_div_cancel_left _ (by decide)]

/-- A copy whose bytes lie in no retired range meets no fault. -/
theorem Copies.unitFaults_eq_false {s : State}
    (hret : ∀ b < x.length * w, retired s (keyOf s (x.dst + b)) = false ∧ retired s (keyOf s ((x.src + b) / 512 * 512)) = false) :
    ∀ v ∈ copyUnits x, unitFaults s x v = false := by
  intro v hv
  obtain ⟨i, hi, rfl⟩ := List.mem_map.1 hv
  rw [List.mem_range] at hi
  simp only [unitFaults, List.any_cons, List.any_nil, Bool.or_false, hx.srcBlocks_eq, hx.dstAddrs_eq, List.any_eq_false,
    List.mem_append, Bool.not_eq_true]
  rintro a (ha | ha)
  · obtain ⟨j, hj, rfl⟩ := mem_blocksOf ha
    rw [Nat.add_assoc]
    exact (hret _ (byte_lt_of_element hi hj)).2
  · obtain ⟨j, hj, rfl⟩ := List.mem_map.1 ha
    rw [Nat.add_assoc]
    exact (hret _ (byte_lt_of_element hi (List.mem_range.1 hj))).1

/-- Elements that nothing before them has overwritten are put as they are read, and nothing else is told (R51, R240). -/
theorem Copies.makeUnits_eq {s : State} {p : Policy} {bad : List (Nat × Nat)} {l : List Nat} (hl : ∀ i ∈ l, i < x.length)
    (happart : ∀ i < x.length * w, ∀ j < x.length * w, keyOf s (x.src + i) ≠ keyOf s (x.dst + j)) {b : Before}
    (hb : ∀ k ∈ b.written, ∃ j < x.length * w, keyOf s (x.dst + j) = k) :
    makeUnits s .other x p bad b (l.map (copyGroup x)) =
      (madeOf (l.map (copyPut s x (elemBad bad x.srcFmt x.src))), s) := by
  induction l generalizing b with
  | nil => rfl
  | cons i l ih =>
    have hi := hl i (.head _)
    have hfresh : ((runKeys s x.srcFmt x.src i).any b.written.contains) = false := by
      simp only [runKeys_whole hx.bits, List.any_eq_false, List.mem_map, List.mem_range, List.contains_iff_mem]
      rintro _ ⟨j, hj, rfl⟩ hk
      obtain ⟨t, ht, hkey⟩ := hb _ hk
      rw [Nat.add_assoc] at hkey
      exact happart _ (byte_lt_of_element hi hj) t ht hkey.symm
    have hgot : groupGot s .other x bad b (copyGroup x i) =
        ([⟨elemCode s .other x.srcFmt x.src i, scaleCode s .other x.srcFmt (x.srcScale + i / 32),
          srcVal x.srcFmt x.strict (scaleCode s .other x.srcFmt (x.srcScale + i / 32)) (elemCode s .other x.srcFmt x.src i),
          elemBad bad x.srcFmt x.src i⟩], s) := by
      simp [groupGot, copyGroup, getElems, getElem_, hfresh, hx.notMx]
    have hmade (g : Got) : makeGroup x p (copyGroup x i) [g] =
        madeOf [⟨x.dst, i, fmtBits x.srcFmt, g.code, g.bad⟩] := by
      simp only [makeGroup, hx.same, hx.notMx, copyGroup, elemPuts, elemFar, List.zip_cons_cons, List.zip_nil_right, List.map_cons,
        List.map_nil, List.foldl_cons, List.foldl_nil, Bool.false_eq_true, ↓reduceIte]
      rfl
    rw [List.map_cons, makeUnits, hgot, hmade, ih (fun k hk => hl k (.tail _ hk)) (b := _)]
    · rfl
    · intro k hk
      rw [hx.dstAddrs_eq, List.mem_append, List.map_map, List.mem_map] at hk
      rcases hk with hk | ⟨j, hj, rfl⟩
      · exact hb k hk
      · exact ⟨i * w + j, byte_lt_of_element hi (List.mem_range.1 hj), by simp [Nat.add_assoc]⟩

end

/-! ### The bytes that the puts of a copy leave -/

/-- The entries of element `i`: each of its bytes at its place in the destination. -/
def copyCells (s : State) (x : Xfer) (w i : Nat) : List (Nat × Byte) :=
  (List.range w).map fun j => (x.dst + (i * w + j), byteAt s (keyOf s (x.src + (i * w + j))))

section
variable {x : Xfer} {w : Nat} (hx : Copies x w)
include hx

theorem Copies.apply_copyPut (s : State) (poison : Nat → Bool) (m : List (Nat × Byte)) (i : Nat) :
    Put.apply s m (copyPut s x poison i) = (copyCells s x w i).foldl (fun m q => mapInsert m q.1 q.2) m := by
  have hlen : (readBytes s .other (x.src + i * w) w).length = w := by simp [readBytes]
  have happly := Put.apply_whole s m x.dst i (readBytes s .other (x.src + i * w) w) (poison i)
  rw [hlen] at happly
  rw [copyPut, hx.bits, elemCode_whole hx.bits, happly]
  congr 1
  refine List.ext_getElem (by simp [copyCells, hlen]) fun j _ _ => ?_
  simp [copyCells, readBytes, readByte, throughCache, Nat.add_assoc]

/-- Byte `b` of the destination holds byte `b` of the source after the elements of a copy are written. -/
theorem Copies.byteAt_writePuts (s : State) (poison : Nat → Bool)
    (hinj : ∀ i < x.length * w, ∀ j < x.length * w, keyOf s (x.dst + i) = keyOf s (x.dst + j) → i = j) {b : Nat}
    (hb : b < x.length * w) :
    byteAt (writePuts s .other ((List.range x.length).map (copyPut s x poison))) (keyOf s (x.dst + b)) =
      byteAt s (keyOf s (x.src + b)) := by
  have hstand : lastPuts ((List.range x.length).map (copyPut s x poison)) = (List.range x.length).map (copyPut s x poison) :=
    lastPuts_of_pairwise (List.pairwise_map.2 (List.pairwise_lt_range.imp fun h => Nat.ne_of_lt h))
  have hcells (p : Nat × Byte) : p ∈ ((List.range x.length).map (copyPut s x poison)).foldl (Put.apply s) [] ↔
      ∃ t < x.length * w, p = (x.dst + t, byteAt s (keyOf s (x.src + t))) := by
    have hmem (p : Nat × Byte) : p ∈ (List.range x.length).flatMap (copyCells s x w) ↔
        ∃ t < x.length * w, p = (x.dst + t, byteAt s (keyOf s (x.src + t))) := by
      simp only [List.mem_flatMap, copyCells, List.mem_map, List.mem_range]
      constructor
      · rintro ⟨i, hi, j, hj, rfl⟩
        exact ⟨i * w + j, byte_lt_of_element hi hj, rfl⟩
      · rintro ⟨t, ht, rfl⟩
        have hw : 0 < w := Nat.pos_of_ne_zero fun h => by simp [h] at ht
        have htw : t / w * w + t % w = t := Nat.div_add_mod' t w
        exact ⟨t / w, Nat.div_lt_of_lt_mul (by rwa [Nat.mul_comm]), t % w, Nat.mod_lt t hw, by rw [htw]⟩
    have hfold : ((List.range x.length).map (copyPut s x poison)).foldl (Put.apply s) [] =
        ((List.range x.length).flatMap (copyCells s x w)).foldl (fun m q => mapInsert m q.1 q.2) [] := by
      simp only [List.foldl_map, List.foldl_flatMap, hx.apply_copyPut]
    rw [hfold, mem_foldl_mapInsert (f := fun a => byteAt s (keyOf s (x.src + (a - x.dst)))) (by simp) fun p hp => ?_, hmem]
    · simp
    · obtain ⟨t, -, rfl⟩ := (hmem p).1 hp
      simp
  rw [writePuts, hstand]
  refine byteAt_writeCells s .other ?_ (.inl ?_) <;> simp only [List.mem_map]
  · rintro _ ⟨p, hp, rfl⟩ hk
    obtain ⟨t, ht, rfl⟩ := (hcells p).1 hp
    rw [hinj t ht b hb hk]
  · exact ⟨_, ⟨_, (hcells _).2 ⟨b, hb, rfl⟩, rfl⟩, rfl⟩

end

/-! ### What a channel sees -/

/-- Two states hold the same bytes at the same places, and the same ranges retired. -/
def SeesAlike (s t : State) : Prop :=
  t.mem = s.mem ∧ t.reg HBM_MODE = s.reg HBM_MODE ∧ t.repair = s.repair ∧ t.tempRetired = s.tempRetired

theorem checked_seesAlike (s : State) : Checked (SeesAlike s) where
  note := fun ⟨hm, hr, hp, ht⟩ => ⟨hm, (reg_congr rfl _).trans hr, hp, ht⟩
  log := fun ha ⟨hm, hr, hp, ht⟩ =>
    ⟨hm, (reg_setReg_ne _ _ fun e => by rw [← e] at ha; unfold LogReg HBM_MODE at ha; omega).trans hr, hp, ht⟩
  check := fun ⟨hm, hr, hp, ht⟩ => ⟨hm, (reg_congr rfl _).trans hr, hp, ht⟩

theorem SeesAlike.refl (s : State) : SeesAlike s s := ⟨rfl, rfl, rfl, rfl⟩

section
variable {s t : State} (h : SeesAlike s t)
include h

theorem SeesAlike.keyOf_eq (a : Nat) : keyOf t a = keyOf s a := keyOf_congr h.2.1 a

theorem SeesAlike.byteAt_eq (k : Nat) : byteAt t k = byteAt s k := byteAt_congr h.1 k

theorem SeesAlike.retired_eq (k : Nat) : retired t k = retired s k := by
  obtain ⟨-, -, hp, ht⟩ := h
  rw [retired, retired, hp, ht]

theorem SeesAlike.copyPut_eq (x : Xfer) (poison : Nat → Bool) (i : Nat) : copyPut t x poison i = copyPut s x poison i := by
  obtain ⟨hm, hr, -, -⟩ := h
  simp only [copyPut, elemCode, readNat, readBytes_other_congr hm hr]

end

section
variable {I : State → Prop} [Checked I] {s : State} (h : s.Has I)
include h

/-- A base-die channel's descriptor starts: its registers, and what verification notes. -/
protected theorem State.Has.startDieDesc {stack : StackId} {ch : Fin 4} {a d} : (startDesc s (.die stack ch) a d).2.Has I := by
  have hstate : LogReg (DIE_CH_STATE stack.val ch.val) := .inl (by unfold DIE_CH_STATE; omega)
  have hprogress : LogReg (DIE_CH_PROGRESS stack.val ch.val) := .inl (by unfold DIE_CH_PROGRESS; omega)
  have hshown : (chRead (chBusy s (.die stack ch) true a) (.die stack ch) 0).Has I := ((h.fset hstate).fset hstate).fset hprogress
  unfold startDesc
  extract_lets x s1 own recs
  have hown : own.2.Has I := by
    unfold own
    split
    · exact hshown
    · split
      · exact hshown
      · exact hshown.verifyOtherRange
  unfold recs
  split
  · exact hown.verifyOther
  · exact hown

end

/-! ### Running a copy on a base-die channel -/

/-- A transfer descriptor that starts runs its units (R228 to R235). -/
theorem execTransfer_starts {s u : State} {e : Engine} {a : Nat} {d rec_ : List Byte} (h : TransferStarts s e a d rec_ u)
    (hplain : isPlain (parseXfer d) = true) : exec (.transfer e) s = .next (runPlain u e none a d rec_) := by
  obtain ⟨hcur, hports, hheld, hsound, hrecords, hstart⟩ := h
  have hup : ((hostNeeds (parseXfer d)).find? fun p => !portUp s p) = none :=
    List.find?_eq_none.2 fun p hp => by simp [hports p hp]
  refine congrArg Host.Outcome.next ?_
  simp only [runCurrent, hcur, hplain, hheld, withPorts, hup, withDesc, hsound, hrecords, hstart]
  rfl

/-- Units of which none meets a retired range all run. -/
theorem takeUnits_all {s : State} {x : Xfer} {us : List Unit_} (h : ∀ u ∈ us, unitFaults s x u = false) (n : Nat) :
    takeUnits s x none n us = (us, false) := by
  induction us generalizing n with
  | nil => rfl
  | cons u us ih =>
    simp only [takeUnits, h u (.head _), ih (fun v hv => h v (.tail _ hv)), Bool.false_eq_true, ↓reduceIte]

/-- Units that run to the end complete their descriptor (R234). -/
theorem runUnits_all {s : State} {e : Engine} {a : Nat} {d rec_ : List Byte} {us : List Unit_}
    (henv : (parseXfer d).hostEnv = false) (hsound : ∀ u ∈ us, unitFaults s (parseXfer d) u = false)
    (hheld : unitsHeld s e (parseXfer d) us = false) :
    runUnits s e a d rec_ none us =
      completeDesc (chRead (moveUnits s e (parseXfer d) rec_ none us) e (unitBytes (parseXfer d) us)) e a d
        (unitBytes (parseXfer d) us) := by
  simp only [runUnits, takeUnits_all hsound, henv, hheld, Bool.and_false, Bool.false_eq_true, ↓reduceIte]

theorem mergeAmax_zero (s : State) (id : Nat) : mergeAmax s id Val.zero = s := if_pos (.inr rfl)

section
variable (stack : StackId) (ch : Fin 4)

/-- A parity error on the way poisons the puts and is met; the bytes to write stand (R254). -/
theorem pathBad_die (s : State) (x : Xfer) (ps : List Put) : ∃ qs t, pathBad s (.die stack ch) x (madeOf ps) = (madeOf qs, t) ∧
    SeesAlike s t ∧ (qs = ps ∨ qs = ps.map fun q => { q with poison := true }) := by
  unfold pathBad
  split
  · exact ⟨_, _, rfl, ⟨rfl, reg_congr rfl _, rfl, rfl⟩, .inr rfl⟩
  · exact ⟨ps, s, rfl, .refl s, .inl rfl⟩

theorem mem_fset (s : State) (a : Nat) (f : Fld) (v : Nat) : (fset s a f v).mem = s.mem :=
  (keepsMemory_fset s a f v).1

/-- The end of a descriptor on a base-die channel writes no memory. -/
theorem mem_completeDesc_die (s : State) (a : Nat) (d : List Byte) (bytes : Nat) :
    (completeDesc s (.die stack ch) a d bytes).mem = s.mem := by
  have hshown (v : State) (busy : Bool) (c : Chan) :
      ((chBusy v (.die stack ch) busy a).setChan (.die stack ch) c).mem = v.mem :=
    (State.setChan_mem _ _ c).trans ((mem_fset _ _ _ _).trans (mem_fset v _ _ _))
  unfold completeDesc
  extract_lets x chained r s1 s2 c s3
  have hcount : s2.mem = s.mem := (mem_fset s1 r _ _).trans (mem_fset s r _ _)
  split
  · exact (hshown s2 true _).trans hcount
  · exact (hshown s2 false _).trans hcount

/-- What a copy of puts alone reports on a base-die channel writes no memory. -/
theorem mem_dmaMade_die (s : State) (x : Xfer) (rec_ : List Byte) (ps : List Put) :
    (dmaMade s (.die stack ch) x rec_ (madeOf ps)).mem = s.mem := by
  have hamax : mergeAmax (dmaFlags s (.die stack ch) (madeOf ps).fl) x.tensor (madeOf ps).amax = s := mergeAmax_zero s x.tensor
  rw [dmaMade, hamax]
  split <;> rfl

/-- Of units that run to the end on a base-die channel, moving them is what writes memory. -/
theorem mem_runUnits_die {s : State} {a : Nat} {d rec_ : List Byte} {us : List Unit_}
    (henv : (parseXfer d).hostEnv = false) (hsound : ∀ u ∈ us, unitFaults s (parseXfer d) u = false)
    (hheld : unitsHeld s (.die stack ch) (parseXfer d) us = false) :
    (runUnits s (.die stack ch) a d rec_ none us).mem = (moveUnits s (.die stack ch) (parseXfer d) rec_ none us).mem := by
  rw [runUnits_all henv hsound hheld]
  exact (mem_completeDesc_die stack ch _ a d _).trans (mem_fset _ _ _ _)

variable {x : Xfer} {w : Nat} (hx : Copies x w)
include hx

/-- A copy's units move its bytes. -/
theorem Copies.byteAt_moveUnits (s : State) (rec_ : List Byte)
    (hinj : ∀ i < x.length * w, ∀ j < x.length * w, keyOf s (x.dst + i) = keyOf s (x.dst + j) → i = j)
    (happart : ∀ i < x.length * w, ∀ j < x.length * w, keyOf s (x.src + i) ≠ keyOf s (x.dst + j)) {b : Nat}
    (hb : b < x.length * w) :
    byteAt (moveUnits s (.die stack ch) x rec_ none (copyUnits x))
      (keyOf s (x.dst + b)) = byteAt s (keyOf s (x.src + b)) := by
  have hgroups : (copyUnits x).flatMap (·.groups) = (List.range x.length).map (copyGroup x) := by
    rw [copyUnits, List.flatMap_map, List.map_eq_flatMap]
  have hsee : SeesAlike s (verifyAll s .other
      (((List.range x.length).map (copyGroup x)).flatMap (srcBlocks x.srcFmt)).eraseDups).2 := by
    have := checked_seesAlike s
    exact State.Has.verifyOther (I := SeesAlike s) (.refl s)
  unfold moveUnits
  simp only [hgroups, chAgent, dmaPoison, dmaBytes, List.append_nil]
  generalize verifyAll s .other _ = v at hsee ⊢
  rw [hx.makeUnits_eq (fun i hi => List.mem_range.1 hi) (by simpa only [hsee.keyOf_eq] using happart) (by simp)]
  obtain ⟨qs, t, hpath, hsee', hqs⟩ := pathBad_die stack ch v.2 x
    ((List.range x.length).map (copyPut v.2 x (elemBad v.1 x.srcFmt x.src)))
  obtain ⟨poison, hqs⟩ : ∃ poison, qs = (List.range x.length).map (copyPut t x poison) := by
    rcases hqs with rfl | rfl
    · exact ⟨_, List.map_congr_left fun i _ => (hsee'.copyPut_eq x _ i).symm⟩
    · refine ⟨fun _ => true, ?_⟩
      rw [List.map_map]
      exact List.map_congr_left fun i _ => (hsee'.copyPut_eq x (fun _ => true) i).symm
  have hkey (a : Nat) : keyOf t a = keyOf s a := (hsee'.keyOf_eq a).trans (hsee.keyOf_eq a)
  rw [hpath, byteAt_congr (mem_dmaMade_die stack ch _ x rec_ qs)]
  have hmoved := hx.byteAt_writePuts t poison (by simpa only [hkey] using hinj) hb
  rw [hkey, hkey, ← hqs, hsee'.byteAt_eq, hsee.byteAt_eq] at hmoved
  exact hmoved

end

/-- Settles O32: the channel's units are the elements in order, each put where its bytes then lie; neither verification nor completion
writes memory. -/
theorem linearCopiesMoveTheirBytesUnchanged : Obligations.LinearCopiesMoveTheirBytesUnchanged := by
  intro s u stack ch a d rec_ hstart x n hkind hplain hskew henv hsame hfmt hinj hapart hret hheld
  have hx : Copies x (fmtBits x.srcFmt / 8) := copies_of_float hkind hskew hsame hfmt
  have hsee : SeesAlike s u := by
    have := checked_seesAlike s
    obtain ⟨-, -, -, -, -, hu⟩ := hstart
    have hhas := State.Has.startDieDesc (I := SeesAlike s) (.refl s) (stack := stack) (ch := ch) (a := a) (d := d)
    rwa [hu] at hhas
  have hunits := hx.plainUnits_eq u .other
  have hsound := hx.unitFaults_eq_false (s := u) (by simpa only [hsee.retired_eq, hsee.keyOf_eq] using hret)
  have hrun := congrArg (runUnits u (.die stack ch) a d rec_ none) hunits
  refine ⟨_, (execTransfer_starts hstart hplain).trans (congrArg Host.Outcome.next hrun), fun b hb => ?_⟩
  rw [byteAt_congr (mem_runUnits_die stack ch henv hsound (hunits ▸ hheld)), ← hsee.keyOf_eq, ← hsee.keyOf_eq, ← hsee.byteAt_eq]
  exact hx.byteAt_moveUnits stack ch u rec_ (by simpa only [hsee.keyOf_eq] using hinj)
    (by simpa only [hsee.keyOf_eq] using hapart) hb

end Sys2Proof.Machine
end

section
/-! An activation-stationary matrix operation leaves its last activation tile in the arrays (R85). The rows that each array holds are
part of the core's sequencer, so that the sequencers after it are not those of the descriptor marked as written. -/

namespace Sys2Proof.Machine

/-- The arrays run the descriptor at the head of queue 0. -/
theorem exec_matrixOperation {s : State} {c : CoreId} {e : QEntry} (h : headOf s c 0 4 1 = some e) :
    exec (.matrixOperation c) s = .next (runMatrix s c e) := by
  change execMatrixOperation c s = _
  rw [execMatrixOperation, h]

theorem seq_congr {s t : State} (h : t.seqs = s.seqs) (c : CoreId) : t.seq c = s.seq c := by rw [State.seq, h, State.seq]

/-- An activation-stationary descriptor (MODE 2) of one row, one column and one element of K: FP16 operands at 0 and 64 of the
operand store, FP32 output at 128, array 0 alone, no C and no tensor (Tables ARR-4, ARR-5). -/
def stationaryDesc : List Byte :=
  leBytes 4 0x040A9921 ++ leBytes 4 0xFFFF0000 ++ leBytes 4 1 ++ leBytes 4 1 ++ leBytes 4 1 ++ leBytes 4 0x01000040 ++
    [0, 0, 64, 0, 0, 128, 0, 64, 64, 64].flatMap (leBytes 4)

def stationaryEntry : QEntry := { desc := stationaryDesc, addr := 0, pc := 0, index := 0, format := [], done := false }

def stationaryCore : CoreId := ⟨0, 0⟩

/-- The state after reset with the descriptor at the head of queue 0. No array holds an activation tile. -/
def stationaryState : State :=
  State.reset.setSeq stationaryCore { Seq.empty with queues := [[stationaryEntry], [], [], []] }

/-- The counterexample is an operation that ISSUE accepts: no condition of Table ARR-6 holds of it (R99). -/
theorem matrixOk_stationaryDesc : matrixOk stationaryState stationaryCore stationaryDesc = true := by decide +kernel

theorem headOf_stationaryState : headOf stationaryState stationaryCore 0 4 1 = some stationaryEntry := by decide +kernel

/-- After the operation array 0 holds the one row of M. -/
theorem held_runMatrix_stationary :
    ((runMatrix stationaryState stationaryCore stationaryEntry).seq stationaryCore).held = [(0, 1)] := by decide +kernel

/-- The descriptor marked as written leaves the arrays without a tile. -/
theorem held_markDone_stationary : ((markDone stationaryState stationaryCore 0).seq stationaryCore).held = [] := by
  decide +kernel

/-- Refutes O23: its second clause takes every matrix operation to leave the sequencers as marking the descriptor does, and an
activation-stationary one also changes the rows that its core's arrays hold. -/
theorem not_operationsWriteTheirResultsAlone : ¬ Obligations.OperationsWriteTheirResultsAlone := by
  intro h
  obtain ⟨-, hmatrix, -⟩ := h stationaryState stationaryCore stationaryEntry (by decide +kernel)
  obtain ⟨t, hexec, -, -, hseqs, -⟩ := hmatrix headOf_stationaryState (by decide +kernel)
  obtain rfl : runMatrix stationaryState stationaryCore stationaryEntry = t :=
    Host.Outcome.next.inj ((exec_matrixOperation headOf_stationaryState).symm.trans hexec)
  have hheld : [(0, 1)] = ([] : List (Nat × Nat)) :=
    held_runMatrix_stationary.symm.trans ((congrArg Seq.held (seq_congr hseqs _)).trans held_markDone_stationary)
  exact List.cons_ne_nil _ _ hheld

end Sys2Proof.Machine
end

section
/-! The window sum of a group: its quantum is the largest product's, its terms are the products truncated to it, and neither depends
on the order of the products (R104 to R108). -/

namespace Sys2Proof.Machine

/-! ### The quantum and the terms of a window -/

/-- The weight of the window's lowest bit, as a power of two: 48 below the largest product's (R105). -/
def windowQuantum (ps : List Val) : Int :=
  ((ps.filter fun p => !p.isZero).map Val.floorLog2).max?.elim 0 (· - 48)

/-- The magnitude m × 2^x truncated to a multiple of 2^u, in that quantum (R106). -/
def windowMag (u : Int) (m : Nat) (x : Int) : Nat := if u ≤ x then m * 2 ^ (x - u).toNat else m / 2 ^ (u - x).toNat

theorem windowMag_eq (u : Int) (m : Nat) (x : Int) :
    windowMag u m x = if x - u ≥ 0 then m * 2 ^ (x - u).toNat else m / 2 ^ (-(x - u)).toNat := by
  simp [windowMag]

/-- A product in a window of quantum 2^u: its sign applied to its truncated magnitude (R106). -/
def windowTerm (u : Int) : Val → Int
  | .fin s m x => if s then -(windowMag u m x : Int) else windowMag u m x
  | _ => 0

@[simp] theorem windowTerm_nan (u : Int) : windowTerm u .nan = 0 := rfl

@[simp] theorem windowTerm_inf (u : Int) (s : Bool) : windowTerm u (.inf s) = 0 := rfl

@[simp] theorem windowTerm_fin (u : Int) (s : Bool) (m : Nat) (x : Int) :
    windowTerm u (.fin s m x) = if s then -(windowMag u m x : Int) else windowMag u m x := rfl

theorem natAbs_windowTerm_fin (u : Int) (s : Bool) (m : Nat) (x : Int) : (windowTerm u (.fin s m x)).natAbs = windowMag u m x := by
  cases s <;> simp

theorem Val.isZero_fin (s : Bool) (m : Nat) (x : Int) : (Val.fin s m x).isZero = decide (m = 0) := by
  cases m <;> simp [Val.isZero]

theorem windowTerm_of_isZero {u : Int} {p : Val} (h : p.isZero = true) : windowTerm u p = 0 := by
  cases p with
  | nan => rfl
  | inf s => rfl
  | fin s m x =>
    rw [Val.isZero_fin, decide_eq_true_eq] at h
    simp [h, windowMag]

/-- Zero products add nothing: a window may hold them or leave them out. -/
theorem sum_windowTerm_filter (u : Int) (ps : List Val) :
    ((ps.filter fun p => !p.isZero).map (windowTerm u)).sum = (ps.map (windowTerm u)).sum := by
  induction ps with
  | nil => rfl
  | cons p ps ih =>
    cases hp : p.isZero with
    | true => simp [hp, ih, windowTerm_of_isZero hp]
    | false => simp [hp, ih]

/-- The window sum is the sum of the truncated products (R105 to R107). -/
theorem windowSum_eq (ps : List Val) : windowSum ps = ((ps.map (windowTerm (windowQuantum ps))).sum, windowQuantum ps) := by
  rw [← sum_windowTerm_filter, windowQuantum, windowSum]
  cases ps.filter fun p => !p.isZero with
  | nil => rfl
  | cons p rest =>
    rw [List.sum_eq_foldl, List.foldl_map, List.map_cons, List.max?_cons', List.foldl_map, Option.elim_some]
    refine congrArg (·, _) (List.foldl_ext _ _ _ fun w v _ => ?_)
    cases v with
    | nan => simp
    | inf s => simp
    | fin s m x =>
      rw [windowTerm_fin, windowMag_eq]
      cases s
      · rfl
      · exact Int.sub_eq_add_neg

theorem windowQuantum_perm {ps qs : List Val} (h : ps.Perm qs) : windowQuantum ps = windowQuantum qs := by
  have hmem := (h.filter fun p => !p.isZero).map Val.floorLog2
  exact congrArg (Option.elim · 0 (· - 48)) (Option.ext fun e => by simp only [List.max?_eq_some_iff, hmem.mem_iff])

/-- The window sum and its quantum do not depend on the order of the products (R107). -/
theorem windowSum_perm {ps qs : List Val} (h : ps.Perm qs) : windowSum ps = windowSum qs := by
  rw [windowSum_eq, windowSum_eq, windowQuantum_perm h, (h.map _).sum_eq]

/-! ### The window's width -/

/-- The quantum lies at most 48 below every product that is not zero (R105). -/
theorem floorLog2_le_windowQuantum {ps : List Val} {p : Val} (hp : p ∈ ps) (hz : p.isZero = false) :
    p.floorLog2 ≤ windowQuantum ps + 48 := by
  have hmem : p.floorLog2 ∈ (ps.filter fun p => !p.isZero).map Val.floorLog2 :=
    List.mem_map_of_mem (List.mem_filter.2 ⟨hp, by simp [hz]⟩)
  unfold windowQuantum
  cases hmax : ((ps.filter fun p => !p.isZero).map Val.floorLog2).max? with
  | none => rw [List.max?_eq_none_iff.1 hmax] at hmem; cases hmem
  | some e => simpa using (List.max?_eq_some_iff.1 hmax).2 _ hmem

/-- A magnitude at most 48 binades above the quantum has at most 49 bits in the window. -/
theorem windowMag_lt {u x : Int} {m : Nat} (h : (m.log2 : Int) + x ≤ u + 48) : windowMag u m x < 2 ^ 49 := by
  have hm : m < 2 ^ (m.log2 + 1) := Nat.lt_log2_self
  unfold windowMag
  split_ifs with hu
  · calc m * 2 ^ (x - u).toNat < 2 ^ (m.log2 + 1) * 2 ^ (x - u).toNat := Nat.mul_lt_mul_of_pos_right hm (Nat.two_pow_pos _)
      _ = 2 ^ (m.log2 + 1 + (x - u).toNat) := (Nat.pow_add ..).symm
      _ ≤ 2 ^ 49 := Nat.pow_le_pow_right Nat.two_pos (by omega)
  · refine Nat.div_lt_of_lt_mul ?_
    calc m < 2 ^ (m.log2 + 1) := hm
      _ ≤ 2 ^ ((u - x).toNat + 49) := Nat.pow_le_pow_right Nat.two_pos (by omega)
      _ = 2 ^ (u - x).toNat * 2 ^ 49 := Nat.pow_add ..

/-- Each truncated magnitude of a group is below 2^49 (R107). -/
theorem natAbs_windowTerm_lt {ps : List Val} {p : Val} (hp : p ∈ ps) : (windowTerm (windowQuantum ps) p).natAbs < 2 ^ 49 := by
  cases hz : p.isZero with
  | true => simp [windowTerm_of_isZero hz]
  | false =>
    have hlog := floorLog2_le_windowQuantum hp hz
    cases p with
    | nan => simp
    | inf s => simp
    | fin s m x =>
      rw [natAbs_windowTerm_fin]
      exact windowMag_lt hlog

/-- A sum of terms each below 2^49 in magnitude is at most their number times 2^49 - 1. -/
theorem natAbs_sum_windowTerm_le {u : Int} {ps : List Val} (h : ∀ p ∈ ps, (windowTerm u p).natAbs < 2 ^ 49) :
    (ps.map (windowTerm u)).sum.natAbs ≤ ps.length * (2 ^ 49 - 1) := by
  calc (ps.map (windowTerm u)).sum.natAbs
      ≤ ((ps.map (windowTerm u)).map Int.natAbs).sum := List.le_sum_of_subadditive _ le_rfl Int.natAbs_add_le _
    _ ≤ ((ps.map (windowTerm u)).map Int.natAbs).length • (2 ^ 49 - 1) :=
        List.sum_le_card_nsmul _ _ (by simpa using fun p hp => Nat.le_sub_one_of_lt (h p hp))
    _ = ps.length * (2 ^ 49 - 1) := by simp

/-- The sum of any of 32 products does not overflow, in whatever order they come (R107). -/
theorem natAbs_sum_windowTerm_take_lt {ps qs : List Val} (hlen : ps.length = 32) (h : ps.Perm qs) (n : Nat) :
    ((qs.take n).map (windowTerm (windowQuantum ps))).sum.natAbs < 2 ^ 54 := by
  have hsum := natAbs_sum_windowTerm_le (ps := qs.take n) fun p hp => natAbs_windowTerm_lt (h.mem_iff.2 (List.mem_of_mem_take hp))
  have hfew : (qs.take n).length ≤ 32 := hlen ▸ h.length_eq ▸ List.length_take_le' n qs
  omega

/-- Products that are all zero have the window sum zero (R107). -/
theorem windowSum_of_isZero {ps : List Val} (h : ∀ p ∈ ps, p.isZero = true) : (windowSum ps).1 = 0 := by
  rw [windowSum_eq]
  exact List.sum_eq_zero fun t ht => by
    obtain ⟨p, hp, rfl⟩ := List.mem_map.1 ht
    exact windowTerm_of_isZero (h p hp)

/-! ### The partial -/

/-- The partial of finite operands without a NaN scale is the window sum, scaled and rounded once (R108). -/
theorem groupPartial_of_finite {strict : Bool} {sa sb : Nat} {ab : List (Val × Val)} (ha : sa ≠ 0xFF) (hb : sb ≠ 0xFF)
    (hab : ∀ p ∈ ab, (∃ s m e, p.1 = .fin s m e) ∧ ∃ s m e, p.2 = .fin s m e) :
    let w := windowSum (ab.map fun p => Val.mul p.1 p.2)
    (groupPartial strict sa sb ab).1 =
      (roundF32 strict (Val.ofInt w.1 (w.2 + ((sa : Int) - 127) + ((sb : Int) - 127)) false)).1 := by
  have never {f : Val × Val → Bool} (hf : ∀ s m e t n k, f (.fin s m e, .fin t n k) = false) : ab.any f = false := by
    refine List.any_eq_false.2 fun ⟨a, b⟩ hp => ?_
    obtain ⟨⟨s, m, e, rfl⟩, t, n, k, rfl⟩ := hab _ hp
    simp [hf]
  simp only [groupPartial, List.any_map, ha, hb, or_self, if_false]
  rw [never, never, never, never]
  · simp
  all_goals exact fun _ _ _ _ _ _ => rfl

/-- A window sum of zero rounds to +0. -/
theorem roundF32_ofInt_zero (strict : Bool) (q : Int) : (roundF32 strict (Val.ofInt 0 q false)).1 = .fin false 0 (-149) := by
  rw [Val.ofInt, if_pos rfl]
  cases strict <;> decide

/-- Settles O21: the quantum is a maximum, each product's term depends on it alone, and what is added is the sum of the terms. -/
theorem theWindowSumDoesNotDependOnTheOrder : Obligations.TheWindowSumDoesNotDependOnTheOrder := by
  unfold Obligations.TheWindowSumDoesNotDependOnTheOrder
  intro finite cut
  have hcut : cut = windowTerm := by
    funext u p
    cases p with
    | nan => rfl
    | inf s => rfl
    | fin s m x => simp [cut, windowMag]
  refine ⟨fun ps qs => windowSum_perm, fun ps hlen _ => ?_, fun strict sa sb ab ha hb _ hab hzero => ⟨-149, ?_⟩⟩
  · rw [hcut, windowSum_eq]
    exact ⟨rfl, fun p => natAbs_windowTerm_lt, fun qs h n => natAbs_sum_windowTerm_take_lt hlen h n, fun h => by
      rw [← windowSum_of_isZero h, windowSum_eq]⟩
  · rw [groupPartial_of_finite ha hb hab, hzero, roundF32_ofInt_zero]

end Sys2Proof.Machine
end

section
/-! What functions of the model leave of the channels: the registers that they show themselves in, and, as a statement needs them, memory,
the sequencers and what each channel holds. `Leaves.f` says for a function `f` that it leaves them, and its proof names the functions
that `f` calls, as the layer of `State.Canonical` does. -/

namespace Sys2Proof.Machine

/-! ### The relation -/

/-- The registers of the channels, and the two that place stack addresses and format state records. -/
def ChannelReg (a : Nat) : Prop :=
  (a < 0x800000 ∧ 0x900 ≤ a % 0x20000 ∧ a % 0x20000 < 0xD00) ∨
    (0x800000 ≤ a ∧ a < 0x900000 ∧ 0x400 ≤ a % 0x1000 ∧ a % 0x1000 < 0x480) ∨
    (0x907000 ≤ a ∧ a < 0x908000) ∨ a = HBM_MODE ∨ a = INF_FSTATE_BASE

/-- The registers of `ChannelReg` are as before, and as the flags ask, memory, the sequencers and the channels. -/
structure Leaves (mem seqs chans : Bool) (s t : State) : Prop where
  regs : ∀ a, ChannelReg a → t.reg a = s.reg a
  mem : mem = true → t.mem = s.mem
  seqs : seqs = true → t.seqs = s.seqs
  chans : chans = true → t.chans = s.chans

theorem Leaves.refl {m q c : Bool} (s : State) : Leaves m q c s s := ⟨fun _ _ => rfl, fun _ => rfl, fun _ => rfl, fun _ => rfl⟩

section
variable {m q c : Bool} {s u : State} (h : Leaves m q c s u)
include h

protected theorem Leaves.ite {t : State} (ht : Leaves m q c s t) {p : Prop} [Decidable p] : Leaves m q c s (if p then u else t) := by
  split
  · exact h
  · exact ht

protected theorem Leaves.foldl {β : Type} {l : List β} {f : State → β → State}
    (hf : ∀ {v : State} {b : β}, Leaves m q c s v → Leaves m q c s (f v b)) : Leaves m q c s (l.foldl f u) :=
  List.foldlRecOn (motive := fun v => Leaves m q c s v) l f h fun _ hv _ _ => hf hv

/-- A fold that gathers a result beside the state. -/
protected theorem Leaves.foldlSnd {α β : Type} {a : α} {l : List β} {f : α × State → β → α × State}
    (hf : ∀ {v : α × State} {b : β}, Leaves m q c s v.2 → Leaves m q c s (f v b).2) : Leaves m q c s (l.foldl f (a, u)).2 :=
  List.foldlRecOn (motive := fun v => Leaves m q c s v.2) l f h fun _ hv _ _ => hf hv

/-- One proof for a state that several places name. -/
protected theorem Leaves.use {p : Prop} (k : Leaves m q c s u → p) : p := k h

/-- Every other part of the state may differ. -/
protected theorem Leaves.update {env errs tiles slices pools moves mesh spanHeld dieHeld dieIn devs dies tempRetired beat windowStart slews
    ptpStamp syncBase car stp job repair links rings qps regions flash upd mgr snaps pwr pins vid halves out free pending} :
    Leaves m q c s ⟨u.regs, u.mem, env, errs, u.seqs, tiles, slices, pools, moves, u.chans, mesh, spanHeld, dieHeld, dieIn, devs, dies,
      tempRetired, beat, windowStart, slews, ptpStamp, syncBase, car, stp, job, repair, links, rings, qps, regions, flash, upd, mgr,
      snaps, pwr, pins, vid, halves, out, free, pending⟩ := ⟨h.regs, h.mem, h.seqs, h.chans⟩

protected theorem Leaves.setReg {a v : Nat} (ha : ¬ ChannelReg a) : Leaves m q c s (u.setReg a v) :=
  ⟨fun b hb => (reg_setReg_ne u v fun e : b = a => ha (e ▸ hb)).trans (h.regs b hb), h.mem, h.seqs, h.chans⟩

protected theorem Leaves.fset {a : Nat} {f : Fld} {v : Nat} (ha : ¬ ChannelReg a := by
    simp only [ChannelReg, HBM_MODE, INF_FSTATE_BASE, MGS_ALERT, MGS_STATUS, TL_INTEG, TL_INTEG_ADDR, TL_PFAULT, TL_IDX_SKIP, DMA_IRQ,
      INF_CKPT_CURSOR, INF_DIE_STATUS, INF_CKPT_STATUS, INF_CKPT_CTL, INF_POISON, INF_CKPT_FWD, INF_FROZEN, INF_BAD_LANES, HIF_UPD_STATUS,
      HIF_CQ_CTL, TBU_PLOG_DROP, TBU_PLOG_WP, TBU_STATUS, TBU_RESTART, TBU_CTL, PWR_STATE]
    omega) : Leaves m q c s (fset u a f v) := h.setReg ha

protected theorem Leaves.fadd {a : Nat} {f : Fld} {n : Nat} (ha : ¬ ChannelReg a := by
    simp only [ChannelReg, HBM_MODE, INF_FSTATE_BASE, MGS_STATUS, TL_INTEG, TL_IDX_SKIP, INF_POISON, INF_CKPT_FWD, INF_FROZEN,
      INF_BAD_LANES, HIF_UPD_STATUS, TBU_PLOG_DROP]
    omega) : Leaves m q c s (fadd u a f n) := h.setReg ha

end

/-! ### Notes of events -/

section
variable {m q c : Bool} {s u : State} (h : Leaves m q c s u)
include h

protected theorem Leaves.setTile {t x} : Leaves m q c s (u.setTile t x) := h.update

protected theorem Leaves.emit {msg} : Leaves m q c s (emit u msg) := h.update

protected theorem Leaves.waitLink {p w} : Leaves m q c s (waitLink u p w) := h.ite h.update

protected theorem Leaves.msix {port vector} : Leaves m q c s (msix u port vector) :=
  (h.emit.ite h.waitLink).ite
    (h.update.setReg (by simp only [ChannelReg, MSIX_PBA, HBM_MODE, INF_FSTATE_BASE]; omega))

protected theorem Leaves.interrupt {source} : Leaves m q c s (interrupt u source) := h.msix.ite h

protected theorem Leaves.refreshAlert : Leaves m q c s (refreshAlert u) := h.update

protected theorem Leaves.raiseAlert {f} : Leaves m q c s (raiseAlert u f) :=
  h.refreshAlert.ite (h.fset.refreshAlert.use fun h1 => h1.interrupt.ite h1)

protected theorem Leaves.post {k unit data} : Leaves m q c s (post u k unit data) := h.fadd.update.raiseAlert.ite h.update

protected theorem Leaves.fireSnapshot {source tile} : Leaves m q c s (fireSnapshot u source tile) := h.update

protected theorem Leaves.mcBump {a sel amount} (ha : ¬ ChannelReg a) : Leaves m q c s (mcBump u a sel amount) :=
  (h.fset ha).ite (h.ite (((h.fset ha).fset ha).post.raiseAlert.ite ((h.fset ha).fset ha)))

/-- Counters of the run at a base note an amount. -/
protected theorem Leaves.mcAdd {base count source unit amount : Nat}
    (ha : ∀ a, base ≤ a → a < base + 16 * count → (a - base) % 16 = 0 → ¬ ChannelReg (a + 8)) :
    Leaves m q c s (mcAdd u base count source unit amount) := by
  refine h.ite (List.foldlRecOn (motive := fun v => Leaves m q c s v) _ _ h fun v hv p hp => Leaves.mcBump hv ?_)
  simp only [List.mem_filter, Bool.and_eq_true, decide_eq_true_eq] at hp
  obtain ⟨-, ⟨⟨⟨hlo, hhi, h16⟩, -⟩, -⟩, -⟩ := hp
  exact ha _ hlo hhi h16

protected theorem Leaves.mcTile {t source unit amount} : Leaves m q c s (mcTile u t source unit amount) :=
  h.mcAdd fun a hlo hhi _ => by
    simp only [TL_MC_SEL] at hlo hhi
    simp only [ChannelReg, HBM_MODE, INF_FSTATE_BASE]
    omega

protected theorem Leaves.mcModule {source unit amount} : Leaves m q c s (mcModule u source unit amount) :=
  h.mcAdd fun a hlo hhi _ => by
    simp only [MGS_MC_SEL] at hlo hhi
    simp only [ChannelReg, HBM_MODE, INF_FSTATE_BASE]
    omega

protected theorem Leaves.withhold {n} : Leaves m q c s (withhold u n) := h.update

protected theorem Leaves.integrityEvent {t kind unit core a} : Leaves m q c s (integrityEvent u t kind unit core a) :=
  (h.fadd.ite h.fset.fset.fset.fset.fset.fset.fset).use fun h1 => (h1.fset.interrupt.ite h1.fset).post.withhold

protected theorem Leaves.integrityAll {t unit core bad} : Leaves m q c s (integrityAll u t unit core bad) :=
  h.foldl fun hv => hv.integrityEvent

protected theorem Leaves.caddyParity {t kind a : Nat} (ht : t < 64) : Leaves m q c s (caddyParity u t kind a) := by
  have ha : ¬ ChannelReg (CAD_PERR t) := by
    simp only [ChannelReg, CAD_PERR, HBM_MODE, INF_FSTATE_BASE]
    omega
  exact (h.fadd ha).ite ((((h.fset ha).fset ha).fset ha).fset ha)

omit h in
theorem not_channelReg_errlogOf (k : Nat) : ¬ ChannelReg (errlogOf k) := by
  unfold errlogOf
  split
  · simp only [ChannelReg, HBM_ERRLOG, HBM_MODE, INF_FSTATE_BASE]
    omega
  · have := bitsAt_lt k 36 6
    simp only [ChannelReg, DTR_ERRLOG, HBM_MODE, INF_FSTATE_BASE]
    omega

protected theorem Leaves.logUncorrectable {k unit bank row} : Leaves m q c s (logUncorrectable u k unit bank row) := by
  have ha := not_channelReg_errlogOf k
  exact ((h.fset ha).ite (((((h.fset ha).fset ha).fset ha).fset ha).fset ha)).post.raiseAlert

end

/-! ### Verification and reads -/

section
variable {m q c : Bool} {s u : State} (h : Leaves m q c s u)
include h

protected theorem Leaves.takeFree : Leaves m q c s (takeFree u).2 := h.update

protected theorem Leaves.clearErr {k} : Leaves m q c s (clearErr u k) := h.update

protected theorem Leaves.verifyKey {ag k a} : Leaves m q c s (verifyKey u ag k a).2 := by
  unfold verifyKey
  dsimp only
  split
  · exact h.logUncorrectable
  · exact (h.caddyParity (bitsAt_lt a 28 6)).ite h
  · exact h
  · split
    · split
      · exact h.update.mcTile.ite h.update
      · exact h.update
    · exact h.update
  · exact h

protected theorem Leaves.verifyMemory {ag a} : Leaves m q c s (verifyMemory u ag a).2 := h.verifyKey

protected theorem Leaves.dropBlock {t b} : Leaves m q c s (dropBlock u t b) := h.setTile

protected theorem Leaves.verifyBlock {ag a} : Leaves m q c s (verifyBlock u ag a).2 := by
  unfold verifyBlock
  dsimp only
  split
  · exact h.verifyMemory
  · next t _ =>
    split
    · exact h.mcTile.verifyMemory.dropBlock.setTile
    · split
      · exact (h.mcTile.update.caddyParity (by omega)).mcTile.verifyMemory.dropBlock.setTile
      · split
        · exact h.mcTile.verifyMemory.dropBlock.setTile
        · split
          · exact h.mcTile
          · split
            · exact h.mcTile.takeFree
            · exact h.mcTile.takeFree.verifyMemory.dropBlock.setTile

omit h in
protected theorem Leaves.verifyAll {ag as} (h : Leaves m q c s u) : Leaves m q c s (verifyAll u ag as).2 := by
  induction as generalizing u with
  | nil => exact h
  | cons a as ih => exact ih (by split; exacts [h, h.verifyBlock])

protected theorem Leaves.verifyRange {ag a n} : Leaves m q c s (verifyRange u ag a n).2 := h.verifyAll

protected theorem Leaves.verifyFormat {id} : Leaves m q c s (verifyFormat u id).2 := by
  unfold verifyFormat
  split
  · exact h
  · exact h.verifyRange

protected theorem Leaves.getElem_ {ag fmt strict bad written e} : Leaves m q c s (getElem_ u ag fmt strict bad written e).2 := by
  unfold getElem_
  split
  · exact h
  · exact h
  · exact h.takeFree
  · extract_lets own ownScale f
    have hf : Leaves m q c s f.2 := by unfold f; split; exacts [h.takeFree, h]
    exact hf

omit h in
protected theorem Leaves.getElems {ag fmt strict bad written es} (h : Leaves m q c s u) :
    Leaves m q c s (getElems u ag fmt strict bad written es).2 := by
  induction es generalizing u with
  | nil => exact h
  | cons e es ih => exact ih h.getElem_

protected theorem Leaves.groupGot {ag x bad b g} : Leaves m q c s (groupGot u ag x bad b g).2 := by
  unfold groupGot
  split
  · exact h
  · exact h.getElems

omit h in
protected theorem Leaves.makeUnits {ag x p bad b gs} (h : Leaves m q c s u) : Leaves m q c s (makeUnits u ag x p bad b gs).2 := by
  induction gs generalizing u b with
  | nil => exact h
  | cons g gs ih => exact ih h.groupGot

omit h in
protected theorem Leaves.readOwn {ag written as} (h : Leaves m q c s u) : Leaves m q c s (readOwn u ag written as).2 := by
  induction as generalizing u with
  | nil => exact h
  | cons a as ih => exact ih (by split; exacts [h.takeFree, h])

protected theorem Leaves.compressBox {ag fmt w bad written b} : Leaves m q c s (compressBox u ag fmt w bad written b).2 := h.getElems

protected theorem Leaves.expandBox {ag fmt w bad written b} : Leaves m q c s (expandBox u ag fmt w bad written b).2 := h.readOwn

omit h in
protected theorem Leaves.makeBoxes {ag comp fmt w bad written bs} (h : Leaves m q c s u) :
    Leaves m q c s (makeBoxes u ag comp fmt w bad written bs).2 := by
  induction bs generalizing u written with
  | nil => exact h
  | cons b bs ih => exact ih (by split; exacts [h.compressBox, h.expandBox])

omit h in
protected theorem Leaves.sumInto {ag fmt conv strict bad g} {l : List Sum × State} {p} (h : Leaves m q c s l.2) :
    Leaves m q c s (sumInto ag fmt conv strict bad g l p).2 := by
  unfold sumInto
  dsimp only
  split
  · exact h
  · split
    · exact h
    · exact h.getElem_

protected theorem Leaves.sumUnits {e x strict bad us} : Leaves m q c s (sumUnits u e x strict bad us).2 :=
  h.foldlSnd fun hv => List.foldlRecOn (motive := fun l : List Sum × State => Leaves m q c s l.2) _ _ hv.getElem_ fun _ hl _ _ => hl.sumInto

end

/-! ### Writes of memory -/

section
variable {q c : Bool} {s u : State} (h : Leaves false q c s u)
include h

/-- A unit writes memory. -/
protected theorem Leaves.writeCells {ag ws} : Leaves false q c s (writeCells u ag ws) := by
  obtain ⟨_, _, _, _, hw, -⟩ := writeCells_frame u ag ws
  rw [hw]
  exact ⟨h.regs, nofun, h.seqs, h.chans⟩

protected theorem Leaves.writeBlock {ag b bytes poison} : Leaves false q c s (writeBlock u ag b bytes poison) := by
  obtain ⟨_, _, _, hw, -⟩ := writeBlock_spec u ag b bytes poison
  rw [hw]
  exact ⟨h.regs, nofun, h.seqs, h.chans⟩

protected theorem Leaves.writeBytes {ag a bs poison} : Leaves false q c s (writeBytes u ag a bs poison) := h.writeCells

protected theorem Leaves.mergeAmax {id v} : Leaves false q c s (mergeAmax u id v) := h.ite (h.verifyRange.ite h.verifyRange.writeBytes)

protected theorem Leaves.writePuts {ag ps} : Leaves false q c s (writePuts u ag ps) := h.writeCells

protected theorem Leaves.writeHostEnv {ag side touched poisoned} : Leaves false q c s (writeHostEnv u ag side touched poisoned) :=
  h.foldl fun hv => hv.writeBytes

end

end Sys2Proof.Machine
end

section
/-! What a pulse and the completion of a COPY leave of the channels: a pulse can stop a tile, whose phases then end, and with them walks,
captures and records of the phase clock log (R30, R32, R45, R262, R277, R289, R327). -/

namespace Sys2Proof.Machine

/-! ### The infusers' walk and the capture -/

section
variable {q c : Bool} {s u : State} (h : Leaves false q c s u)
include h

protected theorem Leaves.setDie {die x} : Leaves false q c s (u.setDie die x) := h.update

protected theorem Leaves.verifyStack {die off n} : Leaves false q c s (verifyStack u die off n).2 :=
  (h.clearErr.ite h).foldlSnd fun hv => hv.verifyKey

protected theorem Leaves.verifyHyper {e n} : Leaves false q c s (verifyHyper u e n).2 := by
  unfold verifyHyper
  split
  · exact h
  · refine Leaves.verifyFormat ?_
    split
    · exact h.verifyRange
    · exact h.verifyRange.verifyRange

protected theorem Leaves.copyKeys {k a n} : Leaves false q c s (copyKeys u k a n) := by
  unfold copyKeys
  extract_lets v
  have hv : Leaves false q c s v.2 := h.foldlSnd fun hv => hv.verifyKey
  exact hv.writeCells

protected theorem Leaves.setCursor {die pos} : Leaves false q c s (setCursor u die pos) := h.setDie.fset.fset

protected theorem Leaves.refreshBusy {die} : Leaves false q c s (refreshBusy u die) := h.fset

protected theorem Leaves.captureCheck : Leaves false q c s (captureCheck u) :=
  (h.foldl fun hv => hv.setDie.refreshBusy.ite hv).use fun h1 => (h1.fset.fset.foldl fun hv => hv.emit).ite h1

protected theorem Leaves.captureDie {n die} : Leaves false q c s (captureDie u n die) :=
  h.writeBytes.copyKeys.verifyRange.writeCells.setDie.setCursor.refreshBusy

protected theorem Leaves.captureStart {n outcome} : Leaves false q c s (captureStart u n outcome) :=
  (h.fset.fset.ite (h.fset.fset.fset.foldl fun hv => hv.captureDie).captureCheck).ite h

protected theorem Leaves.leaveRecords {die off entry n} : Leaves false q c s (leaveRecords u die off entry n) :=
  (h.ite h.fset.fset.fset.fset).fadd

protected theorem Leaves.forwardRecord {die off pos left} : Leaves false q c s (forwardRecord u die off pos left) :=
  (h.copyKeys.setCursor.use fun h1 => h1.ite h1.fadd.mcModule).ite h

protected theorem Leaves.walkRecord {die e y n start r} : Leaves false q c s (walkRecord die e y n start u r) :=
  h.verifyStack.verifyStack.leaveRecords.forwardRecord.ite
    (h.verifyStack.verifyStack.forwardRecord.use fun h1 => (h1.fadd.ite h1.fadd.fadd.fset).use fun h2 =>
      h2.writeBlock.mergeAmax.mcModule.ite h2)

protected theorem Leaves.walkEntry {die n i} : Leaves false q c s (walkEntry die n u i) :=
  Leaves.use (by split; exacts [h.verifyStack, h.verifyStack.verifyHyper]) fun h1 =>
    (h1.leaveRecords.foldl fun hv => hv.writeBytes.setCursor.ite hv).ite
      ((h1.foldl fun hv => hv.walkRecord).use fun h2 => h2.writeBlock.writeBlock.ite h2)

protected theorem Leaves.walkDie {die} : Leaves false q c s (walkDie u die) := by
  unfold walkDie
  split
  · exact h.ite (h.setDie.foldl fun hv => hv.walkEntry).refreshBusy
  · exact h

protected theorem Leaves.infuserWalk {n} : Leaves false q c s (infuserWalk u n) :=
  Leaves.captureCheck ((h.update.foldl fun hv => hv.setDie.refreshBusy).foldl fun hv => hv.walkDie)

/-! ### Ends of phases -/

protected theorem Leaves.setUpdState {x} : Leaves false q c s (setUpdState u x) := h.ite h.fset.interrupt.post

protected theorem Leaves.provenStep : Leaves false q c s (provenStep u) := (h.fadd.update.setUpdState.ite h.fadd).ite h

protected theorem Leaves.dropRecord : Leaves false q c s (dropRecord u) := h.fadd.fset.post

protected theorem Leaves.writeRecord {bytes} : Leaves false q c s (writeRecord u bytes) := by
  unfold writeRecord
  refine h.dropRecord.ite ?_
  refine h.dropRecord.ite ?_
  split
  · exact h.waitLink
  · exact h.waitLink.ite h.writeBytes.fset

protected theorem Leaves.logPhase {r e} : Leaves false q c s (logPhase u r e) := h.ite h.update.writeRecord

protected theorem Leaves.hold : Leaves false q c s (hold u) := h.fset.fset.update

protected theorem Leaves.stopCheck : Leaves false q c s (stopCheck u) :=
  (h.update.fset.fset.fset.fset.ite h.update.fset.fset.fset).ite h

protected theorem Leaves.phaseEnds {n p} : Leaves false q c s (phaseEnds u n p) := by
  unfold phaseEnds
  split
  · exact h
  · exact (h.logPhase.update.ite h.logPhase.update).use fun h3 =>
      ((h3.infuserWalk.ite h3).use fun h4 => (h4.provenStep.ite h4).captureStart.use fun h5 => h5.hold.ite h5).ite h3

protected theorem Leaves.tilePhaseEnds {t n p flags} : Leaves false q c s (tilePhaseEnds u t n p flags) :=
  (h.ite h.update).use fun h1 => (h1.setTile.phaseEnds.ite h1.setTile).stopCheck

omit h in
protected theorem Leaves.settleAll {n} (h : Leaves false q c s u) : Leaves false q c s (settleAll n u) := by
  induction n generalizing u with
  | zero => exact h
  | succ n ih => exact (ih (h.foldl fun hv => hv.tilePhaseEnds.ite hv)).ite h

end

/-! ### Stops and pulses -/

section
variable {c : Bool} {s u : State} (h : Leaves false false c s u)
include h

protected theorem Leaves.setSeq {k x} : Leaves false false c s (u.setSeq k x) := ⟨h.regs, nofun, nofun, h.chans⟩

protected theorem Leaves.stopTile {t data} : Leaves false false c s (stopTile u t data) :=
  h.withhold.ite
    ((h.withhold.setTile.foldl fun hv => hv.ite hv.setSeq).post.raiseAlert.interrupt.use fun h2 => (h2.fset.ite h2).use fun h4 =>
      (h4.tilePhaseEnds.ite h4).settleAll)

protected theorem Leaves.faultStop {t data} : Leaves false false c s (faultStop u t data) := (h.ite h.fireSnapshot).stopTile

protected theorem Leaves.programFault {t cause ev core pc} : Leaves false false c s (programFault u t cause ev core pc) :=
  (h.ite h.fset.fset.fset.fset.fset.fset).faultStop

protected theorem Leaves.grantWaits {t ev} : Leaves false false c s (grantWaits u t ev) := h.foldl fun hv => hv.setSeq.setTile.ite hv

protected theorem Leaves.pulseAt {t ev} : Leaves false false c s (pulseAt u t ev) := h.grantWaits.programFault.ite h.grantWaits.setTile

protected theorem Leaves.channelPulse {e ev} : Leaves false false c s (channelPulse u e ev) := by
  unfold channelPulse
  split
  · exact h.pulseAt.ite h
  · split
    · exact h.pulseAt
    · exact h
  · exact h

/-! ### The completion of a COPY -/

protected theorem Leaves.setRing {k x} : Leaves false false c s (u.setRing k x) := h.update

protected theorem Leaves.moderate {k} : Leaves false false c s (moderate u k) := (h.setRing.setRing.msix.ite h.setRing).ite h

protected theorem Leaves.flushRing {k} : Leaves false false c s (flushRing u k) := by
  unfold flushRing
  dsimp only
  split
  · exact h.ite (h.waitLink.ite (h.writeBytes.setRing.fset.fset.fset.use fun h2 => h2.ite h2.moderate))
  · exact h

protected theorem Leaves.completeRing {k status detail value} : Leaves false false c s (completeRing u k status detail value) :=
  h.setRing.flushRing.ite h

protected theorem Leaves.copyEnds {e} : Leaves false false c s (copyEnds u e) := by
  unfold copyEnds
  split
  · exact h.completeRing.ite h.completeRing
  · exact h

end

end Sys2Proof.Machine
end

section
/-! A channel from the start of a descriptor to its completion: what it leaves while it reads, moves and counts (R226, R234, R235, R239,
R259, R469). -/

namespace Sys2Proof.Machine

/-! ### What a channel keeps -/

theorem channelReg_chProgress (e : Engine) : ChannelReg (chProgress e) := by
  cases e <;> simp only [chProgress, ChannelReg, DMA_CH_PROGRESS, DIE_CH_PROGRESS, HDMA_CH_PROGRESS] <;> omega

theorem chProgress_ne_chState (e : Engine) : chProgress e ≠ chState e := by
  cases e <;> simp only [chProgress, chState, DMA_CH_PROGRESS, DIE_CH_PROGRESS, HDMA_CH_PROGRESS, DMA_CH_STATE, DIE_CH_STATE,
    HDMA_CH_STATE] <;> omega

theorem chanReg_ne_placing (e : Engine) : HBM_MODE ≠ chProgress e ∧ HBM_MODE ≠ chState e ∧ INF_FSTATE_BASE ≠ chProgress e ∧
    INF_FSTATE_BASE ≠ chState e := by
  cases e <;> simp only [chProgress, chState, HBM_MODE, INF_FSTATE_BASE, DMA_CH_PROGRESS, DIE_CH_PROGRESS, HDMA_CH_PROGRESS,
    DMA_CH_STATE, DIE_CH_STATE, HDMA_CH_STATE] <;> omega

/-- What a channel's transfer keeps until its completion: its count of descriptors, the queues, and the places of addresses and of format
state records. -/
structure ChannelFrame (e : Engine) (s t : State) : Prop where
  done : fget t (chProgress e) f_DMA_CH_PROGRESS_DONE = fget s (chProgress e) f_DMA_CH_PROGRESS_DONE
  seqs : t.seqs = s.seqs
  mode : t.reg HBM_MODE = s.reg HBM_MODE
  format : t.reg INF_FSTATE_BASE = s.reg INF_FSTATE_BASE

/-- The same, and memory. -/
structure ReadFrame (e : Engine) (s t : State) : Prop extends ChannelFrame e s t where
  mem : t.mem = s.mem

theorem ChannelFrame.trans {e : Engine} {s t u : State} (h : ChannelFrame e s t) (h' : ChannelFrame e t u) : ChannelFrame e s u :=
  ⟨h'.done.trans h.done, h'.seqs.trans h.seqs, h'.mode.trans h.mode, h'.format.trans h.format⟩

theorem ReadFrame.trans {e : Engine} {s t u : State} (h : ReadFrame e s t) (h' : ReadFrame e t u) : ReadFrame e s u :=
  ⟨h.toChannelFrame.trans h'.toChannelFrame, h'.mem.trans h.mem⟩

theorem Leaves.channelFrame {m c : Bool} {s t : State} (h : Leaves m true c s t) (e : Engine) : ChannelFrame e s t where
  done := fget_congr (h.regs _ (channelReg_chProgress e)) _
  seqs := h.seqs rfl
  mode := h.regs _ (.inr (.inr (.inr (.inl rfl))))
  format := h.regs _ (.inr (.inr (.inr (.inr rfl))))

theorem Leaves.readFrame {c : Bool} {s t : State} (h : Leaves true true c s t) (e : Engine) : ReadFrame e s t :=
  ⟨h.channelFrame e, h.mem rfl⟩

theorem seqs_fset (s : State) (a : Nat) (f : Fld) (v : Nat) : (fset s a f v).seqs = s.seqs := (keepsUnits_fset s a f v).1

theorem readFrame_chRead (s : State) (e : Engine) (n : Nat) : ReadFrame e s (chRead s e n) :=
  have ⟨hmode, _, hformat, _⟩ := chanReg_ne_placing e
  { done := fget_fset_other s _ n (by decide) (.inr (by decide))
    seqs := seqs_fset _ _ _ _
    mode := reg_fset_ne _ _ _ hmode
    format := reg_fset_ne _ _ _ hformat
    mem := mem_fset _ _ _ _ }

theorem readFrame_chBusy (s : State) (e : Engine) (busy : Bool) (a : Nat) : ReadFrame e s (chBusy s e busy a) :=
  have ⟨_, hmode, _, hformat⟩ := chanReg_ne_placing e
  { done := (fget_fset_ne _ _ _ _ (chProgress_ne_chState e)).trans (fget_fset_ne _ _ _ _ (chProgress_ne_chState e))
    seqs := (seqs_fset _ _ _ _).trans (seqs_fset _ _ _ _)
    mode := (reg_fset_ne _ _ _ hmode).trans (reg_fset_ne _ _ _ hmode)
    format := (reg_fset_ne _ _ _ hformat).trans (reg_fset_ne _ _ _ hformat)
    mem := (mem_fset _ _ _ _).trans (mem_fset _ _ _ _) }

/-! ### The start of a descriptor -/

/-- A descriptor's start shows it and verifies its block and its records. -/
theorem readFrame_startDesc (s : State) (e : Engine) (a : Nat) (d : List Byte) : ReadFrame e s (startDesc s e a d).2 := by
  have hshown := (readFrame_chBusy s e true a).trans (readFrame_chRead _ e 0)
  unfold startDesc
  extract_lets x u own recs
  have hown : Leaves true true true u own.2 := by
    unfold own
    split
    · exact .refl u
    · split
      · exact .refl u
      · exact (Leaves.refl u).verifyRange
  have hrecs : Leaves true true true u recs.2 := by
    unfold recs
    split
    · exact hown.verifyAll
    · exact hown
  exact hshown.trans (hrecs.readFrame e)

section
variable {s u : State} {e : Engine} {a : Nat} {d rec_ : List Byte} (h : TransferStarts s e a d rec_ u)
include h

theorem TransferStarts.readFrame : ReadFrame e s u := by
  obtain ⟨-, -, -, -, -, hstart⟩ := h
  have := readFrame_startDesc s e a d
  rwa [hstart] at this

/-- What starts as a transfer is one: a descriptor that could not be read does not start (R469). -/
theorem TransferStarts.opcode : field d 0 1 = 0x20 := by
  obtain ⟨hcur, -, -, -, -, hstart⟩ := h
  have hread : unread d = false := by
    rw [← Bool.not_eq_true]
    intro hu
    simp [startDesc, hu] at hstart
  rw [currentOf, Option.filter_eq_some_iff] at hcur
  simpa [hread] using hcur.2

/-- The current descriptor runs on the state that its start leaves. -/
theorem TransferStarts.runCurrent {which : Xfer → Bool} (hw : which (parseXfer d) = true)
    (act : State → Nat → List Byte → List Byte → State) :
    runCurrent s e which act = act u a d rec_ := by
  obtain ⟨hcur, hports, hheld, hsound, hrecords, hstart⟩ := h
  have hup : ((hostNeeds (parseXfer d)).find? fun p => !portUp s p) = none :=
    List.find?_eq_none.2 fun p hp => by simp [hports p hp]
  simp only [Machine.runCurrent, hcur, hw, hheld, withPorts, hup, withDesc, hsound, hrecords, hstart]
  rfl

end

/-! ### What transfers note -/

section
variable {m q c : Bool} {s u : State} (h : Leaves m q c s u)
include h

protected theorem Leaves.sendSpan {k msg} : Leaves m q c s (sendSpan u k msg) := h.emit.ite h.update

protected theorem Leaves.sendFar {ps} : Leaves m q c s (sendFar u ps) := h.foldl fun hv => hv.sendSpan

protected theorem Leaves.dmaFlags {e fl} : Leaves m q c s (dmaFlags u e fl) := by
  unfold dmaFlags
  split
  · exact (h.setReg (by simp only [ChannelReg, DMA_FLAGS, HBM_MODE, INF_FSTATE_BASE]; omega)).mcTile
  · exact h

protected theorem Leaves.dmaBytes {e n} : Leaves m q c s (dmaBytes u e n) := by
  unfold dmaBytes
  split
  · exact h.mcTile
  · exact h

protected theorem Leaves.countSkips {t es} : Leaves m q c s (countSkips u t es) := h.fadd

end

protected theorem Leaves.setChan {m q : Bool} {s u : State} (h : Leaves m q false s u) {e x} : Leaves m q false s (u.setChan e x) :=
  ⟨h.regs, h.mem, h.seqs, nofun⟩

protected theorem Leaves.dmaPoison {m q : Bool} {s u : State} (h : Leaves m q false s u) {e bad} :
    Leaves m q false s (dmaPoison u e bad) := by
  unfold dmaPoison
  dsimp only
  split
  · exact h.integrityAll.ite h
  · split
    · exact h
    · exact h.setChan
  · exact h

protected theorem Leaves.pathBad {m q : Bool} {s u : State} (h : Leaves m q false s u) {e x made} :
    Leaves m q false s (pathBad u e x made).2 := by
  unfold pathBad
  split
  · exact h.clearErr.dmaPoison
  · exact h

/-! ### Completion -/

theorem nthD_setNth_head {α : Type} {l : List (List α)} {i : Nat} {x : α} {xs ys : List α} (h : nthD [] l i = x :: xs) :
    nthD [] (setNth l i ys) i = ys := by
  have hi : i < l.length := by
    by_contra hge
    simp [nthD, List.getElem?_eq_none (Nat.le_of_not_lt hge)] at h
  simp [nthD, setNth, hi]

/-- The count has gone on, and the channel is shown busy or idle. -/
def counted (s : State) (e : Engine) (a bytes : Nat) (busy : Bool) : State :=
  chBusy (fset (chRead s e bytes) (chProgress e) f_DMA_CH_PROGRESS_DONE
    (fget (chRead s e bytes) (chProgress e) f_DMA_CH_PROGRESS_DONE + 1)) e busy a

section
variable (s : State) (e : Engine) (a bytes : Nat) (busy : Bool)

/-- The count of descriptors goes on by one (R235). -/
theorem done_counted : fget (counted s e a bytes busy) (chProgress e) f_DMA_CH_PROGRESS_DONE =
    (fget s (chProgress e) f_DMA_CH_PROGRESS_DONE + 1) % 2 ^ 24 := by
  rw [← (readFrame_chRead s e bytes).done]
  exact (readFrame_chBusy _ e busy a).done.trans (fget_fset_same _ _ _ _ (by decide))

theorem seqs_counted : (counted s e a bytes busy).seqs = s.seqs :=
  ((readFrame_chBusy _ e busy a).seqs.trans (seqs_fset _ _ _ _)).trans (readFrame_chRead s e bytes).seqs

theorem mem_counted : (counted s e a bytes busy).mem = s.mem :=
  ((readFrame_chBusy _ e busy a).mem.trans (mem_fset _ _ _ _)).trans (readFrame_chRead s e bytes).mem

end

/-- The head of a core's queue 2 waits for its completion pulse. -/
def headDone (s : State) (k : CoreId) (d : List Byte) : State :=
  match nthD [] (s.seq k).queues 2 with
  | h :: t => s.setSeq k { s.seq k with queues := setNth (s.seq k).queues 2 ({ h with desc := d, done := true } :: t) }
  | [] => s

/-- It changes the sequencers alone. -/
theorem headDone_keeps (s : State) (k : CoreId) (d : List Byte) :
    (headDone s k d).regs = s.regs ∧ (headDone s k d).mem = s.mem ∧ (headDone s k d).chans = s.chans := by
  unfold headDone
  split
  · exact ⟨rfl, rfl, rfl⟩
  · exact ⟨rfl, rfl, rfl⟩

theorem queue_headDone (s : State) (k : CoreId) (d : List Byte) {h : QEntry} {t : List QEntry}
    (hq : nthD [] (s.seq k).queues 2 = h :: t) :
    nthD [] ((headDone s k d).seq k).queues 2 = { h with desc := d, done := true } :: t := by
  rw [headDone, hq]
  dsimp only
  rw [seq_setSeq]
  exact nthD_setNth_head hq

section
variable {e : Engine} {d : List Byte} (hop : field d 0 1 = 0x20) (s : State) (a bytes : Nat)
include hop

/-- A chained descriptor leaves its channel at the fetch of the next (R227). -/
theorem completeDesc_chained (hchain : (parseXfer d).chain = true) : ∃ c : Chan, completeDesc s e a d bytes =
    (counted s e a bytes true).setChan e c ∧ c.next = some (parseXfer d).next ∧ c.pulseDue = (parseXfer d).pulse := by
  simp only [completeDesc, hop, hchain, beq_self_eq_true, Bool.true_and, ↓reduceIte]
  exact ⟨_, rfl, rfl, rfl⟩

/-- Else a core's channel idles and its queue's head waits for the pulse. -/
theorem completeDesc_core (hchain : (parseXfer d).chain = false) {k : CoreId} (hk : chCore e = some k) :
    ∃ c : Chan, completeDesc s e a d bytes = headDone ((counted s e a bytes false).setChan e c) k d ∧ c.cur = none := by
  simp only [completeDesc, hop, hchain, hk, Bool.and_false, Bool.false_eq_true, ↓reduceIte]
  exact ⟨_, rfl, rfl⟩

/-- Any other channel pulses and, for a COPY, answers. -/
theorem completeDesc_idle (hchain : (parseXfer d).chain = false) (hk : chCore e = none) : ∃ c : Chan,
    completeDesc s e a d bytes = copyEnds (channelPulse ((counted s e a bytes false).setChan e c) e (field d 4 1)) e ∧ c.cur = none := by
  simp only [completeDesc, hop, hchain, hk, Bool.and_false, Bool.false_eq_true, ↓reduceIte]
  exact ⟨_, rfl, rfl⟩

end

theorem chan_congr {s t : State} (h : t.chans = s.chans) (e : Engine) : t.chan e = s.chan e := by rw [State.chan, h, ← State.chan]

/-- A channel that keeps its count and its queue until then completes its descriptor (R227, R234). -/
theorem ChannelFrame.completes {e : Engine} {s v : State} {d : List Byte} (h : ChannelFrame e s v) (hop : field d 0 1 = 0x20)
    (a bytes : Nat) : DescCompleted s (completeDesc v e a d bytes) e d := by
  have hdone (busy : Bool) (c : Chan) : fget ((counted v e a bytes busy).setChan e c) (chProgress e) f_DMA_CH_PROGRESS_DONE =
      (fget s (chProgress e) f_DMA_CH_PROGRESS_DONE + 1) % 2 ^ 24 := by
    rw [fget_congr (reg_setChan _ e c _), done_counted, h.done]
  have hseqs (c : Chan) : ((counted v e a bytes false).setChan e c).seqs = s.seqs := by
    rw [State.setChan_seqs, seqs_counted, h.seqs]
  cases hchain : (parseXfer d).chain with
  | true =>
    obtain ⟨c, hc, hnext, hpulse⟩ := completeDesc_chained (e := e) hop v a bytes hchain
    refine ⟨by rw [hc]; exact hdone true c, fun _ => ?_, fun hno => absurd (hchain.symm.trans hno) (by decide)⟩
    rw [hc, chan_setChan]
    exact ⟨hnext, hpulse⟩
  | false =>
    have hnot : (parseXfer d).chain ≠ true := ne_true_of_eq_false hchain
    cases hk : chCore e with
    | some k =>
      obtain ⟨c, hc, hcur⟩ := completeDesc_core hop v a bytes hchain hk
      specialize hdone false c
      specialize hseqs c
      have hchan := chan_setChan (counted v e a bytes false) e c
      generalize (counted v e a bytes false).setChan e c = w at *
      obtain ⟨hregs, -, hchans⟩ := headDone_keeps w k d
      refine ⟨?_, fun hyes => absurd hyes hnot, fun _ => ⟨?_, fun k' hk' y ys hq => ?_⟩⟩
      · rw [hc, fget_congr (reg_congr hregs _), hdone]
      · rw [hc, chan_congr hchans, hchan, hcur]
      · obtain rfl : k = k' := Option.some.inj (hk.symm.trans hk')
        rw [hc]
        exact queue_headDone w k d (by rw [seq_congr hseqs, hq])
    | none =>
      obtain ⟨c, hc, hcur⟩ := completeDesc_idle hop v a bytes hchain hk
      specialize hdone false c
      have hchan := chan_setChan (counted v e a bytes false) e c
      generalize (counted v e a bytes false).setChan e c = w at *
      have hend : Leaves false false true w (copyEnds (channelPulse w e (field d 4 1)) e) := (Leaves.refl w).channelPulse.copyEnds
      refine ⟨?_, fun hyes => absurd hyes hnot, fun _ => ⟨?_, fun k hk' => absurd (hk.symm.trans hk') (Option.some_ne_none k).symm⟩⟩
      · rw [hc, fget_congr (hend.regs _ (channelReg_chProgress e)), hdone]
      · rw [hc, chan_congr (hend.chans rfl), hchan, hcur]

/-- The completion of a tile's or a base die's channel writes no memory: only a host channel pulses a tile and answers a COPY. -/
theorem mem_completeDesc {e : Engine} (he : ∀ q, e ≠ .host q) {d : List Byte} (hop : field d 0 1 = 0x20) (s : State) (a bytes : Nat) :
    (completeDesc s e a d bytes).mem = s.mem := by
  have hmem (busy : Bool) (c : Chan) : ((counted s e a bytes busy).setChan e c).mem = s.mem := by
    rw [State.setChan_mem, mem_counted]
  cases hchain : (parseXfer d).chain with
  | true =>
    obtain ⟨c, hc, -⟩ := completeDesc_chained (e := e) hop s a bytes hchain
    rw [hc, hmem]
  | false =>
    cases hk : chCore e with
    | some k =>
      obtain ⟨c, hc, -⟩ := completeDesc_core hop s a bytes hchain hk
      obtain ⟨-, hhead, -⟩ := headDone_keeps ((counted s e a bytes false).setChan e c) k d
      rw [hc, hhead, hmem]
    | none =>
      obtain ⟨c, hc, -⟩ := completeDesc_idle hop s a bytes hchain hk
      specialize hmem false c
      generalize (counted s e a bytes false).setChan e c = w at *
      rw [hc, ← hmem]
      cases e with
      | host q => exact absurd rfl (he q)
      | die stack ch => rfl
      | tile t ch =>
        have hch : ¬ ch.val < 16 := fun hlt => by simp [chCore, hlt] at hk
        rw [show channelPulse w (.tile t ch) (field d 4 1) = w from if_neg hch]
        rfl

/-! ### What a transfer has moved -/

/-- A transfer's work is done but for its completion: the channel's frame stands, and without HOST_ENV the bytes at `dst` and the tensor's
STEP_AMAX alone may have changed. -/
structure Moved (e : Engine) (x : Xfer) (dst : List Nat) (s t : State) : Prop extends ChannelFrame e s t where
  wrote : x.hostEnv = false → ∀ k, (∀ b ∈ dst, keyOf s b ≠ k) →
    (x.tensor = 0xFFFF ∨ ∀ i < 4, k ≠ keyOf s (formatAddr s x.tensor + 4 + i)) → byteAt t k = byteAt s k

theorem formatAddr_congr {s t : State} (h : t.reg INF_FSTATE_BASE = s.reg INF_FSTATE_BASE) (id : Nat) :
    formatAddr t id = formatAddr s id := by
  simp only [formatAddr, faddr, fget_congr h]

section
variable {e : Engine} {x : Xfer} {dst : List Nat} {s t u : State}

/-- Reads before a move are no part of it. -/
theorem ReadFrame.moved (h : ReadFrame e s t) (h' : Moved e x dst t u) : Moved e x dst s u where
  toChannelFrame := h.toChannelFrame.trans h'.toChannelFrame
  wrote henv k hk hamax := by
    have hkey (a : Nat) : keyOf t a = keyOf s a := keyOf_congr h.mode a
    rw [h'.wrote henv k (by simpa only [hkey] using hk) (by simpa only [hkey, formatAddr_congr h.format] using hamax)]
    exact byteAt_congr h.mem k

/-- Nor is what writes no memory after it. -/
theorem Moved.reads (h : Moved e x dst s t) (h' : ReadFrame e t u) : Moved e x dst s u where
  toChannelFrame := h.toChannelFrame.trans h'.toChannelFrame
  wrote henv k hk hamax := (byteAt_congr h'.mem k).trans (h.wrote henv k hk hamax)

/-- With HOST_ENV only the channel's frame is asked. -/
theorem Moved.withEnv (h : Moved e x dst s t) (henv : x.hostEnv = true) (h' : ChannelFrame e t u) : Moved e x dst s u where
  toChannelFrame := h.toChannelFrame.trans h'
  wrote hno := absurd (hno.symm.trans henv) Bool.false_ne_true

/-- A magnitude is merged into the four bytes of STEP_AMAX (R259). -/
theorem byteAt_mergeAmax_ne {id k : Nat} (hk : id = 0xFFFF ∨ ∀ i < 4, k ≠ keyOf s (formatAddr s id + 4 + i)) (v : Val) :
    byteAt (mergeAmax s id v) k = byteAt s k := by
  unfold mergeAmax
  split
  · rfl
  · next hne =>
    extract_lets a r old
    have hread : Leaves true true true s r.2 := (Leaves.refl s).verifyRange
    have hbyte : byteAt r.2 k = byteAt s k := byteAt_congr (hread.mem rfl) k
    have hkey (b : Nat) : keyOf r.2 b = keyOf s b := keyOf_congr (hread.channelFrame (.host 0)).mode b
    split
    · exact hbyte
    · refine (byteAt_writeCells_ne r.2 .other fun w hw => ?_).trans hbyte
      obtain ⟨i, hi, rfl⟩ := List.mem_mapIdx.1 hw
      rw [length_leBytes] at hi
      rw [hkey]
      exact ((hk.resolve_left fun h => hne (.inl h)) i hi).symm

theorem Moved.mergeAmax (h : Moved e x dst s t) (v : Val) : Moved e x dst s (mergeAmax t x.tensor v) where
  toChannelFrame := h.toChannelFrame.trans ((Leaves.refl (c := true) t).mergeAmax.channelFrame e)
  wrote henv k hk hamax := by
    refine (byteAt_mergeAmax_ne ?_ v).trans (h.wrote henv k hk hamax)
    simpa only [keyOf_congr h.mode, formatAddr_congr h.format] using hamax

/-- What conversions report is recorded (R239, R259, R261). -/
theorem Moved.dmaMade (h : Moved e x dst s t) (rec_ : List Byte) (m : Made) : Moved e x dst s (dmaMade t e x rec_ m) := by
  have hflags : Leaves true true true t (dmaFlags t e m.fl) := (Leaves.refl t).dmaFlags
  have hmerged := (h.reads (hflags.readFrame e)).mergeAmax m.amax
  unfold Machine.dmaMade
  extract_lets v
  split
  · exact hmerged.reads ((Leaves.refl (c := true) v).update.readFrame e)
  · exact hmerged

/-- The completion of what has moved. -/
theorem Moved.completes {d : List Byte} (h : Moved e (parseXfer d) dst s t) (hop : field d 0 1 = 0x20) (a bytes : Nat) :
    DescCompleted s (completeDesc t e a d bytes) e d ∧ WroteOnly s (completeDesc t e a d bytes) e (parseXfer d) dst :=
  ⟨h.toChannelFrame.completes hop a bytes, fun he henv k hk hamax =>
    (byteAt_congr (mem_completeDesc he hop t a bytes) k).trans (h.wrote henv k hk hamax)⟩

end

end Sys2Proof.Machine
end

section
/-! What transfers make lies in their destinations: the bytes of an element's places, of a block's scales, of a container (R229, R239,
R240, R244). -/

namespace Sys2Proof.Machine

/-! ### The bytes of puts -/

/-- The addresses of the bytes that a put touches. -/
def Put.addrs (p : Put) : List Nat := (List.range p.at_.2.2).map (p.at_.1 + ·)

/-- Puts touch bytes of a list alone. -/
def PutsWithin (ps : List Put) (dst : List Nat) : Prop := ∀ p ∈ ps, p.addrs ⊆ dst

theorem Put.addrs_elem (fmt : Nat) (d : Nat × Nat) (code : Nat) (poison : Bool) :
    Put.addrs ⟨d.1, d.2, fmtBits fmt, code, poison⟩ = placeBytes fmt d := rfl

theorem Put.addrs_byte (a code : Nat) (poison : Bool) : Put.addrs ⟨a, 0, 8, code, poison⟩ = [a] := by simp [Put.addrs, Put.at_]

theorem dstAddrs_eq (fmt : Nat) (g : Group) :
    dstAddrs fmt g = (g.elems.flatMap fun e => e.dst.flatMap (placeBytes fmt)) ++ g.scales := rfl

theorem keys_apply (s : State) {m : List (Nat × Byte)} {p : Put} {w : Nat × Byte} (h : w ∈ Put.apply s m p) : w ∈ m ∨ w.1 ∈ p.addrs := by
  refine List.foldlRecOn (motive := fun n : List (Nat × Byte) => ∀ w ∈ n, w ∈ m ∨ w.1 ∈ p.addrs) _ _ (fun w hw => .inl hw)
    (fun n hn b hb w hw => ?_) w h
  rcases mem_mapInsert hw with rfl | hw
  · have hi := (List.mem_zipIdx' hb).1
    rw [length_leBytes] at hi
    exact .inr (List.mem_map_of_mem (List.mem_range.2 hi))
  · exact hn w hw

theorem lastPuts_subset (ps : List Put) : lastPuts ps ⊆ ps := by
  induction ps with
  | nil => exact List.Subset.refl _
  | cons p ps ih =>
    rw [lastPuts]
    split
    · exact List.subset_cons_of_subset p ih
    · exact List.cons_subset_cons p ih

/-- Puts change bytes of their destinations alone. -/
theorem byteAt_writePuts_ne (s : State) (ag : Agent) {ps : List Put} {dst : List Nat} (hps : PutsWithin ps dst) {k : Nat}
    (hk : ∀ b ∈ dst, keyOf s b ≠ k) : byteAt (writePuts s ag ps) k = byteAt s k := by
  refine byteAt_writeCells_ne s ag fun w hw => ?_
  obtain ⟨b, hb, rfl⟩ := List.mem_map.1 hw
  have hin : ∀ w ∈ (lastPuts ps).foldl (Put.apply s) [], w.1 ∈ dst := by
    refine List.foldlRecOn (motive := fun m : List (Nat × Byte) => ∀ w ∈ m, w.1 ∈ dst) _ _ nofun fun m hm p hp w hw => ?_
    rcases keys_apply s hw with hw | hw
    · exact hm w hw
    · exact hps p (lastPuts_subset ps hp) hw
  exact hk _ (hin b hb)

section
variable {ps qs : List Put} {dst : List Nat}

theorem putsWithin_nil : PutsWithin [] dst := nofun

theorem PutsWithin.append (h : PutsWithin ps dst) (h' : PutsWithin qs dst) : PutsWithin (ps ++ qs) dst :=
  fun p hp => (List.mem_append.1 hp).elim (h p) (h' p)

theorem PutsWithin.mono {all : List Nat} (h : PutsWithin ps dst) (hsub : dst ⊆ all) : PutsWithin ps all :=
  fun p hp => List.Subset.trans (h p hp) hsub

theorem putsWithin_flatMap {β : Type} {l : List β} {f : β → List Put} (h : ∀ b ∈ l, PutsWithin (f b) dst) : PutsWithin (l.flatMap f) dst :=
  fun p hp => by
    obtain ⟨b, hb, hp⟩ := List.mem_flatMap.1 hp
    exact h b hb p hp

/-- What is made of the members of a list, one after the other. -/
theorem putsWithin_foldl_or {β : Type} {l : List β} {f : β → Made} (h : ∀ b ∈ l, PutsWithin (f b).puts dst) :
    PutsWithin (l.foldl (fun m b => m.or (f b)) Made.none).puts dst :=
  List.foldlRecOn (motive := fun m : Made => PutsWithin m.puts dst) _ _ putsWithin_nil fun _ hm b hb => hm.append (h b hb)

end

/-! ### Elements and groups -/

section
variable {fmt : Nat} {gr : Group} {el : Elem} (hel : el ∈ gr.elems)
include hel

theorem putsWithin_elemPuts (code : Nat) (poison : Bool) : PutsWithin (elemPuts fmt el code poison) (dstAddrs fmt gr) := by
  intro p hp
  obtain ⟨d, hd, rfl⟩ := List.mem_map.1 hp
  rw [Put.addrs_elem, dstAddrs_eq]
  intro a ha
  exact List.mem_append_left _ (List.mem_flatMap.2 ⟨el, hel, List.mem_flatMap.2 ⟨d, hd, ha⟩⟩)

theorem putsWithin_makeFloat (strict : Bool) (g : Got) : PutsWithin (makeFloat fmt strict el g).puts (dstAddrs fmt gr) :=
  putsWithin_elemPuts hel _ _

end

theorem putsWithin_scalePutsOf (fmt : Nat) (gr : Group) (code : Nat) (poison : Bool) :
    PutsWithin (scalePutsOf gr code poison).1 (dstAddrs fmt gr) := by
  intro p hp
  obtain ⟨a, ha, rfl⟩ := List.mem_map.1 hp
  rw [Put.addrs_byte]
  exact List.cons_subset.2 ⟨List.mem_append_right _ ha, List.nil_subset _⟩

theorem putsWithin_makeBlock (fmt : Nat) (strict : Bool) (p : Policy) (gr : Group) (gs : List Got) :
    PutsWithin (makeBlock fmt strict p gr gs).puts (dstAddrs fmt gr) := by
  unfold makeBlock
  extract_lets ps rounded q poison codes scale
  have hcodes : ∀ c ∈ codes, c.1 ∈ gr.elems := by
    unfold codes
    refine List.foldlRecOn (motive := fun a : List (Elem × Nat) × List Nat => ∀ c ∈ a.1, c.1 ∈ gr.elems) _ _ nofun
      fun a ha b hb c hc => ?_
    have hb : b.1 ∈ gr.elems := (List.of_mem_zip hb).1
    split at hc
    · rcases List.mem_append.1 hc with hc | hc
      · exact ha c hc
      · rwa [List.mem_singleton.1 hc]
    · rcases List.mem_append.1 hc with hc | hc
      · exact ha c hc
      · rwa [List.mem_singleton.1 hc]
  exact (putsWithin_flatMap fun c hc => putsWithin_elemPuts (hcodes c hc) _ _).append (putsWithin_scalePutsOf _ _ _ _)

theorem putsWithin_makeGroup (x : Xfer) (p : Policy) (gr : Group) (gs : List Got) :
    PutsWithin (makeGroup x p gr gs).puts (dstAddrs x.dstFmt gr) := by
  have hmem {q : Elem × Got} (hq : q ∈ gr.elems.zip gs) : q.1 ∈ gr.elems := (List.of_mem_zip hq).1
  unfold makeGroup
  dsimp only
  split
  · split
    · exact (putsWithin_flatMap fun q hq => putsWithin_elemPuts (hmem hq) _ _).append (putsWithin_scalePutsOf _ _ _ _)
    · exact putsWithin_makeBlock _ _ _ _ _
  · refine putsWithin_foldl_or fun q hq => ?_
    split
    · exact putsWithin_makeFloat (hmem hq) _ _
    · split
      · exact putsWithin_elemPuts (hmem hq) _ _
      · exact putsWithin_makeFloat (hmem hq) _ _

theorem putsWithin_makeUnits (s : State) (ag : Agent) (x : Xfer) (p : Policy) (bad : List (Nat × Nat)) (b : Before) (gs : List Group) :
    PutsWithin (makeUnits s ag x p bad b gs).1.puts (gs.flatMap (dstAddrs x.dstFmt)) := by
  induction gs generalizing s b with
  | nil => exact putsWithin_nil
  | cons g gs ih =>
    rw [List.flatMap_cons]
    exact ((putsWithin_makeGroup x p g _).mono (List.subset_append_left _ _)).append ((ih _ _).mono (List.subset_append_right _ _))

/-- A parity error on the way poisons what is written and moves none of it (R254). -/
theorem putsWithin_pathBad {m : Made} {dst : List Nat} (h : PutsWithin m.puts dst) (s : State) (e : Engine) (x : Xfer) :
    PutsWithin (pathBad s e x m).1.puts dst := by
  unfold pathBad
  split
  · intro p hp
    obtain ⟨q, hq, rfl⟩ := List.mem_map.1 hp
    exact h q hq
  · exact h

/-! ### Sums -/

/-- Sums of elements on this module stand at bytes of a list alone. -/
def SumsWithin (l : List Sum) (fmt : Nat) (dst : List Nat) : Prop := ∀ q ∈ l, q.far = none → placeBytes fmt (q.base, q.idx) ⊆ dst

theorem SumsWithin.sumInto {ag : Agent} {fmt : Nat} {conv strict : Bool} {bad : List (Nat × Nat)} {g : Got} {m : List Sum × State}
    {p : (Option Nat × Nat × Nat) × Nat} {dst : List Nat} (h : SumsWithin m.1 fmt dst) (hp : p.1.1 = none → placeBytes fmt p.1.2 ⊆ dst) :
    SumsWithin (sumInto ag fmt conv strict bad g m p).1 fmt dst := by
  unfold Machine.sumInto
  extract_lets d mine start first old
  have hold : old.1.far = none → placeBytes fmt (old.1.base, old.1.idx) ⊆ dst := by
    unfold old
    split
    · next q hq => exact h q (List.mem_of_find?_eq_some hq)
    · exact hp
  intro q hq
  rcases List.mem_append.1 hq with hq | hq
  · exact h q (List.mem_of_mem_filter hq)
  · rw [List.mem_singleton.1 hq]
    exact hold

theorem sumsWithin_sumUnits (s : State) (e : Engine) (x : Xfer) (strict : Bool) (bad : List (Nat × Nat)) (us : List Unit_) :
    SumsWithin (sumUnits s e x strict bad us).1 x.dstFmt (unitDst x us) := by
  refine List.foldlRecOn (motive := fun m : List Sum × State => SumsWithin m.1 x.dstFmt (unitDst x us)) _ _ nofun fun m hm el hel => ?_
  refine List.foldlRecOn (motive := fun m : List Sum × State => SumsWithin m.1 x.dstFmt (unitDst x us)) _ _ hm
    fun m hm p hp => hm.sumInto fun hhere => ?_
  obtain ⟨u, hu, hg⟩ := List.mem_flatMap.1 hel
  obtain ⟨gr, hgr, hel⟩ := List.mem_flatMap.1 hg
  rcases List.mem_append.1 (List.fst_mem_of_mem_zipIdx hp) with hp | hp
  · obtain ⟨d, hd, hpd⟩ := List.mem_map.1 hp
    rw [← hpd]
    intro b hb
    refine List.mem_flatMap.2 ⟨gr, List.mem_flatMap.2 ⟨u, hu, hgr⟩, ?_⟩
    rw [dstAddrs_eq]
    exact List.mem_append_left _ (List.mem_flatMap.2 ⟨el, hel, List.mem_flatMap.2 ⟨d, hd, hb⟩⟩)
  · obtain ⟨d, -, hpd⟩ := List.mem_map.1 hp
    rw [← hpd] at hhere
    cases hhere

/-! ### Containers -/

theorem length_strainEncode (w : Nat) (vs : List Val) : (strainEncode w vs).1.length = containerBytes w := by
  simp [strainEncode, containerBytes, length_leBytes, List.length_flatMap, Function.comp_def]

/-- The bytes that a container's work writes. -/
def boxDst (comp : Bool) (fmt w : Nat) (b : Box) : List Nat :=
  if comp then (List.range (containerBytes w)).map (b.addr + ·) else b.places.flatMap (placeBytes fmt)

theorem putsWithin_compressBox (s : State) (ag : Agent) (fmt w : Nat) (bad : List (Nat × Nat)) (written : List Nat) (b : Box) :
    PutsWithin (compressBox s ag fmt w bad written b).1.puts (boxDst true fmt w b) := by
  intro p hp
  obtain ⟨i, hi, rfl⟩ := List.mem_mapIdx.1 hp
  rw [length_strainEncode] at hi
  rw [Put.addrs_byte]
  exact List.cons_subset.2 ⟨List.mem_map_of_mem (List.mem_range.2 hi), List.nil_subset _⟩

theorem putsWithin_expandBox (s : State) (ag : Agent) (fmt w : Nat) (bad : List (Nat × Nat)) (written : List Nat) (b : Box) :
    PutsWithin (expandBox s ag fmt w bad written b).1.puts (boxDst false fmt w b) := by
  refine putsWithin_foldl_or fun d hd p hp => ?_
  rw [List.mem_singleton.1 hp, Put.addrs_elem]
  exact fun a ha => List.mem_flatMap.2 ⟨d.1, List.fst_mem_of_mem_zipIdx hd, ha⟩

theorem putsWithin_makeBoxes (s : State) (ag : Agent) (comp : Bool) (fmt w : Nat) (bad : List (Nat × Nat)) (written : List Nat)
    (bs : List Box) : PutsWithin (makeBoxes s ag comp fmt w bad written bs).1.puts (bs.flatMap (boxDst comp fmt w)) := by
  induction bs generalizing s written with
  | nil => exact putsWithin_nil
  | cons b bs ih =>
    have hbox : PutsWithin (if comp then compressBox s ag fmt w bad written b else expandBox s ag fmt w bad written b).1.puts
        (boxDst comp fmt w b) := by
      cases comp
      · exact putsWithin_expandBox _ _ _ _ _ _ _
      · exact putsWithin_compressBox _ _ _ _ _ _ _
    rw [List.flatMap_cons]
    exact (hbox.mono (List.subset_append_left _ _)).append ((ih _ _).mono (List.subset_append_right _ _))

theorem putsWithin_scalePuts (s : State) (ag : Agent) (x : Xfer) (r : StrideRec) (bad : List (Nat × Nat)) (n : Nat) :
    PutsWithin (scalePuts s ag x r bad n) ((scaleOffsets x r n).map fun i => x.dstScale + i) := by
  intro p hp
  obtain ⟨i, hi, rfl⟩ := List.mem_map.1 hp
  rw [Put.addrs_byte]
  exact List.cons_subset.2 ⟨List.mem_map_of_mem hi, List.nil_subset _⟩

end Sys2Proof.Machine
end

section
/-! The kinds of transfer run to their completion, each with the destinations that its units or containers name (R131, R136 to R138, R144,
R228 to R235, R243 to R245). -/

namespace Sys2Proof.Machine

/-! ### Moving units and containers -/

section
variable {e : Engine} {x : Xfer} {dst : List Nat} {s t : State}

theorem moved_writePuts (s : State) (ag : Agent) {ps : List Put} (hps : PutsWithin ps dst) : Moved e x dst s (writePuts s ag ps) where
  toChannelFrame := (Leaves.refl (q := true) (c := true) s).writePuts.channelFrame e
  wrote _ _ hk _ := byteAt_writePuts_ne s ag hps hk

theorem Moved.sendFar (h : Moved e x dst s t) (ps : List (Nat × Put)) : Moved e x dst s (sendFar t ps) :=
  h.reads ((Leaves.refl (c := true) t).sendFar.readFrame e)

theorem Moved.dmaBytes (h : Moved e x dst s t) (n : Nat) : Moved e x dst s (dmaBytes t e n) :=
  h.reads ((Leaves.refl (c := true) t).dmaBytes.readFrame e)

theorem Moved.writeHostEnv (h : Moved e x dst s t) (henv : x.hostEnv = true) (ag : Agent) (side : HostSide) (touched poisoned : List Nat) :
    Moved e x dst s (writeHostEnv t ag side touched poisoned) :=
  h.withEnv henv ((Leaves.refl (q := true) (c := true) t).writeHostEnv.channelFrame e)

/-- Units write their destinations alone. -/
theorem moved_moveUnits (s : State) (e : Engine) (x : Xfer) (rec_ : List Byte) {host : Option HostSide}
    (hhost : ∀ side, host = some side → x.hostEnv = true) (us : List Unit_) :
    Moved e x (unitDst x us) s (moveUnits s e x rec_ host us) := by
  unfold moveUnits
  extract_lets ag gs blocks v addrs fromHost bad s1 m p s2 s3
  have hread : Leaves true true false s p.2 := (Leaves.refl s).verifyAll.dmaPoison.makeUnits.pathBad
  have hputs : PutsWithin p.1.puts (unitDst x us) := putsWithin_pathBad (putsWithin_makeUnits s1 ag x _ bad ⟨[], []⟩ gs) _ _ _
  have hmoved : Moved e x (unitDst x us) s s2 := ((hread.readFrame e).moved (moved_writePuts p.2 ag hputs)).sendFar _
  have henv : Moved e x (unitDst x us) s s3 := by
    unfold s3
    split
    · next side =>
      split
      · exact hmoved
      · exact hmoved.writeHostEnv (hhost side rfl) _ _ _ _
    · exact hmoved
  exact (henv.dmaMade rec_ p.1).dmaBytes _

/-- So do the sums of a scatter-add. -/
theorem moved_addUnits (s : State) (e : Engine) (x : Xfer) (strict : Bool) (rec_ : List Byte) (us : List Unit_) :
    Moved e x (unitDst x us) s (addUnits s e x strict rec_ us) := by
  unfold addUnits
  extract_lets ag gs v s1 m made p
  have hread : Leaves true true false s p.2 := (Leaves.refl s).verifyAll.dmaPoison.sumUnits.pathBad
  have hmade : PutsWithin made.puts (unitDst x us) := by
    refine putsWithin_foldl_or fun q hq => ?_
    dsimp only
    split
    · next hhere =>
      intro p hp
      rw [List.mem_singleton.1 hp, Put.addrs_elem x.dstFmt (q.base, q.idx)]
      exact sumsWithin_sumUnits s1 e x strict v.1 us q hq (Option.isNone_iff_eq_none.1 hhere)
    · exact putsWithin_nil
  have hputs : PutsWithin p.1.puts (unitDst x us) := putsWithin_pathBad hmade _ _ _
  exact ((((hread.readFrame e).moved (moved_writePuts p.2 ag hputs)).sendFar _).dmaMade rec_ made).dmaBytes _

end

/-! ### What runs to the end -/

/-- A descriptor has completed and written the bytes at a list of addresses alone. -/
def Completes (s t : State) (e : Engine) (d : List Byte) (dst : List Nat) : Prop :=
  DescCompleted s t e d ∧ WroteOnly s t e (parseXfer d) dst

/-- No unit meets a retired range: all run. -/
theorem takeUnits_whole {s : State} {x : Xfer} {us : List Unit_} {n : Nat} (h : (takeUnits s x none n us).2 = false) :
    takeUnits s x none n us = (us, false) := by
  induction us generalizing n with
  | nil => rfl
  | cons u us ih =>
    by_cases hf : unitFaults s x u = true
    · simp [takeUnits, hf] at h
    · simp only [takeUnits, hf, Bool.false_eq_true, ↓reduceIte] at h ⊢
      rw [ih h]

/-- No container meets a retired range: all run. -/
theorem takeBoxes_whole {s : State} {touched : Nat → Box → List Nat} {bs : List Box} {n : Nat}
    (h : (takeBoxes s touched none n bs).2 = false) : takeBoxes s touched none n bs = (bs, false) := by
  induction bs generalizing n with
  | nil => rfl
  | cons b bs ih =>
    by_cases hf : boxFaults s (touched (n / 128) b) = true
    · simp [takeBoxes, hf] at h
    · simp only [takeBoxes, hf, Bool.false_eq_true, ↓reduceIte] at h ⊢
      rw [ih h]

/-- A completion comes after the count of the bytes read. -/
theorem Moved.completesRead {e : Engine} {d : List Byte} {dst : List Nat} {s t : State} (h : Moved e (parseXfer d) dst s t)
    (hop : field d 0 1 = 0x20) (a n bytes : Nat) : Completes s (completeDesc (chRead t e n) e a d bytes) e d dst :=
  (h.reads (readFrame_chRead t e n)).completes hop a bytes

/-- A completion that no write precedes leaves memory as it was. -/
theorem ReadFrame.completes {e : Engine} {d : List Byte} {s t : State} (h : ReadFrame e s t) (hop : field d 0 1 = 0x20) (a bytes : Nat) :
    DescCompleted s (completeDesc t e a d bytes) e d ∧ ((∀ q, e ≠ .host q) → (completeDesc t e a d bytes).mem = s.mem) :=
  ⟨h.toChannelFrame.completes hop a bytes, fun he => (mem_completeDesc he hop t a bytes).trans h.mem⟩

/-- The side under HOST_ENV is there only with HOST_ENV. -/
theorem hostEnv_of_side {x : Xfer} {y side : HostSide} (h : (if x.hostEnv then some y else none) = some side) : x.hostEnv = true := by
  by_contra hno
  rw [if_neg hno] at h
  cases h

section
variable {s u : State} {e : Engine} {a : Nat} {d rec_ : List Byte} (h : TransferStarts s e a d rec_ u)
include h

/-- Units that run to the end complete their descriptor (R234). -/
theorem TransferStarts.runUnits {us : List Unit_} (hwhole : (takeUnits u (parseXfer d) none 0 us).2 = false)
    (hheld : unitsHeld u e (parseXfer d) us = false) : Completes s (runUnits u e a d rec_ none us) e d (unitDst (parseXfer d) us) := by
  simp only [Machine.runUnits, takeUnits_whole hwhole, hheld, Bool.and_false, Bool.false_eq_true, ↓reduceIte]
  exact (h.readFrame.moved (moved_moveUnits u e _ rec_ (fun _ => hostEnv_of_side) us)).completesRead h.opcode a _ _

end

end Sys2Proof.Machine
end

section
/-! The kinds of transfer by their commands (R131, R136 to R138, R144, R228 to R230, R243 to R245). -/

namespace Sys2Proof.Machine

theorem and_ne_true_of_right {p q : Bool} (h : q = false) : ¬ (p && q) = true := by simp [h]

/-! ### Block lists -/

/-- A block list in hand whose entries all resolve: the list read, none of it poisoned or in a retired range, and nothing that it waits
for. -/
structure ListSound (u : State) (t : TileId) (ch : Fin 32) (x : Xfer) (l : Listed) : Prop where
  listed : listedOf u t ch x = some l
  held : listHeld u (.tile t ch) l = false
  ports : ∀ p ∈ listPorts l, portUp u p = true
  stop : (listEntries u (chAgent (.tile t ch)) l).1.stop = none
  poisoned : (listEntries u (chAgent (.tile t ch)) l).1.poisoned = []
  lost : (listEntries u (chAgent (.tile t ch)) l).1.lost = false

section
variable {s u : State} {t : TileId} {ch : Fin 32} {x : Xfer} {l : Listed} (h : ListSound u t ch x l)
include h

theorem ListSound.withPorts (act : State → State) : withPorts u (.tile t ch) (listPorts l) act = act u := by
  have hup : ((listPorts l).find? fun p => !portUp u p) = none := List.find?_eq_none.2 fun p hp => by simp [h.ports p hp]
  simp only [Machine.withPorts, hup]

/-- With every entry performed the descriptor completes. -/
theorem ListSound.endList (w : State) (a : Nat) (d : List Byte) (bytes : Nat) :
    endList w t ch a d l (listEntries u (chAgent (.tile t ch)) l).1 (listEntries u (chAgent (.tile t ch)) l).1.run.length false bytes =
      completeDesc (chRead w (.tile t ch) bytes) (.tile t ch) a d bytes := by
  simp [Machine.endList, h.lost, h.poisoned, h.stop]

end

theorem readFrame_listEntries (u : State) (e : Engine) (l : Listed) : ReadFrame e u (listEntries u (chAgent e) l).2 :=
  ((Leaves.refl (c := true) u).verifyRange).readFrame e

section
variable {s u : State} {t : TileId} {ch : Fin 32} {a : Nat} {d rec_ : List Byte} {l : Listed}
  (h : TransferStarts s (.tile t ch) a d rec_ u) (hl : ListSound u t ch (parseXfer d) l)
include h hl

/-- A gather or a scatter runs to its end (R131, R136, R137). -/
theorem TransferStarts.runList (mk : State → Listed → Xfer → Option Nat → Nat → Entry → Unit_) (gather : Bool) :
    let v := listEntries u (chAgent (.tile t ch)) l
    let us := v.1.run.mapIdx fun p w => mk v.2 l (parseXfer d) (combinedWith v.1.run p) p w
    (takeUnits v.2 (parseXfer d) none 0 us).2 = false → unitsHeld u (.tile t ch) (parseXfer d) us = false →
      Completes s (runList u t ch none a d rec_ mk gather) (.tile t ch) d (unitDst (parseXfer d) us) := by
  intro v us hwhole hheld
  have hlen : us.length = v.1.run.length := List.length_mapIdx
  simp only [Machine.runList, hl.listed, hl.withPorts, hl.held]
  rw [takeUnits_whole hwhole]
  simp only [hheld, Bool.and_false, Bool.false_eq_true, ↓reduceIte, hlen]
  rw [hl.endList]
  have hmoved : Moved (.tile t ch) (parseXfer d) (unitDst (parseXfer d) us) s (moveUnits v.2 (.tile t ch) (parseXfer d) rec_ none us) :=
    (h.readFrame.trans (readFrame_listEntries u _ l)).moved (moved_moveUnits _ _ _ rec_ (host := none) (fun _ => nofun) us)
  exact (hmoved.reads ((Leaves.refl (c := true) _).countSkips.readFrame _)).completesRead h.opcode a _ _

/-- A scatter-add runs to its end (R138). -/
theorem TransferStarts.runScatterAdd :
    let v := listEntries u (chAgent (.tile t ch)) l
    let us := v.1.run.mapIdx fun p w => scatterUnit v.2 l (parseXfer d) none p w
    (takeUnits v.2 (parseXfer d) none 0 us).2 = false → unitsHeld u (.tile t ch) (parseXfer d) us = false →
      Completes s (runScatterAdd u t ch none a d rec_) (.tile t ch) d (unitDst (parseXfer d) us) := by
  intro v us hwhole hheld
  have hlen : us.length = v.1.run.length := List.length_mapIdx
  simp only [Machine.runScatterAdd, hl.listed, hl.withPorts, hl.held]
  rw [takeUnits_whole hwhole]
  simp only [hheld, Bool.and_false, Bool.false_eq_true, ↓reduceIte, hlen]
  rw [hl.endList]
  have hmoved : Moved (.tile t ch) (parseXfer d) (unitDst (parseXfer d) us) s
      (addUnits v.2 (.tile t ch) (parseXfer d) l.b.strict rec_ us) :=
    (h.readFrame.trans (readFrame_listEntries u _ l)).moved (moved_addUnits _ _ _ _ rec_ us)
  exact (hmoved.reads ((Leaves.refl (c := true) _).countSkips.readFrame _)).completesRead h.opcode a _ _

end

/-! ### The strainer -/

section
variable {s u : State} {e : Engine} {a : Nat} {d rec_ : List Byte}

/-- The bytes that a strainer transfer of containers writes: each container's, and the copies of its scales (R243 to R245). -/
def strainDst (x : Xfer) (r : StrideRec) (k : Nat) : List Nat :=
  ((strainBoxes x r k).flatMap (boxDst (x.strain == 1) (if x.strain == 1 then x.srcFmt else x.dstFmt) (strainWidth x.srcFmt k))) ++
    (scaleOffsets x r (128 * (strainBoxes x r k).length)).map fun i => x.dstScale + i

theorem strainDst_eq (x : Xfer) (r : StrideRec) (k : Nat) : strainDst x r k =
    ((strainBoxes x r k).flatMap fun b => if x.strain = 1 then (List.range (containerBytes (strainWidth x.srcFmt k))).map (b.addr + ·)
      else b.places.flatMap (placeBytes x.dstFmt)) ++
      (scaleOffsets x r (128 * (strainBoxes x r k).length)).map fun i => x.dstScale + i := by
  unfold strainDst boxDst
  by_cases hcomp : x.strain = 1
  · simp only [hcomp, beq_self_eq_true, ↓reduceIte]
  · simp only [hcomp, beq_iff_eq, ↓reduceIte]

/-- Containers that run to the end complete their descriptor. -/
theorem TransferStarts.runStrain (h : TransferStarts s e a d rec_ u) {k : Nat} (hk : strainRate (parseXfer d) rec_ = some k) :
    let x := parseXfer d
    let r := stridesOf u (chAgent e) x
    let touched := boxTouches x r (if x.strain == 1 then x.srcFmt else x.dstFmt) (strainWidth x.srcFmt k)
    (takeBoxes u touched none 0 (strainBoxes x r k)).2 = false →
      requestsWait u e ((strainBoxes x r k).mapIdx fun i b => touched i b).flatten = false →
      Completes s (runStrain u e none a d rec_) e d (strainDst x r k) := by
  intro x r touched hwhole hheld
  unfold Machine.runStrain
  extract_lets ag r' comp fmt host fromHost
  split
  · next hnone => exact absurd (hnone.symm.trans hk) (Option.some_ne_none k).symm
  next k' hk' =>
  obtain rfl : k = k' := Option.some.inj (hk.symm.trans hk')
  extract_lets w bs run n done blocks v bad s1 scales m src p made s2 s3 bytes s4
  have hrun : run = (bs, false) := takeBoxes_whole hwhole
  have hall : run.1 = bs := congrArg Prod.fst hrun
  have hend : run.2 = false := congrArg Prod.snd hrun
  rw [if_neg (and_ne_true_of_right (hall ▸ hheld))]
  rw [if_neg (ne_true_of_eq_false hend), if_pos (congrArg List.length hall)]
  have hread : Leaves true true false u p.2 := (Leaves.refl u).verifyAll.dmaPoison.makeBoxes.pathBad
  have hboxes : PutsWithin m.1.puts (bs.flatMap (boxDst comp fmt w)) := hall ▸ putsWithin_makeBoxes s1 ag comp fmt w bad [] run.1
  have hscales : PutsWithin scales ((scaleOffsets x r (128 * bs.length)).map fun i => x.dstScale + i) :=
    hall ▸ putsWithin_scalePuts s1 ag x r bad done
  have hputs : PutsWithin made.puts (strainDst x r k) := putsWithin_pathBad (m := { src with puts := scales ++ m.1.puts })
    ((hscales.mono (List.subset_append_right _ _)).append (hboxes.mono (List.subset_append_left _ _))) m.2 e x
  have hmoved : Moved e x (strainDst x r k) s s2 :=
    h.readFrame.moved ((hread.readFrame e).moved (moved_writePuts p.2 ag hputs))
  have henv : Moved e x (strainDst x r k) s s3 := by
    have hside (side : HostSide) : host = some side → x.hostEnv = true := hostEnv_of_side
    unfold s3
    clear_value host
    split
    · next side =>
      split
      · exact hmoved
      · exact hmoved.writeHostEnv (hside side rfl) _ _ _ _
    · exact hmoved
  exact ((henv.dmaMade rec_ made).dmaBytes bytes).completesRead h.opcode a bytes bytes

end

/-! ### Scrubs -/

/-- A scrub verifies its sources and writes no memory (R230). -/
theorem readFrame_verifyUnits (s : State) (e : Engine) (x : Xfer) (host : Option HostSide) (us : List Unit_) :
    ReadFrame e s (verifyUnits s e x host us) :=
  (((Leaves.refl (c := false) s).verifyAll.dmaPoison.dmaBytes).readFrame e).trans (readFrame_chRead _ e _)

section
variable {s u : State} {e : Engine} {a : Nat} {d rec_ : List Byte} (h : TransferStarts s e a d rec_ u)
include h

theorem TransferStarts.scrubPlain :
    let x := parseXfer d
    let r := stridesOf u (chAgent e) x
    let us := readOnly (plainUnits x r (srcSide x r) (srcSide x r))
    (takeUnits u x none 0 us).2 = false → unitsHeld u e x us = false →
      DescCompleted s (scrubPlain u e none a d) e d ∧ ((∀ q, e ≠ .host q) → (scrubPlain u e none a d).mem = s.mem) := by
  intro x r us hwhole hheld
  unfold Machine.scrubPlain
  extract_lets run v left
  have hrun : run = (us, false) := takeUnits_whole hwhole
  have hall : run.1 = us := congrArg Prod.fst hrun
  have hend : run.2 = false := congrArg Prod.snd hrun
  rw [if_neg (and_ne_true_of_right (hall ▸ hheld)), if_neg (ne_true_of_eq_false hend), if_pos (congrArg List.length hall)]
  exact (h.readFrame.trans (readFrame_verifyUnits u e x _ run.1)).completes h.opcode a _

omit h in
theorem TransferStarts.scrubList {t : TileId} {ch : Fin 32} {l : Listed} (h : TransferStarts s (.tile t ch) a d rec_ u)
    (hl : ListSound u t ch (parseXfer d) l) :
    let v := listEntries u (chAgent (.tile t ch)) l
    let us := readOnly (v.1.run.mapIdx fun p w =>
      if l.b.op = 0 then gatherUnit v.2 l (parseXfer d) none p w else scatterUnit v.2 l (parseXfer d) none p w)
    (takeUnits v.2 (parseXfer d) none 0 us).2 = false → unitsHeld u (.tile t ch) (parseXfer d) us = false →
      DescCompleted s (scrubList u t ch none a d) (.tile t ch) d ∧ (scrubList u t ch none a d).mem = s.mem := by
  intro v us hwhole hheld
  have hlen : us.length = v.1.run.length := (List.length_map _).trans List.length_mapIdx
  simp only [Machine.scrubList, hl.listed, hl.withPorts, hl.held]
  rw [takeUnits_whole hwhole]
  simp only [hheld, Bool.and_false, Bool.false_eq_true, ↓reduceIte, hlen]
  rw [hl.endList]
  have hread : ReadFrame (.tile t ch) s (verifyUnits v.2 (.tile t ch) (parseXfer d) none us) :=
    (h.readFrame.trans (readFrame_listEntries u _ l)).trans (readFrame_verifyUnits _ _ _ _ _)
  have hcounted (es : List Entry) := hread.trans (((Leaves.refl (c := true) _).countSkips (t := t) (es := es)).readFrame (.tile t ch))
  exact ((hcounted _).trans (readFrame_chRead _ _ _)).completes h.opcode a _ |>.imp_right fun hmem => hmem fun q => Engine.noConfusion

end

/-! ### The commands -/

/-- Settles O31: each kind's command runs its descriptor on the state that its start leaves, whose work moves the bytes of its units or
containers, and completes it. -/
theorem transfersWriteTheirDestinationsAlone : Obligations.TransfersWriteTheirDestinationsAlone := by
  unfold Obligations.TransfersWriteTheirDestinationsAlone
  intro s u e a d rec_ h x r runs
  refine ⟨?plain, ?lists, ?window, ?strain, ?scrub, ?listScrub⟩
  case plain =>
    intro hplain us ⟨hwhole, hheld⟩
    exact ⟨_, execTransfer_starts h hplain, h.runUnits hwhole hheld⟩
  case lists =>
    rintro t ch rfl hkind hscrub l hlisted v hstop hpoisoned hlost hheldList hports
    have hl : ListSound u t ch x l := ⟨hlisted, hheldList, hports, hstop, hpoisoned, hlost⟩
    refine ⟨fun hop => ?_, fun hop => ?_, fun hop => ?_⟩
    · intro us ⟨hwhole, hheld⟩
      exact ⟨_, congrArg Host.Outcome.next (h.runCurrent (by simp [x, hkind, hscrub, hop]) _), h.runList hl gatherUnit true hwhole hheld⟩
    · intro us ⟨hwhole, hheld⟩
      exact ⟨_, congrArg Host.Outcome.next (h.runCurrent (by simp [x, hkind, hscrub, hop]) _), h.runList hl scatterUnit false hwhole hheld⟩
    · intro us ⟨hwhole, hheld⟩
      exact ⟨_, congrArg Host.Outcome.next (h.runCurrent (by simp [x, hkind, hscrub, hop]) _), h.runScatterAdd hl hwhole hheld⟩
  case window =>
    rintro t ch rfl hkind w tn htn us ⟨hwhole, hheld⟩
    refine ⟨_, congrArg Host.Outcome.next (h.runCurrent (by simp [x, hkind]) _), ?_⟩
    simp only [runWindow]
    rw [htn]
    exact h.runUnits hwhole hheld
  case strain =>
    intro hkind hscrub hstrain c
    have hexec : exec c s = .next (runStrain u e none a d rec_) := by
      unfold c
      rcases hstrain with hone | htwo
      · rw [if_pos hone]
        exact congrArg Host.Outcome.next (h.runCurrent (by simp [x, hkind, hscrub, hone]) _)
      · rw [if_neg (by omega)]
        exact congrArg Host.Outcome.next (h.runCurrent (by simp [x, hkind, hscrub, htwo]) _)
    refine ⟨fun hrate ⟨hwhole, hheld⟩ => ⟨_, hexec, ?_⟩, fun k hrate => ?_⟩
    · simp only [runStrain]
      rw [hrate]
      exact h.runUnits hwhole hheld
    · intro w bs touched copies hwhole hheld
      have hrun := h.runStrain hrate
      simp only [beq_iff_eq, strainDst_eq] at hrun
      exact ⟨_, hexec, hrun hwhole hheld⟩
  case scrub =>
    intro hscrub hkind ⟨hwhole, hheld⟩
    refine ⟨_, congrArg Host.Outcome.next (h.runCurrent hscrub _), ?_⟩
    have hplain : runScrub u e none a d = scrubPlain u e none a d := by
      unfold runScrub
      split
      · next t ch hlist => exact absurd rfl (hkind.resolve_left (fun hne => hne hlist) t ch)
      · rfl
    rw [hplain]
    exact h.scrubPlain hwhole hheld
  case listScrub =>
    rintro t ch rfl hkind hscrub l hlisted v hstop hpoisoned hlost hheldList hports ⟨hwhole, hheld⟩
    have hl : ListSound u t ch x l := ⟨hlisted, hheldList, hports, hstop, hpoisoned, hlost⟩
    refine ⟨_, congrArg Host.Outcome.next (h.runCurrent hscrub _), ?_⟩
    simp only [runScrub]
    rw [hkind]
    exact h.scrubList hl hwhole hheld

end Sys2Proof.Machine
end

section
/-! What a unit's reads, its notes of events and its writes of memory leave (R27, R196, R250, R256): the settings that the slices and the
cores go by, the sequencers, the pools and the moves; of the slices and of memory as the flags ask. `Spares.f` says for a function `f` that
it leaves them, and its proof names the functions that `f` calls, as the layer of `State.Canonical` does. -/

namespace Sys2Proof.Machine

/-! ### The relation -/

/-- Registers of settings that no unit writes: those of the memory controllers, the slices' pools and tables and the step controller, the
state of the host links, and the mode of each core's NaN trap. -/
def SettingReg (a : Nat) : Prop :=
  (0x900000 ≤ a ∧ a < 0x903000) ∨ a = HIF_STATUS ∨ (a < 0x800000 ∧ 0x10000 ≤ a % 0x20000 ∧ a % 0x1000 = 0x308)

/-- The settings, the sequencers, pools, moves, the carousel and the job are as before, and as the flags ask, memory and what has
stopped, and the slices. -/
structure Spares (reads slices : Bool) (s u : State) : Prop where
  regs : ∀ a, SettingReg a → u.reg a = s.reg a
  seqs : u.seqs = s.seqs
  pools : u.pools = s.pools
  moves : u.moves = s.moves
  car : u.car = s.car
  job : u.job = s.job
  mem : reads = true → u.mem = s.mem
  env : reads = true → u.env = s.env
  stopped : reads = true → ∀ k, (u.tile k).stopped = (s.tile k).stopped
  slices : slices = true → u.slices = s.slices

theorem Spares.refl {r w : Bool} (s : State) : Spares r w s s :=
  ⟨fun _ _ => rfl, rfl, rfl, rfl, rfl, rfl, fun _ => rfl, fun _ => rfl, fun _ _ => rfl, fun _ => rfl⟩

theorem Spares.trans {r w : Bool} {s u v : State} (h : Spares r w s u) (h' : Spares r w u v) : Spares r w s v where
  regs a ha := (h'.regs a ha).trans (h.regs a ha)
  seqs := h'.seqs.trans h.seqs
  pools := h'.pools.trans h.pools
  moves := h'.moves.trans h.moves
  car := h'.car.trans h.car
  job := h'.job.trans h.job
  mem hr := (h'.mem hr).trans (h.mem hr)
  env hr := (h'.env hr).trans (h.env hr)
  stopped hr k := (h'.stopped hr k).trans (h.stopped hr k)
  slices hw := (h'.slices hw).trans (h.slices hw)

section
variable {r w : Bool} {s u : State} (h : Spares r w s u)
include h

protected theorem Spares.ite {t : State} (ht : Spares r w s t) {p : Prop} [Decidable p] : Spares r w s (if p then u else t) := by
  split
  · exact h
  · exact ht

protected theorem Spares.foldl {β : Type} {l : List β} {f : State → β → State}
    (hf : ∀ {v : State} {b : β}, Spares r w s v → Spares r w s (f v b)) : Spares r w s (l.foldl f u) :=
  List.foldlRecOn (motive := fun v => Spares r w s v) l f h fun _ hv _ _ => hf hv

/-- One proof for a state that several places name. -/
protected theorem Spares.use {p : Prop} (k : Spares r w s u → p) : p := k h

/-- Every other part of the state may differ. -/
protected theorem Spares.update {errs chans mesh spanHeld dieHeld dieIn devs dies tempRetired beat windowStart slews ptpStamp syncBase stp
    repair links rings qps regions flash upd mgr snaps pwr pins vid halves out free pending} :
    Spares r w s ⟨u.regs, u.mem, u.env, errs, u.seqs, u.tiles, u.slices, u.pools, u.moves, chans, mesh, spanHeld, dieHeld, dieIn, devs,
      dies, tempRetired, beat, windowStart, slews, ptpStamp, syncBase, u.car, stp, u.job, repair, links, rings, qps, regions, flash, upd,
      mgr, snaps, pwr, pins, vid, halves, out, free, pending⟩ :=
  ⟨h.regs, h.seqs, h.pools, h.moves, h.car, h.job, h.mem, h.env, h.stopped, h.slices⟩

protected theorem Spares.setReg {a v : Nat} (ha : ¬ SettingReg a) : Spares r w s (u.setReg a v) :=
  ⟨fun b hb => (reg_setReg_ne u v fun e : b = a => ha (e ▸ hb)).trans (h.regs b hb), h.seqs, h.pools, h.moves, h.car, h.job, h.mem, h.env,
    h.stopped, h.slices⟩

protected theorem Spares.fset {a : Nat} {f : Fld} {v : Nat} (ha : ¬ SettingReg a := by
    simp only [SettingReg, HIF_STATUS, MGS_ALERT, MGS_STATUS, TL_INTEG, TL_INTEG_ADDR, DMA_IRQ, SCU_QSTAT, SCU_EMPTY_ROWS, CR_NAN_INFO,
      CR_NAN_OP, CR_NAN_COORD]
    omega) : Spares r w s (fset u a f v) := h.setReg ha

protected theorem Spares.fadd {a : Nat} {f : Fld} {n : Nat} (ha : ¬ SettingReg a := by
    simp only [SettingReg, HIF_STATUS, MGS_STATUS, TL_INTEG, SCU_EMPTY_ROWS, CR_NAN_MORE]
    omega) : Spares r w s (fadd u a f n) := h.setReg ha

/-- A tile's cache may differ. -/
protected theorem Spares.cache {t : TileId} {cache} : Spares r w s (u.setTile t { u.tile t with cache := cache }) := by
  refine ⟨h.regs, h.seqs, h.pools, h.moves, h.car, h.job, h.mem, h.env, fun hr k => ?_, h.slices⟩
  refine Eq.trans ?_ (h.stopped hr k)
  by_cases hk : k = t
  · rw [hk, tile_setTile]
  · rw [tile_setTile_ne u _ hk]

end

/-- What reads leave, writes may leave. -/
theorem Spares.onWrites {r w : Bool} {s u : State} (h : Spares r w s u) : Spares false w s u :=
  { h with mem := nofun, env := nofun, stopped := nofun }

/-- The slices may differ. -/
theorem Spares.onSlices {r w : Bool} {s u : State} (h : Spares r w s u) : Spares r false s u := { h with slices := nofun }

/-! ### Notes of events -/

section
variable {r w : Bool} {s u : State} (h : Spares r w s u)
include h

protected theorem Spares.emit {msg} : Spares r w s (emit u msg) := h.update

protected theorem Spares.waitLink {p x} : Spares r w s (waitLink u p x) := h.ite h.update

protected theorem Spares.msix {port vector} : Spares r w s (msix u port vector) :=
  (h.emit.ite h.waitLink).ite (h.update.setReg (by simp only [SettingReg, MSIX_PBA, HIF_STATUS]; omega))

protected theorem Spares.interrupt {source} : Spares r w s (interrupt u source) := h.msix.ite h

protected theorem Spares.refreshAlert : Spares r w s (refreshAlert u) := h.update

protected theorem Spares.raiseAlert {f} : Spares r w s (raiseAlert u f) :=
  h.refreshAlert.ite (h.fset.refreshAlert.use fun h1 => h1.interrupt.ite h1)

protected theorem Spares.post {k unit data} : Spares r w s (post u k unit data) := h.fadd.update.raiseAlert.ite h.update

protected theorem Spares.fireSnapshot {source tile} : Spares r w s (fireSnapshot u source tile) := h.update

protected theorem Spares.mcBump {a sel amount} (ha : ¬ SettingReg a) : Spares r w s (mcBump u a sel amount) :=
  (h.fset ha).ite (h.ite (((h.fset ha).fset ha).post.raiseAlert.ite ((h.fset ha).fset ha)))

/-- Counters of the run at a base note an amount. -/
protected theorem Spares.mcAdd {base count source unit amount : Nat}
    (ha : ∀ a, base ≤ a → a < base + 16 * count → ¬ SettingReg (a + 8)) : Spares r w s (mcAdd u base count source unit amount) := by
  refine h.ite (List.foldlRecOn (motive := fun v => Spares r w s v) _ _ h fun v hv p hp => Spares.mcBump hv ?_)
  simp only [List.mem_filter, Bool.and_eq_true, decide_eq_true_eq] at hp
  obtain ⟨-, ⟨⟨⟨hlo, hhi, -⟩, -⟩, -⟩, -⟩ := hp
  exact ha _ hlo hhi

protected theorem Spares.mcTile {t source unit amount} : Spares r w s (mcTile u t source unit amount) :=
  h.mcAdd fun a hlo hhi => by
    simp only [TL_MC_SEL] at hlo hhi
    simp only [SettingReg, HIF_STATUS]
    omega

protected theorem Spares.withhold {n} : Spares r w s (withhold u n) := h.update

protected theorem Spares.integrityEvent {t kind unit core a} : Spares r w s (integrityEvent u t kind unit core a) :=
  (h.fadd.ite h.fset.fset.fset.fset.fset.fset.fset).use fun h1 => (h1.fset.interrupt.ite h1.fset).post.withhold

protected theorem Spares.integrityAll {t unit core bad} : Spares r w s (integrityAll u t unit core bad) :=
  h.foldl fun hv => hv.integrityEvent

protected theorem Spares.caddyParity {t kind a : Nat} (ht : t < 64) : Spares r w s (caddyParity u t kind a) := by
  have ha : ¬ SettingReg (CAD_PERR t) := by
    simp only [SettingReg, CAD_PERR, HIF_STATUS]
    omega
  exact (h.fadd ha).ite ((((h.fset ha).fset ha).fset ha).fset ha)

omit h in
theorem not_settingReg_errlogOf (k : Nat) : ¬ SettingReg (errlogOf k) := by
  unfold errlogOf
  split
  · simp only [SettingReg, HBM_ERRLOG, HIF_STATUS]
    omega
  · have := bitsAt_lt k 36 6
    simp only [SettingReg, DTR_ERRLOG, HIF_STATUS]
    omega

protected theorem Spares.logUncorrectable {k unit bank row} : Spares r w s (logUncorrectable u k unit bank row) := by
  have ha := not_settingReg_errlogOf k
  exact ((h.fset ha).ite (((((h.fset ha).fset ha).fset ha).fset ha).fset ha)).post.raiseAlert

end

/-! ### Reads -/

section
variable {r w : Bool} {s u : State} (h : Spares r w s u)
include h

protected theorem Spares.takeFree : Spares r w s (takeFree u).2 := h.update

protected theorem Spares.clearErr {k} : Spares r w s (clearErr u k) := h.update

protected theorem Spares.verifyMemory {ag a} : Spares r w s (verifyMemory u ag a).2 := by
  unfold verifyMemory verifyKey
  dsimp only
  split
  · exact h.logUncorrectable
  · exact (h.caddyParity (bitsAt_lt a 28 6)).ite h
  · exact h
  · split
    · split
      · exact h.update.mcTile.ite h.update
      · exact h.update
    · exact h.update
  · exact h

protected theorem Spares.dropBlock {t b} : Spares r w s (dropBlock u t b) := h.cache

protected theorem Spares.verifyBlock {ag a} : Spares r w s (verifyBlock u ag a).2 := by
  unfold verifyBlock
  dsimp only
  split
  · exact h.verifyMemory
  · next t _ =>
    split
    · exact h.mcTile.verifyMemory.dropBlock.cache
    · split
      · exact (h.mcTile.update.caddyParity (by omega)).mcTile.verifyMemory.dropBlock.cache
      · split
        · exact h.mcTile.verifyMemory.dropBlock.cache
        · split
          · exact h.mcTile
          · split
            · exact h.mcTile.takeFree
            · exact h.mcTile.takeFree.verifyMemory.dropBlock.cache

omit h in
protected theorem Spares.verifyAll {ag as} (h : Spares r w s u) : Spares r w s (verifyAll u ag as).2 := by
  induction as generalizing u with
  | nil => exact h
  | cons a as ih => exact ih (by split; exacts [h, h.verifyBlock])

protected theorem Spares.verifyRange {ag a n} : Spares r w s (verifyRange u ag a n).2 := h.verifyAll

protected theorem Spares.sliceRead {ctx rs} : Spares r w s (sliceRead u ctx rs).2 := by
  unfold sliceRead
  dsimp only
  split
  · exact h.verifyAll.clearErr
  · exact h.verifyAll

protected theorem Spares.sliceVerify {t core ctx rs} : Spares r w s (sliceVerify u t core ctx rs).2 := by
  unfold sliceVerify
  split
  · exact h.sliceRead.integrityAll
  · exact h

protected theorem Spares.readTables {t core ctx x d} : Spares r w s (readTables u t core ctx x d).2 := by
  unfold readTables
  dsimp only
  split
  · exact h.sliceVerify.sliceVerify
  · exact h.sliceVerify

end

/-! ### Writes of memory and of registers -/

section
variable {w : Bool} {s u : State} (h : Spares false w s u)
include h

protected theorem Spares.writeCells {ag ws} : Spares false w s (writeCells u ag ws) := by
  obtain ⟨_, _, _, _, hw, -⟩ := writeCells_frame u ag ws
  rw [hw]
  exact ⟨h.regs, h.seqs, h.pools, h.moves, h.car, h.job, nofun, nofun, nofun, h.slices⟩

protected theorem Spares.writeBytes {ag a bs poison} : Spares false w s (writeBytes u ag a bs poison) := h.writeCells

end

section
variable {r : Bool} {s u : State} (h : Spares r false s u)
include h

protected theorem Spares.putSlice {t x} : Spares r false s (putSlice u t x) := by
  have hx : Spares r false s (u.setSlice t x) :=
    ⟨h.regs, h.seqs, h.pools, h.moves, h.car, h.job, h.mem, h.env, h.stopped, nofun⟩
  exact hx.fset.fset.fset.fset

protected theorem Spares.stallSlice {t who} : Spares r false s (stallSlice u t who) := h.putSlice

protected theorem Spares.retireWalkers {c} : Spares r false s (retireWalkers u c) := h.foldl fun hv => hv.putSlice.ite hv

end

/-! ### What the settings place -/

section
variable {r w : Bool} {s u : State} (h : Spares r w s u)
include h

theorem Spares.keyOf_eq (a : Nat) : keyOf u a = keyOf s a := keyOf_congr (h.regs _ (.inl (by unfold HBM_MODE; omega))) a

theorem Spares.hostDown_eq (a : Nat) : hostDown u a = hostDown s a := by
  have hup : u.reg HIF_STATUS = s.reg HIF_STATUS := h.regs _ (.inr (.inl rfl))
  simp only [hostDown, portUp, fbit_congr hup]

/-- The head of a queue that is marked as done. -/
theorem Spares.markDone_seqs (c : CoreId) (queue : Nat) : (markDone u c queue).seqs = (markDone s c queue).seqs := by
  have hq : u.seq c = s.seq c := seq_congr h.seqs c
  unfold markDone
  rw [hq]
  dsimp only
  split
  · exact h.seqs
  · simp only [State.setSeq, h.seqs]

end

theorem markDone_frame (s : State) (c : CoreId) (queue : Nat) : ∃ seqs, markDone s c queue = { s with seqs := seqs } := by
  unfold markDone
  dsimp only
  split
  · exact ⟨s.seqs, rfl⟩
  · exact ⟨_, rfl⟩

end Sys2Proof.Machine
end

section
/-! Commands of queue 3 that the slice hears and turns away: their result word is all that is written (R169, R190, R192, Table ATT-2). -/

namespace Sys2Proof.Machine

/-! ### The command at the head of queue 3 -/

/-- The commands of queue 3 by opcode, each with the states of its context in which it takes effect (Tables ATT-2 and ATT-11). -/
def scuCommands (c : CoreId) : List (Nat × Instr × List Nat) :=
  [(1, .scuOpen c, [0]), (2, .scuClose c, [1, 2]), (3, .scuAppend c, [1]), (4, .scuTruncate c, [1]), (5, .scuAdvance c, [1]),
    (6, .scuPark c, [1]), (7, .scuResume c, [2]), (8, .scuSet c, [1, 2])]

/-- Each runs the command at the head of the queue with its opcode. -/
theorem exec_scuCommands {s : State} {c : CoreId} {p : Nat × Instr × List Nat} (hp : p ∈ scuCommands c) :
    exec p.2.1 s = .next (runScu s c p.1) := by
  simp only [scuCommands, List.mem_cons, List.not_mem_nil, or_false] at hp
  rcases hp with rfl | rfl | rfl | rfl | rfl | rfl | rfl | rfl <;> rfl

/-- What the command of an opcode comes to. -/
def scuOutcome (s : State) (opcode : Nat) (k : ScuCmd) (x : Ctx) : ScuResult :=
  match opcode with
  | 1 => scuOpen s k x
  | 2 => scuClose s k x
  | 3 => scuAppend s k x
  | 4 => scuTruncate s k x
  | 5 => scuAdvance s k x
  | 6 => scuSwitch s k x true
  | 7 => scuSwitch s k x false
  | _ => scuSet s k x

/-- What a command leaves of the state in which its slice has read what it needs; `bad` says that some of that is poisoned. -/
def scuFinish (u : State) (c : CoreId) (opcode : Nat) (k : ScuCmd) (x : Ctx) (bad : Bool) : State :=
  if (opcode = 6 ∨ opcode = 7) ∧ k.move then startMove u c k x (opcode == 6) bad
  else
    match scuOutcome u opcode k x with
    | .wait => stallSlice u (ownerOf k.ctx) (some (coreNumber c))
    | .answer status accepted w =>
      scuAnswer (sliceTaint (stallSlice w (ownerOf k.ctx) none) k.ctx (bad && status == scuDone)
        ((ctxAddr u k.ctx, 64) :: scuWrites u opcode k x)) c k status accepted bad

section
variable {s : State} {c : CoreId} {opcode : Nat} {e : QEntry} (h : ScuHeard s c opcode e)
include h

/-- No move, result word or edit of another core stands in the way. -/
theorem ScuHeard.free : ¬ (moving s c || resultWaits s c || ((s.slice (ownerOf (parseScu e.desc).ctx)).stalled.isSome &&
    (s.slice (ownerOf (parseScu e.desc).ctx)).stalled != some (coreNumber c))) = true := by
  obtain ⟨-, hmoving, hresult, hstalled, -⟩ := h
  rcases hstalled with hs | hs <;> simp [hmoving, hresult, hs]

/-- A command that is heard and names another generation is answered at once. -/
theorem ScuHeard.runScu_genMismatch (hcheck : (parseScu e.desc).checkGen = true)
    (hgen : (parseScu e.desc).expect ≠ (ctxOf (ctxVerified s c (parseScu e.desc).ctx) (parseScu e.desc).ctx).gen) :
    runScu s c opcode = scuAnswer (ctxVerified s c (parseScu e.desc).ctx) c (parseScu e.desc) scuGenMismatch 0
      (sliceBad s (parseScu e.desc).ctx [(ctxAddr s (parseScu e.desc).ctx, 64)]) := by
  have hfree := h.free
  obtain ⟨hhead, -, -, -, htables, hwrites, hread, -⟩ := h
  have hother : ((parseScu e.desc).checkGen && (parseScu e.desc).expect !=
      (ctxOf (ctxVerified s c (parseScu e.desc).ctx) (parseScu e.desc).ctx).gen) = true := by
    simpa [hcheck] using hgen
  unfold runScu
  rw [hhead]
  exact (if_neg hfree).trans ((if_neg (by simpa using ⟨htables, hwrites⟩)).trans ((if_neg (by simp [hread])).trans (if_pos hother)))

end

/-- Some of what a command reads is poisoned. -/
def scuBad (s : State) (c : CoreId) (opcode : Nat) (k : ScuCmd) : Bool :=
  let v := ctxVerified s c k.ctx
  sliceBad s k.ctx [(ctxAddr s k.ctx, 64)] ||
    tablesBad v c.tile c.core.val k.ctx (ctxOf v k.ctx) (scuReads v opcode k (ctxOf v k.ctx))

/-- A command that the slice takes leaves what it comes to where its tables have been read. -/
theorem ScuTakes.runScu_eq {s u : State} {c : CoreId} {opcode : Nat} {e : QEntry} (h : ScuTakes s c opcode e u) :
    runScu s c opcode = scuFinish u c opcode (parseScu e.desc)
      (ctxOf (ctxVerified s c (parseScu e.desc).ctx) (parseScu e.desc).ctx) (scuBad s c opcode (parseScu e.desc)) := by
  obtain ⟨hheard, hgen, hr, hreach⟩ := h
  have hfree := hheard.free
  obtain ⟨hhead, -, -, -, htables, hwrites, hread, -⟩ := hheard
  have hsame : ¬ ((parseScu e.desc).checkGen && (parseScu e.desc).expect !=
      (ctxOf (ctxVerified s c (parseScu e.desc).ctx) (parseScu e.desc).ctx).gen) = true := by
    simpa using hgen
  obtain ⟨hfirst, rfl⟩ := Prod.ext_iff.1 hr
  unfold runScu
  rw [hhead]
  refine (if_neg hfree).trans ((if_neg (by simpa using ⟨htables, hwrites⟩)).trans ((if_neg (by simp [hread])).trans
    ((if_neg hsame).trans ((if_neg (ne_true_of_eq_false (congrArg not hfirst))).trans
      ((if_neg (ne_true_of_eq_false (congrArg not hreach))).trans ?_)))))
  rfl

theorem ScuTakes.spares {s u : State} {c : CoreId} {opcode : Nat} {e : QEntry} (h : ScuTakes s c opcode e u) : Spares true true s u := by
  obtain ⟨-, -, hr, -⟩ := h
  obtain ⟨-, rfl⟩ := Prod.ext_iff.1 hr
  exact (Spares.refl s).sliceVerify.readTables

/-! ### What an answer leaves -/

/-- Of memory the result word alone is written; the command waits for its completion pulse. -/
def ResultAlone (s : State) (c : CoreId) (k : ScuCmd) (t : State) : Prop :=
  t.seqs = (markDone s c 3).seqs ∧ t.pools = s.pools ∧ t.moves = s.moves ∧
    ∀ a, (∀ i < 8, a ≠ keyOf s (k.result + i)) → byteAt t a = byteAt s a

theorem resultAlone_markDone {s u : State} {k : ScuCmd} (h : Spares false false s u)
    (hbytes : ∀ a, (∀ i < 8, a ≠ keyOf s (k.result + i)) → byteAt u a = byteAt s a) (c : CoreId) :
    ResultAlone s c k (markDone u c 3) := by
  refine ⟨h.markDone_seqs c 3, ?_⟩
  obtain ⟨seqs, he⟩ := markDone_frame u c 3
  rw [he]
  exact ⟨h.pools, h.moves, hbytes⟩

/-- An answer over what reads leave. -/
theorem resultAlone_scuAnswer {s u : State} {k : ScuCmd} (h : Spares true false s u) (hup : hostDown s k.result = false) (c : CoreId)
    (status accepted : Nat) (bad : Bool) : ResultAlone s c k (scuAnswer u c k status accepted bad) := by
  unfold scuAnswer
  dsimp only
  split
  · exact resultAlone_markDone h.onWrites (fun a _ => byteAt_congr (h.mem rfl) a) c
  · rw [if_neg (by simp [h.hostDown_eq, hup])]
    refine resultAlone_markDone h.onWrites.writeBytes (fun a ha => ?_) c
    refine (byteAt_writeCells_ne u _ fun x hx => ?_).trans (byteAt_congr (h.mem rfl) a)
    obtain ⟨i, hi, rfl⟩ := List.mem_mapIdx.1 hx
    rw [length_leBytes] at hi
    rw [h.keyOf_eq]
    exact (ha i hi).symm

/-! ### Commands out of state -/

/-- A command whose context is in none of its states answers so, and does nothing else. -/
theorem scuOutcome_badState {c : CoreId} {p : Nat × Instr × List Nat} (hp : p ∈ scuCommands c) {x : Ctx} (hx : x.state ∉ p.2.2)
    (u : State) (k : ScuCmd) : scuOutcome u p.1 k x = .answer scuBadState 0 u := by
  simp only [scuCommands, List.mem_cons, List.not_mem_nil, or_false] at hp
  rcases hp with rfl | rfl | rfl | rfl | rfl | rfl | rfl | rfl <;>
    (simp only [List.mem_cons, List.not_mem_nil, or_false, not_or] at hx; exact if_pos hx)

/-- The same of a move that it asks for. -/
theorem scuFinish_badState {c : CoreId} {p : Nat × Instr × List Nat} (hp : p ∈ scuCommands c) {x : Ctx} (hx : x.state ∉ p.2.2)
    (u : State) (k : ScuCmd) (bad : Bool) : ∃ w, (w = u ∨ w = stallSlice u (ownerOf k.ctx) none) ∧
      scuFinish u c p.1 k x bad = scuAnswer w c k scuBadState 0 bad := by
  unfold scuFinish
  split
  · next hmove =>
    refine ⟨u, .inl rfl, if_pos ?_⟩
    simp only [scuCommands, List.mem_cons, List.not_mem_nil, or_false] at hp
    rcases hp with rfl | rfl | rfl | rfl | rfl | rfl | rfl | rfl <;> simp_all
  · rw [scuOutcome_badState hp hx]
    refine ⟨_, .inr rfl, ?_⟩
    have : (bad && scuBadState == scuDone) = false := by cases bad <;> rfl
    simp only [this, sliceTaint, Bool.false_eq_true, ↓reduceIte]

/-- Settles O27: the command is answered over what its reads leave, and an answer writes the result word alone. -/
theorem commandsOutOfStateChangeNothing : Obligations.CommandsOutOfStateChangeNothing := by
  intro s c e k x same p hp
  refine ⟨fun ⟨u, htakes⟩ hx => ⟨_, exec_scuCommands hp, ?_⟩, fun hheard hcheck hgen => ⟨_, exec_scuCommands hp, ?_⟩⟩
  · obtain ⟨w, hw, hanswer⟩ := scuFinish_badState hp hx u k (scuBad s c p.1 k)
    have hrun := htakes.runScu_eq
    have hu : Spares true false s u := htakes.spares.onSlices
    obtain ⟨⟨-, -, -, -, -, -, -, hup⟩, -⟩ := htakes
    have hframe : Spares true false s w := by
      rcases hw with rfl | rfl
      · exact hu
      · exact hu.stallSlice
    rw [hrun, hanswer]
    exact resultAlone_scuAnswer hframe hup c _ _ _
  · rw [hheard.runScu_genMismatch hcheck hgen]
    obtain ⟨-, -, -, -, -, -, -, hup⟩ := hheard
    exact resultAlone_scuAnswer (Spares.refl s).sliceVerify hup c _ _ _

end Sys2Proof.Machine
end

section
/-! Walkers register in their slice, and a released window gives its items back to the rings of their pools (R174, R186, R188, R189, R193). -/

namespace Sys2Proof.Machine

/-! ### A slice and what it shows -/

theorem slice_congr {s t : State} (h : t.slices = s.slices) (k : TileId) : t.slice k = s.slice k := by
  rw [State.slice, h, State.slice]

theorem putSlice_frame (s : State) (t : TileId) (x : Slice) : OnlyRegs (s.setSlice t x) (putSlice s t x) :=
  (OnlyRegs.refl _).fset.fset.fset.fset

@[simp] theorem slice_putSlice (s : State) (t : TileId) (x : Slice) : (putSlice s t x).slice t = x := by
  obtain ⟨regs, h⟩ := putSlice_frame s t x
  rw [h]
  exact slice_setSlice s t x

/-- A slice shows itself in its SCU_QSTAT alone. -/
theorem reg_putSlice_ne (s : State) {t : TileId} (x : Slice) {a : Nat} (ha : a ≠ SCU_QSTAT t.val) : (putSlice s t x).reg a = s.reg a := by
  rw [putSlice, refreshQstat]
  simp only [reg_fset_ne _ _ _ ha]
  exact reg_setSlice s t x a

/-! ### WALKER_START -/

/-- A walker whose entry is sound and whose reads meet nothing registers over what its reads leave. -/
theorem startWalker_registers {s v u : State} {c : CoreId} {x : AttDesc} {i : Nat} {l : LtEntry} (hl : ltEntry s c x i = l)
    (hnew : walkerOf s c i l.ctx = none)
    (hheld : tablesHeld s l.ctx (ctxOf s l.ctx) (walkReads x l (ctxOf s l.ctx)) = false)
    (hv : sliceVerify s c.tile c.core.val l.ctx [(ctxAddr s l.ctx, 64)] = (true, v)) (hstate : (ctxOf v l.ctx).state ≠ 3)
    (hu : readTables v c.tile c.core.val l.ctx (ctxOf v l.ctx) (walkReads x l (ctxOf v l.ctx)) = (true, u))
    (hcause : walkerCause u c x l (ctxOf v l.ctx) = 0) :
    startWalker s c x i = putSlice u (ownerOf l.ctx) { u.slice (ownerOf l.ctx) with
      walkers := (u.slice (ownerOf l.ctx)).walkers ++
        [⟨coreNumber c, i, l.ctx, ctxRecord v l.ctx, (u.slice (ownerOf l.ctx)).current⟩] } := by
  subst hl
  unfold startWalker
  dsimp only
  rw [hv, if_neg (by simp [hnew]), if_neg (by simpa [ctxOf] using hheld), if_neg (by simp)]
  refine (if_neg hstate).trans ?_
  have hread : readTables v c.tile c.core.val (ltEntry s c x i).ctx (parseCtx (ctxRecord v (ltEntry s c x i).ctx))
    (walkReads x (ltEntry s c x i) (parseCtx (ctxRecord v (ltEntry s c x i).ctx))) = (true, u) := hu
  simp only [hread]
  refine (if_neg (by simp)).trans (if_neg ?_)
  exact not_not_intro hcause

theorem exec_walkerStart {s : State} {c : CoreId} {entry : Nat} {e : QEntry} (he : attHead s c = some e)
    (h : entry < (parseAtt e.desc).entries) : exec (.walkerStart c entry) s = .next (startWalker s c (parseAtt e.desc) entry) := by
  change execWalkerStart c entry s = _
  rw [execWalkerStart, he]
  exact if_pos h

/-! ### Items return to their pools -/

/-- Registers that place and map the positions of the pools' rings. -/
def RingReg (a : Nat) : Prop :=
  a = HBM_MODE ∨ (∃ t < 64, a = CAD_PART t) ∨ ∃ p < 16, a = SCU_POOL_BASE p ∨ a = SCU_POOL_CTL p

/-- The rings lie where they lay, within the same reach. -/
structure RingsStand (s u : State) : Prop where
  regs : ∀ a, RingReg a → u.reg a = s.reg a
  repair : u.repair = s.repair
  tempRetired : u.tempRetired = s.tempRetired

theorem RingsStand.slotReachable_eq {s u : State} (h : RingsStand s u) (t : TileId) {p : Nat} (hp : p < 16) (n : Nat) :
    slotReachable u t p n = slotReachable s t p n := by
  have hkey (a : Nat) : keyOf u a = keyOf s a := keyOf_congr (h.regs _ (.inl rfl)) a
  have hpart (a : Nat) : scratchBytes u (bitsAt a 28 6) = scratchBytes s (bitsAt a 28 6) := by
    rw [scratchBytes, scratchBytes, fget_congr (h.regs _ (.inr (.inl ⟨_, bitsAt_lt a 28 6, rfl⟩)))]
  have hslot : poolSlot u p n = poolSlot s p n := by
    rw [poolSlot, poolSlot, faddr, faddr, fget_congr (h.regs _ (.inr (.inr ⟨p, hp, .inl rfl⟩))),
      fget_congr (h.regs _ (.inr (.inr ⟨p, hp, .inr rfl⟩)))]
  have hmapped (ag : Agent) (a : Nat) : mapped u ag a = mapped s ag a := by simp only [mapped, hpart]
  simp only [slotReachable, hslot, rangeAccessible, rangeMapped, hmapped, rangeRetired, chunkRetired, retired, hkey, h.repair,
    h.tempRetired]

/-- Every position of a ring is one of its first. -/
theorem poolSlot_mod (s : State) (p i : Nat) :
    poolSlot s p (i % 2 ^ fget s (SCU_POOL_CTL p) f_SCU_POOL_CTL_LOG2_ENTRIES) = poolSlot s p i := by
  rw [poolSlot, poolSlot, Nat.mod_mod]

/-- The positions of a pool's ring are within a slice's reach. -/
def RingReaches (s : State) (t : TileId) (p : Nat) : Prop :=
  p < 16 ∧ ∀ n < 2 ^ fget s (SCU_POOL_CTL p) f_SCU_POOL_CTL_LOG2_ENTRIES, slotReachable s t p n = true

theorem RingReaches.stand {s u : State} {t : TileId} {p : Nat} (h : RingReaches s t p) (hu : RingsStand s u) : RingReaches u t p := by
  obtain ⟨hp, hn⟩ := h
  refine ⟨hp, fun n hlt => ?_⟩
  rw [fget_congr (hu.regs _ (.inr (.inr ⟨p, hp, .inr rfl⟩)))] at hlt
  rw [hu.slotReachable_eq t hp]
  exact hn n hlt

/-- A ring whose positions can all be reached takes a group at its tail: its pool's count is the one register that changes. -/
theorem poolGive_frame {s : State} {t : TileId} {p : Nat} (h : RingReaches s t p) (a : Nat) :
    ∃ mem env errs tiles pools, poolGive s t p a =
      fadd { s with mem := mem, env := env, errs := errs, tiles := tiles, pools := pools } (SCU_POOL_FREE p) f_SCU_POOL_FREE_FREE 1 := by
  obtain ⟨-, hn⟩ := h
  have hreach : slotReachable s t p (mapGet (0, 0) s.pools p).2 = true := by
    rw [slotReachable, ← poolSlot_mod]
    exact hn _ (Nat.mod_lt _ (Nat.two_pow_pos _))
  obtain ⟨mem, env, errs, tiles, hw, -⟩ := writeCells_frame s (.tile t false)
    ((leBytes 8 a).mapIdx fun i b => (poolSlot s p (mapGet (0, 0) s.pools p).2 + i, b, false))
  unfold poolGive
  dsimp only
  rw [hreach, if_neg (by simp), writeBytes, hw]
  exact ⟨_, _, _, _, _, rfl⟩

/-- A group given back is counted at its pool, and no other pool counts it (R193). -/
theorem poolGive_spec {s : State} {t : TileId} {p : Nat} (h : RingReaches s t p) (a : Nat) :
    RingsStand s (poolGive s t p a) ∧ (poolGive s t p a).slices = s.slices ∧ (poolGive s t p a).seqs = s.seqs ∧ ∀ q < 16,
      fget (poolGive s t p a) (SCU_POOL_FREE q) f_SCU_POOL_FREE_FREE =
        if p = q then min f_SCU_POOL_FREE_FREE.max (fget s (SCU_POOL_FREE q) f_SCU_POOL_FREE_FREE + 1)
        else fget s (SCU_POOL_FREE q) f_SCU_POOL_FREE_FREE := by
  obtain ⟨mem, env, errs, tiles, pools, hgive⟩ := poolGive_frame h a
  obtain ⟨hp, -⟩ := h
  generalize hv : ({ s with mem := mem, env := env, errs := errs, tiles := tiles, pools := pools } : State) = v at hgive
  have hreg (b : Nat) : v.reg b = s.reg b := hv ▸ reg_congr rfl b
  obtain ⟨regs, hframe⟩ : OnlyRegs v (poolGive s t p a) := hgive ▸ (OnlyRegs.refl v).fset
  refine ⟨⟨fun b hb => ?regs, ?repair, ?temp⟩, ?slices, ?seqs, fun q hq => ?count⟩
  case regs =>
    rw [hgive, reg_fadd_ne _ _ _ ?_, hreg]
    rintro rfl
    rcases hb with hb | ⟨k, hk, hb⟩ | ⟨q, hq, hb | hb⟩ <;>
      simp only [SCU_POOL_FREE, HBM_MODE, CAD_PART, SCU_POOL_BASE, SCU_POOL_CTL] at hb <;> omega
  case count =>
    rw [hgive]
    split
    · next hpq =>
      subst hpq
      rw [fadd, fget_fset_same _ _ _ _ (by decide), fget_congr (hreg _), stick]
      exact Nat.mod_eq_of_lt ((Nat.min_le_left _ _).trans_lt (by decide))
    · next hpq =>
      have hne : SCU_POOL_FREE q ≠ SCU_POOL_FREE p := fun e => hpq (by simp only [SCU_POOL_FREE] at e; omega)
      rw [fget_congr (reg_fadd_ne _ _ _ hne), fget_congr (hreg _)]
  all_goals rw [hframe, ← hv]

/-- A list of groups given back: each pool counts its own, up to its largest value. -/
theorem foldl_poolGive_spec {t : TileId} (items : List (Nat × Nat)) {s : State} (h : ∀ i ∈ items, RingReaches s t i.1) :
    let u := items.foldl (fun s i => poolGive s t i.1 i.2) s
    u.slices = s.slices ∧ u.seqs = s.seqs ∧ ∀ q < 16, fget u (SCU_POOL_FREE q) f_SCU_POOL_FREE_FREE =
        min f_SCU_POOL_FREE_FREE.max (fget s (SCU_POOL_FREE q) f_SCU_POOL_FREE_FREE + (items.filter fun i => i.1 == q).length) := by
  induction items generalizing s with
  | nil =>
    refine ⟨rfl, rfl, fun q _ => (Nat.min_eq_right (Nat.le_sub_one_of_lt ?_)).symm⟩
    exact bitsAt_lt _ _ _
  | cons i items ih =>
    obtain ⟨hstand, hslices, hseqs, hone⟩ := poolGive_spec (h i (.head _)) i.2
    obtain ⟨hslices', hseqs', hcount⟩ := ih fun j hj => (h j (.tail _ hj)).stand hstand
    refine ⟨hslices'.trans hslices, hseqs'.trans hseqs, fun q hq => (hcount q hq).trans ?_⟩
    rw [hone q hq]
    by_cases hiq : i.1 = q
    · simp only [hiq, if_pos, List.filter_cons, beq_self_eq_true, List.length_cons]
      omega
    · simp only [hiq, List.filter_cons, beq_iff_eq, ↓reduceIte]

/-! ### QUARANTINE_RELEASE -/

/-- The oldest filled window is released where no walker is in it or an older one and no device holds the requests. -/
theorem exec_quarantineRelease {s : State} {t : TileId} {w : Nat}
    (hw : (closedWindows (s.slice t)).find? (fun w => !(nthD [] (s.slice t).windows w).isEmpty) = some w)
    (hwalkers : ∀ k ∈ (s.slice t).walkers, k.window ≠ w ∧
      k.window ∉ (closedWindows (s.slice t)).takeWhile fun v => (nthD [] (s.slice t).windows v).isEmpty)
    (hheld : anyHeld s = false) :
    exec (.quarantineRelease t) s = .next ((nthD [] (s.slice t).windows w).foldl (fun s i => poolGive s t i.1 i.2)
      (putSlice s t { s.slice t with windows := setNth (s.slice t).windows w [] })) := by
  change execQuarantineRelease t s = _
  unfold execQuarantineRelease
  dsimp only
  rw [hw]
  refine if_neg ?_
  simp only [sliceHeld, hheld, Bool.false_and, Bool.or_false, List.any_eq_true, Bool.or_eq_true, beq_iff_eq, List.contains_iff_mem,
    not_exists, not_and, not_or]
  exact hwalkers

/-! ### STALLED_EDIT_APPLY -/

theorem exec_stalledEditApply_command {s : State} {t : TileId} {n : Nat} {e : QEntry} (hn : (s.slice t).stalled = some n)
    (hlt : n < 768) (he : (nthD [] (s.seq (coreOf n)).queues 3).head? = some e) :
    exec (.stalledEditApply t) s = .next (runScu s (coreOf n) (field e.desc 0 1)) := by
  change execStalledEditApply t s = _
  obtain ⟨es, hes⟩ := List.head?_eq_some_iff.1 he
  unfold execStalledEditApply
  rw [hn]
  refine (if_neg (by omega)).trans ?_
  dsimp only
  rw [hes]

theorem exec_stalledEditApply_move {s : State} {t : TileId} {m : Move} (hn : (s.slice t).stalled = some (768 + m.ctx))
    (hm : s.moves.find? (fun n => 768 + n.ctx == 768 + m.ctx) = some m) :
    exec (.stalledEditApply t) s = .next (completeMove s m) := by
  change execStalledEditApply t s = _
  unfold execStalledEditApply
  rw [hn]
  refine (if_pos (by omega)).trans ?_
  simp only [hm]

/-- Settles O28: the walker over what its reads leave, the items by what one of them does to its pool, the edits by what waits. -/
theorem walkersRegisterAndWindowsAreReleased : Obligations.WalkersRegisterAndWindowsAreReleased := by
  intro s
  refine ⟨?walker, ?window, ?edit, ?move⟩
  case walker =>
    intro c entry e he x l o v y hentry hnew hheld hreach hstate hread hcause
    obtain ⟨u, hu⟩ : ∃ u, readTables v c.tile c.core.val l.ctx y (walkReads x l y) = (true, u) := ⟨_, Prod.ext hread rfl⟩
    rw [hu] at hcause
    have hframe : Spares true true s u := by
      have hr : Spares true true s (readTables v c.tile c.core.val l.ctx y (walkReads x l y)).2 := (Spares.refl s).sliceVerify.readTables
      rwa [hu] at hr
    have hslice : u.slice o = s.slice o := slice_congr (hframe.slices rfl) o
    refine ⟨_, (exec_walkerStart he hentry).trans (congrArg Host.Outcome.next
      (startWalker_registers rfl hnew hheld (Prod.ext hreach rfl) hstate hu hcause)), ?_⟩
    have hput := hframe.onSlices.putSlice (t := o) (x := { u.slice o with
      walkers := (u.slice o).walkers ++ [⟨coreNumber c, entry, l.ctx, ctxRecord v l.ctx, (u.slice o).current⟩] })
    refine ⟨?_, hput.mem rfl, hput.env rfl, hput.seqs, hput.stopped rfl⟩
    rw [slice_putSlice, hslice]
    rfl
  case window =>
    intro t w hw hwalkers hitems hheld
    refine ⟨_, exec_quarantineRelease hw hwalkers hheld, ?_⟩
    generalize nthD [] (s.slice t).windows w = items at hitems
    generalize hx : ({ s.slice t with windows := setNth (s.slice t).windows w [] } : Slice) = x
    have hput {a : Nat} (ha : a < 0x600000 → a % 0x20000 ≠ 0x510) : (putSlice s t x).reg a = s.reg a :=
      reg_putSlice_ne s x (by simp only [SCU_QSTAT]; omega)
    have hring {a : Nat} (ha : RingReg a) : (putSlice s t x).reg a = s.reg a := by
      refine hput ?_
      rcases ha with rfl | ⟨k, hk, rfl⟩ | ⟨p, hp, rfl | rfl⟩ <;>
        simp only [HBM_MODE, CAD_PART, SCU_POOL_BASE, SCU_POOL_CTL] <;> omega
    obtain ⟨regs, hframe⟩ := putSlice_frame s t x
    have hstand : RingsStand s (putSlice s t x) := ⟨fun a => hring, by rw [hframe]; rfl, by rw [hframe]; rfl⟩
    obtain ⟨hslices, hseqs, hcount⟩ := foldl_poolGive_spec items fun i hi => RingReaches.stand (hitems i hi) hstand
    refine ⟨(slice_congr hslices t).trans (slice_putSlice s t x), fun p hp => (hcount p hp).trans ?_, hseqs.trans (by rw [hframe]; rfl)⟩
    have hfree : (putSlice s t x).reg (SCU_POOL_FREE p) = s.reg (SCU_POOL_FREE p) := hput (by simp only [SCU_POOL_FREE]; omega)
    rw [fget_congr hfree]
  case edit =>
    intro t n e hn hlt he p hp hop
    refine ⟨_, exec_stalledEditApply_command hn hlt he, ?_⟩
    rw [hop]
    simp only [List.mem_cons, List.not_mem_nil, or_false] at hp
    rcases hp with rfl | rfl | rfl | rfl <;> rfl
  case move =>
    intro t m hn hm hread hwaits
    refine (exec_stalledEditApply_move hn hm).trans (congrArg Host.Outcome.next ?_)
    unfold completeMove
    dsimp only
    rw [hwaits, hread]
    rfl

end Sys2Proof.Machine
end

section
/-! An attention descriptor whose walkers have started writes its output rows, and the walkers of its core retire (R177 to R182, R186,
R259). -/

namespace Sys2Proof.Machine

/-! ### What an attention descriptor leaves up to its output rows -/

section
variable {w : Bool} {s u : State} (h : Spares false w s u)
include h

protected theorem Spares.writeKvRow {c bad p} : Spares false w s (writeKvRow u c bad p) := h.verifyRange.integrityAll.writeBytes

protected theorem Spares.writeKvRows {c x ps} : Spares false w s (writeKvRows u c x ps) :=
  h.verifyRange.foldl fun hv => hv.writeKvRow

end

theorem writeNewRows_none {x : AttDesc} (hx : x.writeKv = false) (s : State) (c : CoreId) (fs : List Feed) : writeNewRows s c x fs = s := by
  rw [writeNewRows, if_neg (by simp [hx])]

theorem spares_writeNewRows (s : State) (c : CoreId) (x : AttDesc) (fs : List Feed) : Spares false true s (writeNewRows s c x fs) :=
  (Spares.refl s).writeKvRows.ite (.refl s)

/-- Beside the new rows, operands are read and empty rows are counted. -/
theorem spares_attentionOut {r : Bool} {s : State} {c : CoreId} {x : AttDesc} {fs : List Feed}
    (h : Spares r true s (writeNewRows s c x fs)) (e : QEntry) : Spares r true s (attentionOut s c e x fs).1 :=
  h.verifyAll.integrityAll.integrityAll.fadd

/-! ### What writing results leaves -/

section
variable {r w : Bool} {s u : State} (h : Spares r w s u)
include h

protected theorem Spares.numFlags {c fl} : Spares r w s (numFlags u c fl) :=
  (h.setReg (by simp only [SettingReg, HIF_STATUS, CR_NUM_FLAGS]; omega)).mcTile

protected theorem Spares.addNonfinite {n} : Spares r w s (addNonfinite u n) := h.update

protected theorem Spares.pathParity {c unit rows} : Spares r w s (pathParity u c unit rows).1 := by
  unfold pathParity
  dsimp only
  split
  · exact h.clearErr.integrityEvent
  · exact h

protected theorem Spares.nanRecord {c queue e x} : Spares r w s (nanRecord u c queue e x) :=
  ((h.fset.fset.fset.fset.setReg (by simp only [SettingReg, HIF_STATUS, CR_NAN_BEAT]; omega)).fset.fset.fset).fset.fset

/-- A trap that does not halt. -/
protected theorem Spares.nanTrap {c queue e ws} (hmode : fget u (CR_NAN_CTL c.tile.val c.core.val) f_CR_NAN_CTL_MODE ≠ 2) :
    Spares r w s (nanTrap u c queue e ws) := by
  unfold nanTrap
  dsimp only
  split
  · exact h
  · rw [if_neg hmode]
    exact h.ite (h.fadd.ite (h.takeFree.nanRecord.fadd.post.fireSnapshot.ite h.takeFree.nanRecord.fadd.post))

end

protected theorem Spares.mergeAmax {w : Bool} {s u : State} (h : Spares false w s u) {id v} : Spares false w s (mergeAmax u id v) :=
  h.ite (h.verifyRange.ite h.verifyRange.writeBytes)

/-- The mode of a core's NaN trap is a setting. -/
theorem Spares.nanMode {r w : Bool} {s u : State} (h : Spares r w s u) (c : CoreId) :
    fget u (CR_NAN_CTL c.tile.val c.core.val) f_CR_NAN_CTL_MODE = fget s (CR_NAN_CTL c.tile.val c.core.val) f_CR_NAN_CTL_MODE :=
  fget_congr (h.regs _ (.inr (.inr (by simp only [CR_NAN_CTL]; omega)))) _

theorem Spares.formatAddr_eq {r w : Bool} {s u : State} (h : Spares r w s u) (id : Nat) : formatAddr u id = formatAddr s id :=
  formatAddr_congr (h.regs _ (.inl (by unfold INF_FSTATE_BASE; omega))) id

/-! ### The output rows -/

/-- A parity error on the way poisons the output rows, whose bytes stand. -/
theorem pathParity_bytes (s : State) (c : CoreId) (unit : Nat) (rows : List (Nat × Drained)) :
    (outCells (pathParity s c unit rows).2).map (fun x => (x.1, x.2.1)) = (outCells rows).map fun x => (x.1, x.2.1) := by
  unfold pathParity
  dsimp only
  split
  · simp only [outCells, List.flatMap_map, List.map_flatMap, List.map_map]
    rfl
  · rfl

/-- What a write leaves in memory turns on its addresses and bytes alone. -/
theorem mem_writeCells_congr {r w : Bool} {s u : State} (h : Spares r w s u) (hmem : u.mem = s.mem) (ag : Agent)
    {xs ys : List (Nat × Byte × Bool)} (hxy : xs.map (fun x => (x.1, x.2.1)) = ys.map fun x => (x.1, x.2.1)) :
    (writeCells u ag xs).mem = (writeCells s ag ys).mem := by
  have hkeyed (l : List (Nat × Byte × Bool)) (b : Nat) :
      (((l.map fun x => (keyOf s x.1, x.2)).filter fun x => x.1 / 512 == b).map fun x => (x.1 % 512, x.2.1)) =
        ((l.map fun x => (x.1, x.2.1)).filter fun x => keyOf s x.1 / 512 == b).map fun x => (keyOf s x.1 % 512, x.2) := by
    simp only [List.filter_map, List.map_map]
    rfl
  have hblocks (l : List (Nat × Byte × Bool)) : (l.map fun x => (keyOf s x.1, x.2)).map (fun x => x.1 / 512) =
      (l.map fun x => (x.1, x.2.1)).map fun x => keyOf s x.1 / 512 := by
    simp only [List.map_map]
    rfl
  rw [mem_writeCells, mem_writeCells, hmem]
  simp only [h.keyOf_eq, keyedMem, hkeyed, hblocks, hxy]

/-- Results written over a state whose NaN trap does not halt: the output bytes and the tensor's STEP_AMAX are all of memory that
changes, and the head of the queue waits for its completion pulse. -/
theorem writeResults_spec {s : State} {c : CoreId} (hmode : fget s (CR_NAN_CTL c.tile.val c.core.val) f_CR_NAN_CTL_MODE ≠ 2) (queue : Nat)
    (e : QEntry) (tensor : Nat) (rows : List (Nat × Drained)) (at_ : Nat → Nat → Nat × Nat × Nat) :
    ∃ u, writeResults s c queue e tensor rows at_ = markDone u c queue ∧ Spares false true s u ∧
      ∀ k, (tensor = 0xFFFF ∨ ∀ i < 4, k ≠ keyOf s (formatAddr s tensor + 4 + i)) →
        byteAt u k = byteAt (writeCells s (.tile c.tile false) (outCells rows)) k := by
  unfold writeResults
  extract_lets p s1 rows1 d s2 s3 s4 ws
  have h1 : Spares true true s s1 := (Spares.refl s).pathParity
  have h2 : Spares false true s s2 := h1.onWrites.writeCells
  have hflags : Spares true true s2 (numFlags s2 c d.fl) := (Spares.refl s2).numFlags
  have h3 : Spares false true s s3 := h2.numFlags.mergeAmax
  have h34 : Spares true true s3 s4 := Spares.ite (Spares.refl s3).addNonfinite (.refl s3)
  have h4 : Spares false true s s4 := h3.addNonfinite.ite h3
  have hmode4 : fget s4 (CR_NAN_CTL c.tile.val c.core.val) f_CR_NAN_CTL_MODE ≠ 2 := by rwa [h4.nanMode]
  have htrap : Spares true true s4 (nanTrap s4 c queue e ws) := (Spares.refl s4).nanTrap hmode4
  refine ⟨_, rfl, h4.nanTrap hmode4, fun k hk => ?_⟩
  have hamax : tensor = 0xFFFF ∨ ∀ i < 4, k ≠ keyOf (numFlags s2 c d.fl) (formatAddr (numFlags s2 c d.fl) tensor + 4 + i) := by
    simpa only [h2.numFlags.keyOf_eq, h2.numFlags.formatAddr_eq] using hk
  calc byteAt (nanTrap s4 c queue e ws) k = byteAt s3 k := byteAt_congr ((htrap.mem rfl).trans (h34.mem rfl)) k
    _ = byteAt (numFlags s2 c d.fl) k := byteAt_mergeAmax_ne hamax d.amax
    _ = byteAt s2 k := byteAt_congr (hflags.mem rfl) k
    _ = _ := byteAt_congr (mem_writeCells_congr h1 (h1.mem rfl) _ (pathParity_bytes s c _ rows)) k

/-! ### The walkers retire -/

/-- The end of a core's walkers in one slice. -/
def retireAt (c : CoreId) (s : State) (t : TileId) : State :=
  if (s.slice t).walkers.any fun w => w.core == coreNumber c then
    putSlice s t { s.slice t with walkers := (s.slice t).walkers.filter fun w => w.core != coreNumber c }
  else s

theorem slice_putSlice_ne (s : State) {t u : TileId} (x : Slice) (h : u ≠ t) : (putSlice s t x).slice u = s.slice u := by
  obtain ⟨regs, hp⟩ := putSlice_frame s t x
  rw [hp]
  exact mapGet_mapSet_ne _ _ _ _ fun e => h (Fin.ext e)

theorem retireAt_same (c : CoreId) (s : State) (t : TileId) : ∀ w ∈ ((retireAt c s t).slice t).walkers, w.core ≠ coreNumber c := by
  unfold retireAt
  split
  · rw [slice_putSlice]
    intro w hw
    simpa using (List.mem_filter.1 hw).2
  · next h =>
    intro w hw he
    exact h (List.any_eq_true.2 ⟨w, hw, by simp [he]⟩)

theorem retireAt_ne (c : CoreId) (s : State) {t u : TileId} (h : u ≠ t) : (retireAt c s t).slice u = s.slice u := by
  unfold retireAt
  split
  · exact slice_putSlice_ne s _ h
  · rfl

/-- No walker of the core is left in any slice (R186). -/
theorem retireWalkers_walkers (s : State) (c : CoreId) (u : TileId) :
    ∀ w ∈ ((retireWalkers s c).slice u).walkers, w.core ≠ coreNumber c := by
  have hnone := foldl_reading (l := List.finRange 48) (step := retireAt c) (hits := fun t => t = u) (s := s) (v := True)
    (read := fun v => ∀ w ∈ (v.slice u).walkers, w.core ≠ coreNumber c) (fun v t _ ht => by rw [ht]; exact eq_true (retireAt_same c v u))
    (fun v t _ ht => by rw [retireAt_ne c v (Ne.symm ht)]) (.inl ⟨u, List.mem_finRange u, rfl⟩)
  exact of_eq_true hnone

/-! ### ATTENTION -/

theorem exec_attention {s : State} {c : CoreId} {e : QEntry} {fs : List Feed} (he : attHead s c = some e)
    (hfs : feedsOf s c (parseAtt e.desc) = some fs) (hheld : attHeld s c (parseAtt e.desc) fs = false)
    (hfault : attFaultsAt s c (parseAtt e.desc) fs = none) :
    exec (.attention c) s = .next (retireWalkers (writeResults (attentionOut s c e (parseAtt e.desc) fs).1 c 3 e (parseAtt e.desc).tensor
      (attentionOut s c e (parseAtt e.desc) fs).2 fun r col => laneAt (parseAtt e.desc).dim r col) c) := by
  change execAttention c s = _
  unfold execAttention
  rw [he]
  dsimp only
  rw [hfs]
  refine (if_neg (by simp [hheld])).trans (congrArg Host.Outcome.next ?_)
  unfold runAttention
  rw [hfault]

/-- Settles O30: the operands are read and the new rows written, then the results, and last the walkers retire. -/
theorem attentionWritesItsOutputsAlone : Obligations.AttentionWritesItsOutputsAlone := by
  intro s c e fs hmode he x o hfs hfault hheld
  have hout : Spares false true s o.1 := spares_attentionOut (spares_writeNewRows s c x fs) e
  obtain ⟨u, hu, hframe, hbytes⟩ := writeResults_spec (s := o.1) (c := c) (by rwa [hout.nanMode]) 3 e x.tensor o.2
    fun r col => laneAt x.dim r col
  obtain ⟨seqs, hdone⟩ := markDone_frame u c 3
  have hretire : Spares true false (markDone u c 3) (retireWalkers (markDone u c 3) c) := (Spares.refl _).retireWalkers
  refine ⟨_, exec_attention he hfs hheld hfault, fun k hk => ?_, fun hkv k => ?_, fun t => retireWalkers_walkers _ c t, ?_⟩
  · have hbyte := hbytes k (by simpa only [hout.keyOf_eq, hout.formatAddr_eq] using hk)
    rw [hu, byteAt_congr (hretire.mem rfl), hdone]
    exact hbyte
  · have hrows : Spares true true s (writeNewRows s c x fs) := by
      rw [writeNewRows_none hkv]
      exact .refl s
    have hread : Spares true true s o.1 := spares_attentionOut hrows e
    exact byteAt_congr (hread.mem rfl) k
  · have hsu : Spares false true s u := hout.trans hframe
    rw [hu]
    refine ⟨hretire.seqs.trans (hsu.markDone_seqs c 3), hretire.car.trans ?_, hretire.job.trans ?_⟩
    · rw [hdone]
      exact hsu.car
    · rw [hdone]
      exact hsu.job

end Sys2Proof.Machine
end

section
/-! INVALIDATE on a core's channel drops the lines of its range from the tile's cache and writes nothing (R203, R204). -/

namespace Sys2Proof.Machine

/-! ### Lines that are dropped -/

theorem cached_dropBlock_same (s : State) (t : TileId) (k : Nat) : cached (dropBlock s t k) t k = none := by
  rw [cached, dropBlock, tile_setTile, Option.map_eq_none_iff, List.find?_eq_none]
  intro p hp
  simpa using (List.mem_filter.1 hp).2

/-- To drop a block brings no other into the cache. -/
theorem cached_dropBlock_none {s : State} {t : TileId} {b : Nat} (h : cached s t b = none) (k : Nat) :
    cached (dropBlock s t k) t b = none := by
  rw [cached, Option.map_eq_none_iff, List.find?_eq_none] at h
  rw [cached, dropBlock, tile_setTile, Option.map_eq_none_iff, List.find?_eq_none]
  exact fun p hp => h p (List.mem_of_mem_filter hp)

/-- The lines of a list of addresses, one after the other, leave the cache. -/
def dropLines (s : State) (t : TileId) (as : List Nat) : State := as.foldl (fun s a => dropBlock s t (keyOf s a / 512)) s

theorem dropLines_spec (t : TileId) (as : List Nat) (s : State) :
    (∃ ts, dropLines s t as = { s with tiles := ts }) ∧
      (∀ b, cached s t b = none → cached (dropLines s t as) t b = none) ∧
      ∀ a ∈ as, cached (dropLines s t as) t (keyOf s a / 512) = none := by
  induction as generalizing s with
  | nil => exact ⟨⟨_, rfl⟩, fun _ h => h, nofun⟩
  | cons a as ih =>
    obtain ⟨⟨ts, hframe⟩, hgone, hnone⟩ := ih (dropBlock s t (keyOf s a / 512))
    refine ⟨⟨ts, hframe⟩, fun b hb => hgone b (cached_dropBlock_none hb _), fun b hb => ?_⟩
    rcases List.mem_cons.1 hb with rfl | hb
    · exact hgone _ (cached_dropBlock_same s t _)
    · exact hnone b hb

/-- What an invalidate descriptor drops: every line where SIZE is 0, else those of its range (R203). -/
def dropRangeOf (s : State) (t : TileId) (d : List Byte) : State :=
  if field d 16 8 = 0 then dropAll s t else dropLines s t (blocksOf (bitsAt (field d 8 8) 0 56) (field d 16 8))

theorem dropRangeOf_frame (s : State) (t : TileId) (d : List Byte) : ∃ ts, dropRangeOf s t d = { s with tiles := ts } := by
  unfold dropRangeOf
  split
  · exact ⟨_, rfl⟩
  · exact (dropLines_spec t _ s).1

theorem dropRangeOf_all {s : State} {t : TileId} {d : List Byte} (h : field d 16 8 = 0) : ((dropRangeOf s t d).tile t).cache = [] := by
  rw [dropRangeOf, if_pos h, dropAll, tile_setTile]

theorem cached_dropRangeOf (s : State) (t : TileId) (d : List Byte) {b : Nat}
    (hb : b ∈ blocksOf (bitsAt (field d 8 8) 0 56) (field d 16 8)) : cached (dropRangeOf s t d) t (keyOf s b / 512) = none := by
  unfold dropRangeOf
  split
  · next h => simp [blocksOf, h] at hb
  · obtain ⟨-, -, hnone⟩ := dropLines_spec t (blocksOf (bitsAt (field d 8 8) 0 56) (field d 16 8)) s
    exact hnone b hb

/-! ### The descriptor -/

/-- The channel of a core (R226). -/
def coreChannel (c : CoreId) : Engine := .tile c.tile ⟨c.core.val, by omega⟩

theorem chCore_coreChannel (c : CoreId) : chCore (coreChannel c) = some c := dif_pos c.core.isLt

/-- The completion of an invalidate descriptor leaves its channel idle and its queue's head waiting for the pulse (R204). -/
theorem completeDesc_invalidate {e : Engine} {c : CoreId} {d : List Byte} (hc : chCore e = some c) (hop : field d 0 1 = 0x30) (s : State)
    (a bytes : Nat) : ∃ x : Chan, completeDesc s e a d bytes = headDone ((counted s e a bytes false).setChan e x) c d ∧ x.cur = none := by
  simp only [completeDesc, hop, hc, Nat.reduceBEq, Bool.false_and, Bool.false_eq_true, ↓reduceIte]
  exact ⟨_, rfl, rfl⟩

theorem headDone_tiles (s : State) (c : CoreId) (d : List Byte) : (headDone s c d).tiles = s.tiles := by
  unfold headDone
  split <;> rfl

theorem tiles_fset (s : State) (a : Nat) (f : Fld) (v : Nat) : (fset s a f v).tiles = s.tiles := (keepsUnits_fset s a f v).2.1

theorem tiles_counted (s : State) (e : Engine) (a bytes : Nat) (busy : Bool) : (counted s e a bytes busy).tiles = s.tiles := by
  unfold counted chBusy chRead
  iterate 4 rw [tiles_fset]

theorem cached_congr {s u : State} (h : u.tiles = s.tiles) (t : TileId) (b : Nat) : cached u t b = cached s t b := by
  rw [cached, State.tile, h, ← State.tile, ← cached]

/-- The descriptor that a core's channel starts as an invalidate is one, and runs on the state that its start leaves. -/
theorem exec_invalidate {s u : State} {c : CoreId} {a : Nat} {d rec_ : List Byte}
    (hcur : currentOf s (coreChannel c) 0x30 = some (a, d, rec_)) (hheld : descHeld s (coreChannel c) a d = false)
    (hsound : faulty s (.channel (chanKey (coreChannel c))) = false) (hstart : startDesc s (coreChannel c) a d = ([], u)) :
    field d 0 1 = 0x30 ∧ exec (.invalidate c) s = .next (completeDesc (dropRangeOf u c.tile d) (coreChannel c) a d 0) := by
  have hop : field d 0 1 = 0x30 := by
    have h := hcur
    rw [currentOf, Option.filter_eq_some_iff] at h
    simpa using h.2
  have hrecords : recordsRetired s d = false := by simp [recordsRetired, hop]
  refine ⟨hop, ?_⟩
  change execInvalidate c s = _
  simp only [coreChannel] at hcur hheld hsound hstart
  simp only [execInvalidate, hcur, hheld, withDesc, hsound, hrecords, hstart, Bool.false_eq_true, List.isEmpty_nil, ↓reduceIte]
  rfl

/-- Settles O35: the descriptor's start keeps memory and queues, the lines of its range are dropped, and its completion is counted. -/
theorem invalidateDropsTheLinesOfItsRange : Obligations.InvalidateDropsTheLinesOfItsRange := by
  intro s u c ch a d rec_ hch e hcur hheld hsound hstart
  have he : e = coreChannel c := congrArg (Engine.tile c.tile) (Fin.ext hch)
  clear_value e
  subst he
  obtain ⟨hop, hexec⟩ := exec_invalidate hcur hheld hsound hstart
  have hread : ReadFrame (coreChannel c) s u := by
    have := readFrame_startDesc s (coreChannel c) a d
    rwa [hstart] at this
  obtain ⟨ts, hdrop⟩ := dropRangeOf_frame u c.tile d
  obtain ⟨x, hdone, hidle⟩ := completeDesc_invalidate (chCore_coreChannel c) hop (dropRangeOf u c.tile d) a 0
  generalize hw : (counted (dropRangeOf u c.tile d) (coreChannel c) a 0 false).setChan (coreChannel c) x = w at hdone
  have htiles : (headDone w c d).tiles = (dropRangeOf u c.tile d).tiles := by
    rw [headDone_tiles, ← hw, State.setChan_tiles, tiles_counted]
  have hmem : w.mem = s.mem := by rw [← hw, State.setChan_mem, mem_counted, hdrop, hread.mem]
  have hseqs : w.seqs = s.seqs := by rw [← hw, State.setChan_seqs, seqs_counted, hdrop, hread.seqs]
  obtain ⟨-, hheadMem, hheadChans⟩ := headDone_keeps w c d
  refine ⟨_, hexec, fun hall => ?_, fun b hb => ?_, ?_, ?_, fun h tl hq => ?_⟩ <;> rw [hdone]
  · rw [State.tile, htiles, ← State.tile]
    exact dropRangeOf_all hall
  · rw [cached_congr htiles, ← keyOf_congr hread.mode]
    exact cached_dropRangeOf u c.tile d hb
  · rw [hheadMem, hmem]
  · rw [chan_congr hheadChans, ← hw]
    exact (congrArg Chan.cur (chan_setChan _ _ x)).trans hidle
  · exact queue_headDone w c d (by rw [seq_congr hseqs, hq])

end Sys2Proof.Machine
end

section
/-! Heat and maintenance windows of the memory devices (R213, R216, R218, R392, R413, Table MEM-7). -/

namespace Sys2Proof.Machine

/-! ### Frames, one after the other -/

theorem KeepsMemory.trans {s u v : State} : KeepsMemory s u → KeepsMemory u v → KeepsMemory s v :=
  fun ⟨hm, he, hr⟩ ⟨hm', he', hr'⟩ => ⟨hm'.trans hm, he'.trans he, hr'.trans hr⟩

theorem KeepsUnits.trans {s u v : State} : KeepsUnits s u → KeepsUnits u v → KeepsUnits s v :=
  fun ⟨hq, ht, hs, hp, hm, hc⟩ ⟨hq', ht', hs', hp', hm', hc'⟩ =>
    ⟨hq'.trans hq, ht'.trans ht, hs'.trans hs, hp'.trans hp, hm'.trans hm, hc'.trans hc⟩

theorem KeepsJob.trans {s u v : State} : KeepsJob s u → KeepsJob u v → KeepsJob s v :=
  fun ⟨hj, hc, hs, hr⟩ ⟨hj', hc', hs', hr'⟩ => ⟨hj'.trans hj, hc'.trans hc, hs'.trans hs, hr'.trans hr⟩

/-- At most one register differs. -/
def OnlyReg (r : Nat) (s t : State) : Prop := OnlyRegs s t ∧ KeepsRegsBut [r] s t

theorem OnlyReg.refl (r : Nat) (s : State) : OnlyReg r s s := ⟨.refl s, fun _ _ => rfl⟩

section
variable {r : Nat} {s t : State} (h : OnlyReg r s t)
include h

protected theorem OnlyReg.fset {f : Fld} {v : Nat} : OnlyReg r s (fset t r f v) :=
  ⟨h.1.fset, fun a ha => (keepsRegsBut_fset t r f v a ha).trans (h.2 a ha)⟩

protected theorem OnlyReg.ite {u : State} (hu : OnlyReg r s u) {p : Prop} [Decidable p] : OnlyReg r s (if p then t else u) := by
  split
  · exact h
  · exact hu

theorem OnlyReg.reg {a : Nat} (ha : a ≠ r) : t.reg a = s.reg a := h.2 a (by simpa using ha)

theorem OnlyReg.devs : t.devs = s.devs := by
  obtain ⟨⟨_, rfl⟩, -⟩ := h
  rfl

theorem OnlyReg.flash : t.flash = s.flash := by
  obtain ⟨⟨_, rfl⟩, -⟩ := h
  rfl

theorem OnlyReg.beat : t.beat = s.beat := by
  obtain ⟨⟨_, rfl⟩, -⟩ := h
  rfl

theorem OnlyReg.keepsMemory : KeepsMemory s t := by
  obtain ⟨⟨_, rfl⟩, -⟩ := h
  exact ⟨rfl, rfl, rfl⟩

theorem OnlyReg.keepsUnits : KeepsUnits s t := by
  obtain ⟨⟨_, rfl⟩, -⟩ := h
  exact ⟨rfl, rfl, rfl, rfl, rfl, rfl⟩

theorem OnlyReg.keepsJob : KeepsJob s t := by
  obtain ⟨⟨_, rfl⟩, -⟩ := h
  exact ⟨rfl, rfl, rfl, rfl⟩

end

theorem dev_congr {s t : State} (h : t.devs = s.devs) (d : MemDev) : t.dev d = s.dev d := by rw [State.dev, h, ← State.dev]

/-! ### Notes of events and the sensor hub -/

/-- Events were noted: messages, alerts, the event log, the sensors and snapshot triggers may differ, and registers from the management
block on, none of a memory device. -/
def Noticed (s u : State) : Prop := NoteFrame s u ∧ ∀ a < 0x900000, u.reg a = s.reg a

theorem Noticed.refl (s : State) : Noticed s s := ⟨.refl s, fun _ _ => rfl⟩

section
variable {s u : State} (h : Noticed s u)
include h

protected theorem Noticed.trans {v : State} (h' : Noticed u v) : Noticed s v :=
  ⟨h.1.trans h'.1, fun a ha => (h'.2 a ha).trans (h.2 a ha)⟩

protected theorem Noticed.ite {v : State} (hv : Noticed s v) {p : Prop} [Decidable p] : Noticed s (if p then u else v) := by
  split
  · exact h
  · exact hv

/-- One proof for a state that several places name. -/
protected theorem Noticed.use {p : Prop} (k : Noticed s u → p) : p := k h

protected theorem Noticed.mgr {mgr : Manager} : Noticed s { u with mgr := mgr } :=
  h.trans ⟨⟨_, _, _, _, _, _, _, rfl⟩, fun a _ => reg_setMgr u mgr a⟩

protected theorem Noticed.emit {m : OutMsg} : Noticed s (emit u m) := h.trans ⟨⟨_, _, _, _, _, _, _, rfl⟩, fun a _ => reg_emit u m a⟩

protected theorem Noticed.raiseAlert {f : Fld} : Noticed s (raiseAlert u f) := by
  have := noted_notes u
  have hnotes : Notes u (Machine.raiseAlert u f) := State.Has.raiseAlert (I := Notes u) ⟨.refl u, fun _ _ => rfl⟩
  exact h.trans ⟨hnotes.1, fun a ha => reg_raiseAlert ha f⟩

protected theorem Noticed.post {k : EventKind} {unit data : Nat} : Noticed s (post u k unit data) :=
  h.trans ⟨(notes_post u k unit data).1, fun _ ha => reg_post ha k unit data⟩

protected theorem Noticed.platformEvent {i : Nat} {v : Int} : Noticed s (platformEvent u i v) := by
  unfold platformEvent
  split
  · exact h
  · exact h.emit.ite h.mgr

protected theorem Noticed.crossOne {i : Nat} {v : Int} {k : Fin 3} : Noticed s (crossOne u i v k) :=
  (h.mgr.ite h).ite ((h.mgr.post.platformEvent.use fun h1 => h1.raiseAlert.ite h1).ite h)

protected theorem Noticed.hubReading {i : Nat} {value : Option Int} : Noticed s (hubReading u i value) := by
  unfold hubReading
  dsimp only
  split
  · exact h.mgr.raiseAlert.ite h.mgr
  · exact List.foldlRecOn (motive := Noticed s) _ _ h.mgr fun _ hv _ _ => hv.crossOne

omit h in
protected theorem Noticed.hubReadings {i : Nat} {vs : List (Option Int)} (h : Noticed s u) : Noticed s (hubReadings u i vs) := by
  induction vs generalizing u i with
  | nil => exact h
  | cons v vs ih => exact ih h.hubReading

end

/-! ### The level of a device (R213, Table MEM-7) -/

/-- The level that a reading reaches upward, and the highest that it lets stand. -/
def levelUp (temp : Nat) : Nat := if temp > 105 then 3 else if temp > 95 then 2 else if temp > 85 then 1 else 0
def levelDown (temp : Nat) : Nat := if temp ≤ 82 then 0 else if temp ≤ 92 then 1 else if temp ≤ 100 then 2 else 3

theorem levelUp_le_levelDown (temp : Nat) : levelUp temp ≤ levelDown temp := by
  unfold levelUp levelDown
  split_ifs <;> omega

/-- The bounds are in order, so the next level is the old one brought between them. -/
theorem nextLevel_eq (cur temp : Nat) : nextLevel cur temp = max (levelUp temp) (min cur (levelDown temp)) := by
  have := levelUp_le_levelDown temp
  change (if levelUp temp > cur then levelUp temp else min cur (levelDown temp)) = _
  split <;> omega

theorem nextLevel_lt (cur temp : Nat) : nextLevel cur temp < 4 := by
  have hup : levelUp temp ≤ 3 := by unfold levelUp; split_ifs <;> omega
  have hdown : levelDown temp ≤ 3 := by unfold levelDown; split_ifs <;> omega
  rw [nextLevel_eq]
  omega

/-! ### A reading -/

/-- What a reading shows in its device's register: the temperature, the peak and the level. -/
def shownReading (s : State) (d : MemDev) (temp : Nat) : State :=
  fset (fset (fset s (devTemp d) f_HBM_TEMP_TEMP temp) (devTemp d) f_HBM_TEMP_PEAK (max (fget s (devTemp d) f_HBM_TEMP_PEAK) temp))
    (devTemp d) f_HBM_TEMP_LEVEL (nextLevel (fget s (devTemp d) f_HBM_TEMP_LEVEL) temp)

/-- A device has taken a reading, by its register. -/
def TookReading (s t : State) (d : MemDev) (temp : Nat) : Prop :=
  fget t (devTemp d) f_HBM_TEMP_TEMP = temp ∧ fget t (devTemp d) f_HBM_TEMP_PEAK = max (fget s (devTemp d) f_HBM_TEMP_PEAK) temp ∧
  fget t (devTemp d) f_HBM_TEMP_LEVEL = nextLevel (fget s (devTemp d) f_HBM_TEMP_LEVEL) temp ∧
  (fget s (devTemp d) f_HBM_TEMP_LEVEL < 3 → temp > 105 → fbit t (devTemp d) f_HBM_TEMP_FAULT = true)

theorem TookReading.congr {s s' t t' : State} {d : MemDev} {temp : Nat} (h : TookReading s t d temp)
    (hs : s.reg (devTemp d) = s'.reg (devTemp d)) (ht : t'.reg (devTemp d) = t.reg (devTemp d)) : TookReading s' t' d temp := by
  simpa only [TookReading, fbit, fget_congr ht, fget_congr hs] using h

/-- What a reading leaves: the registers of base dies and tiles but the device's own, memory, the units, the job and the step controller. -/
structure HeatFrame (d : MemDev) (s t : State) : Prop where
  regs : ∀ a < 0x900000, a ≠ devTemp d → t.reg a = s.reg a
  memory : KeepsMemory s t
  units : KeepsUnits s t
  job : t.job = s.job
  stp : t.stp = s.stp

theorem devTemp_lt (d : MemDev) : devTemp d < 0x900000 := by
  cases d <;> simp only [devTemp, HBM_TEMP, DTR_TEMP] <;> omega

theorem fget_shownReading (s : State) (d : MemDev) {temp : Nat} (h : temp < 256) :
    fget (shownReading s d temp) (devTemp d) f_HBM_TEMP_TEMP = temp ∧
    fget (shownReading s d temp) (devTemp d) f_HBM_TEMP_PEAK = max (fget s (devTemp d) f_HBM_TEMP_PEAK) temp ∧
    fget (shownReading s d temp) (devTemp d) f_HBM_TEMP_LEVEL = nextLevel (fget s (devTemp d) f_HBM_TEMP_LEVEL) temp := by
  have hpeak : fget s (devTemp d) f_HBM_TEMP_PEAK < 2 ^ 8 := bitsAt_lt _ _ _
  unfold shownReading
  refine ⟨?_, ?_, ?_⟩
  · rw [fget_fset_other _ _ _ (by decide) (by decide), fget_fset_other _ _ _ (by decide) (by decide), fget_fset_same _ _ _ _ (by decide)]
    exact Nat.mod_eq_of_lt h
  · rw [fget_fset_other _ _ _ (by decide) (by decide), fget_fset_same _ _ _ _ (by decide)]
    exact Nat.mod_eq_of_lt (max_lt hpeak h)
  · rw [fget_fset_same _ _ _ _ (by decide)]
    exact Nat.mod_eq_of_lt (nextLevel_lt _ _)

/-- The register after a reading: level 3, newly reached, also sets FAULT (R216). -/
def heatedReg (s : State) (d : MemDev) (temp : Nat) : State :=
  if nextLevel (fget s (devTemp d) f_HBM_TEMP_LEVEL) temp ≠ fget s (devTemp d) f_HBM_TEMP_LEVEL ∧
      nextLevel (fget s (devTemp d) f_HBM_TEMP_LEVEL) temp = 3 then
    fset (shownReading s d temp) (devTemp d) f_HBM_TEMP_FAULT 1
  else shownReading s d temp

theorem onlyReg_heatedReg (s : State) (d : MemDev) (temp : Nat) : OnlyReg (devTemp d) s (heatedReg s d temp) :=
  have h : OnlyReg (devTemp d) s (shownReading s d temp) := (OnlyReg.refl _ s).fset.fset.fset
  h.fset.ite h

theorem tookReading_heatedReg (s : State) (d : MemDev) {temp : Nat} (h : temp < 256) : TookReading s (heatedReg s d temp) d temp := by
  obtain ⟨htemp, hpeak, hlevel⟩ := fget_shownReading s d h
  have hkept (f : Fld) (hf : f.lo + f.width ≤ 24) : fget (heatedReg s d temp) (devTemp d) f = fget (shownReading s d temp) (devTemp d) f := by
    unfold heatedReg
    split
    · exact fget_fset_other _ _ _ (by decide) (.inl hf)
    · rfl
  refine ⟨(hkept _ (by decide)).trans htemp, (hkept _ (by decide)).trans hpeak, (hkept _ (by decide)).trans hlevel, fun hlow hhot => ?_⟩
  have hthree : nextLevel (fget s (devTemp d) f_HBM_TEMP_LEVEL) temp = 3 := by
    have hup : levelUp temp = 3 := if_pos hhot
    have := nextLevel_lt (fget s (devTemp d) f_HBM_TEMP_LEVEL) temp
    rw [nextLevel_eq] at this ⊢
    omega
  rw [heatedReg, if_pos ⟨by omega, hthree⟩]
  exact fbit_fset_one _ _ _ (by decide)

/-- A reading whose level is new is noted, and the device remembers when it came to level 3. -/
theorem takeReading_eq (s : State) (d : MemDev) (temp : Nat) :
    takeReading s d temp = heatedReg s d temp ∨ ∃ u x data, Noticed (heatedReg s d temp) u ∧
      takeReading s d temp = markPhases (post (u.setDev d x) .thermalLevel (devUnit d) data) 0 := by
  by_cases hnew : nextLevel (fget s (devTemp d) f_HBM_TEMP_LEVEL) temp = fget s (devTemp d) f_HBM_TEMP_LEVEL
  · left
    rw [heatedReg, if_neg fun h => h.1 hnew]
    exact if_pos hnew
  · refine .inr ⟨_, _, _, ?_, if_neg hnew⟩
    unfold heatedReg
    by_cases hthree : nextLevel (fget s (devTemp d) f_HBM_TEMP_LEVEL) temp = 3
    · rw [if_pos ⟨hnew, hthree⟩, if_pos hthree]
      exact (Noticed.refl _).raiseAlert
    · rw [if_neg fun h => hthree h.2, if_neg hthree]
      exact .refl _

/-- A reading's notes leave the register as the reading has set it, memory, the units, the job and the step controller. -/
theorem takeReading_frame (s : State) (d : MemDev) (temp : Nat) :
    (∀ a < 0x900000, (takeReading s d temp).reg a = (heatedReg s d temp).reg a) ∧ HeatFrame d s (takeReading s d temp) := by
  have hheated := onlyReg_heatedReg s d temp
  obtain ⟨hjob, -, hstp, -⟩ := hheated.keepsJob
  rcases takeReading_eq s d temp with he | ⟨u, x, data, hu, he⟩ <;> rw [he]
  · exact ⟨fun _ _ => rfl, fun a _ ha => hheated.reg ha, hheated.keepsMemory, hheated.keepsUnits, hjob, hstp⟩
  · have hpost : Noticed (u.setDev d x) (post (u.setDev d x) .thermalLevel (devUnit d) data) := (Noticed.refl _).post
    have hreg (a : Nat) (ha : a < 0x900000) :
        (markPhases (post (u.setDev d x) .thermalLevel (devUnit d) data) 0).reg a = (heatedReg s d temp).reg a :=
      (reg_congr rfl a).trans ((hpost.2 a ha).trans (hu.2 a ha))
    obtain ⟨hujob, -, hustp, -⟩ := hu.1.keepsJob
    obtain ⟨hpjob, -, hpstp, -⟩ := hpost.1.keepsJob
    exact ⟨hreg, fun a ha hne => (hreg a ha).trans (hheated.reg hne),
      (hheated.keepsMemory.trans hu.1.keepsMemory).trans hpost.1.keepsMemory,
      (hheated.keepsUnits.trans hu.1.keepsUnits).trans hpost.1.keepsUnits,
      hpjob.trans (hujob.trans hjob), hpstp.trans (hustp.trans hstp)⟩

theorem takeReading_took (s : State) (d : MemDev) {temp : Nat} (h : temp < 256) : TookReading s (takeReading s d temp) d temp :=
  (tookReading_heatedReg s d h).congr rfl ((takeReading_frame s d temp).1 _ (devTemp_lt d))

/-! ### THERMAL_READING -/

/-- The readings of a base die reach the hub first, which leaves the devices' registers, then its stack and its two packages. -/
theorem exec_thermalReading {s : State} (happ : s.pwr.applied = true) (h : StackId) (x y z : Byte) : ∃ u, Noticed s u ∧
    exec (.thermalReading h x y z) s =
      .next (takeReading (takeReading (takeReading u (.stack h) x.toNat) (.package h 0) y.toNat) (.package h 1) z.toNat) :=
  ⟨_, (Noticed.refl s).hubReadings.hubReadings, if_pos happ⟩

theorem thermalReading_spec {s : State} (happ : s.pwr.applied = true) (h : StackId) (x y z : Byte) :
    ∃ t, exec (.thermalReading h x y z) s = .next t ∧
      TookReading s t (.stack h) x.toNat ∧ TookReading s t (.package h 0) y.toNat ∧ TookReading s t (.package h 1) z.toNat ∧
      KeepsMemory s t ∧ KeepsUnits s t ∧ t.job = s.job ∧ t.stp = s.stp := by
  obtain ⟨u, hu, he⟩ := exec_thermalReading happ h x y z
  have hdiff : devTemp (.stack h) ≠ devTemp (.package h 0) ∧ devTemp (.stack h) ≠ devTemp (.package h 1) ∧
      devTemp (.package h 0) ≠ devTemp (.package h 1) := by
    simp only [devTemp, HBM_TEMP, DTR_TEMP, Fin.val_zero, Fin.val_one]
    omega
  obtain ⟨h01, h02, h12⟩ := hdiff
  have took1 := takeReading_took u (.stack h) x.isLt
  obtain ⟨-, f1⟩ := takeReading_frame u (.stack h) x.toNat
  generalize takeReading u (.stack h) x.toNat = t1 at *
  have took2 := takeReading_took t1 (.package h 0) y.isLt
  obtain ⟨-, f2⟩ := takeReading_frame t1 (.package h 0) y.toNat
  generalize takeReading t1 (.package h 0) y.toNat = t2 at *
  have took3 := takeReading_took t2 (.package h 1) z.isLt
  obtain ⟨-, f3⟩ := takeReading_frame t2 (.package h 1) z.toNat
  generalize takeReading t2 (.package h 1) z.toNat = t3 at *
  obtain ⟨hjob, -, hstp, -⟩ := hu.1.keepsJob
  have hold (d : MemDev) : u.reg (devTemp d) = s.reg (devTemp d) := hu.2 _ (devTemp_lt d)
  refine ⟨t3, he, took1.congr (hold _) ?_, took2.congr ?_ ?_, took3.congr ?_ rfl,
    ((hu.1.keepsMemory.trans f1.memory).trans f2.memory).trans f3.memory, ((hu.1.keepsUnits.trans f1.units).trans f2.units).trans f3.units,
    f3.job.trans (f2.job.trans (f1.job.trans hjob)), f3.stp.trans (f2.stp.trans (f1.stp.trans hstp))⟩
  · rw [f3.regs _ (devTemp_lt _) h02, f2.regs _ (devTemp_lt _) h01]
  · rw [f1.regs _ (devTemp_lt _) h01.symm, hold]
  · rw [f3.regs _ (devTemp_lt _) h12]
  · rw [f2.regs _ (devTemp_lt _) h12.symm, f1.regs _ (devTemp_lt _) h02.symm, hold]

/-! ### HALT_LIMIT_EXPIRE -/

theorem exec_haltLimitExpire {s : State} {d : MemDev} {b : Nat} (h : (s.dev d).level3 = some b) :
    exec (.haltLimitExpire d) s =
      .next (if s.now > b + fget s (HBM_THERM_CTL (devDie d).val) f_HBM_THERM_CTL_HALT_LIMIT * beatsPerMs then beginShutdown s 6 else s) := by
  change execHaltLimitExpire d s = _
  rw [execHaltLimitExpire, h]

/-! ### MAINT_ARM -/

theorem devMaint_lt (d : MemDev) : devMaint d < 0x900000 := by
  cases d <;> simp only [devMaint, HBM_MAINT, DTR_MAINT] <;> omega

/-- Devices have maintenance registers of their own. -/
theorem devMaint_ne {d x : MemDev} (h : x ≠ d) : devMaint x ≠ devMaint d := by
  rintro he
  refine h ?_
  cases d <;> cases x <;>
    simp only [devMaint, HBM_MAINT, DTR_MAINT, MemDev.stack.injEq, MemDev.package.injEq, Fin.ext_iff, reduceCtorEq] at he ⊢ <;> omega

theorem mem_allDevices (d : MemDev) : d ∈ allDevices := by
  cases d with
  | stack h => exact List.mem_flatMap.2 ⟨h, List.mem_finRange h, by simp⟩
  | package h k =>
    refine List.mem_flatMap.2 ⟨h, List.mem_finRange h, ?_⟩
    fin_cases k <;> simp

theorem windowStart_congr {s t : State} (hcar : t.car = s.car) (hbeat : t.beat = s.beat) (hreg : ∀ a, 0x900000 ≤ a → t.reg a = s.reg a)
    (start : Nat) : windowStart t start = windowStart s start := by
  have hbase : t.reg TBU_EPOCH_BASE = s.reg TBU_EPOCH_BASE := hreg _ (by decide)
  have hperiod : stepPeriod t = stepPeriod s := fget_congr (hreg _ (by decide)) _
  have hheld : heldChange t = heldChange s := by
    rw [heldChange, heldChange, fget_congr (hreg _ (by decide)), fget_congr (hreg _ (by decide))]
  have hchanges : periodChanges t = periodChanges s := by rw [periodChanges, periodChanges, hheld, hcar]
  simp only [windowStart, State.now, epochOf, stepOn, hcar, hbeat, hbase, hperiod, hchanges]

/-- What other devices and the carousel say decides whether a window may be armed, not the device's own register. -/
theorem armAllowed_congr {s t : State} {d : MemDev} (h : OnlyReg (devMaint d) s t) (start : Nat) :
    armAllowed t d start = armAllowed s d start := by
  have hhigh (a : Nat) (ha : 0x900000 ≤ a) : t.reg a = s.reg a := h.reg fun e => absurd (devMaint_lt d) (by omega)
  obtain ⟨-, hcar, -, -⟩ := h.keepsJob
  have htaken (x : MemDev) : (x != d && windowTaken t x) = (x != d && windowTaken s x) := by
    by_cases hx : x = d
    · simp [hx]
    · rw [windowTaken, windowTaken, fbit_congr (h.reg (devMaint_ne hx)), dev_congr h.devs]
  have hheld : held t = held s := fbit_congr (hhigh _ (by decide)) _
  simp only [armAllowed, htaken, dev_congr h.devs, windowStart_congr hcar h.beat hhigh, hcar, hheld]

theorem armAllowed_of_taken {s : State} {d x : MemDev} (hx : x ≠ d) (h : windowTaken s x = true) (start : Nat) :
    armAllowed s d start = false := by
  have hany : (allDevices.any fun x => x != d && windowTaken s x) = true := List.any_eq_true.2 ⟨x, mem_allDevices x, by simp [hx, h]⟩
  simp [armAllowed, hany]

theorem armAllowed_of_no_phase {s : State} (hrun : s.car.running = true) (hheld : held s = false)
    (h : ∀ e ∈ s.car.entries, windowPhase e = false) (d : MemDev) (start : Nat) : armAllowed s d start = false := by
  have hany : s.car.entries.any windowPhase = false := by simpa using h
  simp [armAllowed, hany, hrun, hheld]

/-- What a write of a maintenance register shows before it may arm a window. -/
def maintShown (s : State) (d : MemDev) (v : Nat) : State :=
  let m := devMaint d
  let s := fset (fset (fset s m f_HBM_MAINT_CHANNEL (bitsAt v 0 5)) m f_HBM_MAINT_KIND (bitsAt v 5 2)) m f_HBM_MAINT_START (bitsAt v 32 32)
  let s := if bitAt v 8 then fset s m f_HBM_MAINT_DONE 0 else s
  if bitAt v 9 then fset s m f_HBM_MAINT_INCOMPLETE 0 else s

theorem onlyReg_maintShown (s : State) (d : MemDev) (v : Nat) : OnlyReg (devMaint d) s (maintShown s d v) := by
  have h : OnlyReg (devMaint d) s (fset (fset (fset s (devMaint d) f_HBM_MAINT_CHANNEL (bitsAt v 0 5)) (devMaint d) f_HBM_MAINT_KIND
    (bitsAt v 5 2)) (devMaint d) f_HBM_MAINT_START (bitsAt v 32 32)) := (OnlyReg.refl _ s).fset.fset.fset
  exact (h.fset.ite h).fset.ite (h.fset.ite h)

/-- The fields that the write names read as written, and ARM as before. -/
theorem fget_maintShown (s : State) (d : MemDev) (v : Nat) :
    fget (maintShown s d v) (devMaint d) f_HBM_MAINT_CHANNEL = bitsAt v 0 5 ∧
    fget (maintShown s d v) (devMaint d) f_HBM_MAINT_KIND = bitsAt v 5 2 ∧
    fget (maintShown s d v) (devMaint d) f_HBM_MAINT_START = bitsAt v 32 32 ∧
    fbit (maintShown s d v) (devMaint d) f_HBM_MAINT_ARM = fbit s (devMaint d) f_HBM_MAINT_ARM := by
  have hclear (u : State) (b : Bool) (f g : Fld) (hf : f.lo + f.width ≤ 64) (hd : g.lo + g.width ≤ f.lo ∨ f.lo + f.width ≤ g.lo) :
      fget (if b then fset u (devMaint d) f 0 else u) (devMaint d) g = fget u (devMaint d) g := by
    split
    · exact fget_fset_other _ _ _ hf hd
    · rfl
  unfold maintShown
  dsimp only
  refine ⟨?_, ?_, ?_, ?_⟩
  · rw [hclear _ _ _ _ (by decide) (by decide), hclear _ _ _ _ (by decide) (by decide), fget_fset_other _ _ _ (by decide) (by decide),
      fget_fset_other _ _ _ (by decide) (by decide), fget_fset_same _ _ _ _ (by decide)]
    exact Nat.mod_eq_of_lt (bitsAt_lt v 0 5)
  · rw [hclear _ _ _ _ (by decide) (by decide), hclear _ _ _ _ (by decide) (by decide), fget_fset_other _ _ _ (by decide) (by decide),
      fget_fset_same _ _ _ _ (by decide)]
    exact Nat.mod_eq_of_lt (bitsAt_lt v 5 2)
  · rw [hclear _ _ _ _ (by decide) (by decide), hclear _ _ _ _ (by decide) (by decide), fget_fset_same _ _ _ _ (by decide)]
    exact Nat.mod_eq_of_lt (bitsAt_lt v 32 32)
  · rw [fbit, hclear _ _ _ _ (by decide) (by decide), hclear _ _ _ _ (by decide) (by decide), fget_fset_other _ _ _ (by decide) (by decide),
      fget_fset_other _ _ _ (by decide) (by decide), fget_fset_other _ _ _ (by decide) (by decide), ← fbit]

/-- Firmware's write shows its fields, and arms the window where that is asked for and allowed (R218, R392). -/
theorem exec_maintArm (s : State) (d : MemDev) (v : Word) : exec (.maintArm .firmware d v) s =
    .next (if bitAt v.toNat 7 && bitsAt v.toNat 5 2 != 3 && armAllowed s d (bitsAt v.toNat 32 32) then
      fset (maintShown s d v.toNat) (devMaint d) f_HBM_MAINT_ARM 1 else maintShown s d v.toNat) := by
  rw [← armAllowed_congr (onlyReg_maintShown s d v.toNat)]
  exact congrArg Host.Outcome.next (guardedWrite_firmware s (devMaint d) none _)

theorem maintArm_spec (s : State) (d : MemDev) (v : Word) : ∃ t, exec (.maintArm .firmware d v) s = .next t ∧
    OnlyReg (devMaint d) s t ∧
    fget t (devMaint d) f_HBM_MAINT_CHANNEL = bitsAt v.toNat 0 5 ∧ fget t (devMaint d) f_HBM_MAINT_KIND = bitsAt v.toNat 5 2 ∧
    fget t (devMaint d) f_HBM_MAINT_START = bitsAt v.toNat 32 32 ∧
    fbit t (devMaint d) f_HBM_MAINT_ARM = (fbit s (devMaint d) f_HBM_MAINT_ARM ||
      (bitAt v.toNat 7 && bitsAt v.toNat 5 2 != 3 && armAllowed s d (bitsAt v.toNat 32 32))) := by
  have hframe := onlyReg_maintShown s d v.toNat
  obtain ⟨hchannel, hkind, hstart, harm⟩ := fget_maintShown s d v.toNat
  refine ⟨_, exec_maintArm s d v, ?_⟩
  split
  · next h =>
    refine ⟨hframe.fset, ?_, ?_, ?_, ?_⟩
    · rw [fget_fset_other _ _ _ (by decide) (by decide), hchannel]
    · rw [fget_fset_other _ _ _ (by decide) (by decide), hkind]
    · rw [fget_fset_other _ _ _ (by decide) (by decide), hstart]
    · rw [h, Bool.or_true]
      exact fbit_fset_one _ _ _ (by decide)
  · next h =>
    rw [Bool.not_eq_true] at h
    rw [h, Bool.or_false]
    exact ⟨hframe, hchannel, hkind, hstart, harm⟩

/-! ### Windows that open and end -/

theorem exec_maintenanceWindowOpen {s : State} {d : MemDev} (harm : fbit s (devMaint d) f_HBM_MAINT_ARM = true)
    (hopen : (s.dev d).windowOpen = none) (hstart : startReached s d = true) :
    exec (.maintenanceWindowOpen d) s = .next (s.setDev d { s.dev d with windowOpen := some s.now, windowWork := false }) := by
  change execMaintenanceWindowOpen d s = _
  exact if_pos (by simp [harm, hopen, hstart])

/-- A window that ends is closed, disarmed, and shows how it ended; nothing else changes. -/
theorem closeWindow_spec (s : State) (d : MemDev) (done : Bool) :
    fbit (closeWindow s d done) (devMaint d) f_HBM_MAINT_ARM = false ∧ ((closeWindow s d done).dev d).windowOpen = none ∧
      fbit (closeWindow s d done) (devMaint d) (if done then f_HBM_MAINT_DONE else f_HBM_MAINT_INCOMPLETE) = true ∧
      KeepsRegsBut [devMaint d] s (closeWindow s d done) ∧ KeepsMemory s (closeWindow s d done) ∧ KeepsUnits s (closeWindow s d done) ∧
      KeepsJob s (closeWindow s d done) := by
  unfold closeWindow
  dsimp only
  generalize hu : s.setDev d { s.dev d with windowOpen := none, windowWork := false } = u
  have hmemory : KeepsMemory s u := by subst hu; exact ⟨rfl, rfl, rfl⟩
  have hunits : KeepsUnits s u := by subst hu; exact ⟨rfl, rfl, rfl, rfl, rfl, rfl⟩
  have hjob : KeepsJob s u := by subst hu; exact ⟨rfl, rfl, rfl, rfl⟩
  have hregs (a : Nat) : u.reg a = s.reg a := by rw [← hu, reg_setDev]
  have hopen : (u.dev d).windowOpen = none := by rw [← hu, dev_setDev]
  have hframe (f : Fld) : OnlyReg (devMaint d) u (fset (fset u (devMaint d) f_HBM_MAINT_ARM 0) (devMaint d) f 1) :=
    (OnlyReg.refl _ u).fset.fset
  refine ⟨?_, ?_, ?_, fun a ha => ((hframe _).2 a ha).trans (hregs a), hmemory.trans (hframe _).keepsMemory,
    hunits.trans (hframe _).keepsUnits, hjob.trans (hframe _).keepsJob⟩
  · rw [fbit_fset_other _ _ _ (by cases done <;> decide) (by cases done <;> decide)]
    exact fbit_fset_zero _ _ _ (by decide)
  · rw [dev_congr (hframe _).devs, hopen]
  · cases done <;> exact fbit_fset_one _ _ _ (by decide)

theorem exec_maintenanceWindowEnd {s : State} {d : MemDev} {b : Nat} (hopen : (s.dev d).windowOpen = some b)
    (hdone : fget s (devMaint d) f_HBM_MAINT_KIND = 0 ∨ (s.dev d).windowWork = true) :
    exec (.maintenanceWindowEnd d) s = .next (closeWindow s d true) := by
  change execMaintenanceWindowEnd d s = _
  exact if_pos (by simp [hopen, hdone])

theorem exec_maintenanceWindowLimit {s : State} {d : MemDev} {b : Nat} (hopen : (s.dev d).windowOpen = some b)
    (hlate : b + 200000 ≤ s.now) : exec (.maintenanceWindowLimit d) s = .next (closeWindow s d (s.dev d).windowWork) := by
  change execMaintenanceWindowLimit d s = _
  rw [execMaintenanceWindowLimit, hopen]
  exact congrArg Host.Outcome.next (if_pos hlate)

/-- Settles O45: readings by what a device's register shows, windows by what their register and the device hold. -/
theorem heatSetsTheLevelOfADevice : Obligations.HeatSetsTheLevelOfADevice := by
  intro s
  refine ⟨fun h x y z happ => ?_, fun d b hb => ?_, fun d v => ?_, fun d harm hopen hstart => exec_maintenanceWindowOpen harm hopen hstart,
    fun d b hopen hdone => ?_, fun d b hopen hlate => ?_⟩
  · obtain ⟨t, he, hstack, hfirst, hsecond, hmemory, hunits, hjob, hstp⟩ := thermalReading_spec happ h x y z
    refine ⟨t, he, fun w hw => ?_, hmemory, hunits, hjob, hstp⟩
    have htook : TookReading s t w.1 w.2 := by
      simp only [List.mem_cons, List.not_mem_nil, or_false] at hw
      rcases hw with rfl | rfl | rfl
      · exact hstack
      · exact hfirst
      · exact hsecond
    obtain ⟨htemp, hpeak, hlevel, hfault⟩ := htook
    exact ⟨htemp, hpeak, hlevel.trans (nextLevel_eq _ _), hfault⟩
  · refine ⟨fun hlate => ?_, fun hearly => ?_⟩ <;> rw [exec_haltLimitExpire hb]
    · rw [if_pos hlate]
    · rw [if_neg (Nat.not_lt.2 hearly)]
  · obtain ⟨t, he, hframe, hchannel, hkind, hstart, harm⟩ := maintArm_spec s d v
    refine ⟨t, he, hchannel, hkind, hstart, fun hask hnot hallow => ?_, fun hno => ?_, hframe.2, hframe.keepsMemory, hframe.keepsUnits,
      hframe.keepsJob⟩
    · simp [harm, hask, hnot, hallow]
    · rw [harm]
      rcases hno with hask | hthree | ⟨x, hx, htaken⟩ | ⟨hrun, hheld, hphase⟩
      · simp [hask]
      · simp [hthree]
      · simp [armAllowed_of_taken hx htaken]
      · simp [armAllowed_of_no_phase hrun hheld hphase]
  · obtain ⟨harm, hclosed, hshown, hrest⟩ := closeWindow_spec s d true
    exact ⟨_, exec_maintenanceWindowEnd hopen hdone, hshown, harm, hclosed, hrest⟩
  · obtain ⟨harm, hclosed, hshown, hrest⟩ := closeWindow_spec s d (s.dev d).windowWork
    exact ⟨_, exec_maintenanceWindowLimit hopen hlate, harm, hclosed, hshown, hrest⟩

end Sys2Proof.Machine
end

section
/-! Row repair and retired ranges of the memory devices (R219 to R225, Table MEM-16). -/

namespace Sys2Proof.Machine

/-! ### The repair register and what a repair asks for -/

theorem devRepair_lt (d : MemDev) : devRepair d < 0x900000 := by
  cases d <;> simp only [devRepair, HBM_REPAIR, DTR_REPAIR] <;> omega

theorem devMaint_ne_devRepair (d : MemDev) : devMaint d ≠ devRepair d := by
  cases d <;> simp only [devMaint, devRepair, HBM_MAINT, DTR_MAINT, HBM_REPAIR, DTR_REPAIR] <;> omega

theorem onlyReg_repairFields (s : State) (d : MemDev) (pc bank : BitVec 6) (row : Nat) :
    OnlyReg (devRepair d) s (repairFields s d pc bank row) := (OnlyReg.refl _ s).fset.fset.fset

theorem sparesLeft_congr {s t : State} (h : t.devs = s.devs) (d : MemDev) (k : Nat) : sparesLeft t d k = sparesLeft s d k := by
  rw [sparesLeft, dev_congr h, ← sparesLeft]

theorem sparesLeft_lt (s : State) (d : MemDev) (k : Nat) : sparesLeft s d k < 16 := (Nat.sub_le _ _).trans_lt (Fin.isLt _)

theorem repairOpen_congr {s t : State} {d : MemDev} (h : OnlyReg (devRepair d) s t) (pc : BitVec 6) (kind : Nat) :
    repairOpen t d pc kind = repairOpen s d pc kind := by
  have hlt := devRepair_lt d
  have hpower : t.reg PWR_STATE = s.reg PWR_STATE := h.reg (by unfold PWR_STATE; omega)
  have hstage : t.reg HIF_STATUS = s.reg HIF_STATUS := h.reg (by unfold HIF_STATUS; omega)
  have hmaint : t.reg (devMaint d) = s.reg (devMaint d) := h.reg (devMaint_ne_devRepair d)
  simp only [repairOpen, fget_congr hpower, fget_congr hstage, fget_congr hmaint, dev_congr h.devs]

theorem fuseMap_dev (s : State) (d : MemDev) : fuseMap s (devKey d) = (s.dev d).fused ++ Config.shippedRepairs (devKey d) := rfl

/-! ### READ_SPARE_ROWS -/

theorem readSpareRows_spec (s : State) (d : MemDev) (pc bank : BitVec 6) : ∃ t, exec (.readSpareRows .firmware d pc bank) s = .next t ∧
    fget t (devRepair d) f_HBM_REPAIR_SPARE = sparesLeft s d (bankKey pc bank) ∧ fget t (devRepair d) f_HBM_REPAIR_STATUS = 2 ∧
    OnlyReg (devRepair d) s t := by
  have hfields := onlyReg_repairFields s d pc bank (fget s (devRepair d) f_HBM_REPAIR_ROW)
  refine ⟨_, congrArg Host.Outcome.next (guardedWrite_firmware s (devRepair d) none _), ?_, fget_fset_same _ _ _ _ (by decide), hfields.fset.fset⟩
  rw [fget_fset_other _ _ _ (by decide) (by decide), fget_fset_same _ _ _ _ (by decide), sparesLeft_congr hfields.devs]
  exact Nat.mod_eq_of_lt (sparesLeft_lt s d _)

/-! ### A row is mapped onto a spare -/

theorem mapGet_putBytes_ne (bs : List Byte) (m : List Host.Cell) {k z : Nat} (h : z < k ∨ k + bs.length ≤ z) :
    mapGet 0 (putBytes m k bs) z = mapGet 0 m z := by
  induction bs generalizing m k with
  | nil => rfl
  | cons b bs ih =>
    rw [List.length_cons] at h
    rw [putBytes, ih _ (by omega), mapGet_mapSet_ne _ _ _ _ (by omega)]

/-- What remapping a row writes: memory, envelopes and the errors present, and free values. -/
def Remaps (s t : State) : Prop := ∃ mem env errs free, t = { s with mem := mem, env := env, errs := errs, free := free }

theorem Remaps.refl (s : State) : Remaps s s := ⟨_, _, _, _, rfl⟩

theorem Remaps.trans {s u v : State} (h : Remaps s u) (h' : Remaps u v) : Remaps s v := by
  obtain ⟨_, _, _, _, rfl⟩ := h
  obtain ⟨_, _, _, _, rfl⟩ := h'
  exact ⟨_, _, _, _, rfl⟩

/-- Free bytes in the 64 words of a block. -/
def freeBlock (s : State) (b : Nat) : State :=
  (List.range 64).foldl (fun s i =>
    { (takeFree s).2 with mem := putBytes (takeFree s).2.mem (b * 512 + 8 * i) (leBytes 8 (takeFree s).1.toNat) }) s

theorem freeBlock_spec (s : State) (b : Nat) :
    Remaps s (freeBlock s b) ∧ (freeBlock s b).env = s.env ∧ (freeBlock s b).errs = s.errs ∧
      ∀ z, z / 512 ≠ b → byteAt (freeBlock s b) z = byteAt s z := by
  refine List.foldlRecOn (motive := fun u : State => Remaps s u ∧ u.env = s.env ∧ u.errs = s.errs ∧ ∀ z, z / 512 ≠ b → byteAt u z = byteAt s z)
    _ _ ⟨.refl s, rfl, rfl, fun _ _ => rfl⟩ fun u ⟨hframe, henv, herrs, hbytes⟩ i hi => ?_
  refine ⟨hframe.trans ⟨_, _, _, _, rfl⟩, henv, herrs, fun z hz => Eq.trans ?_ (hbytes z hz)⟩
  have := List.mem_range.1 hi
  exact mapGet_putBytes_ne _ _ (by rw [length_leBytes]; omega)

/-- A block with free bytes under a free envelope. -/
def remapBlock (s : State) (b : Nat) : State :=
  setMismatch (freeBlock (takeFree s).2 b) b (BitVec.ofNat 32 (takeFree s).1.toNat)

theorem remapRow_eq (s : State) (blocks : List Nat) : remapRow s blocks =
    { blocks.foldl remapBlock s with errs := (blocks.foldl remapBlock s).errs.filter fun e => !blocks.contains e.block } := rfl

theorem remapBlocks_spec (s : State) (blocks : List Nat) :
    Remaps s (blocks.foldl remapBlock s) ∧ (blocks.foldl remapBlock s).errs = s.errs ∧
      (∀ z, z / 512 ∉ blocks → byteAt (blocks.foldl remapBlock s) z = byteAt s z) ∧
      ∀ c, c ∉ blocks → mismatchOf (blocks.foldl remapBlock s) c = mismatchOf s c := by
  refine List.foldlRecOn (motive := fun u : State => Remaps s u ∧ u.errs = s.errs ∧ (∀ z, z / 512 ∉ blocks → byteAt u z = byteAt s z) ∧
    ∀ c, c ∉ blocks → mismatchOf u c = mismatchOf s c) _ _ ⟨.refl s, rfl, fun _ _ => rfl, fun _ _ => rfl⟩
    fun u ⟨hframe, herrs, hbytes, henvs⟩ b hb => ?_
  obtain ⟨hfree, henv, herr, hbyte⟩ := freeBlock_spec (takeFree u).2 b
  refine ⟨(hframe.trans ⟨_, _, _, _, rfl⟩).trans (hfree.trans ⟨_, _, _, _, rfl⟩), herr.trans herrs,
    fun z hz => (hbyte z fun e => hz (e ▸ hb)).trans (hbytes z hz), fun c hc => Eq.trans ?_ (henvs c hc)⟩
  have hne : c ≠ b := fun e => hc (e ▸ hb)
  exact (mapGet_mapSet_ne 0 0 _ _ hne).trans (congrArg (mapGet 0 · c) henv)

/-- Outside the blocks of a remapped row no byte and no envelope changes, and the row's errors are gone. -/
theorem remapRow_spec (s : State) (blocks : List Nat) :
    Remaps s (remapRow s blocks) ∧ (∀ e ∈ (remapRow s blocks).errs, e ∈ s.errs ∧ e.block ∉ blocks) ∧
      (∀ z, z / 512 ∉ blocks → byteAt (remapRow s blocks) z = byteAt s z) ∧
      ∀ c, c ∉ blocks → mismatchOf (remapRow s blocks) c = mismatchOf s c := by
  obtain ⟨hframe, herrs, hbytes, henvs⟩ := remapBlocks_spec s blocks
  rw [remapRow_eq]
  refine ⟨hframe.trans ⟨_, _, _, _, rfl⟩, fun e he => ?_, hbytes, henvs⟩
  obtain ⟨hmem, hout⟩ := List.mem_filter.1 he
  exact ⟨herrs ▸ hmem, by simpa using hout⟩

theorem flash_remapRow (s : State) (blocks : List Nat) : (remapRow s blocks).flash = s.flash := by
  obtain ⟨⟨_, _, _, _, he⟩, -⟩ := remapRow_spec s blocks
  rw [he]

/-! ### The end of a repair -/

/-- The row's blocks are remapped, and the list of rows pending hPPR is written. -/
def rowRemapped (s : State) (blocks : List Nat) (edit : List (Nat × Nat × Nat × Nat) → List (Nat × Nat × Nat × Nat)) : State :=
  writePart { remapRow s blocks with flash :=
    { (remapRow s blocks).flash with repairList := edit (remapRow s blocks).flash.repairList } }

/-- A repair ends with STATUS 2, and is noted. -/
def repairEnds (s : State) (d : MemDev) : State :=
  post (fset s (devRepair d) f_HBM_REPAIR_STATUS 2) .repair (devUnit d) (s.reg (devRepair d))

theorem repairList_writePart (s : State) : (writePart s).flash.repairList = s.flash.repairList := by
  unfold writePart
  dsimp only
  split <;> rfl

theorem repairList_rowRemapped (s : State) (blocks : List Nat) (edit : List (Nat × Nat × Nat × Nat) → List (Nat × Nat × Nat × Nat)) :
    (rowRemapped s blocks edit).flash.repairList = edit s.flash.repairList := by
  rw [rowRemapped, repairList_writePart, flash_remapRow]

/-- Besides the flash, the row's blocks and errors and free values are all that remapping it changes. -/
theorem rowRemapped_spec (s : State) (blocks : List Nat) (edit : List (Nat × Nat × Nat × Nat) → List (Nat × Nat × Nat × Nat)) :
    (rowRemapped s blocks edit).devs = s.devs ∧ (∀ e ∈ (rowRemapped s blocks edit).errs, e ∈ s.errs ∧ e.block ∉ blocks) ∧
      (∀ z, z / 512 ∉ blocks → byteAt (rowRemapped s blocks edit) z = byteAt s z) ∧
      (∀ c, c ∉ blocks → mismatchOf (rowRemapped s blocks edit) c = mismatchOf s c) ∧
      KeepsUnits s (rowRemapped s blocks edit) ∧ KeepsJob s (rowRemapped s blocks edit) := by
  obtain ⟨⟨mem, env, errs, free, hremap⟩, herrs, hbytes, henvs⟩ := remapRow_spec s blocks
  obtain ⟨flash, hpart⟩ := writePart_frame { remapRow s blocks with flash :=
    { (remapRow s blocks).flash with repairList := edit (remapRow s blocks).flash.repairList } }
  rw [rowRemapped, hpart]
  rw [hremap] at herrs hbytes henvs ⊢
  exact ⟨rfl, herrs, hbytes, henvs, ⟨rfl, rfl, rfl, rfl, rfl, rfl⟩, ⟨rfl, rfl, rfl, rfl⟩⟩

theorem NoteFrame.flash {s u : State} (h : NoteFrame s u) : u.flash = s.flash := by
  obtain ⟨_, _, _, _, _, _, _, rfl⟩ := h
  rfl

theorem NoteFrame.devs {s u : State} (h : NoteFrame s u) : u.devs = s.devs := by
  obtain ⟨_, _, _, _, _, _, _, rfl⟩ := h
  rfl

theorem repairEnds_spec (s : State) (d : MemDev) :
    fget (repairEnds s d) (devRepair d) f_HBM_REPAIR_STATUS = 2 ∧ (repairEnds s d).devs = s.devs ∧ (repairEnds s d).flash = s.flash ∧
      KeepsMemory s (repairEnds s d) ∧ KeepsUnits s (repairEnds s d) ∧ KeepsJob s (repairEnds s d) := by
  have hset := (OnlyReg.refl (devRepair d) s).fset (f := f_HBM_REPAIR_STATUS) (v := 2)
  obtain ⟨hframe, hreg⟩ : Noticed (fset s (devRepair d) f_HBM_REPAIR_STATUS 2) (repairEnds s d) := (Noticed.refl _).post
  exact ⟨(fget_congr (hreg _ (devRepair_lt d)) _).trans (fget_fset_same _ _ _ _ (by decide)), hframe.devs.trans hset.devs,
    hframe.flash.trans hset.flash, hset.keepsMemory.trans hframe.keepsMemory, hset.keepsUnits.trans hframe.keepsUnits,
    hset.keepsJob.trans hframe.keepsJob⟩

/-- At most the devices differ. -/
def OnlyDevs (s t : State) : Prop := ∃ devs, t = { s with devs := devs }

theorem OnlyDevs.setDev {s t : State} (h : OnlyDevs s t) (d : MemDev) (x : Dev) : OnlyDevs s (t.setDev d x) := by
  obtain ⟨_, rfl⟩ := h
  exact ⟨_, rfl⟩

theorem OnlyDevs.useSpare {s t : State} (h : OnlyDevs s t) (d : MemDev) (k : Nat) : OnlyDevs s (useSpare t d k) := h.setDev d _

theorem OnlyDevs.keeps {s t : State} (h : OnlyDevs s t) : t.flash = s.flash ∧ KeepsMemory s t ∧ KeepsUnits s t ∧ KeepsJob s t := by
  obtain ⟨_, rfl⟩ := h
  exact ⟨rfl, ⟨rfl, rfl, rfl⟩, ⟨rfl, rfl, rfl, rfl, rfl, rfl⟩, ⟨rfl, rfl, rfl, rfl⟩⟩

/-- A repair of a row is made: STATUS is 2, the rows pending hPPR are edited, and no byte or envelope outside the row's blocks changes. -/
structure RowRepaired (s t : State) (d : MemDev) (blocks : List Nat)
    (edit : List (Nat × Nat × Nat × Nat) → List (Nat × Nat × Nat × Nat)) : Prop where
  status : fget t (devRepair d) f_HBM_REPAIR_STATUS = 2
  list : t.flash.repairList = edit s.flash.repairList
  errs : ∀ e ∈ t.errs, e ∈ s.errs ∧ e.block ∉ blocks
  bytes : ∀ z, z / 512 ∉ blocks → byteAt t z = byteAt s z ∧ mismatchOf t (z / 512) = mismatchOf s (z / 512)
  units : KeepsUnits s t
  job : KeepsJob s t

/-- A repair of a row, from the state `u` that shows its fields and `w` in which the device has taken the repair. -/
theorem rowRepaired_of_ends {s u w t : State} {d : MemDev} (hu : OnlyReg (devRepair d) s u) (hw : OnlyDevs u w) {blocks : List Nat}
    {edit : List (Nat × Nat × Nat × Nat) → List (Nat × Nat × Nat × Nat)} (ht : t = repairEnds (rowRemapped w blocks edit) d) :
    RowRepaired s t d blocks edit ∧ t.dev d = w.dev d := by
  obtain ⟨hflash0, hmemory, hunits0, hjob0⟩ := hw.keeps
  obtain ⟨hmem, henv, herr⟩ := hu.keepsMemory.trans hmemory
  obtain ⟨hdevs, herrs, hbytes, henvs, hunits, hjob⟩ := rowRemapped_spec w blocks edit
  have hlist := repairList_rowRemapped w blocks edit
  rw [hflash0, hu.flash] at hlist
  generalize rowRemapped w blocks edit = v at *
  obtain ⟨hstatus, hdevs', hflash, ⟨hmem', henv', herr'⟩, hunits', hjob'⟩ := repairEnds_spec v d
  rw [← ht] at hstatus hdevs' hflash hmem' henv' herr' hunits' hjob'
  rw [herr] at herrs
  refine ⟨⟨hstatus, by rw [hflash, hlist], fun e he => herrs e (herr' ▸ he), fun z hz => ⟨?_, ?_⟩,
    ((hu.keepsUnits.trans hunits0).trans hunits).trans hunits', ((hu.keepsJob.trans hjob0).trans hjob).trans hjob'⟩,
    dev_congr (hdevs'.trans hdevs) d⟩
  · exact (byteAt_congr hmem' z).trans ((hbytes z hz).trans (byteAt_congr hmem z))
  · exact (congrArg (mapGet 0 · _) henv').trans ((henvs _ hz).trans (congrArg (mapGet 0 · _) henv))

/-! ### Spares -/

theorem dev_useSpare (s : State) (d : MemDev) (k : Nat) : (useSpare s d k).dev d =
    { s.dev d with used := mapSet 0 (s.dev d).used k (mapGet 0 (s.dev d).used k + 1), windowWork := (s.dev d).windowOpen.isSome } :=
  dev_setDev s d _

theorem sparesLeft_of_used {s t : State} {d : MemDev} (h : (t.dev d).used = (s.dev d).used) (k : Nat) :
    sparesLeft t d k = sparesLeft s d k := by
  rw [sparesLeft, h, ← sparesLeft]

/-- A row that takes a spare leaves its bank one fewer. -/
theorem sparesLeft_useSpare {s : State} {d : MemDev} {k : Nat} (h : sparesLeft s d k ≠ 0) :
    sparesLeft (useSpare s d k) d k + 1 = sparesLeft s d k := by
  unfold sparesLeft at h ⊢
  rw [dev_useSpare, mapGet_mapSet_same]
  omega

/-! ### SPPR -/

/-- A row of a bank has a soft repair (R219). -/
def softRepaired (s : State) (d : MemDev) (k row : Nat) : State :=
  (useSpare s d k).setDev d { (useSpare s d k).dev d with soft := ((useSpare s d k).dev d).soft ++ [(k, row)] }

theorem onlyDevs_softRepaired (s : State) (d : MemDev) (k row : Nat) : OnlyDevs s (softRepaired s d k row) :=
  (OnlyDevs.useSpare ⟨_, rfl⟩ d k).setDev d _

theorem softRepaired_spec (s : State) (d : MemDev) {k : Nat} (row : Nat) (h : sparesLeft s d k ≠ 0) :
    ((softRepaired s d k row).dev d).soft = (s.dev d).soft ++ [(k, row)] ∧
      sparesLeft (softRepaired s d k row) d k + 1 = sparesLeft s d k := by
  have hdev : (softRepaired s d k row).dev d = { (useSpare s d k).dev d with soft := ((useSpare s d k).dev d).soft ++ [(k, row)] } :=
    dev_setDev _ d _
  refine ⟨by rw [hdev, dev_useSpare], ?_⟩
  rw [sparesLeft_of_used (s := useSpare s d k) (by rw [hdev]), sparesLeft_useSpare h]

theorem exec_sppr (s : State) (d : MemDev) (pc bank : BitVec 6) (row : BitVec 18) {u : State}
    (hu : u = repairFields s d pc bank row.toNat) : exec (.sppr .firmware d pc bank row) s =
      .next (if !repairOpen u d pc 1 || sparesLeft u d (bankKey pc bank) == 0 || (u.dev d).soft.any (fun x => x.1 == bankKey pc bank) then
        fset u (devRepair d) f_HBM_REPAIR_STATUS 3
      else repairEnds (rowRemapped (softRepaired u d (bankKey pc bank) row.toNat)
        (rowBlocks (softRepaired u d (bankKey pc bank) row.toNat) d pc.toNat bank.toNat row.toNat)
        (· ++ [(devKey d, pc.toNat, bank.toNat, row.toNat)])) d) := by
  subst hu
  exact congrArg Host.Outcome.next (guardedWrite_firmware s (devRepair d) none _)

/-- Outside its window, or without a spare, a repair ends with STATUS 3 and shows its fields alone. -/
theorem repairDenied_spec {s u : State} {d : MemDev} (hu : OnlyReg (devRepair d) s u) :
    fget (fset u (devRepair d) f_HBM_REPAIR_STATUS 3) (devRepair d) f_HBM_REPAIR_STATUS = 3 ∧
      OnlyReg (devRepair d) s (fset u (devRepair d) f_HBM_REPAIR_STATUS 3) := ⟨fget_fset_same _ _ _ _ (by decide), hu.fset⟩

theorem rowBlocks_congr {s t : State} (h : t.errs = s.errs) (d : MemDev) (pc bank row : Nat) :
    rowBlocks t d pc bank row = rowBlocks s d pc bank row := by
  rw [rowBlocks, h, ← rowBlocks]

theorem OnlyReg.rowBlocks {s u w : State} {d : MemDev} (hu : OnlyReg (devRepair d) s u) (hw : OnlyDevs u w) (pc bank row : Nat) :
    rowBlocks w d pc bank row = rowBlocks s d pc bank row := by
  obtain ⟨-, hmemory, -, -⟩ := hw.keeps
  obtain ⟨-, -, herrs⟩ := hu.keepsMemory.trans hmemory
  exact rowBlocks_congr herrs d pc bank row

/-- SPPR inside its window, with a spare and no other soft repair of the bank (R219, R220). -/
theorem sppr_spec {s : State} {d : MemDev} {pc bank : BitVec 6} (row : BitVec 18) (hopen : repairOpen s d pc 1 = true)
    (hspare : sparesLeft s d (bankKey pc bank) ≠ 0) (hsoft : ∀ x ∈ (s.dev d).soft, x.1 ≠ bankKey pc bank) :
    ∃ t, exec (.sppr .firmware d pc bank row) s = .next t ∧
      RowRepaired s t d (rowBlocks s d pc.toNat bank.toNat row.toNat) (· ++ [(devKey d, pc.toNat, bank.toNat, row.toNat)]) ∧
      (t.dev d).soft = (s.dev d).soft ++ [(bankKey pc bank, row.toNat)] ∧
      sparesLeft t d (bankKey pc bank) + 1 = sparesLeft s d (bankKey pc bank) := by
  have hu := onlyReg_repairFields s d pc bank row.toNat
  have hexec := exec_sppr s d pc bank row rfl
  generalize repairFields s d pc bank row.toNat = u at hu hexec
  have hdev := dev_congr hu.devs d
  rw [← sparesLeft_congr hu.devs] at hspare ⊢
  have hnone : (u.dev d).soft.any (fun x => x.1 == bankKey pc bank) = false := by
    rw [hdev]
    simpa using hsoft
  have hw := onlyDevs_softRepaired u d (bankKey pc bank) row.toNat
  rw [if_neg (by simp [repairOpen_congr hu, hopen, hspare, hnone]), hu.rowBlocks hw] at hexec
  obtain ⟨hmade, hdev'⟩ := rowRepaired_of_ends hu hw rfl
  obtain ⟨hlisted, hleft⟩ := softRepaired_spec u d row.toNat hspare
  refine ⟨_, hexec, hmade, by rw [hdev', hlisted, hdev], ?_⟩
  rw [sparesLeft_of_used (congrArg Dev.used hdev'), hleft]

theorem sppr_denied {s : State} {d : MemDev} {pc : BitVec 6} (bank : BitVec 6) (row : BitVec 18) (hopen : repairOpen s d pc 1 = false) :
    ∃ t, exec (.sppr .firmware d pc bank row) s = .next t ∧ fget t (devRepair d) f_HBM_REPAIR_STATUS = 3 ∧ OnlyReg (devRepair d) s t := by
  have hu := onlyReg_repairFields s d pc bank row.toNat
  have hexec := exec_sppr s d pc bank row rfl
  generalize repairFields s d pc bank row.toNat = u at hu hexec
  rw [if_pos (by simp [repairOpen_congr hu, hopen])] at hexec
  exact ⟨_, hexec, repairDenied_spec hu⟩

/-! ### HPPR -/

/-- A row of a bank has a hard repair: it takes over the spare of its own soft repair, or takes one (R221). -/
def hardRepaired (s : State) (d : MemDev) (k row : Nat) : State :=
  let s := if (s.dev d).soft.contains (k, row) then
      s.setDev d { s.dev d with soft := (s.dev d).soft.filter (fun x => x != (k, row)), windowWork := (s.dev d).windowOpen.isSome }
    else useSpare s d k
  s.setDev d { s.dev d with fused := (s.dev d).fused ++ [(k, row)] }

theorem onlyDevs_hardRepaired (s : State) (d : MemDev) (k row : Nat) : OnlyDevs s (hardRepaired s d k row) := by
  unfold hardRepaired
  dsimp only
  split
  · exact (OnlyDevs.setDev ⟨_, rfl⟩ d _).setDev d _
  · exact (OnlyDevs.useSpare ⟨_, rfl⟩ d k).setDev d _

theorem hardRepaired_fresh {s : State} {d : MemDev} {k row : Nat} (h : (k, row) ∉ (s.dev d).soft) : (hardRepaired s d k row).dev d =
    { (useSpare s d k).dev d with fused := (s.dev d).fused ++ [(k, row)] } := by
  rw [hardRepaired, if_neg (by simpa using h)]
  dsimp only
  rw [dev_setDev, dev_useSpare]

theorem hardRepaired_soft {s : State} {d : MemDev} {k row : Nat} (h : (k, row) ∈ (s.dev d).soft) :
    ((hardRepaired s d k row).dev d).soft = (s.dev d).soft.filter (fun x => x != (k, row)) ∧
      ((hardRepaired s d k row).dev d).used = (s.dev d).used := by
  rw [hardRepaired, if_pos (by simpa using h)]
  dsimp only
  rw [dev_setDev, dev_setDev]
  exact ⟨rfl, rfl⟩

theorem exec_hppr (s : State) (d : MemDev) (pc bank : BitVec 6) (row : BitVec 18) {u : State}
    (hu : u = repairFields s d pc bank row.toNat) : exec (.hppr .firmware d pc bank row) s =
      .next (if !repairOpen u d pc 2 ||
          (sparesLeft u d (bankKey pc bank) == 0 && !(u.dev d).soft.contains (bankKey pc bank, row.toNat)) then
        fset u (devRepair d) f_HBM_REPAIR_STATUS 3
      else repairEnds (rowRemapped (hardRepaired u d (bankKey pc bank) row.toNat)
        (rowBlocks (hardRepaired u d (bankKey pc bank) row.toNat) d pc.toNat bank.toNat row.toNat)
        (·.filter fun x => x != (devKey d, pc.toNat, bank.toNat, row.toNat))) d) := by
  subst hu
  exact congrArg Host.Outcome.next (guardedWrite_firmware s (devRepair d) none _)

/-- HPPR inside its window, with a spare or a soft repair of the row, makes the row's hard repair. -/
theorem hppr_repairs {s : State} {d : MemDev} {pc bank : BitVec 6} {row : BitVec 18} (hopen : repairOpen s d pc 2 = true)
    (hspare : sparesLeft s d (bankKey pc bank) ≠ 0 ∨ (bankKey pc bank, row.toNat) ∈ (s.dev d).soft) :
    ∃ u t, u.devs = s.devs ∧ exec (.hppr .firmware d pc bank row) s = .next t ∧
      RowRepaired s t d (rowBlocks s d pc.toNat bank.toNat row.toNat) (·.filter fun x => x != (devKey d, pc.toNat, bank.toNat, row.toNat)) ∧
      t.dev d = (hardRepaired u d (bankKey pc bank) row.toNat).dev d := by
  have hu := onlyReg_repairFields s d pc bank row.toNat
  have hexec := exec_hppr s d pc bank row rfl
  generalize repairFields s d pc bank row.toNat = u at hu hexec
  rw [← sparesLeft_congr hu.devs, ← dev_congr hu.devs] at hspare
  have hw := onlyDevs_hardRepaired u d (bankKey pc bank) row.toNat
  have hgoes : ¬ (!repairOpen u d pc 2 ||
      (sparesLeft u d (bankKey pc bank) == 0 && !(u.dev d).soft.contains (bankKey pc bank, row.toNat))) = true := by
    rcases hspare with h | h <;> simp [repairOpen_congr hu, hopen, h]
  rw [if_neg hgoes, hu.rowBlocks hw] at hexec
  obtain ⟨hmade, hdev⟩ := rowRepaired_of_ends hu hw rfl
  exact ⟨u, _, hu.devs, hexec, hmade, hdev⟩

/-- HPPR of a row without a soft repair takes a spare (R219). -/
theorem hppr_fresh {s : State} {d : MemDev} {pc bank : BitVec 6} {row : BitVec 18} (hopen : repairOpen s d pc 2 = true)
    (hspare : sparesLeft s d (bankKey pc bank) ≠ 0) (hsoft : (bankKey pc bank, row.toNat) ∉ (s.dev d).soft) :
    ∃ t, exec (.hppr .firmware d pc bank row) s = .next t ∧
      RowRepaired s t d (rowBlocks s d pc.toNat bank.toNat row.toNat) (·.filter fun x => x != (devKey d, pc.toNat, bank.toNat, row.toNat)) ∧
      (t.dev d).soft = (s.dev d).soft ∧ sparesLeft t d (bankKey pc bank) + 1 = sparesLeft s d (bankKey pc bank) ∧
      (t.dev d).fused = (s.dev d).fused ++ [(bankKey pc bank, row.toNat)] := by
  obtain ⟨u, t, hdevs, hexec, hmade, hdev⟩ := hppr_repairs hopen (.inl hspare)
  rw [← dev_congr hdevs] at hsoft ⊢
  rw [← sparesLeft_congr hdevs] at hspare ⊢
  rw [hardRepaired_fresh hsoft] at hdev
  refine ⟨t, hexec, hmade, by rw [hdev, dev_useSpare], ?_, by rw [hdev]⟩
  rw [sparesLeft_of_used (s := useSpare u d (bankKey pc bank)) (by rw [hdev]), sparesLeft_useSpare hspare]

/-- HPPR of a row with a soft repair keeps its spare (R221). -/
theorem hppr_soft {s : State} {d : MemDev} {pc bank : BitVec 6} {row : BitVec 18} (hopen : repairOpen s d pc 2 = true)
    (hsoft : (bankKey pc bank, row.toNat) ∈ (s.dev d).soft) :
    ∃ t, exec (.hppr .firmware d pc bank row) s = .next t ∧ fget t (devRepair d) f_HBM_REPAIR_STATUS = 2 ∧
      (bankKey pc bank, row.toNat) ∉ (t.dev d).soft ∧ sparesLeft t d (bankKey pc bank) = sparesLeft s d (bankKey pc bank) := by
  obtain ⟨u, t, hdevs, hexec, hmade, hdev⟩ := hppr_repairs hopen (.inr hsoft)
  rw [← dev_congr hdevs] at hsoft
  obtain ⟨hfilter, hused⟩ := hardRepaired_soft hsoft
  rw [← hdev] at hfilter hused
  exact ⟨t, hexec, hmade.status, by simp [hfilter], (sparesLeft_of_used hused _).trans (sparesLeft_congr hdevs d _)⟩

theorem hppr_denied {s : State} {d : MemDev} {pc : BitVec 6} (bank : BitVec 6) (row : BitVec 18) (hopen : repairOpen s d pc 2 = false) :
    ∃ t, exec (.hppr .firmware d pc bank row) s = .next t ∧ fget t (devRepair d) f_HBM_REPAIR_STATUS = 3 ∧ OnlyReg (devRepair d) s t := by
  have hu := onlyReg_repairFields s d pc bank row.toNat
  have hexec := exec_hppr s d pc bank row rfl
  generalize repairFields s d pc bank row.toNat = u at hu hexec
  rw [if_pos (by simp [repairOpen_congr hu, hopen])] at hexec
  exact ⟨_, hexec, repairDenied_spec hu⟩

/-! ### Alerts stay -/

theorem reg_interrupt_alert (s : State) (source : Nat) : (interrupt s source).reg MGS_ALERT = s.reg MGS_ALERT := by
  have hlink (p : Nat) (w : Waiting) : (waitLink s p w).reg MGS_ALERT = s.reg MGS_ALERT := by
    unfold waitLink
    extract_lets again
    split <;> rfl
  unfold interrupt msix
  dsimp only
  split
  · split
    · split
      · exact reg_emit s _ _
      · exact hlink _ _
    · exact (reg_setReg_ne _ _ (by unfold MGS_ALERT MSIX_PBA; omega)).trans (reg_congr rfl _)
  · rfl

theorem reg_raiseAlert_alert (s : State) (f : Fld) : (raiseAlert s f).reg MGS_ALERT =
    if fbit s MGS_ALERT f then s.reg MGS_ALERT else (fset s MGS_ALERT f 1).reg MGS_ALERT := by
  have hset := reg_refreshAlert (fset s MGS_ALERT f 1) MGS_ALERT
  unfold raiseAlert
  dsimp only
  split
  · exact reg_refreshAlert s _
  · split
    · exact (reg_interrupt_alert _ _).trans hset
    · exact hset

theorem fbit_raiseAlert (s : State) {lo : Nat} (h : lo + 1 ≤ 64) : fbit (raiseAlert s ⟨lo, 1⟩) MGS_ALERT ⟨lo, 1⟩ = true := by
  have hreg := reg_raiseAlert_alert s ⟨lo, 1⟩
  split at hreg
  · next hset => exact (fbit_congr hreg _).trans hset
  · exact (fbit_congr hreg _).trans (fbit_fset_one s _ _ h)

/-- An alert that is set stays set when another is raised. -/
theorem fbit_raiseAlert_of_set {s : State} {lo : Nat} (f : Nat) (hf : f + 1 ≤ 64) (h : fbit s MGS_ALERT ⟨lo, 1⟩ = true) :
    fbit (raiseAlert s ⟨f, 1⟩) MGS_ALERT ⟨lo, 1⟩ = true := by
  by_cases he : f = lo
  · subst he
    exact fbit_raiseAlert s hf
  · have hreg := reg_raiseAlert_alert s ⟨f, 1⟩
    split at hreg
    · exact (fbit_congr hreg _).trans h
    · exact (fbit_congr hreg _).trans ((fbit_fset_other s _ _ hf (by dsimp only; omega)).trans h)

theorem fbit_post_of_set {s : State} {lo : Nat} (k : EventKind) (unit data : Nat) (h : fbit s MGS_ALERT ⟨lo, 1⟩ = true) :
    fbit (post s k unit data) MGS_ALERT ⟨lo, 1⟩ = true := by
  have hlost : fbit (fadd s MGS_STATUS f_MGS_STATUS_LOST 1) MGS_ALERT ⟨lo, 1⟩ = true :=
    (fbit_congr (reg_fadd_ne s _ 1 (by decide)) _).trans h
  unfold post
  dsimp only
  split
  · exact fbit_raiseAlert_of_set 6 (by decide) ((fbit_congr (reg_setMgr _ _ _) _).trans hlost)
  · exact (fbit_congr (reg_setMgr _ _ _) _).trans h

/-! ### RETIRE_RANGE -/

/-- The entry is in the list, or where that is full in the ringmaster's memory (R222, R225). -/
def rangeListed (s : State) (d : MemDev) (e : Word) : State :=
  if s.repair.badPages.length ≥ 4096 then
    raiseAlert (post { s with tempRetired := s.tempRetired ++ [e] } .repairExhausted (devUnit d) e.toNat) f_MGS_ALERT_REPAIR_EXHAUSTED
  else writePart { s with repair := { s.repair with badPages := s.repair.badPages ++ [e] }, job := { s.job with mapChanged := true } }

theorem exec_retireRange (s : State) (d : MemDev) (range : BitVec 15) (cause : BitVec 8) : exec (.retireRange d range cause) s =
    if (s.repair.badPages ++ s.tempRetired).any (samePage (badPage s d range cause)) then .next s
    else .next (showRetired (raiseAlert (post (rangeListed s d (badPage s d range cause)) .retirement (devUnit d)
      (badPage s d range cause).toNat) f_MGS_ALERT_MEM_FAULT)) := rfl

theorem NoteFrame.tempRetired {s u : State} (h : NoteFrame s u) : u.tempRetired = s.tempRetired := by
  obtain ⟨_, _, _, _, _, _, _, rfl⟩ := h
  rfl

theorem rangeListed_spec (s : State) (d : MemDev) (e : Word) :
    (s.repair.badPages.length < 4096 → (rangeListed s d e).repair.badPages = s.repair.badPages ++ [e] ∧
      (rangeListed s d e).tempRetired = s.tempRetired) ∧
    (4096 ≤ s.repair.badPages.length → (rangeListed s d e).tempRetired = s.tempRetired ++ [e] ∧ (rangeListed s d e).repair = s.repair ∧
      fbit (rangeListed s d e) MGS_ALERT f_MGS_ALERT_REPAIR_EXHAUSTED = true) ∧
    KeepsMemory s (rangeListed s d e) ∧ KeepsUnits s (rangeListed s d e) ∧ (rangeListed s d e).car = s.car ∧
      (rangeListed s d e).stp = s.stp := by
  unfold rangeListed
  split
  · next hfull =>
    have hkept : KeepsMemory s { s with tempRetired := s.tempRetired ++ [e] } ∧ KeepsUnits s { s with tempRetired := s.tempRetired ++ [e] } ∧
        KeepsJob s { s with tempRetired := s.tempRetired ++ [e] } :=
      ⟨⟨rfl, rfl, rfl⟩, ⟨rfl, rfl, rfl, rfl, rfl, rfl⟩, ⟨rfl, rfl, rfl, rfl⟩⟩
    have htemp : ({ s with tempRetired := s.tempRetired ++ [e] } : State).tempRetired = s.tempRetired ++ [e] := rfl
    generalize ({ s with tempRetired := s.tempRetired ++ [e] } : State) = u at *
    obtain ⟨hmemory, hunits, hjob⟩ := hkept
    have hnote : Noticed u (raiseAlert (post u .repairExhausted (devUnit d) e.toNat) f_MGS_ALERT_REPAIR_EXHAUSTED) :=
      (Noticed.refl u).post.raiseAlert
    obtain ⟨-, hcar, hstp, hrepair⟩ := hjob.trans hnote.1.keepsJob
    exact ⟨fun h => absurd hfull (Nat.not_le.2 h), fun _ => ⟨hnote.1.tempRetired.trans htemp, hrepair, fbit_raiseAlert _ (by decide)⟩,
      hmemory.trans hnote.1.keepsMemory, hunits.trans hnote.1.keepsUnits, hcar, hstp⟩
  · next hroom =>
    obtain ⟨flash, hpart⟩ := writePart_frame { s with
      repair := { s.repair with badPages := s.repair.badPages ++ [e] }, job := { s.job with mapChanged := true } }
    rw [hpart]
    exact ⟨fun _ => ⟨rfl, rfl⟩, fun h => absurd h hroom, ⟨rfl, rfl, rfl⟩, ⟨rfl, rfl, rfl, rfl, rfl, rfl⟩, rfl, rfl⟩

theorem onlyRegs_showRetired (s : State) : OnlyRegs s (showRetired s) := (OnlyRegs.refl s).fset.fset

theorem reg_showRetired {s : State} {a : Nat} (h : a ≠ HBM_RETIRED) : (showRetired s).reg a = s.reg a :=
  (reg_fset_ne _ _ _ h).trans (reg_fset_ne _ _ _ h)

/-- After the entry is placed, the event is noted and the count shown. -/
theorem retirementNoted_spec (u : State) (d : MemDev) (e : Word) {t : State}
    (ht : t = showRetired (raiseAlert (post u .retirement (devUnit d) e.toNat) f_MGS_ALERT_MEM_FAULT)) :
    fbit t MGS_ALERT f_MGS_ALERT_MEM_FAULT = true ∧
      (fbit u MGS_ALERT f_MGS_ALERT_REPAIR_EXHAUSTED = true → fbit t MGS_ALERT f_MGS_ALERT_REPAIR_EXHAUSTED = true) ∧
      t.tempRetired = u.tempRetired ∧ KeepsMemory u t ∧ KeepsUnits u t ∧ KeepsJob u t := by
  have hnote : Noticed u (raiseAlert (post u .retirement (devUnit d) e.toNat) f_MGS_ALERT_MEM_FAULT) := (Noticed.refl u).post.raiseAlert
  have hfault : fbit (raiseAlert (post u .retirement (devUnit d) e.toNat) f_MGS_ALERT_MEM_FAULT) MGS_ALERT f_MGS_ALERT_MEM_FAULT = true :=
    fbit_raiseAlert _ (by decide)
  have hstays (h : fbit u MGS_ALERT f_MGS_ALERT_REPAIR_EXHAUSTED = true) :
      fbit (raiseAlert (post u .retirement (devUnit d) e.toNat) f_MGS_ALERT_MEM_FAULT) MGS_ALERT f_MGS_ALERT_REPAIR_EXHAUSTED = true :=
    fbit_raiseAlert_of_set _ (by decide) (fbit_post_of_set _ _ _ h)
  generalize raiseAlert (post u .retirement (devUnit d) e.toNat) f_MGS_ALERT_MEM_FAULT = v at *
  have hreg : t.reg MGS_ALERT = v.reg MGS_ALERT := by rw [ht, reg_showRetired (by decide)]
  have hframe : NoteFrame u t := by
    obtain ⟨_, hshow⟩ := onlyRegs_showRetired v
    rw [ht, hshow]
    exact hnote.1.trans ⟨_, _, _, _, _, _, _, rfl⟩
  exact ⟨(fbit_congr hreg _).trans hfault, fun h => (fbit_congr hreg _).trans (hstays h), hframe.tempRetired, hframe.keepsMemory,
    hframe.keepsUnits, hframe.keepsJob⟩

/-- A range not yet retired is listed (R222, R225). -/
theorem retireRange_spec {s : State} {d : MemDev} {range : BitVec 15} {cause : BitVec 8}
    (h : ∀ p ∈ s.repair.badPages ++ s.tempRetired, samePage (badPage s d range cause) p = false) :
    ∃ t, exec (.retireRange d range cause) s = .next t ∧ fbit t MGS_ALERT f_MGS_ALERT_MEM_FAULT = true ∧
      (s.repair.badPages.length < 4096 →
        t.repair.badPages = s.repair.badPages ++ [badPage s d range cause] ∧ t.tempRetired = s.tempRetired) ∧
      (4096 ≤ s.repair.badPages.length → t.tempRetired = s.tempRetired ++ [badPage s d range cause] ∧ t.repair = s.repair ∧
        fbit t MGS_ALERT f_MGS_ALERT_REPAIR_EXHAUSTED = true) ∧
      KeepsMemory s t ∧ KeepsUnits s t ∧ t.car = s.car ∧ t.stp = s.stp := by
  have hexec := exec_retireRange s d range cause
  have hnew : (s.repair.badPages ++ s.tempRetired).any (samePage (badPage s d range cause)) = false :=
    List.any_eq_false.2 fun p hp => ne_true_of_eq_false (h p hp)
  rw [if_neg (ne_true_of_eq_false hnew)] at hexec
  obtain ⟨hroom, hfull, hmemory, hunits, hcar, hstp⟩ := rangeListed_spec s d (badPage s d range cause)
  generalize rangeListed s d (badPage s d range cause) = u at *
  obtain ⟨hfault, hstays, htemp, hmemory', hunits', -, hcar', hstp', hrepair⟩ := retirementNoted_spec u d (badPage s d range cause) rfl
  refine ⟨_, hexec, hfault, fun hlt => ?_, fun hge => ?_, hmemory.trans hmemory', hunits.trans hunits', hcar'.trans hcar,
    hstp'.trans hstp⟩
  · obtain ⟨hpages, hkept⟩ := hroom hlt
    exact ⟨(congrArg RepairMap.badPages hrepair).trans hpages, htemp.trans hkept⟩
  · obtain ⟨htaken, hkept, hset⟩ := hfull hge
    exact ⟨htemp.trans htaken, hrepair.trans hkept, hstays hset⟩

theorem retireRange_again {s : State} {d : MemDev} {range : BitVec 15} {cause : BitVec 8}
    (h : ∃ p ∈ s.repair.badPages ++ s.tempRetired, samePage (badPage s d range cause) p = true) :
    exec (.retireRange d range cause) s = .next s := by
  rw [exec_retireRange, if_pos (List.any_eq_true.2 h)]

/-! ### The fuse map and the delivered repairs -/

/-- The module during the boot, before memory training. -/
def bootState : State := fset State.reset PWR_STATE f_PWR_STATE_STATE 1

theorem repairOpen_bootState (d : MemDev) (pc : BitVec 6) (kind : Nat) : repairOpen bootState d pc kind = true := by
  have hpower : fget bootState PWR_STATE f_PWR_STATE_STATE = 1 := fget_fset_same _ _ _ _ (by decide)
  have hstage : fget bootState HIF_STATUS f_HIF_STATUS_BOOT_STAGE < 4 := by
    rw [bootState, fget_fset_ne _ _ _ _ (by decide)]
    decide
  simp [repairOpen, hpower, hstage]

/-- Of a device with spare rows in some bank, no row was repaired at delivery. -/
def SparedDevicesComeUnrepaired : Prop :=
  ∀ (d : MemDev) (pc bank : BitVec 6), (Config.spareRows (devKey d) (bankKey pc bank)).val ≠ 0 → Config.shippedRepairs (devKey d) = []

/-- The fuse map lists the rows that hPPR has written before those repaired at delivery, and O46 wants a new one behind both: in a device
with a spare row and a delivered repair, one of two rows stands in the wrong place. -/
theorem shippedRepairs_eq_nil {d : MemDev} {pc bank : BitVec 6} (hspare : (Config.spareRows (devKey d) (bankKey pc bank)).val ≠ 0)
    (h : ∀ row : BitVec 18, ∃ t, exec (.hppr .firmware d pc bank row) bootState = .next t ∧
      fuseMap t (devKey d) = fuseMap bootState (devKey d) ++ [(bankKey pc bank, row.toNat)]) : Config.shippedRepairs (devKey d) = [] := by
  have hswap (row : BitVec 18) : (bankKey pc bank, row.toNat) :: Config.shippedRepairs (devKey d) =
      Config.shippedRepairs (devKey d) ++ [(bankKey pc bank, row.toNat)] := by
    obtain ⟨t, hexec, hmap⟩ := h row
    obtain ⟨t', hexec', -, -, -, hfused⟩ := hppr_fresh (row := row) (repairOpen_bootState d pc 2) hspare List.not_mem_nil
    obtain rfl : t = t' := Host.Outcome.next.inj (hexec.symm.trans hexec')
    rw [fuseMap_dev, hfused] at hmap
    exact hmap
  cases hlist : Config.shippedRepairs (devKey d) with
  | nil => rfl
  | cons x xs =>
    have hhead (row : BitVec 18) : (bankKey pc bank, row.toNat) = x := by
      have := hswap row
      rw [hlist, List.cons_append] at this
      exact (List.cons.inj this).1
    exact absurd ((hhead 0).trans (hhead 1).symm) (by simp)

/-- O46 comes down to the delivered repairs: all else in it holds, and the place that it gives a new hard repair in the fuse map is the
model's exactly where no device with spare rows was delivered with repairs. Both are constants without a body (log entry 20), so that
neither O46 nor its negation has a proof. -/
theorem repairsTakeASpareInsideAWindow_iff : Obligations.RepairsTakeASpareInsideAWindow ↔ SparedDevicesComeUnrepaired := by
  constructor
  · intro h d pc bank hspare
    obtain ⟨-, hrepairs, -⟩ := h bootState d
    refine shippedRepairs_eq_nil hspare fun row => ?_
    obtain ⟨-, hhard, -⟩ := hrepairs pc bank row
    obtain ⟨t, hexec, -, -, -, hmap, -⟩ := hhard (repairOpen_bootState d pc 2) hspare List.not_mem_nil
    exact ⟨t, hexec, hmap⟩
  · intro hnone s d
    refine ⟨fun pc bank => ?_, fun pc bank row => ⟨fun hopen hspare hsoft => ?_, fun hopen hspare hsoft => ?_,
      fun hopen hsoft => hppr_soft hopen hsoft, fun hopen => ?_, fun hopen => ?_⟩,
      fun range cause => ⟨retireRange_again, retireRange_spec⟩⟩
    · obtain ⟨t, hexec, hleft, hstatus, hframe⟩ := readSpareRows_spec s d pc bank
      exact ⟨t, hexec, hleft, hstatus, hframe.2, hframe.keepsMemory, hframe.keepsUnits, hframe.keepsJob, hframe.devs⟩
    · obtain ⟨t, hexec, hmade, hlisted, hleft⟩ := sppr_spec row hopen hspare hsoft
      exact ⟨t, hexec, hmade.status, hlisted, hleft, hmade.list, hmade.errs, hmade.bytes, hmade.units, hmade.job⟩
    · obtain ⟨t, hexec, hmade, hsame, hleft, hfused⟩ := hppr_fresh hopen hspare hsoft
      have hshipped : Config.shippedRepairs (devKey d) = [] := hnone d pc bank fun h0 => hspare (by rw [sparesLeft, h0, Nat.zero_sub])
      refine ⟨t, hexec, hmade.status, hsame, hleft, ?_, by simp [hmade.list], fun z hz => (hmade.bytes z hz).1, hmade.units, hmade.job⟩
      rw [fuseMap_dev, fuseMap_dev, hfused, hshipped, List.append_nil, List.append_nil]
    · obtain ⟨t, hexec, hstatus, hframe⟩ := sppr_denied bank row hopen
      exact ⟨t, hexec, hstatus, hframe.2, hframe.keepsMemory, hframe.keepsUnits, hframe.devs, hframe.flash⟩
    · obtain ⟨t, hexec, hstatus, hframe⟩ := hppr_denied bank row hopen
      exact ⟨t, hexec, hstatus, hframe.2, hframe.keepsMemory, hframe.keepsUnits, hframe.devs, hframe.flash⟩

end Sys2Proof.Machine
end

section
/-! A channel fetches the next descriptor of its chain, or the one that firmware names (R227, R234, R257, R469). -/

namespace Sys2Proof.Machine

/-! ### What a fetch leaves -/

/-- Memory, the sequencers and the job as in a state. -/
def FetchFrame (s t : State) : Prop := t.mem = s.mem ∧ t.seqs = s.seqs ∧ KeepsJob s t

theorem cached_fetchFrame (s : State) : Cached (FetchFrame s) where
  note h := h
  log _ h := h
  check h := h
  cache h := h

theorem FetchFrame.fset {s u : State} (h : FetchFrame s u) {a : Nat} {f : Fld} {v : Nat} : FetchFrame s (fset u a f v) := h

section
variable {s u : State} {e : Engine} {a : Nat} {d : List Byte} (h : FetchesSound s e a d u)
include h

/-- The descriptor, its records and its format state record are verified, and nothing else is done. -/
theorem FetchesSound.frame : FetchFrame s u := by
  obtain ⟨-, -, -, -, -, -, -, -, -, -, -, -, -, hformat⟩ := h
  have := cached_fetchFrame s
  have hsame : FetchFrame s s := ⟨rfl, rfl, rfl, rfl, rfl, rfl⟩
  have hread : State.Has (chRead (chBusy s e true a) e 0) (FetchFrame s) := hsame.fset.fset.fset
  have hverified : (recordsBad (verifyRange (chRead (chBusy s e true a) e 0) (chAgent e) a 64).2 e (parseXfer d)).2.Has (FetchFrame s) :=
    State.Has.verifyAll hread.verifyRange
  have hlast := hverified.verifyFormat (id := (parseXfer d).tensor)
  rwa [hformat] at hlast

/-- The descriptor becomes the channel's current one, with its format state record. -/
theorem FetchesSound.fetchDesc_eq : fetchDesc s e a = u.setChan e { u.chan e with
    cur := some (a, d), format := formatRecord u (parseXfer d).tensor, next := none, pulseDue := false } := by
  obtain ⟨hrange, hretired, hsound, hfree, hup, hown, hd, hop, hrecords, hclean, hkept, hok, hgoes, hformat⟩ := h
  unfold fetchDesc
  simp only [hrange, hretired, hsound, hfree, hup, hown, ← hd, hop, hrecords, hclean, hkept, hok, hgoes, hformat, Bool.not_true,
    Bool.or_false, Bool.false_and, Bool.false_eq_true, List.isEmpty_nil, and_self, List.append_nil, ↓reduceIte]

end

/-- What holds of a channel that has fetched a descriptor. -/
theorem FetchesSound.fetched {s u : State} {e : Engine} {a : Nat} {d : List Byte} (h : FetchesSound s e a d u) :
    ((fetchDesc s e a).chan e).cur = some (a, d) ∧ ((fetchDesc s e a).chan e).next = none ∧
      ((fetchDesc s e a).chan e).format = formatRecord u (parseXfer d).tensor := by
  rw [h.fetchDesc_eq, chan_setChan]
  exact ⟨rfl, rfl, rfl⟩

theorem FetchesSound.fetchDesc_frame {s u : State} {e : Engine} {a : Nat} {d : List Byte} (h : FetchesSound s e a d u) :
    FetchFrame s (fetchDesc s e a) := by
  rw [h.fetchDesc_eq]
  exact h.frame

/-! ### The commands -/

theorem exec_chainNextFetch {s : State} {e : Engine} (h : chHalted s e = false) : exec (.chainNextFetch e) s = .next (chainNext s e) :=
  if_neg (by simp [h])

theorem chCtl_ne_chState (e : Engine) : chState e ≠ chCtl e := by
  cases e <;> simp only [chState, chCtl, DMA_CH_STATE, DMA_CH_CTL, DIE_CH_STATE, DIE_CH_CTL, HDMA_CH_STATE, HDMA_CH_CTL] <;> omega

/-- Firmware starts an idle channel of its own at HEAD (Table DMA-14). -/
theorem exec_firmwareChannelStart {s : State} {e : Engine} (head : Word) (hidle : firmwareChannel e = true) (hhalted : chHalted s e = false)
    (hcur : (s.chan e).cur = none) (hnext : (s.chan e).next = none) : exec (.firmwareChannelStart .firmware e head) s =
      .next (fetchDesc (fset s (chCtl e) f_DMA_CH_CTL_HEAD (head.toNat / 64)) e (bitsAt head.toNat 6 50 * 64)) := by
  have hstill : chHalted (fset s (chCtl e) f_DMA_CH_CTL_HEAD (head.toNat / 64)) e = false :=
    (fbit_fset_ne s _ _ _ (chCtl_ne_chState e)).trans hhalted
  have hchan : (fset s (chCtl e) f_DMA_CH_CTL_HEAD (head.toNat / 64)).chan e = s.chan e :=
    chan_congr (State.setReg_chans _ _ _) e
  change execFirmwareChannelStart .firmware e head s = _
  simp only [execFirmwareChannelStart, guardedWrite_firmware, hidle, hstill, hchan, hcur, hnext, Option.isSome_none, Bool.or_false,
    Bool.false_eq_true, ↓reduceIte]

/-- Settles O34: each command comes to a fetch that meets no fault. -/
theorem chainsFetchTheirNextDescriptor : Obligations.ChainsFetchTheirNextDescriptor := by
  intro s u e n d hhalted cur
  refine ⟨fun hnext hdue hfetch => ?_, fun hnext hdue => ?_, fun head hn hfirmware hcur hnext hfetch => ?_⟩
  · have hchain : chainNext s e = fetchDesc s e n := by simp only [chainNext, hnext, hdue, Bool.false_eq_true, ↓reduceIte]
    obtain ⟨hmem, hseqs, hjob⟩ := hfetch.fetchDesc_frame
    exact ⟨_, (exec_chainNextFetch hhalted).trans (congrArg _ hchain), hfetch.fetched, hmem, hseqs, hjob⟩
  · intro p hfetch
    have hchain : chainNext s e = fetchDesc p e n := by simp only [chainNext, hnext, hdue, p, ↓reduceIte]
    obtain ⟨-, hseqs, -⟩ := hfetch.fetchDesc_frame
    exact ⟨_, (exec_chainNextFetch hhalted).trans (congrArg _ hchain), hfetch.fetched, hseqs⟩
  · subst hn
    obtain ⟨hmem, hseqs, -⟩ := hfetch.fetchDesc_frame
    exact ⟨_, exec_firmwareChannelStart head hfirmware hhalted hcur hnext, hfetch.fetched, hmem.trans (mem_fset _ _ _ _),
      hseqs.trans (seqs_fset _ _ _ _)⟩

end Sys2Proof.Machine
end

section
/-! What the stop of a tile leaves: fault records, slices and queues. The stop ends phases, and with them the infusers walk, captures start
and records of the phase clock log are written (R32, R45, R262, R277, R289, R327). `StopFrame.f` says that a function `f` on that way keeps
the frame, and its proof names the functions that `f` calls, as the layer of `State.Canonical` does. -/

namespace Sys2Proof.Machine

/-! ### The frame -/

/-- The fault records of the tiles and their slices: TL_EV_WDOG to SCU_EMPTY_ROWS. -/
def FaultReg (a : Nat) : Prop := a < 0x800000 ∧ 0x400 ≤ a % 0x20000 ∧ a % 0x20000 < 0x600

/-- The fault records, the slices and what the cores' queues hold are as before. -/
structure StopFrame (s u : State) : Prop where
  regs : ∀ a, FaultReg a → u.reg a = s.reg a
  slices : u.slices = s.slices
  queues : ∀ c, (u.seq c).queues = (s.seq c).queues

theorem StopFrame.refl (s : State) : StopFrame s s := ⟨fun _ _ => rfl, rfl, fun _ => rfl⟩

section
variable {s u : State} (h : StopFrame s u)
include h

protected theorem StopFrame.ite {t : State} (ht : StopFrame s t) {c : Prop} [Decidable c] : StopFrame s (if c then u else t) := by
  split
  · exact h
  · exact ht

protected theorem StopFrame.foldl {β : Type} {l : List β} {f : State → β → State}
    (hf : ∀ {v : State} {b : β}, StopFrame s v → StopFrame s (f v b)) : StopFrame s (l.foldl f u) :=
  List.foldlRecOn (motive := fun v => StopFrame s v) l f h fun _ hv _ _ => hf hv

/-- A fold that gathers a result beside the state. -/
protected theorem StopFrame.foldlSnd {α β : Type} {a : α} {l : List β} {f : α × State → β → α × State}
    (hf : ∀ {v : α × State} {b : β}, StopFrame s v.2 → StopFrame s (f v b).2) : StopFrame s (l.foldl f (a, u)).2 :=
  List.foldlRecOn (motive := fun v => StopFrame s v.2) l f h fun _ hv _ _ => hf hv

/-- One proof for a state that several places name. -/
protected theorem StopFrame.use {p : Prop} (k : StopFrame s u → p) : p := k h

/-- Every other part of the state may differ. -/
protected theorem StopFrame.update {mem env errs tiles pools moves chans mesh spanHeld dieHeld dieIn devs dies tempRetired beat windowStart
    slews ptpStamp syncBase car stp job repair links rings qps regions flash upd mgr snaps pwr pins vid halves out free pending} :
    StopFrame s ⟨u.regs, mem, env, errs, u.seqs, tiles, u.slices, pools, moves, chans, mesh, spanHeld, dieHeld, dieIn, devs, dies,
      tempRetired, beat, windowStart, slews, ptpStamp, syncBase, car, stp, job, repair, links, rings, qps, regions, flash, upd, mgr,
      snaps, pwr, pins, vid, halves, out, free, pending⟩ := ⟨h.regs, h.slices, h.queues⟩

protected theorem StopFrame.setReg {a v : Nat} (ha : ¬ FaultReg a) : StopFrame s (u.setReg a v) :=
  ⟨fun b hb => (reg_setReg_ne u v fun e : b = a => ha (e ▸ hb)).trans (h.regs b hb), h.slices, h.queues⟩

protected theorem StopFrame.fset {a : Nat} {f : Fld} {v : Nat} (ha : ¬ FaultReg a := by
    simp only [FaultReg, MGS_ALERT, MGS_STATUS, INF_CKPT_CURSOR, INF_DIE_STATUS, INF_CKPT_STATUS, INF_CKPT_CTL, INF_POISON, INF_CKPT_FWD,
      INF_FROZEN, INF_BAD_LANES, HIF_UPD_STATUS, TBU_PLOG_DROP, TBU_PLOG_WP, TBU_STATUS, TBU_RESTART, TBU_CTL, PWR_STATE]
    omega) : StopFrame s (fset u a f v) := h.setReg ha

protected theorem StopFrame.fadd {a : Nat} {f : Fld} {n : Nat} (ha : ¬ FaultReg a := by
    simp only [FaultReg, MGS_STATUS, INF_POISON, INF_CKPT_FWD, INF_FROZEN, INF_BAD_LANES, HIF_UPD_STATUS, TBU_PLOG_DROP]
    omega) : StopFrame s (fadd u a f n) := h.setReg ha

/-- A core's queues are kept while the rest of its sequencer is written. -/
protected theorem StopFrame.setSeq {c x} (hx : x.queues = (u.seq c).queues) : StopFrame s (u.setSeq c x) := by
  refine ⟨h.regs, h.slices, fun d => ?_⟩
  by_cases hd : d = c
  · rw [hd, seq_setSeq, hx, h.queues]
  · rw [seq_setSeq_ne u x hd, h.queues]

end

/-! ### Notes of events -/

section
variable {s u : State} (h : StopFrame s u)
include h

protected theorem StopFrame.emit {msg} : StopFrame s (emit u msg) := h.update

protected theorem StopFrame.waitLink {p w} : StopFrame s (waitLink u p w) := h.ite h.update

protected theorem StopFrame.msix {port vector} : StopFrame s (msix u port vector) :=
  (h.emit.ite h.waitLink).ite (h.update.setReg (by simp only [FaultReg, MSIX_PBA]; omega))

protected theorem StopFrame.interrupt {source} : StopFrame s (interrupt u source) := h.msix.ite h

protected theorem StopFrame.refreshAlert : StopFrame s (refreshAlert u) := h.update

protected theorem StopFrame.raiseAlert {f} : StopFrame s (raiseAlert u f) :=
  h.refreshAlert.ite (h.fset.refreshAlert.use fun h1 => h1.interrupt.ite h1)

protected theorem StopFrame.post {k unit data} : StopFrame s (post u k unit data) := h.fadd.update.raiseAlert.ite h.update

protected theorem StopFrame.fireSnapshot {source tile} : StopFrame s (fireSnapshot u source tile) := h.update

protected theorem StopFrame.withhold {n} : StopFrame s (withhold u n) := h.update

protected theorem StopFrame.mcBump {a sel amount} (ha : ¬ FaultReg a) : StopFrame s (mcBump u a sel amount) :=
  (h.fset ha).ite (h.ite (((h.fset ha).fset ha).post.raiseAlert.ite ((h.fset ha).fset ha)))

/-- The module's counters of the run note an amount. -/
protected theorem StopFrame.mcModule {source unit amount} : StopFrame s (mcModule u source unit amount) := by
  refine h.ite (List.foldlRecOn (motive := fun v => StopFrame s v) _ _ h fun v hv p hp => StopFrame.mcBump hv ?_)
  simp only [List.mem_filter, Bool.and_eq_true, decide_eq_true_eq] at hp
  obtain ⟨-, ⟨⟨⟨hlo, -, -⟩, -⟩, -⟩, -⟩ := hp
  unfold MGS_MC_SEL at hlo
  unfold FaultReg
  omega

protected theorem StopFrame.caddyParity {t kind a : Nat} : StopFrame s (caddyParity u t kind a) := by
  have ha : ¬ FaultReg (CAD_PERR t) := by
    simp only [FaultReg, CAD_PERR]
    omega
  exact (h.fadd ha).ite ((((h.fset ha).fset ha).fset ha).fset ha)

omit h in
theorem not_faultReg_errlogOf (k : Nat) : ¬ FaultReg (errlogOf k) := by
  unfold errlogOf
  split
  · simp only [FaultReg, HBM_ERRLOG]
    omega
  · simp only [FaultReg, DTR_ERRLOG]
    omega

protected theorem StopFrame.logUncorrectable {k unit bank row} : StopFrame s (logUncorrectable u k unit bank row) := by
  have ha := not_faultReg_errlogOf k
  exact ((h.fset ha).ite (((((h.fset ha).fset ha).fset ha).fset ha).fset ha)).post.raiseAlert

end

/-! ### Memory -/

section
variable {s u : State} (h : StopFrame s u)
include h

protected theorem StopFrame.clearErr {k} : StopFrame s (clearErr u k) := h.update

/-- A unit that passes no cache verifies a block. -/
protected theorem StopFrame.verifyKey {k a} : StopFrame s (verifyKey u .other k a).2 := by
  unfold verifyKey
  dsimp only
  split
  · exact h.logUncorrectable
  · exact h.caddyParity.ite h
  · exact h
  · split
    · exact h.update
    · exact h.update
  · exact h

omit h in
protected theorem StopFrame.verifyAll {as} (h : StopFrame s u) : StopFrame s (verifyAll u .other as).2 := by
  induction as generalizing u with
  | nil => exact h
  | cons a as ih => exact ih (by split; exacts [h, h.verifyKey])

protected theorem StopFrame.verifyRange {a n} : StopFrame s (verifyRange u .other a n).2 := h.verifyAll

protected theorem StopFrame.verifyFormat {id} : StopFrame s (verifyFormat u id).2 := by
  unfold verifyFormat
  split
  · exact h
  · exact h.verifyRange

protected theorem StopFrame.writeCells {ag ws} : StopFrame s (writeCells u ag ws) := by
  obtain ⟨_, _, _, _, hw, -⟩ := writeCells_frame u ag ws
  rw [hw]
  exact h.update

protected theorem StopFrame.writeBlock {ag b bytes poison} : StopFrame s (writeBlock u ag b bytes poison) := by
  obtain ⟨_, _, _, hw, -⟩ := writeBlock_spec u ag b bytes poison
  rw [hw]
  exact h.update

protected theorem StopFrame.writeBytes {ag a bs poison} : StopFrame s (writeBytes u ag a bs poison) := h.writeCells

protected theorem StopFrame.mergeAmax {id v} : StopFrame s (mergeAmax u id v) := h.ite (h.verifyRange.ite h.verifyRange.writeBytes)

end

/-! ### The infusers' walk and the capture -/

section
variable {s u : State} (h : StopFrame s u)
include h

protected theorem StopFrame.setDie {die x} : StopFrame s (u.setDie die x) := h.update

protected theorem StopFrame.verifyStack {die off n} : StopFrame s (verifyStack u die off n).2 :=
  (h.clearErr.ite h).foldlSnd fun hv => hv.verifyKey

protected theorem StopFrame.verifyHyper {e n} : StopFrame s (verifyHyper u e n).2 := by
  unfold verifyHyper
  split
  · exact h
  · refine StopFrame.verifyFormat ?_
    split
    · exact h.verifyRange
    · exact h.verifyRange.verifyRange

protected theorem StopFrame.copyKeys {k a n} : StopFrame s (copyKeys u k a n) := by
  unfold copyKeys
  extract_lets v
  have hv : StopFrame s v.2 := h.foldlSnd fun hv => hv.verifyKey
  exact hv.writeCells

protected theorem StopFrame.setCursor {die pos} : StopFrame s (setCursor u die pos) := h.setDie.fset.fset

protected theorem StopFrame.refreshBusy {die} : StopFrame s (refreshBusy u die) := h.fset

protected theorem StopFrame.captureCheck : StopFrame s (captureCheck u) :=
  (h.foldl fun hv => hv.setDie.refreshBusy.ite hv).use fun h1 => (h1.fset.fset.foldl fun hv => hv.emit).ite h1

protected theorem StopFrame.captureDie {n die} : StopFrame s (captureDie u n die) :=
  h.writeBytes.copyKeys.verifyRange.writeCells.setDie.setCursor.refreshBusy

protected theorem StopFrame.captureStart {n outcome} : StopFrame s (captureStart u n outcome) :=
  (h.fset.fset.ite (h.fset.fset.fset.foldl fun hv => hv.captureDie).captureCheck).ite h

protected theorem StopFrame.leaveRecords {die off entry n} : StopFrame s (leaveRecords u die off entry n) :=
  (h.ite h.fset.fset.fset.fset).fadd

protected theorem StopFrame.forwardRecord {die off pos left} : StopFrame s (forwardRecord u die off pos left) :=
  (h.copyKeys.setCursor.use fun h1 => h1.ite h1.fadd.mcModule).ite h

protected theorem StopFrame.walkRecord {die e y n start r} : StopFrame s (walkRecord die e y n start u r) :=
  h.verifyStack.verifyStack.leaveRecords.forwardRecord.ite
    (h.verifyStack.verifyStack.forwardRecord.use fun h1 => (h1.fadd.ite h1.fadd.fadd.fset).use fun h2 =>
      h2.writeBlock.mergeAmax.mcModule.ite h2)

protected theorem StopFrame.walkEntry {die n i} : StopFrame s (walkEntry die n u i) :=
  StopFrame.use (by split; exacts [h.verifyStack, h.verifyStack.verifyHyper]) fun h1 =>
    (h1.leaveRecords.foldl fun hv => hv.writeBytes.setCursor.ite hv).ite
      ((h1.foldl fun hv => hv.walkRecord).use fun h2 => h2.writeBlock.writeBlock.ite h2)

protected theorem StopFrame.walkDie {die} : StopFrame s (walkDie u die) := by
  unfold walkDie
  split
  · exact h.ite (h.setDie.foldl fun hv => hv.walkEntry).refreshBusy
  · exact h

protected theorem StopFrame.infuserWalk {n} : StopFrame s (infuserWalk u n) :=
  StopFrame.captureCheck ((h.update.foldl fun hv => hv.setDie.refreshBusy).foldl fun hv => hv.walkDie)

end

/-! ### Ends of phases, and stops -/

section
variable {s u : State} (h : StopFrame s u)
include h

protected theorem StopFrame.setTile {t x} : StopFrame s (u.setTile t x) := h.update

protected theorem StopFrame.setUpdState {x} : StopFrame s (setUpdState u x) := h.ite h.fset.interrupt.post

protected theorem StopFrame.provenStep : StopFrame s (provenStep u) := (h.fadd.update.setUpdState.ite h.fadd).ite h

protected theorem StopFrame.dropRecord : StopFrame s (dropRecord u) := h.fadd.fset.post

protected theorem StopFrame.writeRecord {bytes} : StopFrame s (writeRecord u bytes) := by
  unfold writeRecord
  refine h.dropRecord.ite ?_
  refine h.dropRecord.ite ?_
  split
  · exact h.waitLink
  · exact h.waitLink.ite h.writeBytes.fset

protected theorem StopFrame.logPhase {r e} : StopFrame s (logPhase u r e) := h.ite h.update.writeRecord

protected theorem StopFrame.hold : StopFrame s (hold u) := h.fset.fset.update

protected theorem StopFrame.stopCheck : StopFrame s (stopCheck u) :=
  (h.update.fset.fset.fset.fset.ite h.update.fset.fset.fset).ite h

protected theorem StopFrame.phaseEnds {n p} : StopFrame s (phaseEnds u n p) := by
  unfold phaseEnds
  split
  · exact h
  · exact (h.logPhase.update.ite h.logPhase.update).use fun h3 =>
      ((h3.infuserWalk.ite h3).use fun h4 => (h4.provenStep.ite h4).captureStart.use fun h5 => h5.hold.ite h5).ite h3

protected theorem StopFrame.tilePhaseEnds {t n p flags} : StopFrame s (tilePhaseEnds u t n p flags) :=
  (h.ite h.update).use fun h1 => (h1.setTile.phaseEnds.ite h1.setTile).stopCheck

omit h in
protected theorem StopFrame.settleAll {n} (h : StopFrame s u) : StopFrame s (settleAll n u) := by
  induction n generalizing u with
  | zero => exact h
  | succ n ih => exact (ih (h.foldl fun hv => hv.tilePhaseEnds.ite hv)).ite h

/-- The cores of a tile that stop keep their queues. -/
protected theorem StopFrame.stopCores {t} : StopFrame s (stopCores u t) :=
  h.foldl fun {v c} hv => hv.ite (hv.setSeq (c := c) (x := { v.seq c with status := .stopped }) rfl)

protected theorem StopFrame.provingRestart : StopFrame s (provingRestart u) := h.fset.ite h

protected theorem StopFrame.stopTile {t data} : StopFrame s (stopTile u t data) := by
  unfold stopTile
  split
  · exact h.withhold
  · extract_lets s1 old s2 s3 s4 x s5
    have h4 : StopFrame s s4 := h.withhold.setTile.stopCores.post.raiseAlert.interrupt.provingRestart
    exact (h4.tilePhaseEnds.ite h4).settleAll

protected theorem StopFrame.faultStop {t data} : StopFrame s (faultStop u t data) := (h.ite h.fireSnapshot).stopTile

end

end Sys2Proof.Machine
end

section
/-! The abort of a channel: its record, the halt, the discarded descriptors and the stopped tile (R175, R236, R237, Table DMA-4). -/

namespace Sys2Proof.Machine

/-! ### The record and the halt -/

theorem channelReg_chState (e : Engine) : ChannelReg (chState e) := by
  cases e <;> simp only [chState, ChannelReg, DMA_CH_STATE, DIE_CH_STATE, HDMA_CH_STATE] <;> omega

theorem channelReg_chAbort (e : Engine) : ChannelReg (chAbort e) := by
  cases e <;> simp only [chAbort, ChannelReg, DMA_CH_ABORT, DIE_CH_ABORT, HDMA_CH_ABORT] <;> omega

theorem chAbort_ne_chState (e : Engine) : chAbort e ≠ chState e := by
  cases e <;> simp only [chAbort, chState, DMA_CH_ABORT, DMA_CH_STATE, DIE_CH_ABORT, DIE_CH_STATE, HDMA_CH_ABORT, HDMA_CH_STATE] <;>
    omega

theorem abortWord_lt {channel : Nat} (cause residue : Nat) : abortWord cause channel residue < 2 ^ 64 := by
  unfold abortWord
  omega

/-- An abort record is valid (Table DMA-4). -/
theorem bitAt_abortWord (cause channel residue : Nat) : bitAt (abortWord cause channel residue) 16 = true := by
  simp only [bitAt, abortWord, beq_iff_eq]
  omega

/-- A channel's abort is recorded, it is halted, and holds nothing. -/
def abortNoted (s : State) (e : Engine) (cause residue addr : Nat) : State :=
  (fset (chBusy (s.setReg (chAbort e) (abortWord cause (chNumber e) residue)) e false addr) (chState e)
    f_DMA_CH_STATE_HALTED 1).setChan e Chan.empty

section
variable (s : State) (e : Engine) (cause residue addr : Nat)

theorem reg_abortNoted : (abortNoted s e cause residue addr).reg (chAbort e) = abortWord cause (chNumber e) residue := by
  have hne := chAbort_ne_chState e
  rw [abortNoted, reg_setChan, chBusy, reg_fset_ne _ _ _ hne, reg_fset_ne _ _ _ hne, reg_fset_ne _ _ _ hne, reg_setReg_same,
    Nat.mod_eq_of_lt (abortWord_lt cause residue)]

theorem halted_abortNoted : chHalted (abortNoted s e cause residue addr) e = true := by
  rw [chHalted, fbit, abortNoted, fget_congr (reg_setChan _ _ _ _), ← fbit]
  exact fbit_fset_one _ _ _ (by decide)

end

/-! ### What follows of an abort -/

section
variable {m q c : Bool} {s u : State} (h : Leaves m q c s u)
include h

protected theorem Leaves.abortSeen {t ch} : Leaves m q c s (abortSeen u t ch) := by
  have ha : ¬ ChannelReg (DMA_IRQ t.val) := by
    simp only [ChannelReg, DMA_IRQ, HBM_MODE, INF_FSTATE_BASE]
    omega
  exact (h.setReg ha).interrupt.ite (h.setReg ha)

end

protected theorem Leaves.writeAbort {q c : Bool} {s u : State} (h : Leaves false q c s u) {t ch a bytes} :
    Leaves false q c s (writeAbort u t ch a bytes) := h.abortSeen.ite (h.waitLink.ite h.writeBytes.abortSeen)

/-- The descriptors of a core's channel are discarded. -/
def chainDropped (s : State) (k : CoreId) : State := s.setSeq k { s.seq k with queues := setNth (s.seq k).queues 2 [] }

theorem queue_chainDropped (s : State) (k : CoreId) : nthD [] ((chainDropped s k).seq k).queues 2 = [] := by
  rw [chainDropped, seq_setSeq, nthD, setNth, List.getD_eq_getElem?_getD, List.getElem?_set]
  split
  · split <;> rfl
  · contradiction

section
variable (s : State) (e : Engine) (cause residue addr : Nat)

/-- On a core's channel an abort ends with the fault's stop (R237). -/
theorem abortChannel_core {k : CoreId} (hk : chCore e = some k) : ∃ v : State,
    Leaves false true true (abortNoted s e cause residue addr) v ∧
      abortChannel s e cause residue addr = faultStop (chainDropped v k) k.tile (abortWord cause (chNumber e) residue) := by
  cases e with
  | tile t c =>
    have ht : k.tile = t := by
      simp only [chCore] at hk
      split at hk
      · exact congrArg CoreId.tile (Option.some.inj hk).symm
      · exact absurd hk (by simp)
    subst ht
    unfold abortChannel
    dsimp only
    rw [hk]
    exact ⟨_, (Leaves.refl _).writeAbort.post, rfl⟩
  | die => exact absurd hk (by simp [chCore])
  | host => exact absurd hk (by simp [chCore])

theorem leaves_abortChannel : Leaves false false true (abortNoted s e cause residue addr) (abortChannel s e cause residue addr) := by
  cases hk : chCore e with
  | some k =>
    obtain ⟨v, hv, habort⟩ := abortChannel_core s e cause residue addr hk
    rw [habort]
    exact Leaves.faultStop (Leaves.setSeq ⟨hv.regs, nofun, nofun, hv.chans⟩)
  | none =>
    unfold abortChannel
    dsimp only
    split
    · rw [hk]
      exact (Leaves.refl _).writeAbort.post
    · exact (Leaves.refl _).post.completeRing
    · exact (Leaves.refl _).post

theorem reg_abortChannel : (abortChannel s e cause residue addr).reg (chAbort e) = abortWord cause (chNumber e) residue :=
  ((leaves_abortChannel s e cause residue addr).regs _ (channelReg_chAbort e)).trans (reg_abortNoted s e cause residue addr)

theorem halted_abortChannel : chHalted (abortChannel s e cause residue addr) e = true := by
  rw [chHalted, fbit, fget_congr ((leaves_abortChannel s e cause residue addr).regs _ (channelReg_chState e))]
  exact halted_abortNoted s e cause residue addr

theorem chan_abortChannel : (abortChannel s e cause residue addr).chan e = Chan.empty :=
  (chan_congr ((leaves_abortChannel s e cause residue addr).chans rfl) e).trans (chan_setChan _ e _)

theorem faultStop_stopped (t : TileId) (data : Nat) : ((faultStop s t data).tile t).stopped = true := stopTile_stopped _ t data

/-- A core's channel stops the tile and empties the core's queue (R237). -/
theorem stops_abortChannel {k : CoreId} (hk : chCore e = some k) : ((abortChannel s e cause residue addr).tile k.tile).stopped = true ∧
    nthD [] ((abortChannel s e cause residue addr).seq k).queues 2 = [] := by
  obtain ⟨v, -, habort⟩ := abortChannel_core s e cause residue addr hk
  have hframe : StopFrame (chainDropped v k) (abortChannel s e cause residue addr) := habort ▸ (StopFrame.refl _).faultStop
  exact ⟨habort ▸ faultStop_stopped _ _ _, (congrArg (nthD [] · 2) (hframe.queues k)).trans (queue_chainDropped v k)⟩

end

/-! ### A walker's stream (R175) -/

/-- An SCU fault's record is filled, unless it holds one (R174). -/
def scuRecorded (s : State) (t : TileId) (core cause entry ctx gen : Nat) : State :=
  let r := SCU_FAULT t.val
  let x := SCU_FAULT_CTX t.val
  if fbit s r f_SCU_FAULT_VALID then s
  else fset (fset (fset (fset (fset (fset s r f_SCU_FAULT_CAUSE cause) r f_SCU_FAULT_CORE core) r
    f_SCU_FAULT_VALID 1) r f_SCU_FAULT_ENTRY entry) x f_SCU_FAULT_CTX_CONTEXT ctx) x f_SCU_FAULT_CTX_GENERATION gen

theorem valid_scuRecorded (s : State) (t : TileId) (core cause entry ctx gen : Nat) :
    fbit (scuRecorded s t core cause entry ctx gen) (SCU_FAULT t.val) f_SCU_FAULT_VALID = true := by
  have hne : SCU_FAULT t.val ≠ SCU_FAULT_CTX t.val := by
    unfold SCU_FAULT SCU_FAULT_CTX
    omega
  unfold scuRecorded
  dsimp only
  split
  · assumption
  · rw [fbit_fset_ne _ _ _ _ hne, fbit_fset_ne _ _ _ _ hne, fbit_fset_other _ _ _ (by decide) (by decide)]
    exact fbit_fset_one _ _ _ (by decide)

theorem slices_fset (s : State) (a : Nat) (f : Fld) (v : Nat) : (fset s a f v).slices = s.slices := (keepsUnits_fset s a f v).2.2.1

theorem slices_scuRecorded (s : State) (t : TileId) (core cause entry ctx gen : Nat) :
    (scuRecorded s t core cause entry ctx gen).slices = s.slices := by
  unfold scuRecorded
  dsimp only
  split
  · rfl
  · simp only [slices_fset]

section
variable {m q c : Bool} {s u : State} (h : Leaves m q c s u)
include h

protected theorem Leaves.putSlice {t x} : Leaves m q c s (putSlice u t x) := by
  have ha : ¬ ChannelReg (SCU_QSTAT t.val) := by
    simp only [ChannelReg, SCU_QSTAT, HBM_MODE, INF_FSTATE_BASE]
    omega
  have hset : Leaves m q c s (u.setSlice t x) := h.update
  exact (((hset.fset ha).fset ha).fset ha).fset ha

protected theorem Leaves.retireWalkers {k} : Leaves m q c s (retireWalkers u k) := h.foldl fun hv => hv.putSlice.ite hv

protected theorem Leaves.scuRecorded {t core cause entry ctx gen} : Leaves m q c s (scuRecorded u t core cause entry ctx gen) := by
  have hr : ¬ ChannelReg (SCU_FAULT t.val) := by
    simp only [ChannelReg, SCU_FAULT, HBM_MODE, INF_FSTATE_BASE]
    omega
  have hx : ¬ ChannelReg (SCU_FAULT_CTX t.val) := by
    simp only [ChannelReg, SCU_FAULT_CTX, HBM_MODE, INF_FSTATE_BASE]
    omega
  exact h.ite ((((((h.fset hr).fset hr).fset hr).fset hr).fset hx).fset hx)

end

section
variable (s : State) (c : CoreId) (cause entry ctx gen : Nat)

/-- What an SCU fault leaves before its tile stops: no walker of the core, one descriptor less, and the record. -/
def scuNoted : State := scuRecorded (dropHead (retireWalkers s c) c 3) c.tile c.core.val cause entry ctx gen

theorem scuFault_eq : scuFault s c cause entry ctx gen =
    faultStop (scuNoted s c cause entry ctx gen) c.tile ((scuNoted s c cause entry ctx gen).reg (SCU_FAULT c.tile.val)) := rfl

theorem stopFrame_scuFault : StopFrame (scuNoted s c cause entry ctx gen) (scuFault s c cause entry ctx gen) := by
  rw [scuFault_eq]
  exact (StopFrame.refl _).faultStop

theorem faultReg_scuRecord (t : TileId) : FaultReg (SCU_FAULT t.val) := by
  unfold FaultReg SCU_FAULT
  omega

theorem valid_scuFault : fbit (scuFault s c cause entry ctx gen) (SCU_FAULT c.tile.val) f_SCU_FAULT_VALID = true := by
  rw [fbit, fget_congr ((stopFrame_scuFault s c cause entry ctx gen).regs _ (faultReg_scuRecord c.tile))]
  exact valid_scuRecorded _ _ _ _ _ _ _

/-- The walkers of the core end in every slice (R174). -/
theorem walkers_scuFault (t : TileId) : ∀ w ∈ ((scuFault s c cause entry ctx gen).slice t).walkers, w.core ≠ coreNumber c := by
  have hslices : (scuFault s c cause entry ctx gen).slices = (retireWalkers s c).slices :=
    (stopFrame_scuFault s c cause entry ctx gen).slices.trans ((slices_scuRecorded _ _ _ _ _ _ _).trans (State.setSeq_slices _ _ _))
  rw [State.slice, hslices]
  exact retireWalkers_walkers s c t

theorem stopped_scuFault : ((scuFault s c cause entry ctx gen).tile c.tile).stopped = true := by
  rw [scuFault_eq]
  exact faultStop_stopped _ _ _

theorem leaves_scuFault : Leaves false false true s (scuFault s c cause entry ctx gen) := by
  rw [scuFault_eq]
  exact Leaves.faultStop (Leaves.scuRecorded (Leaves.setSeq (Leaves.refl s).retireWalkers))

end

/-- A channel that carries a stream is the walker's, and the walker's core one of the channel's tile. -/
theorem streamOn_eq_some {s : State} {e : Engine} {w : Walker} (h : streamOn s e = some w) :
    streamEngine w = e ∧ coreNumber (coreOf w.core) = w.core := by
  cases e with
  | tile t ch =>
    have hw := List.find?_some h
    simp only [Bool.and_eq_true, decide_eq_true_eq, beq_iff_eq] at hw
    obtain ⟨htile, hengine⟩ := hw
    refine ⟨hengine, ?_⟩
    simp only [coreNumber, coreOf]
    omega
  | die => exact absurd h (by simp [streamOn])
  | host => exact absurd h (by simp [streamOn])

/-- An abort request ends the stream, whatever of its rows it still writes. -/
theorem abortStream_eq (s : State) (w : Walker) (moved : Nat) : ∃ v, abortStream s w moved = streamAborts v w 1 := by
  unfold abortStream
  dsimp only
  split
  · exact ⟨_, rfl⟩
  · exact ⟨_, rfl⟩

/-- The end of a stream halts its channel, stops the tile with an SCU fault and ends the core's walkers. -/
theorem streamAborts_spec (s : State) (w : Walker) (cause : Nat) (hcore : coreNumber (coreOf w.core) = w.core) :
    chHalted (streamAborts s w cause) (streamEngine w) = true ∧ ((streamAborts s w cause).tile (coreOf w.core).tile).stopped = true ∧
      fbit (streamAborts s w cause) (SCU_FAULT (coreOf w.core).tile.val) f_SCU_FAULT_VALID = true ∧
      ∀ t, ∀ v ∈ ((streamAborts s w cause).slice t).walkers, v.core ≠ w.core := by
  unfold streamAborts
  extract_lets c f a
  refine ⟨?_, stopped_scuFault _ _ _ _ _ _, valid_scuFault _ _ _ _ _ _, fun t v hv => hcore ▸ walkers_scuFault _ _ _ _ _ _ t v hv⟩
  rw [chHalted, fbit, fget_congr ((leaves_scuFault _ _ _ _ _ _).regs _ (channelReg_chState _))]
  exact halted_abortChannel _ _ _ _ _

end Sys2Proof.Machine
end

section
/-! An abort request meets a transfer before its last element: the transfer is cut, and its channel aborts (R236, R238). -/

namespace Sys2Proof.Machine

/-! ### The elements of a LINEAR transfer -/

theorem length_filter_below (w lo n : Nat) : ((List.range w).filter fun j => decide (lo + j < n)).length = min w (n - lo) := by
  induction w with
  | zero => simp
  | succ w ih =>
    rw [List.range_succ, List.filter_append, List.length_append, ih]
    simp only [List.filter_cons, List.filter_nil, decide_eq_true_eq]
    split
    · rw [List.length_singleton]
      omega
    · rw [List.length_nil]
      omega

/-- Blocks of 32 cover an extent. -/
theorem sum_blocks (n c : Nat) : ((List.range c).map fun i => min 32 (n - 32 * i)).sum = min n (32 * c) := by
  induction c with
  | zero => simp
  | succ c ih =>
    rw [List.range_succ, List.map_append, List.sum_append, ih, List.map_singleton, List.sum_singleton]
    omega

/-- The groups of one extent hold each of its indices once, and but for the end of the last block nothing else. -/
theorem sum_groupIndices (fmt n : Nat) : ((groupIndices fmt 0 [n]).map fun g => (g.filter (within [n])).length).sum = n := by
  have hindices (m : Nat) : indices [m] = (List.range m).map fun i => [i] := by simp [indices]
  have hwithin (i : Nat) : within [n] [i] = decide (i < n) := by simp [within]
  have hat (f : Nat → Nat) (i : Nat) : inBlocks 0 f [i] = [f i] := rfl
  unfold groupIndices
  split
  · have hblock (i : Nat) : (((List.range 32).map fun j => [32 * i + j]).filter (within [n])).length = min 32 (n - 32 * i) := by
      rw [List.filter_map, List.length_map, ← length_filter_below]
      simp only [Function.comp_def, hwithin]
    simp only [hat, hindices, List.map_map, Function.comp_def, hblock, sum_blocks]
    unfold ceilDiv
    omega
  · simp only [hindices, List.map_map, Function.comp_def]
    rw [List.map_congr_left (g := fun _ => 1) fun i hi => by simp [hwithin, List.mem_range.1 hi]]
    simp

/-- The units of a LINEAR transfer count its elements (R228). -/
theorem unitCount_linear {x : Xfer} (hkind : x.kind = 0) (s : State) (ag : Agent) : unitCount (plainUnits x (stridesOf s ag x)
    (srcSide x (stridesOf s ag x)) (dstSide x (stridesOf s ag x))) = x.length := by
  have hr : (stridesOf s ag x).ext = [x.length] := by
    rw [stridesOf, if_neg (by rw [hkind]; decide)]
  unfold plainUnits
  rw [hr]
  split
  · next h0 =>
    have : x.length = 0 := by simpa using h0
    simp [unitCount, this]
  · rw [unitCount, List.map_map]
    refine Eq.trans (congrArg List.sum (List.map_congr_left fun g _ => ?_)) (sum_groupIndices x.dstFmt x.length)
    simp only [Function.comp_def, List.filter_map, List.length_map]

/-! ### The abort -/

/-- Units that all run within a limit do not count beyond it. -/
theorem unitCount_le_of_takeUnits {s : State} {x : Xfer} {k : Nat} {us : List Unit_} {n : Nat} (hn : n ≤ k)
    (h : (takeUnits s x (some k) n us).1.length = us.length) : n + unitCount us ≤ k := by
  induction us generalizing n with
  | nil => simpa [unitCount] using hn
  | cons v us ih =>
    simp only [takeUnits, decide_eq_true_eq] at h
    split at h
    · simp at h
    · next hlimit =>
      split at h
      · simp at h
      · have := ih (Nat.le_of_not_lt hlimit) (by simpa using h)
        simp only [unitCount, List.map_cons, List.sum_cons] at this ⊢
        omega

/-- A channel ends with an abort. -/
def Aborts (e : Engine) (t : State) : Prop := ∃ v cause residue addr, t = abortChannel v e cause residue addr

theorem aborts_abortChannel (s : State) (e : Engine) (cause residue addr : Nat) : Aborts e (abortChannel s e cause residue addr) :=
  ⟨s, cause, residue, addr, rfl⟩

theorem Aborts.halted {e : Engine} {t : State} (h : Aborts e t) :
    chHalted t e = true ∧ t.chan e = Chan.empty ∧ bitAt (t.reg (chAbort e)) 16 = true := by
  obtain ⟨v, cause, residue, addr, rfl⟩ := h
  refine ⟨halted_abortChannel _ _ _ _ _, chan_abortChannel _ _ _ _ _, ?_⟩
  rw [reg_abortChannel]
  exact bitAt_abortWord _ _ _

/-- A fault or the limit ends the run of units that count beyond the limit. -/
theorem aborts_runUnits {k : Nat} {us : List Unit_} (h : k < unitCount us) (s : State) (e : Engine) (a : Nat) (d rec_ : List Byte) :
    Aborts e (runUnits s e a d rec_ (some k) us) := by
  unfold runUnits
  simp only [Option.isNone_some, Bool.false_and, Bool.false_eq_true, ↓reduceIte]
  split
  · exact aborts_abortChannel _ _ _ _ _
  · rw [if_neg fun hall => ?_]
    · exact aborts_abortChannel _ _ _ _ _
    · have := unitCount_le_of_takeUnits (Nat.zero_le k) hall
      omega

/-- A descriptor that cannot start aborts, and one that starts does as its run does. -/
theorem aborts_withDesc {e : Engine} {act : State → State} (h : ∀ u, Aborts e (act u)) (s : State) (a : Nat) (d : List Byte) :
    Aborts e (withDesc s e a d act) := by
  unfold withDesc
  dsimp only
  split
  · exact aborts_abortChannel _ _ _ _ _
  · split
    · exact aborts_abortChannel _ _ _ _ _
    · split
      · exact h _
      · exact aborts_abortChannel _ _ _ _ _

/-- A LINEAR transfer with a limit below its count aborts. -/
theorem aborts_runLimited {d : List Byte} (hkind : (parseXfer d).kind = 0) (hplain : isPlain (parseXfer d) = true) {k : Nat}
    (hk : k < (parseXfer d).length) (s : State) (e : Engine) (a : Nat) (rec_ : List Byte) : Aborts e (runLimited s e a d rec_ k) := by
  simp only [isPlain, Bool.and_eq_true, beq_iff_eq, Bool.not_eq_true'] at hplain
  obtain ⟨⟨-, hstrain⟩, hscrub⟩ := hplain
  have hrun : runLimited s e a d rec_ k = runPlain s e (some k) a d rec_ := by
    simp only [runLimited, hscrub, hkind, hstrain, Bool.false_eq_true, ↓reduceIte]
  rw [hrun]
  exact aborts_runUnits (by rwa [unitCount_linear hkind]) s e a d rec_

/-- An abort request for a channel whose transfer has not moved all its elements. -/
theorem aborts_requestAbort {s : State} {e : Engine} {moved other a : Nat} {d rec_ : List Byte} (hnext : (s.chan e).next = none)
    (hcur : current s e = some (a, d, rec_)) (hkind : (parseXfer d).kind = 0) (hplain : isPlain (parseXfer d) = true)
    (hmoved : moved < wholeCount s e d) : Aborts e (requestAbort s e moved other) := by
  have hup : chHalted s e = false := by
    rw [← Bool.not_eq_true]
    intro hhalted
    simp [current, hhalted] at hcur
  have hlength : moved < (parseXfer d).length := by simpa [wholeCount, hkind] using hmoved
  simp only [requestAbort, hup, hnext, hcur, Option.isSome_none, Bool.false_eq_true, ↓reduceIte]
  split
  · exact aborts_abortChannel _ _ _ _ _
  · rw [if_neg (Nat.not_le_of_lt hmoved)]
    exact aborts_withDesc (fun u => aborts_runLimited hkind hplain hlength u e a rec_) s a d

/-! ### ABORT_REQUEST -/

section
variable {s : State} {r : Requester} {e : Engine} {moved : Nat} (hr : mayWrite s r (chGroup e) = true)
  (hintake : (s.chan e).intake = false)
include hr hintake

/-- An abort request with the right to the register meets a stream on its channel. -/
theorem exec_abortRequest_stream {w : Walker} (hstream : streamOn s e = some w) :
    exec (.abortRequest r e moved) s = .next (if chHalted s e then s else abortStream s w moved) := by
  change execAbortRequest r e moved s = _
  rw [execAbortRequest, guardedWrite_allowed hr, hintake, hstream]
  rfl

/-- It meets what the channel itself executes. -/
theorem exec_abortRequest (hstream : streamOn s e = none) :
    exec (.abortRequest r e moved) s = .next (requestAbort s e moved (otherResidue s e)) := by
  change execAbortRequest r e moved s = _
  rw [execAbortRequest, guardedWrite_allowed hr, hintake, hstream]
  rfl

end

/-- A channel that executes nothing ignores an abort request (R236). -/
theorem requestAbort_idle {s : State} {e : Engine} (hnext : (s.chan e).next = none) (hcur : current s e = none) (moved other : Nat) :
    requestAbort s e moved other = s := by
  simp only [requestAbort, hnext, hcur, Option.isSome_none, Bool.false_eq_true, ↓reduceIte, ite_self]

/-- Settles O33: the abort by what it notes, which its consequences leave; the request by the channel's work. -/
theorem abortsRecordAndHaltTheChannel : Obligations.AbortsRecordAndHaltTheChannel := by
  refine ⟨fun s e cause residue addr => ⟨reg_abortChannel _ _ _ _ _, halted_abortChannel _ _ _ _ _, chan_abortChannel _ _ _ _ _,
    fun k => stops_abortChannel s e cause residue addr⟩, fun s r e moved hr => ⟨fun hintake hidle => ?idle,
    fun w hintake hup hstream => ?stream, fun a d rec_ hintake hstream hnext hcur hkind hplain hmoved => ?transfer⟩⟩
  case idle =>
    rcases hidle with hhalted | ⟨hnext, hcur, hstream⟩
    · cases hstream : streamOn s e with
      | some w => exact (exec_abortRequest_stream hr hintake hstream).trans (congrArg _ (if_pos hhalted))
      | none => exact (exec_abortRequest hr hintake hstream).trans (congrArg _ (if_pos hhalted))
    · exact (exec_abortRequest hr hintake hstream).trans (congrArg _ (requestAbort_idle hnext hcur _ _))
  case stream =>
    obtain ⟨hengine, hcore⟩ := streamOn_eq_some hstream
    obtain ⟨v, habort⟩ := abortStream_eq s w moved
    refine ⟨streamAborts v w 1, ?_, hengine ▸ streamAborts_spec v w 1 hcore⟩
    rw [exec_abortRequest_stream hr hintake hstream, hup, ← habort]
    rfl
  case transfer =>
    have hcurrent : current s e = some (a, d, rec_) := (Option.filter_eq_some_iff.1 hcur).1
    exact ⟨_, exec_abortRequest hr hintake hstream, (aborts_requestAbort hnext hcurrent hkind hplain hmoved).halted⟩

end Sys2Proof.Machine
end

section
/-! Registers in which no unit notes an event, counts or logs an error: those of the base dies' infusers and of the memory, slice and step
controllers. Verification, notes, counters and writes of memory leave them (R207, R250, R428), and the rest of the state as its classes
say (`Written`). -/

namespace Sys2Proof.Machine

/-- The infusers' registers of the base dies, and the registers from HBM_MODE up to the management block. -/
def StillReg (a : Nat) : Prop :=
  (0x800000 ≤ a ∧ a < 0x900000 ∧ 0x200 ≤ a % 0x1000 ∧ a % 0x1000 < 0x400) ∨ (0x900000 ≤ a ∧ a < 0x908000)

theorem stillReg_infuser (h : StackId) {k : Nat} (hlo : 0x200 ≤ k) (hhi : k < 0x400) : StillReg (0x800000 + 0x1000 * h.val + k) := by
  unfold StillReg
  omega

theorem stillReg_controller {a : Nat} (hlo : 0x900000 ≤ a) (hhi : a < 0x908000) : StillReg a := .inr ⟨hlo, hhi⟩

theorem stillReg_mode : StillReg HBM_MODE := stillReg_controller (by decide) (by decide)

theorem stillReg_formats : StillReg INF_FSTATE_BASE := stillReg_controller (by decide) (by decide)

/-! ### Notes of events -/

section
variable {s : State} {a : Nat} (ha : StillReg a)
include ha

/-- Notes of events leave a register below the management block or outside `LogReg`. -/
theorem reg_of_notes {t : State} (h : Notes s t) (hlow : a < 0x900000 → t.reg a = s.reg a) : t.reg a = s.reg a := by
  rcases ha with ⟨-, ha, -⟩ | ⟨hlo, hhi⟩
  · exact hlow ha
  · exact h.2 a (by unfold LogReg; omega)

theorem still_raiseAlert (f : Fld) : (raiseAlert s f).reg a = s.reg a := by
  have := noted_notes s
  exact reg_of_notes ha (State.Has.raiseAlert (I := Notes s) ⟨.refl s, fun _ _ => rfl⟩) fun hlow => reg_raiseAlert hlow f

theorem still_post (k : EventKind) (unit data : Nat) : (post s k unit data).reg a = s.reg a :=
  reg_of_notes ha (notes_post s k unit data) fun hlow => reg_post hlow k unit data

theorem still_mcBump {b : Nat} (hb : a ≠ b) (sel amount : Nat) : (mcBump s b sel amount).reg a = s.reg a := by
  unfold mcBump
  extract_lets c s1
  have hs1 : s1.reg a = s.reg a := (reg_fset_ne _ _ _ hb).trans (reg_fset_ne _ _ _ hb)
  split
  · exact reg_fset_ne s _ _ hb
  · split
    · rfl
    · split
      · exact (still_raiseAlert ha _).trans ((still_post ha _ _ _).trans hs1)
      · exact hs1

theorem still_mcModule (source unit amount : Nat) : (mcModule s source unit amount).reg a = s.reg a := by
  unfold mcModule mcAdd
  split
  · rfl
  · refine List.foldlRecOn (motive := fun u : State => u.reg a = s.reg a) _ _ rfl fun u hu p hp => (still_mcBump ha ?_ _ _).trans hu
    simp only [List.mem_filter, Bool.and_eq_true, decide_eq_true_eq] at hp
    obtain ⟨-, ⟨⟨⟨hlo, -, -⟩, -⟩, -⟩, -⟩ := hp
    unfold MGS_MC_SEL at hlo
    unfold StillReg at ha
    omega

/-! ### Verification -/

theorem still_caddyParity {t : Nat} (ht : t < 64) (kind b : Nat) : (caddyParity s t kind b).reg a = s.reg a := by
  have hne : a ≠ CAD_PERR t := by
    unfold StillReg at ha
    unfold CAD_PERR
    omega
  unfold caddyParity
  extract_lets r
  split
  · exact reg_fadd_ne s _ _ hne
  · simp only [r, reg_fset_ne _ _ _ hne]

omit s in
theorem StillReg.ne_errlogOf (k : Nat) : a ≠ errlogOf k := by
  unfold StillReg at ha
  unfold errlogOf
  split
  · unfold HBM_ERRLOG
    omega
  · have := bitsAt_lt k 36 6
    unfold DTR_ERRLOG
    omega

theorem still_logUncorrectable (k unit bank row : Nat) : (logUncorrectable s k unit bank row).reg a = s.reg a := by
  have hne := ha.ne_errlogOf k
  unfold logUncorrectable
  extract_lets r pc s1
  have hs1 : s1.reg a = s.reg a := by
    unfold s1
    split <;> simp only [r, reg_fset_ne _ _ _ hne]
  exact (still_raiseAlert ha _).trans ((still_post ha _ _ _).trans hs1)

/-- A unit that passes no cache verifies a block. -/
theorem still_verifyKey (k b : Nat) : (verifyKey s .other k b).2.reg a = s.reg a := by
  unfold verifyKey
  dsimp only
  split
  · exact still_logUncorrectable ha _ _ _ _
  · split
    · exact still_caddyParity ha (bitsAt_lt b 28 6) _ _
    · rfl
  · rfl
  · split <;> rfl
  · rfl

omit s in
theorem still_verifyAll (as : List Nat) (s : State) : (verifyAll s .other as).2.reg a = s.reg a := by
  induction as generalizing s with
  | nil => rfl
  | cons b as ih =>
    refine (ih _).trans ?_
    split
    · rfl
    · exact still_verifyKey ha _ _

theorem still_verifyRange (b n : Nat) : (verifyRange s .other b n).2.reg a = s.reg a := still_verifyAll ha _ s

theorem still_verifyFormat (id : Nat) : (verifyFormat s id).2.reg a = s.reg a := by
  unfold verifyFormat
  split
  · rfl
  · exact still_verifyRange ha _ _

theorem still_verifyStack (h : StackId) (off n : Nat) : (verifyStack s h off n).2.reg a = s.reg a := by
  refine List.foldlRecOn (motive := fun r : Bool × State => r.2.reg a = s.reg a) _ _ ?_ fun r hr _ _ => (still_verifyKey ha _ _).trans hr
  dsimp only
  split <;> rfl

theorem still_entryBad (h : StackId) (i : Nat) : (entryBad s h i).2.reg a = s.reg a := still_verifyStack ha _ _ _

theorem still_verifyHyper (e : UEntry) (n : Nat) : (verifyHyper s e n).2.reg a = s.reg a := by
  unfold verifyHyper
  split
  · rfl
  · extract_lets x y z
    have hx : x.2.reg a = s.reg a := still_verifyRange ha _ _
    refine (still_verifyFormat ha _).trans (Eq.trans ?_ hx)
    unfold y
    split
    · rfl
    · exact still_verifyRange ha _ _

/-! ### Writes of memory -/

omit ha in
theorem reg_writeBlock (ag : Agent) (b : Nat) (bytes : List (Nat × Byte)) (poison : Bool) :
    (writeBlock s ag b bytes poison).reg a = s.reg a := by
  obtain ⟨_, _, _, hw, -⟩ := writeBlock_spec s ag b bytes poison
  rw [hw]
  rfl

omit ha in
theorem reg_writeCells (ag : Agent) (ws : List (Nat × Byte × Bool)) : (writeCells s ag ws).reg a = s.reg a :=
  reg_congr (writeCells_regs s ag ws) a

omit ha in
theorem reg_writeBytes (ag : Agent) (b : Nat) (bs : List Byte) (poison : Bool) : (writeBytes s ag b bs poison).reg a = s.reg a :=
  reg_congr (regs_writeBytes s ag b bs poison) a

theorem still_mergeAmax (id : Nat) (v : Val) : (mergeAmax s id v).reg a = s.reg a := by
  unfold mergeAmax
  split
  · rfl
  · extract_lets b r old
    have hr : r.2.reg a = s.reg a := still_verifyRange ha _ _
    split
    · exact hr
    · exact (reg_writeBytes _ _ _ _).trans hr

end

/-! ### What else stands -/

/-- Units, the job, the beat counter and the base dies are as before. -/
def WriteFrame (s t : State) : Prop := KeepsUnits s t ∧ KeepsJob s t ∧ t.beat = s.beat ∧ t.dies = s.dies

theorem WriteFrame.refl (s : State) : WriteFrame s s := ⟨⟨rfl, rfl, rfl, rfl, rfl, rfl⟩, ⟨rfl, rfl, rfl, rfl⟩, rfl, rfl⟩

theorem WriteFrame.trans {s u v : State} : WriteFrame s u → WriteFrame u v → WriteFrame s v :=
  fun ⟨hu, hj, hb, hd⟩ ⟨hu', hj', hb', hd'⟩ => ⟨hu.trans hu', hj.trans hj', hb'.trans hb, hd'.trans hd⟩

theorem written_writeFrame (s : State) : Written (WriteFrame s) where
  note h := h
  log _ h := h
  check h := h
  write h := h

theorem checked_mem (m : List Host.Cell) : Checked fun u => u.mem = m where
  note h := h
  log _ h := h
  check h := h

/-- A byte outside the places of a write of consecutive bytes reads as before. -/
theorem byteAt_writeBytes_ne {s : State} {ag : Agent} {a : Nat} {bs : List Byte} {poison : Bool} {k : Nat}
    (h : ∀ i < bs.length, k ≠ keyOf s (a + i)) : byteAt (writeBytes s ag a bs poison) k = byteAt s k :=
  byteAt_writeCells_ne s ag fun _ hw => by
    obtain ⟨i, hi, rfl⟩ := List.mem_mapIdx.1 hw
    exact (h i hi).symm

theorem die_congr {s t : State} (h : t.dies = s.dies) (die : StackId) : t.die die = s.die die := by rw [State.die, h, ← State.die]

theorem die_fset (s : State) (a : Nat) (f : Fld) (v : Nat) (h : StackId) : (fset s a f v).die h = s.die h :=
  die_congr (State.setReg_dies s a _) h

theorem die_setDie_ne (s : State) {h g : StackId} (x : Die) (hne : g ≠ h) : (s.setDie h x).die g = s.die g := by
  unfold State.die State.setDie
  exact mapGet_mapSet_ne _ _ _ _ fun e => hne (Fin.ext e)

/-! ### The update list -/

theorem keyBytes_congr {s t : State} (h : t.mem = s.mem) (k n : Nat) : keyBytes t k n = keyBytes s k n := by
  simp only [keyBytes, byteAt_congr h]

theorem ulistBase_congr {s t : State} {h : StackId} (hr : t.reg (INF_ULIST_BASE h.val) = s.reg (INF_ULIST_BASE h.val)) :
    ulistBase t h = ulistBase s h := by
  simp only [ulistBase, faddr, fget_congr hr]

theorem stillReg_ulistBase (h : StackId) : StillReg (INF_ULIST_BASE h.val) := stillReg_infuser h (by decide) (by decide)

theorem entryOf_congr {s t : State} {h : StackId} (hr : t.reg (INF_ULIST_BASE h.val) = s.reg (INF_ULIST_BASE h.val))
    (hm : t.mem = s.mem) (i : Nat) : entryOf t h i = entryOf s h i := by
  simp only [entryOf, ulistBase_congr hr, keyBytes_congr hm]

section
variable (s : State) (h : StackId) (i : Nat)

theorem mem_verifyStack (off n : Nat) : (verifyStack s h off n).2.mem = s.mem := by
  have := checked_mem s.mem
  exact State.Has.verifyStack (I := fun u => u.mem = s.mem) rfl

theorem mem_entryBad : (entryBad s h i).2.mem = s.mem := mem_verifyStack s h _ _

/-- An entry that is verified reads as before. -/
theorem entryOf_entryBad (j : Nat) : entryOf (entryBad s h i).2 h j = entryOf s h j :=
  entryOf_congr (still_entryBad (stillReg_ulistBase h) h i) (mem_entryBad s h i) j

end

end Sys2Proof.Machine
end

section
/-! Captures are armed and released, and a base die copies the record at its cursor (R289 to R293, Table STP-12). -/

namespace Sys2Proof.Machine

/-! ### CKPT_ARM and CKPT_RELEASE -/

theorem exec_ckptArm (r : Requester) (n : BitVec 32) (s : State) : exec (.ckptArm r n) s = execCkptArm r n s := rfl

theorem exec_ckptRelease (r : Requester) (s : State) : exec (.ckptRelease r) s = execCkptRelease r s := rfl

/-- ARM_STEP is written, and ARM set unless a capture runs or waits for its RELEASE (R289, R293). -/
theorem execCkptArm_spec {s : State} {r : Requester} (hr : mayWrite s r (some grpStep) = true) (n : BitVec 32) :
    ∃ t, exec (.ckptArm r n) s = .next t ∧ fget t INF_CKPT_CTL f_INF_CKPT_CTL_ARM_STEP = n.toNat ∧
      fbit t INF_CKPT_CTL f_INF_CKPT_CTL_ARM = (fbit s INF_CKPT_CTL f_INF_CKPT_CTL_ARM ||
        !(fbit s INF_CKPT_STATUS f_INF_CKPT_STATUS_ACTIVE || fbit s INF_CKPT_STATUS f_INF_CKPT_STATUS_COMPLETE)) ∧
      OnlyReg INF_CKPT_CTL s t := by
  rw [exec_ckptArm, execCkptArm, guardedWrite_allowed hr]
  extract_lets u
  have hstep : fget u INF_CKPT_CTL f_INF_CKPT_CTL_ARM_STEP = n.toNat :=
    (fget_fset_same s _ _ _ (by decide)).trans (Nat.mod_eq_of_lt n.isLt)
  have harm : fbit u INF_CKPT_CTL f_INF_CKPT_CTL_ARM = fbit s INF_CKPT_CTL f_INF_CKPT_CTL_ARM :=
    fbit_fset_other s _ _ (by decide) (by decide)
  have hstatus (f : Fld) : fbit u INF_CKPT_STATUS f = fbit s INF_CKPT_STATUS f := fbit_fset_ne s _ _ _ (by decide)
  have honly : OnlyReg INF_CKPT_CTL s u := (OnlyReg.refl _ s).fset
  rw [← hstatus, ← hstatus]
  by_cases hbusy : (fbit u INF_CKPT_STATUS f_INF_CKPT_STATUS_ACTIVE || fbit u INF_CKPT_STATUS f_INF_CKPT_STATUS_COMPLETE) = true
  · exact ⟨u, congrArg _ (if_pos hbusy), hstep, by rw [harm, hbusy, Bool.not_true, Bool.or_false], honly⟩
  · refine ⟨_, congrArg _ (if_neg hbusy), (fget_fset_other u _ _ (by decide) (by decide)).trans hstep, ?_, honly.fset⟩
    rw [eq_false_of_ne_true hbusy, Bool.not_false, Bool.or_true]
    exact fbit_fset_one u _ _ (by decide)

/-- Staging is free again (R293). -/
theorem execCkptRelease_spec {s : State} {r : Requester} (hr : mayWrite s r (some grpStep) = true) :
    ∃ t, exec (.ckptRelease r) s = .next t ∧ fbit t INF_CKPT_STATUS f_INF_CKPT_STATUS_COMPLETE = false ∧
      fbit t INF_CKPT_STATUS f_INF_CKPT_STATUS_ACTIVE = fbit s INF_CKPT_STATUS f_INF_CKPT_STATUS_ACTIVE ∧
      OnlyReg INF_CKPT_STATUS s t := by
  rw [exec_ckptRelease, execCkptRelease, guardedWrite_allowed hr]
  exact ⟨_, rfl, fbit_fset_zero s _ _ (by decide), fbit_fset_other s _ _ (by decide) (by decide), (OnlyReg.refl _ s).fset⟩

/-! ### The cursor -/

/-- Of the numbers below `n` that a test picks, the last is as great as the rest are many. -/
theorem filter_range_length (p : Nat → Bool) (n : Nat) :
    ((List.range n).filter p).length = 0 ∨ ∃ i < n, ((List.range n).filter p).length ≤ i + 1 ∧ p i = true := by
  induction n with
  | zero => exact .inl rfl
  | succ n ih =>
    rw [List.range_succ, List.filter_append, List.length_append, List.filter_singleton]
    cases hp : p n with
    | true =>
      have := List.length_filter_le p (List.range n)
      exact .inr ⟨n, by omega, by simpa using this, hp⟩
    | false => exact ih.imp id fun ⟨i, hi, hle, hpi⟩ => ⟨i, by omega, hle, hpi⟩

/-- The entry that a position is found in begins at or before it. -/
theorem start_le_of_rising {l : List Nat} (hrise : l.Pairwise (· ≤ ·)) (hzero : l.head? = some 0) (pos : Nat) :
    nthD 0 l ((List.range (l.length - 1)).filter fun i => decide (nthD 0 l (i + 1) ≤ pos)).length ≤ pos := by
  rcases filter_range_length (fun i => decide (nthD 0 l (i + 1) ≤ pos)) (l.length - 1) with he | ⟨i, hi, hle, hpos⟩
  · rw [he]
    cases l with
    | nil => exact absurd hzero (by simp)
    | cons x l =>
      obtain rfl : x = 0 := Option.some.inj hzero
      exact Nat.zero_le pos
  · refine Nat.le_trans ?_ (of_decide_eq_true hpos)
    generalize ((List.range (l.length - 1)).filter fun i => decide (nthD 0 l (i + 1) ≤ pos)).length = e at hle
    have hnext : i + 1 < l.length := by omega
    rw [nthD, nthD, List.getD_eq_getElem _ _ (by omega), List.getD_eq_getElem _ _ hnext]
    rcases Nat.eq_or_lt_of_le hle with rfl | hlt
    · exact Nat.le_refl _
    · exact List.pairwise_iff_getElem.1 hrise _ _ _ hnext hlt

theorem cursorPos_congr {s t : State} {h : StackId} (hd : t.die h = s.die h) : cursorPos t h = cursorPos s h := by
  simp only [cursorPos, mirrorStart, hd]

/-- The cursor names the position that it is set to. -/
theorem cursorPos_setCursor {s : State} {h : StackId} (hrise : (s.die h).starts.Pairwise (· ≤ ·))
    (hzero : (s.die h).starts.head? = some 0) (pos : Nat) : cursorPos (setCursor s h pos) h = pos := by
  unfold setCursor
  extract_lets d n e u
  have hdie : u.die h = { d with cursorEntry := e, cursorRecord := pos - nthD 0 d.starts e } := die_setDie s h _
  have hstart : nthD 0 d.starts e ≤ pos := start_le_of_rising hrise hzero pos
  rw [cursorPos, mirrorStart, die_fset, die_fset, hdie]
  exact Nat.add_sub_cancel' hstart

theorem mem_setCursor (s : State) (h : StackId) (pos : Nat) : (setCursor s h pos).mem = s.mem :=
  (mem_fset _ _ _ _).trans ((mem_fset _ _ _ _).trans (State.setDie_mem s h _))

/-- A base die that ends its capture keeps its cursor. -/
theorem cursorPos_endCapture (s : State) (g h : StackId) :
    cursorPos (refreshBusy (s.setDie g { s.die g with capturing := false }) g) h = cursorPos s h := by
  rw [refreshBusy, cursorPos_congr (die_fset _ _ _ _ h)]
  by_cases hg : h = g
  · subst hg
    simp only [cursorPos, mirrorStart, die_setDie]
  · exact cursorPos_congr (die_setDie_ne s _ hg)

/-- The end of a capture leaves memory and the cursors (R293). -/
theorem captureCheck_spec (s : State) (h : StackId) : (captureCheck s).mem = s.mem ∧ cursorPos (captureCheck s) h = cursorPos s h := by
  unfold captureCheck
  extract_lets u
  have hu : u.mem = s.mem ∧ cursorPos u h = cursorPos s h := by
    refine List.foldlRecOn (motive := fun v : State => v.mem = s.mem ∧ cursorPos v h = cursorPos s h) _ _ ⟨rfl, rfl⟩
      fun v ⟨hmem, hcursor⟩ g _ => ?_
    split
    · exact ⟨(mem_fset _ _ _ _).trans hmem, (cursorPos_endCapture v g h).trans hcursor⟩
    · exact ⟨hmem, hcursor⟩
  split
  · refine List.foldlRecOn (motive := fun v : State => v.mem = s.mem ∧ cursorPos v h = cursorPos s h) _ _ ?_ fun v hv g _ => hv
    rw [mem_fset, mem_fset, cursorPos_congr (die_fset _ _ _ _ h), cursorPos_congr (die_fset _ _ _ _ h)]
    exact hu
  · exact hu

/-! ### The record -/

/-- The bytes are read from the memory that verification leaves, and then written. -/
theorem copyKeys_eq (s : State) (k a n : Nat) : ∃ (u : State) (bad : Nat → Bool), u.mem = s.mem ∧
    (∀ b, StillReg b → u.reg b = s.reg b) ∧
    copyKeys s k a n = writeCells u .other ((List.range n).map fun i => (a + i, byteAt s (k + i), bad i)) := by
  have := checked_mem s.mem
  unfold copyKeys
  extract_lets v
  have hmem : v.2.mem = s.mem :=
    State.Has.foldlSnd (I := fun u => u.mem = s.mem) (s := s) rfl fun hu => State.Has.verifyKey (I := fun u => u.mem = s.mem) hu
  have hreg (b : Nat) (hb : StillReg b) : v.2.reg b = s.reg b :=
    List.foldlRecOn (motive := fun r : List Nat × State => r.2.reg b = s.reg b) _ _ rfl
      fun r hr _ _ => (still_verifyKey hb _ _).trans hr
  refine ⟨v.2, fun i => v.1.any fun b => b == (k + i) / 512 * 512, hmem, hreg, ?_⟩
  simp only [byteAt_congr hmem]

/-- Bytes copied to distinct places lie there, and no other byte has changed. -/
theorem byteAt_copyKeys (s : State) {k a n : Nat} (apart : ∀ i < n, ∀ j < n, i ≠ j → keyOf s (a + i) ≠ keyOf s (a + j)) :
    (∀ i < n, byteAt (copyKeys s k a n) (keyOf s (a + i)) = byteAt s (k + i)) ∧
      ∀ z, (∀ i < n, z ≠ keyOf s (a + i)) → byteAt (copyKeys s k a n) z = byteAt s z := by
  obtain ⟨u, bad, hmem, hreg, he⟩ := copyKeys_eq s k a n
  rw [he]
  simp only [← keyOf_congr (hreg _ stillReg_mode)] at apart ⊢
  refine ⟨fun i hi => byteAt_writeCells u .other (fun w hw hkey => ?_) (.inl ?_), fun z hz => ?_⟩
  · obtain ⟨j, hj, rfl⟩ := List.mem_map.1 hw
    have hji : j = i := by_contra fun hne => apart j (List.mem_range.1 hj) i hi hne hkey
    rw [hji]
  · exact ⟨_, List.mem_map.2 ⟨i, List.mem_range.2 hi, rfl⟩, rfl⟩
  · refine (byteAt_writeCells_ne u .other fun w hw => ?_).trans (byteAt_congr hmem z)
    obtain ⟨j, hj, rfl⟩ := List.mem_map.1 hw
    exact (hz j (List.mem_range.1 hj)).symm

/-! ### CAPTURE_RECORD_COPY -/

theorem exec_captureRecordCopy (h : StackId) (s : State) : exec (.captureRecordCopy h) s = .next (captureStep s h) := rfl

/-- A base die that captures nothing does nothing. -/
theorem captureStep_idle {s : State} {h : StackId} (hidle : (s.die h).capturing = false) : captureStep s h = s :=
  if_neg (by simp [hidle])

/-- The stack offset of the record at a base die's cursor. -/
def cursorOffset (s : State) (h : StackId) : Nat :=
  (entryOf s h (s.die h).cursorEntry).recordAddr + 512 * (s.die h).cursorRecord

/-- A base die copies the record at its cursor to its mirror position and moves the cursor on (R291). -/
theorem captureStep_eq {s : State} {h : StackId} (hcap : (s.die h).capturing = true) (hpos : cursorPos s h < mirrorTotal s h)
    (hsound : (entryBad s h (s.die h).cursorEntry).1 = false)
    (hfree : dieHolds s h (cursorOffset s h) 512 [mirrorAddr s h (cursorPos s h)] = false) :
    captureStep s h = captureCheck (setCursor (copyKeys (entryBad s h (s.die h).cursorEntry).2 (stackKey h (cursorOffset s h))
      (mirrorAddr s h (cursorPos s h)) 512) h (cursorPos s h + 1)) := by
  have := written_writeFrame s
  have hframe : WriteFrame s (entryBad s h (s.die h).cursorEntry).2 := State.Has.entryBad (I := WriteFrame s) (.refl s)
  obtain ⟨-, -, -, hdies⟩ := hframe
  have hstage (pos : Nat) : mirrorAddr (entryBad s h (s.die h).cursorEntry).2 h pos = mirrorAddr s h pos := by
    have hstill : StillReg (INF_CKPT_STAGE h.val) := stillReg_infuser h (by decide) (by decide)
    rw [mirrorAddr, mirrorAddr, faddr, faddr, fget_congr (still_entryBad hstill h _)]
  unfold cursorOffset at hfree ⊢
  simp only [captureStep, hcap, hpos, hfree, hsound, mirrorRecord, hstage, entryOf_entryBad, die_congr hdies, decide_true, Bool.and_self,
    Bool.not_false, Bool.false_eq_true, ↓reduceIte]

/-- The sequencers, the job, the carousel and the step controller as in a state. -/
def SameWork (s t : State) : Prop := t.seqs = s.seqs ∧ t.job = s.job ∧ t.car = s.car ∧ t.stp = s.stp

theorem walked_sameWork (s : State) : Walked (SameWork s) where
  note h := h
  log _ h := h
  check h := h
  write h := h
  die h := h
  step _ h := h

/-- What the copy leaves: the record lies at its mirror position, no other byte has changed, and the cursor names the next position. -/
theorem captureStep_copies {s : State} {h : StackId} (hcap : (s.die h).capturing = true) (hpos : cursorPos s h < mirrorTotal s h)
    (hrise : (s.die h).starts.Pairwise (· ≤ ·)) (hzero : (s.die h).starts.head? = some 0)
    (hsound : (entryBad s h (s.die h).cursorEntry).1 = false)
    (hfree : dieHolds s h (cursorOffset s h) 512 [mirrorAddr s h (cursorPos s h)] = false)
    (apart : ∀ i < 512, ∀ j < 512, i ≠ j →
      keyOf s (mirrorAddr s h (cursorPos s h) + i) ≠ keyOf s (mirrorAddr s h (cursorPos s h) + j)) :
    cursorPos (captureStep s h) h = cursorPos s h + 1 ∧
      (∀ i < 512, byteAt (captureStep s h) (keyOf s (mirrorAddr s h (cursorPos s h) + i)) = byteAt s (stackKey h (cursorOffset s h) + i)) ∧
      (∀ k, (∀ i < 512, k ≠ keyOf s (mirrorAddr s h (cursorPos s h) + i)) → byteAt (captureStep s h) k = byteAt s k) ∧
      SameWork s (captureStep s h) := by
  have := written_writeFrame s
  have := walked_sameWork s
  rw [captureStep_eq hcap hpos hsound hfree]
  have hmem := mem_entryBad s h (s.die h).cursorEntry
  have hkey (a : Nat) : keyOf (entryBad s h (s.die h).cursorEntry).2 a = keyOf s a := keyOf_congr (still_entryBad stillReg_mode h _) a
  have hentry : WriteFrame s (entryBad s h (s.die h).cursorEntry).2 := State.Has.entryBad (I := WriteFrame s) (.refl s)
  have hsame : SameWork s (entryBad s h (s.die h).cursorEntry).2 := State.Has.entryBad (I := SameWork s) ⟨rfl, rfl, rfl, rfl⟩
  generalize (entryBad s h (s.die h).cursorEntry).2 = u at *
  obtain ⟨hin, hout⟩ := byteAt_copyKeys u (k := stackKey h (cursorOffset s h)) (a := mirrorAddr s h (cursorPos s h)) (n := 512)
    (by simpa only [hkey] using apart)
  obtain ⟨-, -, -, hdies⟩ : WriteFrame s (copyKeys u (stackKey h (cursorOffset s h)) (mirrorAddr s h (cursorPos s h)) 512) :=
    State.Has.copyKeys (I := WriteFrame s) hentry
  have hwork : State.Has (copyKeys u (stackKey h (cursorOffset s h)) (mirrorAddr s h (cursorPos s h)) 512) (SameWork s) :=
    State.Has.copyKeys (I := SameWork s) hsame
  generalize copyKeys u (stackKey h (cursorOffset s h)) (mirrorAddr s h (cursorPos s h)) 512 = v at *
  obtain ⟨hchecked, hcursor⟩ := captureCheck_spec (setCursor v h (cursorPos s h + 1)) h
  have hbyte (k : Nat) : byteAt (captureCheck (setCursor v h (cursorPos s h + 1))) k = byteAt v k :=
    byteAt_congr (hchecked.trans (mem_setCursor v h _)) k
  have hdie := die_congr hdies h
  simp only [hkey] at hin hout
  exact ⟨hcursor.trans (cursorPos_setCursor (hdie ▸ hrise) (hdie ▸ hzero) _),
    fun i hi => (hbyte _).trans ((hin i hi).trans (byteAt_congr hmem _)),
    fun k hk => (hbyte k).trans ((hout k hk).trans (byteAt_congr hmem k)), hwork.setCursor.captureCheck⟩

/-- Settles O42: the two writes of registers, and the copy by the bytes that verification leaves and the cursor that is set. -/
theorem capturesCopyTheRecordAtTheCursor : Obligations.CapturesCopyTheRecordAtTheCursor := by
  intro s
  refine ⟨fun r n hr => ?_, fun r hr => ?_, fun h hcap hpos hrise hzero hsound hfree apart =>
    ⟨_, exec_captureRecordCopy h s, captureStep_copies hcap hpos hrise hzero hsound hfree apart⟩, fun h hidle => ?_⟩
  · obtain ⟨t, he, hstep, harm, honly⟩ := execCkptArm_spec hr n
    exact ⟨t, he, hstep, harm, honly.2, honly.keepsMemory, honly.keepsUnits, honly.keepsJob⟩
  · obtain ⟨t, he, hcomplete, hactive, honly⟩ := execCkptRelease_spec hr
    exact ⟨t, he, hcomplete, hactive, honly.2, honly.keepsMemory, honly.keepsUnits, honly.keepsJob⟩
  · rw [exec_captureRecordCopy, captureStep_idle hidle]

end Sys2Proof.Machine
end

section
/-! The verdict of a step: the loss scale, the step record, the format records and the late verdict (R260, R264 to R269, Table STP-3). -/

namespace Sys2Proof.Machine

/-! ### The loss scale -/

section
variable (s : State) {nf wh : Nat}

theorem lossScale_withheld (h : wh ≠ 0) : lossScale s nf wh =
    (signed 8 (fget s INF_LS_STATE f_INF_LS_STATE_EXP), fget s INF_LS_STATE f_INF_LS_STATE_CLEAN, 2, false, false) := if_pos h

theorem lossScale_skipped (h : wh = 0) (hnf : nf ≠ 0) : lossScale s nf wh =
    (if signed 8 (fget s INF_LS_CTL f_INF_LS_CTL_MIN_EXP) < signed 8 (fget s INF_LS_STATE f_INF_LS_STATE_EXP) then
      signed 8 (fget s INF_LS_STATE f_INF_LS_STATE_EXP) - 1 else signed 8 (fget s INF_LS_STATE f_INF_LS_STATE_EXP), 0, 1,
      decide (signed 8 (fget s INF_LS_STATE f_INF_LS_STATE_EXP) ≤ signed 8 (fget s INF_LS_CTL f_INF_LS_CTL_MIN_EXP)), false) := by
  unfold lossScale
  extract_lets exp clean lo hi
  rw [if_neg (not_not.2 h), if_pos hnf]
  by_cases hlo : exp ≤ lo
  · rw [if_pos hlo, if_neg (not_lt.2 hlo), decide_eq_true hlo]
  · rw [if_neg hlo, if_pos (not_le.1 hlo), decide_eq_false hlo]

theorem lossScale_counted (h : wh = 0) (hnf : nf = 0)
    (hrun : fget s INF_LS_STATE f_INF_LS_STATE_CLEAN + 1 < fget s INF_LS_CTL f_INF_LS_CTL_CLEAN_RUN) : lossScale s nf wh =
    (signed 8 (fget s INF_LS_STATE f_INF_LS_STATE_EXP), fget s INF_LS_STATE f_INF_LS_STATE_CLEAN + 1, 0, false, false) := by
  unfold lossScale
  rw [if_neg (not_not.2 h), if_neg (not_not.2 hnf), if_neg (not_le.2 hrun)]

theorem lossScale_raised (h : wh = 0) (hnf : nf = 0)
    (hrun : fget s INF_LS_CTL f_INF_LS_CTL_CLEAN_RUN ≤ fget s INF_LS_STATE f_INF_LS_STATE_CLEAN + 1) : lossScale s nf wh =
    (if signed 8 (fget s INF_LS_STATE f_INF_LS_STATE_EXP) < signed 8 (fget s INF_LS_CTL f_INF_LS_CTL_MAX_EXP) then
      signed 8 (fget s INF_LS_STATE f_INF_LS_STATE_EXP) + 1 else signed 8 (fget s INF_LS_STATE f_INF_LS_STATE_EXP), 0, 0, false,
      decide (signed 8 (fget s INF_LS_CTL f_INF_LS_CTL_MAX_EXP) ≤ signed 8 (fget s INF_LS_STATE f_INF_LS_STATE_EXP))) := by
  unfold lossScale
  extract_lets exp clean lo hi
  rw [if_neg (not_not.2 h), if_neg (not_not.2 hnf), if_pos hrun]
  by_cases hhi : hi ≤ exp
  · rw [if_pos hhi, if_neg (not_lt.2 hhi), decide_eq_true hhi]
  · rw [if_neg hhi, if_pos (not_le.1 hhi), decide_eq_false hhi]

/-- EXP, CLEAN and the outcome fit their fields. -/
theorem lossScale_bounds {exp : Int} {clean outcome : Nat} {floor ceil : Bool} (h : lossScale s nf wh = (exp, clean, outcome, floor, ceil)) :
    -128 ≤ exp ∧ exp < 128 ∧ clean < 2 ^ 16 ∧ outcome < 4 := by
  have hexp := signed_bounds (w := 8) (by decide) (fget s INF_LS_STATE f_INF_LS_STATE_EXP)
  have hlo := signed_bounds (w := 8) (by decide) (fget s INF_LS_CTL f_INF_LS_CTL_MIN_EXP)
  have hhi := signed_bounds (w := 8) (by decide) (fget s INF_LS_CTL f_INF_LS_CTL_MAX_EXP)
  have hclean : fget s INF_LS_STATE f_INF_LS_STATE_CLEAN < 2 ^ 16 := bitsAt_lt _ _ _
  have hrun : fget s INF_LS_CTL f_INF_LS_CTL_CLEAN_RUN < 2 ^ 16 := bitsAt_lt _ _ _
  norm_num at hexp hlo hhi
  by_cases hwh : wh = 0
  · by_cases hnf : nf = 0
    · by_cases hle : fget s INF_LS_CTL f_INF_LS_CTL_CLEAN_RUN ≤ fget s INF_LS_STATE f_INF_LS_STATE_CLEAN + 1
      · rw [lossScale_raised s hwh hnf hle] at h
        obtain ⟨rfl, rfl, rfl, -⟩ := by simpa only [Prod.mk.injEq] using h
        split <;> omega
      · rw [lossScale_counted s hwh hnf (by omega)] at h
        obtain ⟨rfl, rfl, rfl, -⟩ := by simpa only [Prod.mk.injEq] using h
        omega
    · rw [lossScale_skipped s hwh hnf] at h
      obtain ⟨rfl, rfl, rfl, -⟩ := by simpa only [Prod.mk.injEq] using h
      split <;> omega
  · rw [lossScale_withheld s hwh] at h
    obtain ⟨rfl, rfl, rfl, -⟩ := by simpa only [Prod.mk.injEq] using h
    omega

end

/-! ### The registers of a verdict -/

theorem fget_fadd_same (s : State) (a : Nat) (f : Fld) (n : Nat) (h : f.lo + f.width ≤ 64) :
    fget (fadd s a f n) a f = min f.max (fget s a f + n) := by
  refine (fget_fset_same s a f _ h).trans (Nat.mod_eq_of_lt ?_)
  have := Nat.two_pow_pos f.width
  unfold stick Fld.max
  omega

/-- EXP and CLEAN are shown (Table STP-3). -/
def scaleShown (s : State) (exp : Int) (clean : Nat) : State :=
  fset (fset s INF_LS_STATE f_INF_LS_STATE_EXP (codeOf 8 exp)) INF_LS_STATE f_INF_LS_STATE_CLEAN clean

/-- The limits that R269 met are shown, and the wait for the verdict is over. -/
def limitsShown (s : State) (floor ceil : Bool) : State :=
  let s := if floor then fset s INF_STATUS f_INF_STATUS_LS_FLOOR 1 else s
  let s := if ceil then fset s INF_STATUS f_INF_STATUS_LS_CEIL 1 else s
  fset s INF_STATUS f_INF_STATUS_VERDICT_WAIT 0

/-- The step and its outcome are shown. -/
def outcomeShown (s : State) (n outcome : Nat) : State :=
  fset (fset s INF_LAST f_INF_LAST_STEP n) INF_LAST f_INF_LAST_OUTCOME outcome

/-- Skipped and withheld steps are counted (Table STP-14). -/
def outcomeCounted (s : State) (outcome : Nat) : State :=
  if outcome = 1 then fadd s INF_SKIPPED f_INF_SKIPPED_SKIPPED 1
  else if outcome = 2 then fadd s INF_SKIPPED f_INF_SKIPPED_WITHHELD 1
  else s

/-- All that a verdict writes in registers. -/
def verdictRegs (s : State) (n : Nat) (exp : Int) (clean outcome : Nat) (floor ceil : Bool) : State :=
  outcomeCounted (outcomeShown (limitsShown (scaleShown s exp clean) floor ceil) n outcome) outcome

section
variable (s : State) (n : Nat) (exp : Int) (clean outcome : Nat) (floor ceil : Bool)

theorem onlyReg_scaleShown : OnlyReg INF_LS_STATE s (scaleShown s exp clean) := (OnlyReg.refl _ s).fset.fset

theorem onlyReg_limitsShown : OnlyReg INF_STATUS s (limitsShown s floor ceil) :=
  have hfloor := (OnlyReg.refl INF_STATUS s).fset.ite (.refl _ s)
  (hfloor.fset.ite hfloor).fset

theorem onlyReg_outcomeShown : OnlyReg INF_LAST s (outcomeShown s n outcome) := (OnlyReg.refl _ s).fset.fset

theorem onlyReg_outcomeCounted : OnlyReg INF_SKIPPED s (outcomeCounted s outcome) :=
  have h := OnlyReg.refl INF_SKIPPED s
  h.fset.ite (h.fset.ite h)

theorem fget_scaleShown (hlo : -128 ≤ exp) (hhi : exp < 128) (hclean : clean < 2 ^ 16) :
    signed 8 (fget (scaleShown s exp clean) INF_LS_STATE f_INF_LS_STATE_EXP) = exp ∧
      fget (scaleShown s exp clean) INF_LS_STATE f_INF_LS_STATE_CLEAN = clean := by
  have hcode : codeOf 8 exp < 2 ^ 8 := by
    have := Int.emod_lt_of_pos exp (show (0 : Int) < (2 ^ 8 : Nat) by decide)
    unfold codeOf
    omega
  unfold scaleShown
  rw [fget_fset_same _ _ f_INF_LS_STATE_CLEAN _ (by decide), fget_fset_other _ _ _ (by decide) (by decide),
    fget_fset_same _ _ _ _ (by decide)]
  exact ⟨(congrArg (signed 8) (Nat.mod_eq_of_lt hcode)).trans (signed_codeOf (by decide) (by simpa using hlo) (by simpa using hhi)),
    Nat.mod_eq_of_lt hclean⟩

theorem fbit_limitsShown :
    fbit (limitsShown s floor ceil) INF_STATUS f_INF_STATUS_VERDICT_WAIT = false ∧
      (floor = true → fbit (limitsShown s floor ceil) INF_STATUS f_INF_STATUS_LS_FLOOR = true) ∧
      (ceil = true → fbit (limitsShown s floor ceil) INF_STATUS f_INF_STATUS_LS_CEIL = true) := by
  unfold limitsShown
  refine ⟨fbit_fset_zero _ _ _ (by decide), fun hfloor => ?_, fun hceil => ?_⟩ <;>
    rw [fbit_fset_other _ _ _ (by decide) (by decide)]
  · rw [if_pos hfloor]
    split
    · exact (fbit_fset_other _ _ _ (by decide) (by decide)).trans (fbit_fset_one s _ _ (by decide))
    · exact fbit_fset_one s _ _ (by decide)
  · rw [if_pos hceil]
    exact fbit_fset_one _ _ _ (by decide)

theorem fget_outcomeShown (h : outcome < 4) :
    fget (outcomeShown s n outcome) INF_LAST f_INF_LAST_OUTCOME = outcome ∧
      fget (outcomeShown s n outcome) INF_LAST f_INF_LAST_STEP = n % 2 ^ 32 := by
  unfold outcomeShown
  rw [fget_fset_same _ _ f_INF_LAST_OUTCOME _ (by decide), fget_fset_other _ _ _ (by decide) (by decide),
    fget_fset_same _ _ _ _ (by decide)]
  exact ⟨Nat.mod_eq_of_lt h, rfl⟩

theorem outcomeCounted_spec :
    (outcome = 0 → (outcomeCounted s outcome).reg INF_SKIPPED = s.reg INF_SKIPPED) ∧
    (outcome = 1 → fget (outcomeCounted s outcome) INF_SKIPPED f_INF_SKIPPED_SKIPPED =
      min f_INF_SKIPPED_SKIPPED.max (fget s INF_SKIPPED f_INF_SKIPPED_SKIPPED + 1)) ∧
    (outcome = 2 → fget (outcomeCounted s outcome) INF_SKIPPED f_INF_SKIPPED_WITHHELD =
      min f_INF_SKIPPED_WITHHELD.max (fget s INF_SKIPPED f_INF_SKIPPED_WITHHELD + 1)) := by
  refine ⟨?_, ?_, ?_⟩ <;> rintro rfl
  · rfl
  · exact fget_fadd_same s _ _ 1 (by decide)
  · exact fget_fadd_same s _ _ 1 (by decide)

theorem onlyRegs_verdictRegs : OnlyRegs s (verdictRegs s n exp clean outcome floor ceil) := by
  obtain ⟨_, h1⟩ := (onlyReg_scaleShown s exp clean).1
  obtain ⟨_, h2⟩ := (onlyReg_limitsShown (scaleShown s exp clean) floor ceil).1
  obtain ⟨_, h3⟩ := (onlyReg_outcomeShown (limitsShown (scaleShown s exp clean) floor ceil) n outcome).1
  obtain ⟨_, h4⟩ := (onlyReg_outcomeCounted (outcomeShown (limitsShown (scaleShown s exp clean) floor ceil) n outcome) outcome).1
  exact ⟨_, h4.trans (by rw [h3, h2, h1])⟩

theorem reg_verdictRegs_ne {a : Nat} (hscale : a ≠ INF_LS_STATE) (hstatus : a ≠ INF_STATUS) (hlast : a ≠ INF_LAST)
    (hskipped : a ≠ INF_SKIPPED) : (verdictRegs s n exp clean outcome floor ceil).reg a = s.reg a :=
  ((onlyReg_outcomeCounted _ _).reg hskipped).trans (((onlyReg_outcomeShown _ _ _).reg hlast).trans
    (((onlyReg_limitsShown _ _ _).reg hstatus).trans ((onlyReg_scaleShown _ _ _).reg hscale)))

end

/-- A verdict of step `n` has come in: what it shows, counts and records. -/
structure Told (s t : State) (n : Nat) (exp : Int) (clean outcome : Nat) (floor ceil : Bool) : Prop where
  lastOutcome : fget t INF_LAST f_INF_LAST_OUTCOME = outcome
  scaleExp : signed 8 (fget t INF_LS_STATE f_INF_LS_STATE_EXP) = exp
  scaleClean : fget t INF_LS_STATE f_INF_LS_STATE_CLEAN = clean
  metFloor : floor = true → fbit t INF_STATUS f_INF_STATUS_LS_FLOOR = true
  metCeil : ceil = true → fbit t INF_STATUS f_INF_STATUS_LS_CEIL = true
  applied : outcome = 0 → t.reg INF_SKIPPED = s.reg INF_SKIPPED
  skipped : outcome = 1 → fget t INF_SKIPPED f_INF_SKIPPED_SKIPPED =
    min f_INF_SKIPPED_SKIPPED.max (fget s INF_SKIPPED f_INF_SKIPPED_SKIPPED + 1)
  withheld : outcome = 2 → fget t INF_SKIPPED f_INF_SKIPPED_WITHHELD =
    min f_INF_SKIPPED_WITHHELD.max (fget s INF_SKIPPED f_INF_SKIPPED_WITHHELD + 1)
  wait : fbit t INF_STATUS f_INF_STATUS_VERDICT_WAIT = false
  lastStep : fget t INF_LAST f_INF_LAST_STEP = n % 2 ^ 32

/-- Each register of a verdict is shown by one part and left by the others. -/
theorem told_verdictRegs (s : State) (n : Nat) {exp : Int} {clean outcome : Nat} (floor ceil : Bool) (hlo : -128 ≤ exp) (hhi : exp < 128)
    (hclean : clean < 2 ^ 16) (houtcome : outcome < 4) :
    Told s (verdictRegs s n exp clean outcome floor ceil) n exp clean outcome floor ceil := by
  have h1 := onlyReg_scaleShown s exp clean
  obtain ⟨hexp, hclean⟩ := fget_scaleShown s exp clean hlo hhi hclean
  unfold verdictRegs
  generalize scaleShown s exp clean = u1 at *
  have h2 := onlyReg_limitsShown u1 floor ceil
  obtain ⟨hwait, hfloor, hceil⟩ := fbit_limitsShown u1 floor ceil
  generalize limitsShown u1 floor ceil = u2 at *
  have h3 := onlyReg_outcomeShown u2 n outcome
  obtain ⟨hlast, hstep⟩ := fget_outcomeShown u2 n outcome houtcome
  generalize outcomeShown u2 n outcome = u3 at *
  have h4 := onlyReg_outcomeCounted u3 outcome
  obtain ⟨happlied, hskipped, hwithheld⟩ := outcomeCounted_spec u3 outcome
  generalize outcomeCounted u3 outcome = t at *
  have hscale : t.reg INF_LS_STATE = u1.reg INF_LS_STATE :=
    (h4.reg (by decide)).trans ((h3.reg (by decide)).trans (h2.reg (by decide)))
  have hstatus : t.reg INF_STATUS = u2.reg INF_STATUS := (h4.reg (by decide)).trans (h3.reg (by decide))
  have hshown : t.reg INF_LAST = u3.reg INF_LAST := h4.reg (by decide)
  have hcounted : u3.reg INF_SKIPPED = s.reg INF_SKIPPED :=
    (h3.reg (by decide)).trans ((h2.reg (by decide)).trans (h1.reg (by decide)))
  constructor
  case lastOutcome => rw [fget_congr hshown, hlast]
  case scaleExp => rw [fget_congr hscale, hexp]
  case scaleClean => rw [fget_congr hscale, hclean]
  case metFloor => rwa [fbit_congr hstatus]
  case metCeil => rwa [fbit_congr hstatus]
  case applied => rwa [← hcounted]
  case skipped => rwa [← fget_congr hcounted]
  case withheld => rwa [← fget_congr hcounted]
  case wait => rw [fbit_congr hstatus, hwait]
  case lastStep => rw [fget_congr hshown, hstep]

/-- What follows a verdict leaves the registers in which it shows. -/
theorem Told.congr {s t u : State} {n : Nat} {exp : Int} {clean outcome : Nat} {floor ceil : Bool}
    (h : Told s t n exp clean outcome floor ceil) (hu : ∀ a, StillReg a → u.reg a = t.reg a) :
    Told s u n exp clean outcome floor ceil := by
  have hscale := hu INF_LS_STATE (stillReg_controller (by decide) (by decide))
  have hstatus := hu INF_STATUS (stillReg_controller (by decide) (by decide))
  have hlast := hu INF_LAST (stillReg_controller (by decide) (by decide))
  have hskipped := hu INF_SKIPPED (stillReg_controller (by decide) (by decide))
  constructor
  case lastOutcome => rw [fget_congr hlast, h.lastOutcome]
  case scaleExp => rw [fget_congr hscale, h.scaleExp]
  case scaleClean => rw [fget_congr hscale, h.scaleClean]
  case metFloor => rw [fbit_congr hstatus]; exact h.metFloor
  case metCeil => rw [fbit_congr hstatus]; exact h.metCeil
  case applied => rw [hskipped]; exact h.applied
  case skipped => rw [fget_congr hskipped]; exact h.skipped
  case withheld => rw [fget_congr hskipped]; exact h.withheld
  case wait => rw [fbit_congr hstatus, h.wait]
  case lastStep => rw [fget_congr hlast, h.lastStep]

/-! ### Format records -/

/-- Still registers, the units, the job and the bytes of a set of keys are as before. -/
def RecordFrame (p : Nat → Prop) (s u : State) : Prop :=
  (∀ a, StillReg a → u.reg a = s.reg a) ∧ WriteFrame s u ∧ ∀ k, p k → byteAt u k = byteAt s k

theorem RecordFrame.refl (p : Nat → Prop) (s : State) : RecordFrame p s s := ⟨fun _ _ => rfl, .refl s, fun _ _ => rfl⟩

section
variable {p : Nat → Prop} {s u : State} (h : RecordFrame p s u)
include h

theorem RecordFrame.trans {v : State} (h' : RecordFrame p u v) : RecordFrame p s v := by
  obtain ⟨hreg, hframe, hbyte⟩ := h
  obtain ⟨hreg', hframe', hbyte'⟩ := h'
  exact ⟨fun a ha => (hreg' a ha).trans (hreg a ha), hframe.trans hframe', fun k hk => (hbyte' k hk).trans (hbyte k hk)⟩

protected theorem RecordFrame.ite {v : State} (hv : RecordFrame p s v) {c : Prop} [Decidable c] :
    RecordFrame p s (if c then u else v) := by
  split
  · exact h
  · exact hv

protected theorem RecordFrame.verifyFormat {id : Nat} : RecordFrame p s (verifyFormat u id).2 := by
  have := written_writeFrame u
  have := checked_mem u.mem
  have hframe : WriteFrame u (Machine.verifyFormat u id).2 := State.Has.verifyFormat (I := WriteFrame u) (.refl u)
  have hmem : (Machine.verifyFormat u id).2.mem = u.mem := State.Has.verifyFormat (I := fun v => v.mem = u.mem) rfl
  exact h.trans ⟨fun a ha => still_verifyFormat ha id, hframe, fun k _ => byteAt_congr hmem k⟩

protected theorem RecordFrame.post {kind : EventKind} {unit data : Nat} : RecordFrame p s (post u kind unit data) := by
  have := written_writeFrame u
  have := checked_mem u.mem
  have hframe : WriteFrame u (Machine.post u kind unit data) := State.Has.post (I := WriteFrame u) (.refl u)
  have hmem : (Machine.post u kind unit data).mem = u.mem := State.Has.post (I := fun v => v.mem = u.mem) rfl
  exact h.trans ⟨fun a ha => still_post ha kind unit data, hframe, fun k _ => byteAt_congr hmem k⟩

/-- Bytes are written at other places. -/
protected theorem RecordFrame.writeBytes {a : Nat} {bs : List Byte} {poison : Bool}
    (hp : ∀ k, p k → ∀ i < bs.length, k ≠ keyOf s (a + i)) : RecordFrame p s (writeBytes u .other a bs poison) := by
  have := written_writeFrame u
  have hframe : WriteFrame u (Machine.writeBytes u .other a bs poison) := State.Has.writeBytes (I := WriteFrame u) (.refl u)
  refine h.trans ⟨fun b _ => reg_writeBytes _ _ _ _, hframe, fun k hk => byteAt_writeBytes_ne fun i hi => ?_⟩
  rw [keyOf_congr (h.1 _ stillReg_mode)]
  exact hp k hk i hi

end

/-- The keys outside the format records of the job's tensors. -/
def OutsideFormats (s : State) (k : Nat) : Prop := ∀ d ∈ s.job.tensors, ∀ i < 128, k ≠ keyOf s (formatAddr s d.id + i)

/-- Each tensor's record is written within its 128 bytes (R260). -/
theorem recordFrame_pushAmax (s : State) (push : Bool) : RecordFrame (OutsideFormats s) s (pushAmax s push) := by
  refine List.foldlRecOn (motive := RecordFrame (OutsideFormats s) s) _ _ (.refl _ s) fun u hu id hid => ?_
  obtain ⟨d, hd, rfl⟩ := List.mem_map.1 (List.mem_eraseDups.1 hid)
  have hwrite {v : State} (hv : RecordFrame (OutsideFormats s) s v) (off : Nat) (bs : List Byte) (bad : Bool)
      (hoff : off + bs.length ≤ 128) : RecordFrame (OutsideFormats s) s (writeBytes v .other (formatAddr s d.id + off) bs bad) :=
    hv.writeBytes fun k hk i hi => by
      rw [Nat.add_assoc]
      exact hk d hd (off + i) (by omega)
  extract_lets v bad u1 rec_ a nxt u2
  have h1 : RecordFrame (OutsideFormats s) s u1 := by
    unfold u1 v
    split
    · exact hu.verifyFormat
    · exact hu
  have ha : a = formatAddr s d.id := formatAddr_congr (h1.1 _ stillReg_formats) d.id
  have hnxt : nxt < 16 := bitsAt_lt _ _ _
  have h2 : RecordFrame (OutsideFormats s) s u2 := by
    unfold u2
    rw [ha, Nat.add_assoc _ 8]
    exact (hwrite (hwrite h1 _ _ _ (by rw [length_leBytes]; omega)) _ _ _ (by rw [length_leBytes]; omega)).ite h1
  rw [ha]
  exact hwrite h2 4 _ _ (by rw [length_leBytes]; omega)

/-! ### The verdict comes in -/

theorem length_stepRecord (n outcome exp clean nf wh arrival : Nat) : (stepRecord n outcome exp clean nf wh arrival).length = 64 := by
  simp [stepRecord, length_leBytes]

/-- Steps skipped or withheld are noted. -/
def outcomeNoted (s : State) (outcome data : Nat) : State :=
  if outcome = 1 then post s .stepSkipped 0 data else if outcome = 2 then post s .stepWithheld 0 data else s

/-- What a verdict leaves in the step controller. -/
def StepCtl.judged (x : StepCtl) (n outcome now : Nat) (exp : Int) : StepCtl :=
  { x with sent := none, verdict := some (n, outcome, now), exp := exp, walkDone := true, sumCounts := none, sumSlots := [] }

/-- A verdict without norm slots writes its registers, the step record and the format records, and is noted. -/
theorem verdictArrives_eq {s : State} {n b nf wh : Nat} (hsent : s.stp.sent = some (n, b)) {exp : Int} {clean outcome : Nat}
    {floor ceil : Bool} (hr : lossScale s nf wh = (exp, clean, outcome, floor, ceil)) :
    let u := verdictRegs s n exp clean outcome floor ceil
    ∃ rec_ old, rec_.length = 64 ∧
      let v := outcomeNoted (pushAmax (writeBytes u .other (faddr u INF_STEP_ADDR f_INF_STEP_ADDR_ADDR) rec_ false) (wh == 0)) outcome
        (field rec_ 0 8)
      verdictArrives s nf wh [] = { v with stp := v.stp.judged n outcome v.now old } := by
  refine ⟨_, signed 8 (fget s INF_LS_STATE f_INF_LS_STATE_EXP), length_stepRecord n outcome (codeOf 8 exp) clean nf wh (verdictRegs s n exp clean outcome floor ceil).now, ?_⟩
  unfold verdictArrives
  rw [hsent, hr]
  rfl

/-- The keys outside the step record and the format records. -/
def OutsideRecords (s : State) (k : Nat) : Prop :=
  (∀ i < 64, k ≠ keyOf s (faddr s INF_STEP_ADDR f_INF_STEP_ADDR_ADDR + i)) ∧ OutsideFormats s k

theorem drawOf_congr {s t : State} (h : t.reg INF_SEED = s.reg INF_SEED) (n : Nat) (stream : Word) (d : Nat) :
    drawOf t n stream d = drawOf s n stream d := by rw [drawOf, drawOf, h]

theorem RecordFrame.mono {p q : Nat → Prop} {s u : State} (h : RecordFrame p s u) (hq : ∀ k, q k → p k) : RecordFrame q s u :=
  ⟨h.1, h.2.1, fun k hk => h.2.2 k (hq k hk)⟩

/-- After its registers a verdict writes its records alone. -/
theorem recordFrame_records (u : State) {rec_ : List Byte} (hlen : rec_.length = 64) (push : Bool) (outcome data : Nat) :
    RecordFrame (OutsideRecords u) u
      (outcomeNoted (pushAmax (writeBytes u .other (faddr u INF_STEP_ADDR f_INF_STEP_ADDR_ADDR) rec_ false) push) outcome data) := by
  have h1 : RecordFrame (OutsideRecords u) u (writeBytes u .other (faddr u INF_STEP_ADDR f_INF_STEP_ADDR_ADDR) rec_ false) :=
    (RecordFrame.refl _ u).writeBytes fun k hk i hi => hk.1 i (hlen ▸ hi)
  have hformats (k : Nat) (hk : OutsideRecords u k) :
      OutsideFormats (writeBytes u .other (faddr u INF_STEP_ADDR f_INF_STEP_ADDR_ADDR) rec_ false) k := by
    obtain ⟨hreg, ⟨-, ⟨hjob, -⟩, -⟩, -⟩ := h1
    simp only [OutsideFormats, hjob, keyOf_congr (hreg _ stillReg_mode), formatAddr_congr (hreg _ stillReg_formats)]
    exact hk.2
  have h2 := h1.trans ((recordFrame_pushAmax _ push).mono hformats)
  exact h2.post.ite (h2.post.ite h2)

/-- A verdict without norm slots: what it shows, and what it leaves. -/
theorem verdictArrives_spec {s : State} {n b nf wh : Nat} (hsent : s.stp.sent = some (n, b)) {exp : Int} {clean outcome : Nat}
    {floor ceil : Bool} (hr : lossScale s nf wh = (exp, clean, outcome, floor, ceil)) :
    let t := verdictArrives s nf wh []
    Told s t n exp clean outcome floor ceil ∧ t.stp.sent = none ∧ t.stp.verdict = some (n, outcome, s.now) ∧
      (∀ k, OutsideRecords s k → byteAt t k = byteAt s k) ∧
      (t.seqs = s.seqs ∧ t.tiles = s.tiles ∧ t.chans = s.chans ∧ t.car = s.car ∧ t.job = s.job) ∧ t.reg INF_SEED = s.reg INF_SEED := by
  obtain ⟨hlo, hhi, hclean, houtcome⟩ := lossScale_bounds s hr
  obtain ⟨rec_, old, hlen, he⟩ := verdictArrives_eq hsent hr
  have htold := told_verdictRegs s n floor ceil hlo hhi hclean houtcome
  have hreg {a : Nat} := reg_verdictRegs_ne s n exp clean outcome floor ceil (a := a)
  obtain ⟨regs, honly⟩ := onlyRegs_verdictRegs s n exp clean outcome floor ceil
  generalize verdictRegs s n exp clean outcome floor ceil = u at *
  have hframe := recordFrame_records u hlen (wh == 0) outcome (field rec_ 0 8)
  generalize outcomeNoted (pushAmax (writeBytes u .other (faddr u INF_STEP_ADDR f_INF_STEP_ADDR_ADDR) rec_ false) (wh == 0)) outcome
    (field rec_ 0 8) = v at *
  obtain ⟨hstill, ⟨⟨hseqs, htiles, -, -, -, hchans⟩, ⟨hjob, hcar, -⟩, hbeat, -⟩, hbyte⟩ := hframe
  have hnow : v.now = s.now := congrArg BitVec.toNat (hbeat.trans (by rw [honly]))
  have houtside (k : Nat) (hk : OutsideRecords s k) : OutsideRecords u k := by
    obtain ⟨hrecord, hformats⟩ := hk
    have hmode : u.reg HBM_MODE = s.reg HBM_MODE := hreg (by decide) (by decide) (by decide) (by decide)
    have haddr : u.reg INF_STEP_ADDR = s.reg INF_STEP_ADDR := hreg (by decide) (by decide) (by decide) (by decide)
    have hbase : u.reg INF_FSTATE_BASE = s.reg INF_FSTATE_BASE := hreg (by decide) (by decide) (by decide) (by decide)
    have hjob : u.job = s.job := by rw [honly]
    simp only [OutsideRecords, OutsideFormats, faddr, fget_congr haddr, keyOf_congr hmode, formatAddr_congr hbase, hjob]
    exact ⟨hrecord, hformats⟩
  have humem : u.mem = s.mem := by rw [honly]
  have ht (a : Nat) : (verdictArrives s nf wh []).reg a = v.reg a := reg_congr (by rw [he]) a
  rw [he] at ht ⊢
  refine ⟨htold.congr fun a ha => (ht a).trans (hstill a ha), rfl, ?_, fun k hk => ?_, ⟨hseqs.trans (by rw [honly]),
    htiles.trans (by rw [honly]), hchans.trans (by rw [honly]), hcar.trans (by rw [honly]), hjob.trans (by rw [honly])⟩, ?_⟩
  · exact congrArg (fun now => some (n, outcome, now)) hnow
  · exact (hbyte k (houtside k hk)).trans (byteAt_congr humem k)
  · exact (ht _).trans ((hstill _ (stillReg_controller (by decide) (by decide))).trans
      (hreg (by decide) (by decide) (by decide) (by decide)))

/-- A verdict moves the loss scale as Table STP-3 and R269 say. -/
theorem judged_verdictArrives {s : State} {n b : Nat} (nf wh : Nat) (hsent : s.stp.sent = some (n, b)) :
    Judged s (verdictArrives s nf wh []) n nf wh := by
  obtain ⟨⟨exp, clean, outcome, floor, ceil⟩, hr⟩ : ∃ r, lossScale s nf wh = r := ⟨_, rfl⟩
  obtain ⟨htold, hnone, hverdict, hbyte, ⟨hseqs, htiles, hchans, hcar, hjob⟩, -⟩ := verdictArrives_spec hsent hr
  refine ⟨fun hwh => ?_, fun hwh hnf => ?_, fun hwh hnf hrun => ?_, fun hwh hnf hrun => ?_, hnone, htold.wait, htold.lastStep,
    fun k hrecord hformats => hbyte k ⟨hrecord, hformats⟩, hseqs, htiles, hchans, hcar, hjob⟩
  · rw [lossScale_withheld s hwh] at hr
    cases hr
    exact ⟨⟨htold.lastOutcome, htold.scaleExp, htold.scaleClean, hverdict⟩, htold.withheld rfl⟩
  · rw [lossScale_skipped s hwh hnf] at hr
    cases hr
    exact ⟨⟨htold.lastOutcome, htold.scaleExp, htold.scaleClean, hverdict⟩, fun h => htold.metFloor (decide_eq_true h), htold.skipped rfl⟩
  · rw [lossScale_counted s hwh hnf hrun] at hr
    cases hr
    exact ⟨⟨htold.lastOutcome, htold.scaleExp, htold.scaleClean, hverdict⟩, htold.applied rfl⟩
  · rw [lossScale_raised s hwh hnf hrun] at hr
    cases hr
    exact ⟨⟨htold.lastOutcome, htold.scaleExp, htold.scaleClean, hverdict⟩, fun h => htold.metCeil (decide_eq_true h), htold.applied rfl⟩

end Sys2Proof.Machine
end

section
/-! The commands of a verdict: VERDICT_PACKET, ABANDON and VERDICT_WARN_EXPIRE (R264 to R266, R321). -/

namespace Sys2Proof.Machine

/-- Links, the step controller and the count of free values play no role in what a verdict moves. -/
theorem Judged.of_update {s t : State} {links stp free} {n nf wh : Nat}
    (h : Judged { s with links := links, stp := stp, free := free } t n nf wh) : Judged s t n nf wh := h

/-- A verdict draws no random number: the streams stand (R287). -/
theorem drawOf_verdictArrives {s : State} {n b nf wh : Nat} (hsent : s.stp.sent = some (n, b)) (m : Nat) (stream : Word) (d : Nat) :
    drawOf (verdictArrives s nf wh []) m stream d = drawOf s m stream d := by
  obtain ⟨⟨exp, clean, outcome, floor, ceil⟩, hr⟩ : ∃ r, lossScale s nf wh = r := ⟨_, rfl⟩
  obtain ⟨-, -, -, -, -, hseed⟩ := verdictArrives_spec hsent hr
  exact drawOf_congr hseed m stream d

/-! ### VERDICT_PACKET -/

/-- A congestion mark changes only the links. -/
theorem congestionOn_frame (s : State) (ce : Bool) (peer plane : Nat) :
    ∃ links, congestionOn s ce peer plane = { s with links := links } := by
  unfold congestionOn
  dsimp only
  split
  · exact ⟨_, rfl⟩
  · exact ⟨s.links, rfl⟩

theorem exec_verdictPacket (v : VerdictMsg) (s : State) : exec (.verdictPacket v) s = execVerdictPacket v s := rfl

/-- Without norm slots the summed counts are the whole verdict (R264). -/
theorem verdictComplete_counts {s : State} {n b nf wh : Nat} (hsent : s.stp.sent = some (n, b)) (hcounts : s.stp.sumCounts = some (nf, wh))
    (hslots : normSlots s = 0) (hsum : s.stp.sumSlots = []) : verdictComplete s = verdictArrives s nf wh [] := by
  have hruns : slotRuns s = [] := by rw [slotRuns, hslots]; rfl
  simp only [verdictComplete, hsent, hcounts, hruns, hsum, List.all_nil, ↓reduceIte]

theorem execVerdictPacket_summed {s : State} {v : VerdictMsg} {nf wh : Word} {b : Nat}
    (hjob : v.job.toNat = fget s LNK_JOB f_LNK_JOB_JOB) (hsummed : v.summed = true) (hpart : v.part = .counts nf wh)
    (hsent : s.stp.sent = some (v.step.toNat, b)) (hslots : normSlots s = 0) (hsum : s.stp.sumSlots = []) :
    ∃ links, exec (.verdictPacket v) s = .next (verdictArrives
      { s with links := links, stp := { s.stp with sumCounts := some (nf.toNat, wh.toNat) } } nf.toNat wh.toNat []) := by
  obtain ⟨links, hce⟩ := congestionOn_frame s v.ce v.sender.toNat v.plane
  have hcomplete := verdictComplete_counts (s := recordSum { s with links := links } (.counts nf wh)) hsent rfl hslots hsum
  refine ⟨links, ?_⟩
  rw [exec_verdictPacket, execVerdictPacket, hce, hpart]
  exact (if_neg (not_not.2 hjob)).trans ((if_pos hsummed).trans ((if_pos (congrArg (Option.map (·.1)) hsent)).trans
    (congrArg Host.Outcome.next hcomplete)))

/-- An owner that lacks a module's part keeps what it has (R264). -/
theorem foldCounts_waits {s : State} {n m : Nat} (hm : m < moduleCount s) (hlacks : ∀ c ∈ s.stp.counts, ¬ (c.1 = n ∧ c.2.1 = m)) :
    foldCounts s n = s := by
  refine if_neg fun hall => ?_
  obtain ⟨c, hc, hcm⟩ := List.any_eq_true.1 (List.all_eq_true.1 hall m (List.mem_range.2 hm))
  obtain ⟨hmem, hcn⟩ := List.mem_filter.1 hc
  exact hlacks c hmem ⟨beq_iff_eq.1 hcn, beq_iff_eq.1 hcm⟩

/-- A new contribution is kept while another module's is missing. -/
theorem takePart_waits {s : State} {n m sender : Nat} (nf wh : Word)
    (hnew : ∀ c ∈ s.stp.counts, ¬ (c.1 = n ∧ (c.2.1 = sender ∨ c.2.1 = m))) (hm : m < moduleCount s) (hne : m ≠ sender) :
    takePart s n sender (.counts nf wh) =
      { s with stp := { s.stp with counts := s.stp.counts ++ [(n, sender, nf.toNat, wh.toNat)] } } := by
  have hfirst : ¬ (s.stp.counts.any fun c => c.1 == n && c.2.1 == sender) = true := fun h => by
    obtain ⟨c, hc, hboth⟩ := List.any_eq_true.1 h
    simp only [Bool.and_eq_true, beq_iff_eq] at hboth
    exact hnew c hc ⟨hboth.1, .inl hboth.2⟩
  refine (if_neg hfirst).trans (foldCounts_waits (m := m) hm fun c hc => ?_)
  rcases List.mem_append.1 hc with hc | hc
  · exact fun ⟨hn, hcm⟩ => hnew c hc ⟨hn, .inr hcm⟩
  · rw [List.mem_singleton.1 hc]
    exact fun ⟨_, hcm⟩ => hne hcm.symm

theorem verdictComplete_waits {s : State} (hnone : s.stp.sumCounts = none) : verdictComplete s = s := by
  unfold verdictComplete
  rw [hnone]
  cases s.stp.sent <;> rfl

theorem execVerdictPacket_part {s : State} {v : VerdictMsg} {nf wh : Word} {m : Nat}
    (hjob : v.job.toNat = fget s LNK_JOB f_LNK_JOB_JOB) (hpartial : v.summed = false) (hpart : v.part = .counts nf wh)
    (hnone : s.stp.sumCounts = none)
    (hnew : ∀ c ∈ s.stp.counts, ¬ (c.1 = v.step.toNat ∧ (c.2.1 = v.sender.toNat ∨ c.2.1 = m)))
    (hm : m < moduleCount s) (hne : m ≠ v.sender.toNat) :
    exec (.verdictPacket v) s = .next { congestionOn s v.ce v.sender.toNat v.plane with stp := { s.stp with
      counts := s.stp.counts ++ [(v.step.toNat, v.sender.toNat, nf.toNat, wh.toNat)] } } := by
  obtain ⟨links, hce⟩ := congestionOn_frame s v.ce v.sender.toNat v.plane
  have htaken := takePart_waits (s := { s with links := links }) nf wh hnew hm hne
  have hwaits : verdictComplete (takePart { s with links := links } v.step.toNat v.sender.toNat (.counts nf wh)) = _ :=
    (verdictComplete_waits (by rw [htaken]; exact hnone)).trans htaken
  rw [exec_verdictPacket, execVerdictPacket, hce, hpart]
  exact (if_neg (not_not.2 hjob)).trans ((if_neg (ne_true_of_eq_false hpartial)).trans
    (congrArg Host.Outcome.next hwaits))

/-! ### ABANDON -/

theorem exec_abandon (r : Requester) (s : State) : exec (.abandon r) s = execAbandon r s := rfl

/-- A pending verdict is taken as withheld, with a free non-finite count (R266). -/
theorem execAbandon_pending {s : State} {r : Requester} {n b : Nat} (hr : mayWrite s r (some grpStep) = true)
    (hsent : s.stp.sent = some (n, b)) :
    exec (.abandon r) s = .next (verdictArrives (takeFree s).2 (takeFree s).1.toNat 1 []) := by
  rw [exec_abandon, execAbandon, guardedWrite_allowed hr, if_pos (by rw [hsent]; rfl)]

theorem execAbandon_idle {s : State} {r : Requester} (hr : mayWrite s r (some grpStep) = true) (hsent : s.stp.sent = none) :
    exec (.abandon r) s = .next s := by
  rw [exec_abandon, execAbandon, guardedWrite_allowed hr, if_neg (by rw [hsent]; decide)]

/-- A withheld verdict moves the same whatever its non-finite count (Table STP-3). -/
theorem Judged.of_withheld {s t : State} {n nf wh : Nat} (hwh : wh ≠ 0) (h : Judged s t n nf wh) (nf' : Nat) : Judged s t n nf' wh := by
  obtain ⟨hwithheld, -, -, -, hrest⟩ := h
  exact ⟨hwithheld, fun h0 => absurd h0 hwh, fun h0 => absurd h0 hwh, fun h0 => absurd h0 hwh, hrest⟩

/-! ### VERDICT_WARN_EXPIRE -/

theorem exec_verdictWarnExpire (s : State) : exec .verdictWarnExpire s = execVerdictWarnExpire s := rfl

theorem out_fset (s : State) (a : Nat) (f : Fld) (v : Nat) : (fset s a f v).out = s.out := State.setReg_out s a _

/-- Notes of events send further messages and take none back. -/
theorem out_raiseAlert {s : State} {m : OutMsg} (h : m ∈ s.out) (f : Fld) : m ∈ (raiseAlert s f).out := by
  have hmsix (u : State) (hu : m ∈ u.out) (port vector : Nat) : m ∈ (msix u port vector).out := by
    unfold msix waitLink
    dsimp only
    split
    · split
      · exact List.mem_append_left _ hu
      · split <;> exact hu
    · rwa [State.setReg_out]
  have hout : (refreshAlert (fset s MGS_ALERT f 1)).out = s.out := out_fset s MGS_ALERT f 1
  have hset : m ∈ (refreshAlert (fset s MGS_ALERT f 1)).out := by rwa [hout]
  unfold raiseAlert interrupt
  split
  · exact h
  · dsimp only
    split
    · split
      · exact hmsix _ hset _ _
      · exact hset
    · exact hset

theorem out_post {s : State} {m : OutMsg} (h : m ∈ s.out) (k : EventKind) (unit data : Nat) : m ∈ (post s k unit data).out := by
  unfold post
  dsimp only
  split
  · refine out_raiseAlert (s := { fadd s MGS_STATUS f_MGS_STATUS_LOST 1 with mgr := _ }) ?_ _
    rwa [fadd, out_fset]
  · exact h

/-- An interrupt whose route and vector are open is sent (R372). -/
theorem interrupt_sends {s : State} {source : Nat} (hroute : fbit s (HIF_IRQ_ROUTE source) f_HIF_IRQ_ROUTE_ENABLE = true)
    (hport : nthD false s.pins.msix (fget s (HIF_IRQ_ROUTE source) f_HIF_IRQ_ROUTE_PORT) = true)
    (hmask : fbit s (MSIX_DATA (fget s (HIF_IRQ_ROUTE source) f_HIF_IRQ_ROUTE_VECTOR)) f_MSIX_DATA_MASK = false)
    (hup : portUp s (fget s (HIF_IRQ_ROUTE source) f_HIF_IRQ_ROUTE_PORT) = true) :
    OutMsg.msix (fget s (HIF_IRQ_ROUTE source) f_HIF_IRQ_ROUTE_PORT) (fget s (HIF_IRQ_ROUTE source) f_HIF_IRQ_ROUTE_VECTOR)
      (s.reg (MSIX_ADDR (fget s (HIF_IRQ_ROUTE source) f_HIF_IRQ_ROUTE_VECTOR)))
      (fget s (MSIX_DATA (fget s (HIF_IRQ_ROUTE source) f_HIF_IRQ_ROUTE_VECTOR)) f_MSIX_DATA_DATA) ∈ (interrupt s source).out := by
  simp only [interrupt, msix, hroute, hport, hmask, hup, Bool.not_false, Bool.and_self, ↓reduceIte, emit_out, List.mem_append,
    List.mem_singleton, or_true]

/-- The contribution's verdict is late (R266). -/
def markedLate (s : State) : State := fset { s with stp := { s.stp with late := true } } INF_STATUS f_INF_STATUS_VERDICT_LATE 1

theorem execVerdictWarnExpire_late {s : State} {n b : Nat} (hsent : s.stp.sent = some (n, b))
    (hdue : b + fget s INF_VERDICT_WARN f_INF_VERDICT_WARN_BEATS ≤ s.now) :
    exec .verdictWarnExpire s = .next (if s.stp.late then s else post (stepInterrupt (markedLate s)) .lateVerdict 0 n) := by
  rw [exec_verdictWarnExpire]
  unfold execVerdictWarnExpire
  split
  · next n' b' h =>
    obtain ⟨rfl, rfl⟩ : n' = n ∧ b' = b := Prod.mk.injEq .. ▸ Option.some.inj (h.symm.trans hsent)
    rw [decide_eq_false (not_lt.2 hdue), Bool.false_or]
    split <;> rfl
  · next h => exact absurd (h.symm.trans hsent) nofun

/-- Of the registers that the step interrupt reads, the mark of a late verdict changes none. -/
theorem reg_markedLate (s : State) {a : Nat} (ha : a ≠ INF_STATUS) : (markedLate s).reg a = s.reg a :=
  (reg_fset_ne _ _ _ ha).trans (reg_congr rfl a)

/-- The mark, the interrupt and the event of a late verdict leave everything else. -/
theorem notes_lateVerdict (s : State) (n : Nat) : Notes (markedLate s) (post (stepInterrupt (markedLate s)) .lateVerdict 0 n) := by
  have := noted_notes (markedLate s)
  have hmarked : (markedLate s).Has (Notes (markedLate s)) := ⟨.refl _, fun _ _ => rfl⟩
  exact (hmarked.interrupt.ite hmarked).post

theorem lateVerdict_spec (s : State) (n : Nat) :
    let t := post (stepInterrupt (markedLate s)) .lateVerdict 0 n
    fbit t INF_STATUS f_INF_STATUS_VERDICT_LATE = true ∧ t.stp = { s.stp with late := true } ∧
      KeepsMemory s t ∧ KeepsUnits s t ∧ t.job = s.job ∧ t.car = s.car := by
  obtain ⟨hframe, hreg⟩ := notes_lateVerdict s n
  obtain ⟨hjob, hcar, hstp, -⟩ := hframe.keepsJob
  have hstatus := hreg INF_STATUS (by unfold LogReg INF_STATUS; omega)
  exact ⟨(fbit_congr hstatus _).trans (fbit_fset_one _ _ _ (by decide)), hstp.trans (State.setReg_stp _ _ _), hframe.keepsMemory,
    hframe.keepsUnits, hjob.trans (State.setReg_job _ _ _), hcar.trans (State.setReg_car _ _ _)⟩

theorem lateVerdict_sends {s : State} (n : Nat) (hen : fbit s INF_CTL f_INF_CTL_IRQ_EN = true)
    (hroute : fbit s (HIF_IRQ_ROUTE 1) f_HIF_IRQ_ROUTE_ENABLE = true)
    (hport : nthD false s.pins.msix (fget s (HIF_IRQ_ROUTE 1) f_HIF_IRQ_ROUTE_PORT) = true)
    (hmask : fbit s (MSIX_DATA (fget s (HIF_IRQ_ROUTE 1) f_HIF_IRQ_ROUTE_VECTOR)) f_MSIX_DATA_MASK = false)
    (hup : portUp s (fget s (HIF_IRQ_ROUTE 1) f_HIF_IRQ_ROUTE_PORT) = true) :
    OutMsg.msix (fget s (HIF_IRQ_ROUTE 1) f_HIF_IRQ_ROUTE_PORT) (fget s (HIF_IRQ_ROUTE 1) f_HIF_IRQ_ROUTE_VECTOR)
      (s.reg (MSIX_ADDR (fget s (HIF_IRQ_ROUTE 1) f_HIF_IRQ_ROUTE_VECTOR)))
      (fget s (MSIX_DATA (fget s (HIF_IRQ_ROUTE 1) f_HIF_IRQ_ROUTE_VECTOR)) f_MSIX_DATA_DATA) ∈
        (post (stepInterrupt (markedLate s)) .lateVerdict 0 n).out := by
  have hctl : (markedLate s).reg INF_CTL = s.reg INF_CTL := reg_markedLate s (by decide)
  have hhost {a : Nat} (ha : 0xA00000 ≤ a) : (markedLate s).reg a = s.reg a := reg_markedLate s (by unfold INF_STATUS; omega)
  have hstatus : (markedLate s).reg HIF_STATUS = s.reg HIF_STATUS := hhost (by decide)
  have hirq : (markedLate s).reg (HIF_IRQ_ROUTE 1) = s.reg (HIF_IRQ_ROUTE 1) := hhost (by decide)
  have haddr (v : Nat) : (markedLate s).reg (MSIX_ADDR v) = s.reg (MSIX_ADDR v) := hhost (by unfold MSIX_ADDR; omega)
  have hdata (v : Nat) : (markedLate s).reg (MSIX_DATA v) = s.reg (MSIX_DATA v) := hhost (by unfold MSIX_DATA; omega)
  have hsame : (markedLate s).pins = s.pins := State.setReg_pins _ _ _
  rw [portUp, ← fbit_congr hstatus, ← fbit_congr hstatus, ← portUp] at hup
  simp only [← haddr, ← fget_congr (hdata _), ← fbit_congr (hdata _), ← fget_congr hirq, ← fbit_congr hirq, ← hsame] at *
  refine out_post ?_ _ _ _
  rw [stepInterrupt, if_pos ((fbit_congr hctl _).trans hen)]
  exact interrupt_sends hroute hport hmask hup

end Sys2Proof.Machine
end

section
/-! The infusers' walk: a record and its gradient, an entry's P1 and P2, and the end of the walk (R277 to R283, R337). -/

namespace Sys2Proof.Machine

/-! ### A record of the walk -/

/-- The stack offsets of a record and of its gradient. -/
def recordOffset (e : UEntry) (r : Nat) : Nat := e.recordAddr + 512 * r
def gradOffset (e : UEntry) (r : Nat) : Nat := e.gradAddr + (if e.bf16 then 64 else 128) * r

/-- Bytes of a record's gradient. -/
def gradBytes (e : UEntry) : Nat := if e.bf16 then 64 else 128

/-- What an infuser makes of a record as memory holds it. -/
def infusedAt (u : State) (h : StackId) (e : UEntry) (y : Hyper) (n r : Nat) : Infused :=
  infuseRecord u e y n (keyBytes u (stackKey h (recordOffset e r)) 512) (keyBytes u (stackKey h (gradOffset e r)) 128)

/-- The bytes of a record that differ from those in memory. -/
def changedBytes (bytes rec_ : List Byte) : List (Nat × Byte) :=
  ((List.range 512).map fun i => (i, nthD 0 bytes i)).filter fun p => p.2 != nthD 0 rec_ p.1

/-- Frozen and bad lanes are counted (R282, R283). -/
def lanesCounted (u : State) (h : StackId) (x : Infused) : State :=
  let u := fadd u (INF_FROZEN h.val) f_INF_FROZEN_COUNT x.frozen
  if x.bad = 0 then u
  else fset (fadd u (INF_BAD_LANES h.val) f_INF_BAD_LANES_COUNT x.bad) (INF_DIE_STATUS h.val) f_INF_DIE_STATUS_BAD_LANE 1

/-- The new record is written, and its largest weight merged (R281). -/
def recordWritten (u : State) (h : StackId) (key tensor : Nat) (x : Infused) (rec_ : List Byte) : State :=
  mcModule (mergeAmax (writeBlock u .other (key / 512) (changedBytes x.bytes rec_) false) tensor x.amax) 0x140 h.val 1

/-- Outside a capture nothing is forwarded (R292). -/
theorem forwardRecord_idle {s : State} {h : StackId} (hidle : (s.die h).capturing = false) (off pos : Nat) (left : Bool) :
    forwardRecord s h off pos left = s := if_neg (by simp [hidle])

section
variable {s : State} {h : StackId} {e : UEntry} {y : Hyper} {n start r : Nat}

/-- The record and its gradient are verified. -/
def recordVerified (s : State) (h : StackId) (e : UEntry) (r : Nat) : Bool × State := verifyStack s h (recordOffset e r) 512

def gradVerified (s : State) (h : StackId) (e : UEntry) (r : Nat) : Bool × State :=
  verifyStack (recordVerified s h e r).2 h (gradOffset e r) (gradBytes e)

theorem walkRecord_eq : walkRecord h e y n start s r =
    let u := (gradVerified s h e r).2
    if !(recordVerified s h e r).1 || !(gradVerified s h e r).1 then
      forwardRecord (leaveRecords u h (recordOffset e r) false 1) h (recordOffset e r) (start + r) true
    else
      let x := infusedAt u h e y n r
      let w := lanesCounted (forwardRecord u h (recordOffset e r) (start + r) false) h x
      if x.written then recordWritten w h (stackKey h (recordOffset e r)) e.tensor x (keyBytes u (stackKey h (recordOffset e r)) 512)
      else w := by
  have hgoff : (if e.bf16 = true then e.gradAddr + 64 * r else e.gradAddr + 128 * r) = gradOffset e r := by
    unfold gradOffset
    split <;> rfl
  unfold walkRecord
  simp only [hgoff]
  rfl

theorem mem_gradVerified : (gradVerified s h e r).2.mem = s.mem := (mem_verifyStack _ h _ _).trans (mem_verifyStack s h _ _)

theorem still_gradVerified {a : Nat} (ha : StillReg a) : (gradVerified s h e r).2.reg a = s.reg a :=
  (still_verifyStack ha h _ _).trans (still_verifyStack ha h _ _)

theorem die_gradVerified : (gradVerified s h e r).2.die h = s.die h := by
  have := written_writeFrame s
  have hfirst : WriteFrame s (recordVerified s h e r).2 := State.Has.verifyStack (I := WriteFrame s) (.refl s)
  obtain ⟨-, -, -, hdies⟩ : WriteFrame s (gradVerified s h e r).2 := State.Has.verifyStack (I := WriteFrame s) hfirst
  exact die_congr hdies h

theorem die_leaveRecords (off : Nat) (entry : Bool) (cnt : Nat) (g : StackId) : (leaveRecords s h off entry cnt).die g = s.die g := by
  unfold leaveRecords fadd
  dsimp only
  rw [die_fset]
  split
  · rfl
  · simp only [die_fset]

/-- Outside a capture a poisoned record is left (R337). -/
theorem walkRecord_poisoned (hidle : (s.die h).capturing = false)
    (hbad : ((recordVerified s h e r).1 && (gradVerified s h e r).1) = false) :
    walkRecord h e y n start s r = leaveRecords (gradVerified s h e r).2 h (recordOffset e r) false 1 := by
  have hleft : (!(recordVerified s h e r).1 || !(gradVerified s h e r).1) = true := by rw [← Bool.not_and, hbad]; rfl
  rw [walkRecord_eq]
  exact (if_pos hleft).trans (forwardRecord_idle (by rwa [die_leaveRecords, die_gradVerified]) _ _ _)

/-- Outside a capture a sound record with a sound gradient is updated (R281 to R283). -/
theorem walkRecord_sound (hidle : (s.die h).capturing = false) (hrec : (recordVerified s h e r).1 = true)
    (hgrad : (gradVerified s h e r).1 = true) :
    let u := (gradVerified s h e r).2
    let x := infusedAt u h e y n r
    walkRecord h e y n start s r =
      if x.written then
        recordWritten (lanesCounted u h x) h (stackKey h (recordOffset e r)) e.tensor x (keyBytes u (stackKey h (recordOffset e r)) 512)
      else lanesCounted u h x := by
  rw [walkRecord_eq]
  dsimp only
  rw [if_neg (by simp [hrec, hgrad]), forwardRecord_idle (by rwa [die_gradVerified])]

end

/-! ### What a walk counts -/

/-- INF_POISON holds the first event and counts the records left (Table FLT-7). -/
theorem leaveRecords_spec (s : State) (h : StackId) (off : Nat) (entry : Bool) :
    (leaveRecords s h off entry 1).mem = s.mem ∧ fbit (leaveRecords s h off entry 1) (INF_POISON h.val) f_INF_POISON_VALID = true ∧
      fget (leaveRecords s h off entry 1) (INF_POISON h.val) f_INF_POISON_COUNT =
        (if fbit s (INF_POISON h.val) f_INF_POISON_VALID then
          min f_INF_POISON_COUNT.max (fget s (INF_POISON h.val) f_INF_POISON_COUNT + 1) else 1) := by
  unfold leaveRecords
  extract_lets r u
  have hcount : fget (fadd u r f_INF_POISON_COUNT 1) r f_INF_POISON_COUNT = min f_INF_POISON_COUNT.max (fget u r f_INF_POISON_COUNT + 1) :=
    fget_fadd_same u r _ 1 (by decide)
  have hvalid : fbit (fadd u r f_INF_POISON_COUNT 1) r f_INF_POISON_VALID = fbit u r f_INF_POISON_VALID :=
    fbit_fset_other u r _ (by decide) (by decide)
  rw [hcount, hvalid, fadd, mem_fset]
  by_cases hset : fbit s r f_INF_POISON_VALID = true
  · have hu : u = s := if_pos hset
    rw [hu, if_pos hset]
    exact ⟨rfl, hset, rfl⟩
  · have hu : u = _ := if_neg hset
    rw [hu, if_neg hset]
    refine ⟨by simp only [mem_fset], fbit_fset_one _ _ _ (by decide), ?_⟩
    rw [fget_fset_other _ _ _ (by decide) (by decide), fget_fset_other _ _ _ (by decide) (by decide),
      fget_fset_other _ _ _ (by decide) (by decide), fget_fset_same _ _ _ _ (by decide)]
    decide

/-- The registers of a die's lanes, and that nothing but registers is counted in. -/
theorem lanesCounted_spec (u : State) (h : StackId) (x : Infused) :
    (lanesCounted u h x).mem = u.mem ∧
      fget (lanesCounted u h x) (INF_FROZEN h.val) f_INF_FROZEN_COUNT =
        min f_INF_FROZEN_COUNT.max (fget u (INF_FROZEN h.val) f_INF_FROZEN_COUNT + x.frozen) ∧
      (x.bad ≠ 0 → fbit (lanesCounted u h x) (INF_DIE_STATUS h.val) f_INF_DIE_STATUS_BAD_LANE = true ∧
        fget (lanesCounted u h x) (INF_BAD_LANES h.val) f_INF_BAD_LANES_COUNT =
          min f_INF_BAD_LANES_COUNT.max (fget u (INF_BAD_LANES h.val) f_INF_BAD_LANES_COUNT + x.bad)) := by
  have hstatus : INF_FROZEN h.val ≠ INF_DIE_STATUS h.val := by unfold INF_FROZEN INF_DIE_STATUS; omega
  have hlanes : INF_FROZEN h.val ≠ INF_BAD_LANES h.val := by unfold INF_FROZEN INF_BAD_LANES; omega
  have hbad : INF_BAD_LANES h.val ≠ INF_DIE_STATUS h.val := by unfold INF_BAD_LANES INF_DIE_STATUS; omega
  have hfrozen := fget_fadd_same u (INF_FROZEN h.val) f_INF_FROZEN_COUNT x.frozen (by decide)
  unfold lanesCounted
  extract_lets w
  split
  · next hzero => exact ⟨mem_fset _ _ _ _, hfrozen, fun hne => absurd hzero hne⟩
  · refine ⟨?_, ?_, fun _ => ⟨fbit_fset_one _ _ _ (by decide), ?_⟩⟩
    · rw [mem_fset, fadd, mem_fset]
      exact mem_fset _ _ _ _
    · rw [fget_fset_ne _ _ _ _ hstatus, fadd, fget_fset_ne _ _ _ _ hlanes]
      exact hfrozen
    · rw [fget_fset_ne _ _ _ _ hbad, fget_fadd_same _ _ _ _ (by decide), show fget w (INF_BAD_LANES h.val) f_INF_BAD_LANES_COUNT =
        fget u (INF_BAD_LANES h.val) f_INF_BAD_LANES_COUNT from fget_fset_ne _ _ _ _ hlanes.symm]

/-! ### The registers of a walk -/

/-- The registers in which a base die's walk and capture show themselves. -/
def WalkReg (h : StackId) (a : Nat) : Prop :=
  a = INF_POISON h.val ∨ a = INF_CKPT_CURSOR h.val ∨ a = INF_CKPT_FWD h.val ∨ a = INF_FROZEN h.val ∨ a = INF_BAD_LANES h.val ∨
    a = INF_DIE_STATUS h.val

theorem not_walkReg_controller {h : StackId} {a : Nat} (ha : 0x900000 ≤ a) : ¬ WalkReg h a := by
  unfold WalkReg INF_POISON INF_CKPT_CURSOR INF_CKPT_FWD INF_FROZEN INF_BAD_LANES INF_DIE_STATUS
  omega

section
variable {s : State} {h : StackId} {a : Nat} (hne : ¬ WalkReg h a)
include hne

theorem reg_leaveRecords_ne (off : Nat) (entry : Bool) (cnt : Nat) : (leaveRecords s h off entry cnt).reg a = s.reg a := by
  unfold WalkReg at hne
  simp only [not_or] at hne
  obtain ⟨hpoison, -⟩ := hne
  unfold leaveRecords fadd
  dsimp only
  split <;> simp only [reg_fset_ne _ _ _ hpoison]

theorem reg_lanesCounted_ne (x : Infused) : (lanesCounted s h x).reg a = s.reg a := by
  unfold WalkReg at hne
  simp only [not_or] at hne
  obtain ⟨-, -, -, hfrozen, hlanes, hstatus⟩ := hne
  unfold lanesCounted fadd
  dsimp only
  split <;> simp only [reg_fset_ne _ _ _ hfrozen, reg_fset_ne _ _ _ hlanes, reg_fset_ne _ _ _ hstatus]

end

/-! ### The bytes of a record -/

theorem stackKey_mod (h : StackId) {off : Nat} (ha : off % 512 = 0) : stackKey h off % 512 = 0 := by
  unfold stackKey
  omega

theorem nthD_keyBytes {s : State} {k n i : Nat} (hi : i < n) : nthD 0 (keyBytes s k n) i = byteAt s (k + i) := by
  simp [nthD, keyBytes, hi]

/-- With its changed bytes written, a record's block holds the new record. -/
theorem byteAt_changedBytes (u : State) {key : Nat} (hkey : key % 512 = 0) (bytes : List Byte) :
    (∀ i < 512, byteAt (writeBlock u .other (key / 512) (changedBytes bytes (keyBytes u key 512)) false) (key + i) = nthD 0 bytes i) ∧
      ∀ k, (∀ i < 512, k ≠ key + i) →
        byteAt (writeBlock u .other (key / 512) (changedBytes bytes (keyBytes u key 512)) false) k = byteAt u k := by
  have hblock : key / 512 * 512 = key := by omega
  have hmem {p : Nat × Byte} (hp : p ∈ changedBytes bytes (keyBytes u key 512)) : p.1 < 512 ∧ p.2 = nthD 0 bytes p.1 := by
    obtain ⟨i, hi, rfl⟩ := List.mem_map.1 (List.mem_of_mem_filter hp)
    exact ⟨List.mem_range.1 hi, rfl⟩
  refine ⟨fun i hi => byteAt_writeBlock u .other false (fun p hp hk => ?_) ?_, fun k hk =>
    byteAt_writeBlock u .other false (fun p hp hpk => absurd (hpk.symm.trans (by rw [hblock])) (hk _ (hmem hp).1)) (.inr rfl)⟩
  · rw [(hmem hp).2, show p.1 = i by omega]
  · by_cases hsame : nthD 0 bytes i = byteAt u (key + i)
    · exact .inr hsame.symm
    · refine .inl ⟨(i, nthD 0 bytes i), List.mem_filter.2 ⟨List.mem_map.2 ⟨i, List.mem_range.2 hi, rfl⟩, ?_⟩, by rw [hblock]⟩
      rw [nthD_keyBytes hi]
      exact bne_iff_ne.2 hsame

/-- The new record lies in its block; beside it only the tensor's STEP_AMAX may have changed, and no infuser's register. -/
theorem recordWritten_spec (u : State) (h : StackId) {key : Nat} (hkey : key % 512 = 0) (tensor : Nat) (x : Infused) :
    let t := recordWritten u h key tensor x (keyBytes u key 512)
    (∀ k, (tensor = 0xFFFF ∨ ∀ i < 4, k ≠ keyOf u (formatAddr u tensor + 4 + i)) →
      (∀ i < 512, k = key + i → byteAt t k = nthD 0 x.bytes i) ∧ ((∀ i < 512, k ≠ key + i) → byteAt t k = byteAt u k)) ∧
    ∀ a, StillReg a → t.reg a = u.reg a := by
  obtain ⟨hin, hout⟩ := byteAt_changedBytes u hkey x.bytes
  unfold recordWritten
  have hreg (a : Nat) : (writeBlock u .other (key / 512) (changedBytes x.bytes (keyBytes u key 512)) false).reg a = u.reg a :=
    reg_writeBlock _ _ _ _
  generalize writeBlock u .other (key / 512) (changedBytes x.bytes (keyBytes u key 512)) false = v at *
  have := checked_mem (mergeAmax v tensor x.amax).mem
  have hmem : (mcModule (mergeAmax v tensor x.amax) 0x140 h.val 1).mem = (mergeAmax v tensor x.amax).mem :=
    State.Has.mcModule (I := fun w => w.mem = (mergeAmax v tensor x.amax).mem) rfl
  refine ⟨fun k hk => ?_, fun a ha => (still_mcModule ha _ _ _).trans ((still_mergeAmax ha _ _).trans (hreg a))⟩
  have hbyte : byteAt (mcModule (mergeAmax v tensor x.amax) 0x140 h.val 1) k = byteAt v k :=
    (byteAt_congr hmem k).trans (byteAt_mergeAmax_ne (by
      simpa only [keyOf_congr (hreg HBM_MODE), formatAddr_congr (hreg INF_FSTATE_BASE)] using hk) _)
  exact ⟨fun i hi hki => hbyte.trans (hki ▸ hin i hi), fun hk => hbyte.trans (hout k hk)⟩

/-! ### What the walk makes of a record -/

section
variable {s : State} {h : StackId} {e : UEntry} {y : Hyper} {n start r : Nat}

/-- The keys outside the STEP_AMAX of an entry's tensor. -/
def OutsideAmax (s : State) (e : UEntry) (k : Nat) : Prop := e.tensor = 0xFFFF ∨ ∀ i < 4, k ≠ keyOf s (formatAddr s e.tensor + 4 + i)

theorem walkRecord_sound_spec (hidle : (s.die h).capturing = false) (hoff : recordOffset e r % 512 = 0)
    (hrec : (recordVerified s h e r).1 = true) (hgrad : (gradVerified s h e r).1 = true) :
    let x := infusedAt (gradVerified s h e r).2 h e y n r
    let t := walkRecord h e y n start s r
    let key := stackKey h (recordOffset e r)
    (∀ i < 512, OutsideAmax s e (key + i) → byteAt t (key + i) = if x.written then nthD 0 x.bytes i else byteAt s (key + i)) ∧
    (∀ k, OutsideAmax s e k → (∀ i < 512, k ≠ key + i) → byteAt t k = byteAt s k) ∧
    fget t (INF_FROZEN h.val) f_INF_FROZEN_COUNT = min f_INF_FROZEN_COUNT.max (fget s (INF_FROZEN h.val) f_INF_FROZEN_COUNT + x.frozen) ∧
    (x.bad ≠ 0 → fbit t (INF_DIE_STATUS h.val) f_INF_DIE_STATUS_BAD_LANE = true ∧ fget t (INF_BAD_LANES h.val) f_INF_BAD_LANES_COUNT =
      min f_INF_BAD_LANES_COUNT.max (fget s (INF_BAD_LANES h.val) f_INF_BAD_LANES_COUNT + x.bad)) := by
  have hfrozenReg : StillReg (INF_FROZEN h.val) := stillReg_infuser h (by decide) (by decide)
  have hlanesReg : StillReg (INF_BAD_LANES h.val) := stillReg_infuser h (by decide) (by decide)
  have hstatusReg : StillReg (INF_DIE_STATUS h.val) := stillReg_infuser h (by decide) (by decide)
  intro x t key
  have ht : t = if x.written then recordWritten (lanesCounted (gradVerified s h e r).2 h x) h key e.tensor x
      (keyBytes (gradVerified s h e r).2 key 512) else lanesCounted (gradVerified s h e r).2 h x := walkRecord_sound hidle hrec hgrad
  have humem := mem_gradVerified (s := s) (h := h) (e := e) (r := r)
  have hureg {a : Nat} (ha : StillReg a) := still_gradVerified (s := s) (h := h) (e := e) (r := r) ha
  have haligned : key % 512 = 0 := stackKey_mod h hoff
  clear_value x t key
  generalize (gradVerified s h e r).2 = u at *
  obtain ⟨hcmem, hfrozen, hbad⟩ := lanesCounted_spec u h x
  have hcreg {a : Nat} (ha : 0x900000 ≤ a) := reg_lanesCounted_ne (s := u) (not_walkReg_controller (h := h) ha) x
  rw [← keyBytes_congr hcmem key 512] at ht
  rw [fget_congr (hureg hfrozenReg)] at hfrozen
  rw [fget_congr (hureg hlanesReg)] at hbad
  generalize lanesCounted u h x = w at *
  have hbyte (k : Nat) : byteAt w k = byteAt s k := byteAt_congr (hcmem.trans humem) k
  have hkey (a : Nat) : keyOf w a = keyOf s a := keyOf_congr ((hcreg (by decide)).trans (hureg stillReg_mode)) a
  have hformat (id : Nat) : formatAddr w id = formatAddr s id := formatAddr_congr ((hcreg (by decide)).trans (hureg stillReg_formats)) id
  obtain ⟨hbytes, hstill⟩ := recordWritten_spec w h haligned e.tensor x
  simp only [hkey, hformat, hbyte] at hbytes
  by_cases hwritten : x.written = true
  · rw [if_pos hwritten] at ht
    rw [← ht] at hbytes hstill
    simp only [hwritten, ↓reduceIte]
    exact ⟨fun i hi hk => (hbytes _ hk).1 i hi rfl, fun k hk hne => (hbytes k hk).2 hne, (fget_congr (hstill _ hfrozenReg) _).trans hfrozen,
      fun hne => ⟨(fbit_congr (hstill _ hstatusReg) _).trans (hbad hne).1, (fget_congr (hstill _ hlanesReg) _).trans (hbad hne).2⟩⟩
  · rw [if_neg hwritten] at ht
    subst ht
    simp only [hwritten, Bool.false_eq_true, ↓reduceIte]
    exact ⟨fun i _ _ => hbyte _, fun k _ _ => hbyte k, hfrozen, hbad⟩

/-- A record of which a block is poisoned is left, and counted (R337). -/
theorem walkRecord_poisoned_spec (hidle : (s.die h).capturing = false)
    (hbad : ((recordVerified s h e r).1 && (gradVerified s h e r).1) = false) :
    let t := walkRecord h e y n start s r
    (∀ k, byteAt t k = byteAt s k) ∧ fbit t (INF_POISON h.val) f_INF_POISON_VALID = true ∧
      fget t (INF_POISON h.val) f_INF_POISON_COUNT = (if fbit s (INF_POISON h.val) f_INF_POISON_VALID then
        min f_INF_POISON_COUNT.max (fget s (INF_POISON h.val) f_INF_POISON_COUNT + 1) else 1) := by
  have hstill : StillReg (INF_POISON h.val) := stillReg_infuser h (by decide) (by decide)
  have hpoison := still_gradVerified (s := s) (h := h) (e := e) (r := r) hstill
  obtain ⟨hmem, hvalid, hcount⟩ := leaveRecords_spec (gradVerified s h e r).2 h (recordOffset e r) false
  rw [fbit_congr hpoison, fget_congr hpoison] at hcount
  rw [walkRecord_poisoned hidle hbad]
  exact ⟨fun k => byteAt_congr (hmem.trans mem_gradVerified) k, hvalid, hcount⟩

end

/-! ### The place of the update list -/

section
variable {s : State} {h : StackId} {a : Nat} (ha : StillReg a) (hne : ¬ WalkReg h a)
include ha hne

theorem still_forwardRecord (off pos : Nat) (left : Bool) : (forwardRecord s h off pos left).reg a = s.reg a := by
  unfold WalkReg at hne
  simp only [not_or] at hne
  obtain ⟨-, hcursor, hforwarded, -⟩ := hne
  have hcopied : (mirrorRecord s h off pos).reg a = s.reg a := by
    obtain ⟨u, bad, -, hu, he⟩ := copyKeys_eq s (stackKey h off) (mirrorAddr s h pos) 512
    rw [mirrorRecord, he, reg_writeCells]
    exact hu a ha
  have hmoved : (setCursor (mirrorRecord s h off pos) h (pos + 1)).reg a = s.reg a :=
    (reg_fset_ne _ _ _ hcursor).trans ((reg_fset_ne _ _ _ hcursor).trans ((reg_setDie _ _ _ _).trans hcopied))
  unfold forwardRecord
  split
  · dsimp only
    split
    · exact hmoved
    · exact (still_mcModule ha _ _ _).trans ((reg_fadd_ne _ _ _ hforwarded).trans hmoved)
  · rfl

theorem still_walkRecord (e : UEntry) (y : Hyper) (n start r : Nat) : (walkRecord h e y n start s r).reg a = s.reg a := by
  have hverified := still_gradVerified (s := s) (h := h) (e := e) (r := r) ha
  rw [walkRecord_eq]
  extract_lets u x w
  have hw : w.reg a = s.reg a := (reg_lanesCounted_ne hne x).trans ((still_forwardRecord ha hne _ _ _).trans hverified)
  split
  · exact (still_forwardRecord ha hne _ _ _).trans ((reg_leaveRecords_ne hne _ _ _).trans hverified)
  · split
    · unfold recordWritten
      exact (still_mcModule ha _ _ _).trans ((still_mergeAmax ha _ _).trans ((reg_writeBlock _ _ _ _).trans hw))
    · exact hw

end

/-! ### An entry of the walk -/

/-- A value of an entry is written back at its place in the update list (R279). -/
def valuePut (s : State) (k v : Nat) : State :=
  writeBlock s .other (k / 512) ((leBytes 4 v).mapIdx fun j b => (k % 512 + j, b)) false

/-- The four bytes at a place hold the value, and no other byte has changed. -/
theorem byteAt_valuePut (s : State) (k v : Nat) :
    (∀ j < 4, byteAt (valuePut s k v) (k + j) = nthD 0 (leBytes 4 v) j) ∧
      ∀ z, (∀ j < 4, z ≠ k + j) → byteAt (valuePut s k v) z = byteAt s z := by
  have hmem {p : Nat × Byte} (hp : p ∈ (leBytes 4 v).mapIdx fun j b => (k % 512 + j, b)) :
      ∃ j < 4, k / 512 * 512 + p.1 = k + j ∧ p.2 = nthD 0 (leBytes 4 v) j := by
    obtain ⟨j, hj, rfl⟩ := List.mem_mapIdx.1 hp
    exact ⟨j, by rwa [length_leBytes] at hj, by dsimp only; omega, by simp [nthD, hj]⟩
  refine ⟨fun j hj => byteAt_writeBlock s .other false (fun p hp hk => ?_) (.inl ?_), fun z hz =>
    byteAt_writeBlock s .other false (fun p hp hk => ?_) (.inr rfl)⟩
  · obtain ⟨i, -, hplace, hvalue⟩ := hmem hp
    rw [hvalue, show i = j by omega]
  · have hlen : j < (leBytes 4 v).length := by rwa [length_leBytes]
    exact ⟨_, List.mem_mapIdx.2 ⟨j, hlen, rfl⟩, by dsimp only; omega⟩
  · obtain ⟨i, hi, hplace, -⟩ := hmem hp
    exact absurd (hk.symm.trans hplace) (hz i hi)

section
variable {s : State} {h : StackId} {n i : Nat}

theorem mem_verifyHyper (s : State) (e : UEntry) (n : Nat) : (verifyHyper s e n).2.mem = s.mem := by
  have := checked_mem s.mem
  exact State.Has.verifyHyper (I := fun u => u.mem = s.mem) rfl

theorem not_walkReg_ulistBase (g : StackId) : ¬ WalkReg h (INF_ULIST_BASE g.val) := by
  unfold WalkReg INF_ULIST_BASE INF_POISON INF_CKPT_CURSOR INF_CKPT_FWD INF_FROZEN INF_BAD_LANES INF_DIE_STATUS
  omega

/-- The records of an entry whose values are verified, and then P1 and P2 where its rule has them. -/
def entryWalked (v : State) (h : StackId) (n i start : Nat) : State :=
  let e := entryOf v h i
  let w := (List.range e.records).foldl (walkRecord h e (hyperOf v e n) n start) v
  let k := stackKey h (ulistBase w h + 64 * i)
  if e.rule = 2 then
    valuePut (valuePut w (k + 44) (f32Code (hyperOf v e n).p1)) (k + 48) (f32Code (hyperOf v e n).p2)
  else w

theorem walkEntry_sound (hsound : (entryBad s h i).1 = false)
    (hformed : (verifyHyper (entryBad s h i).2 (entryOf s h i) n).1 = false) :
    walkEntry h n s i = entryWalked (verifyHyper (entryBad s h i).2 (entryOf s h i) n).2 h n i (mirrorStart s h i) := by
  unfold walkEntry
  simp only [hsound, entryOf_entryBad, Bool.false_eq_true, ↓reduceIte]
  exact if_neg (ne_true_of_eq_false hformed)

/-- P1 and P2 lie in the entry after the walk (R279): no record's walk moves the update list. -/
theorem entryWalked_values {v : State} {start : Nat} (hrule : (entryOf v h i).rule = 2) {k : Nat}
    (hk : k = stackKey h (ulistBase v h + 64 * i)) :
    ∀ j < 4,
      byteAt (entryWalked v h n i start) (k + 44 + j) = nthD 0 (leBytes 4 (f32Code (hyperOf v (entryOf v h i) n).p1)) j ∧
      byteAt (entryWalked v h n i start) (k + 48 + j) = nthD 0 (leBytes 4 (f32Code (hyperOf v (entryOf v h i) n).p2)) j := by
  unfold entryWalked
  extract_lets e w k'
  have hplace : k' = k := by
    rw [hk, ← ulistBase_congr (s := v) (t := w)]
    exact List.foldlRecOn (motive := fun u : State => u.reg (INF_ULIST_BASE h.val) = v.reg (INF_ULIST_BASE h.val)) _ _ rfl
      fun u hu r _ => (still_walkRecord (stillReg_ulistBase h) (not_walkReg_ulistBase h) _ _ _ _ _).trans hu
  rw [if_pos hrule, hplace]
  obtain ⟨hfirst, -⟩ := byteAt_valuePut w (k + 44) (f32Code (hyperOf v e n).p1)
  obtain ⟨hsecond, hrest⟩ := byteAt_valuePut (valuePut w (k + 44) (f32Code (hyperOf v e n).p1)) (k + 48) (f32Code (hyperOf v e n).p2)
  exact fun j hj => ⟨(hrest _ fun m _ => by omega).trans (hfirst j hj), hsecond j hj⟩

/-- Verification leaves the update list and its place. -/
theorem entry_verified :
    let v := (verifyHyper (entryBad s h i).2 (entryOf s h i) n).2
    entryOf v h i = entryOf s h i ∧ ulistBase v h = ulistBase s h := by
  have hbase : (verifyHyper (entryBad s h i).2 (entryOf s h i) n).2.reg (INF_ULIST_BASE h.val) = s.reg (INF_ULIST_BASE h.val) :=
    (still_verifyHyper (stillReg_ulistBase h) _ _).trans (still_entryBad (stillReg_ulistBase h) h i)
  exact ⟨entryOf_congr hbase ((mem_verifyHyper _ _ _).trans (mem_entryBad s h i)) i, ulistBase_congr hbase⟩

theorem walkEntry_values (hsound : (entryBad s h i).1 = false)
    (hformed : (verifyHyper (entryBad s h i).2 (entryOf s h i) n).1 = false) (hrule : (entryOf s h i).rule = 2) :
    let e := entryOf s h i
    let v := (verifyHyper (entryBad s h i).2 e n).2
    let k := stackKey h (ulistBase s h + 64 * i)
    ∀ j < 4, byteAt (walkEntry h n s i) (k + 44 + j) = nthD 0 (leBytes 4 (f32Code (hyperOf v e n).p1)) j ∧
      byteAt (walkEntry h n s i) (k + 48 + j) = nthD 0 (leBytes 4 (f32Code (hyperOf v e n).p2)) j := by
  obtain ⟨hentry, hbase⟩ := entry_verified (s := s) (h := h) (n := n) (i := i)
  have hvalues := entryWalked_values (n := n) (start := mirrorStart s h i) (hentry ▸ hrule) rfl
  rw [hentry, hbase, ← walkEntry_sound hsound hformed] at hvalues
  exact hvalues

end

/-! ### The end of the walk -/

theorem exec_infuserWalkComplete (s : State) : exec .infuserWalkComplete s = execInfuserWalkComplete s := rfl

/-- Base dies show whether they are busy: their own registers change alone. -/
theorem foldl_refreshBusy (l : List StackId) (s : State) :
    OnlyRegs s (l.foldl refreshBusy s) ∧ KeepsRegsBut (l.map fun h => INF_DIE_STATUS h.val) s (l.foldl refreshBusy s) ∧
      ∀ h ∈ l, fbit (l.foldl refreshBusy s) (INF_DIE_STATUS h.val) f_INF_DIE_STATUS_BUSY = ((s.die h).capturing || !s.stp.walkDone) := by
  induction l generalizing s with
  | nil => exact ⟨.refl s, fun _ _ => rfl, nofun⟩
  | cons g l ih =>
    obtain ⟨⟨regs, honly⟩, hkeeps, hbusy⟩ := ih (refreshBusy s g)
    have hshown : fbit (refreshBusy s g) (INF_DIE_STATUS g.val) f_INF_DIE_STATUS_BUSY = ((s.die g).capturing || !s.stp.walkDone) := by
      unfold refreshBusy
      cases (s.die g).capturing || !s.stp.walkDone with
      | true => exact fbit_fset_one s _ _ (by decide)
      | false => exact fbit_fset_zero s _ _ (by decide)
    have hown : OnlyRegs s (refreshBusy s g) := (OnlyRegs.refl s).fset
    obtain ⟨_, hown⟩ := hown
    rw [List.foldl_cons]
    refine ⟨⟨regs, honly.trans (by rw [hown])⟩, fun a ha => ?_, fun h hh => ?_⟩
    · obtain ⟨hne, hrest⟩ := not_or.1 (mt List.mem_cons.2 ha)
      exact (hkeeps a hrest).trans (reg_fset_ne s _ _ hne)
    · by_cases hl : h ∈ l
      · rw [hbusy h hl, refreshBusy, die_fset, fset_stp]
      · obtain rfl : h = g := (List.mem_cons.1 hh).resolve_right hl
        refine (fbit_congr (hkeeps _ fun hm => hl ?_) _).trans hshown
        obtain ⟨k, hk, hkey⟩ := List.mem_map.1 hm
        obtain rfl : k = h := Fin.ext (by unfold INF_DIE_STATUS at hkey; omega)
        exact hk

/-- Once no walk waits for a device, the walk is done and only captures keep the base dies busy (R277, R288). -/
theorem infuserWalkComplete_spec {s : State} (hwaits : walkWaits s = false) :
    ∃ t, exec .infuserWalkComplete s = .next t ∧ t.stp = { s.stp with walkDone := true } ∧
      (∀ h : StackId, fbit t (INF_DIE_STATUS h.val) f_INF_DIE_STATUS_BUSY = (s.die h).capturing) ∧
      KeepsRegsBut ((List.range 24).map INF_DIE_STATUS) s t ∧ KeepsMemory s t ∧ KeepsUnits s t := by
  obtain ⟨⟨regs, honly⟩, hkeeps, hbusy⟩ := foldl_refreshBusy (List.finRange 24) { s with stp := { s.stp with walkDone := true } }
  have hexec : exec .infuserWalkComplete s =
      .next ((List.finRange 24).foldl refreshBusy { s with stp := { s.stp with walkDone := true } }) := by
    rw [exec_infuserWalkComplete, execInfuserWalkComplete]
    simp only [hwaits, Bool.false_eq_true, ↓reduceIte]
  refine ⟨_, hexec, by rw [honly], fun h => ?_, fun a ha => ?_, by rw [honly]; exact ⟨rfl, rfl, rfl⟩,
    by rw [honly]; exact ⟨rfl, rfl, rfl, rfl, rfl, rfl⟩⟩
  · exact (hbusy h (List.mem_finRange h)).trans (Bool.or_false _)
  · refine (hkeeps a fun hm => ha ?_).trans (reg_congr rfl a)
    obtain ⟨k, -, rfl⟩ := List.mem_map.1 hm
    exact List.mem_map.2 ⟨k.val, List.mem_range.2 k.isLt, rfl⟩

/-- Settles O41: the verdict's registers and records, its contributions, its delay, and the walk by record, by entry and at its end. -/
theorem verdictsMoveTheLossScale : Obligations.VerdictsMoveTheLossScale := by
  intro s sameDraws
  refine ⟨fun v nf wh b hjob hsummed hpart hsent hslots hsum => ?summed, fun v nf wh m hjob hpartial hpart hnone hnew hm hne => ?part,
    fun r n b hr hsent _ => ?abandon, fun r hr hsent => execAbandon_idle hr hsent, fun n b hsent hdue => ⟨fun hlate => ?wasLate,
      fun hlate => ?late⟩, fun h e y n start r hidle => ?record, fun h n i _ hsound hformed hrule _ => ?entry,
    infuserWalkComplete_spec⟩
  case summed =>
    obtain ⟨links, he⟩ := execVerdictPacket_summed hjob hsummed hpart hsent hslots hsum
    have hjudged := judged_verdictArrives (s := { s with links := links, stp := { s.stp with sumCounts := some (nf.toNat, wh.toNat) } })
      nf.toNat wh.toNat hsent
    exact ⟨_, he, hjudged.of_update, drawOf_verdictArrives (s := { s with links := links, stp := _ }) hsent⟩
  case part => exact execVerdictPacket_part hjob hpartial hpart hnone hnew hm hne
  case abandon =>
    have hjudged := judged_verdictArrives (s := (takeFree s).2) (takeFree s).1.toNat 1 hsent
    exact ⟨_, execAbandon_pending hr hsent, (hjudged.of_withheld one_ne_zero 0).of_update,
      drawOf_verdictArrives (s := (takeFree s).2) hsent⟩
  case wasLate => rw [execVerdictWarnExpire_late hsent hdue, if_pos hlate]
  case late =>
    obtain ⟨hmark, hstp, hframe⟩ := lateVerdict_spec s n
    refine ⟨_, (execVerdictWarnExpire_late hsent hdue).trans (congrArg _ (if_neg (ne_true_of_eq_false hlate))), hmark, hstp, ?_, hframe⟩
    exact fun hen hroute hport hmask hup => lateVerdict_sends n hen hroute hport hmask hup
  case record => exact fun hoff => ⟨walkRecord_sound_spec hidle hoff, walkRecord_poisoned_spec hidle⟩
  case entry => exact walkEntry_values hsound hformed hrule

end Sys2Proof.Machine
end
